-- ==== Sys2Proof/Word.lean ====
section
/-! DEFINITION. The words the TF-768A is described in: bytes, byte strings, sparse tables.

Quantities the manual counts, adds exactly or compares (lengths, counters, addresses being looked up, identifiers) are
`Nat`; bit vectors are kept for bytes and for IEEE bit patterns. -/

namespace Sys2Proof

/-- One byte. -/
abbrev Byte := BitVec 8

/-- A run of bytes, lowest address first (00 R8). -/
abbrev Bytes := List Byte

/-- The bit pattern of an FP32 value. -/
abbrev F32 := BitVec 32

/-- A sparse table: key and value pairs, keys strictly rising; an absent key has the default its unit states. -/
abbrev Tbl (α : Type) := List (Nat × α)

end Sys2Proof
end

