-- ==== Sys2Proof/Syntax.lean ====
section
/-! DEFINITION. The commands the controller takes: one constructor of `Instr` for each row of spec/opcode_table.json.

The table gives no row any bits. A host command (02 R39) carries the ring it is fetched from and the outcome of its
payload DMA; its 64-byte header stands in the ring's slot in the ring region. Every other row is an event, and carries
what the manual says arrives with it. -/

namespace Sys2Proof

/-- Who makes a register or doorbell access: a PCIe port, or a management core (15 R406). -/
inductive Src where
  | pcie (p : Nat)
  | core
  deriving DecidableEq, Repr

/-- The outcome of a payload fetch by DMA (02 R40): the bytes, or a completion error or poisoned completion. -/
inductive Dma where
  | data (bs : Bytes)
  | error
  deriving DecidableEq, Repr

/-- A thread of a launch: context, array, index on its array (08 R212). -/
structure Thr where
  ctx : Nat
  arr : Nat
  idx : Nat
  deriving DecidableEq, Repr

/-- The caravan header of 04 R83, field by field, with the node the message comes from. `rsvA` and `rsvB` are its two
reserved ranges [157:128] and [47:16]. -/
structure CvnMsg where
  frm : Nat
  gid : Nat
  deadline : Nat
  cvnId : Nat
  key : Nat
  src : Nat
  dst : Nat
  epoch : Nat
  home : Nat
  tenant : Nat
  status : Nat
  pageUnits : Nat
  histTokens : Nat
  auxBytes : Nat
  rsvA : Nat
  check : Nat
  offerLife : Nat
  codecFp : Nat
  rsvB : Nat
  cver : Nat
  msg : Nat
  kind : Nat
  prio : Nat
  durable : Nat
  outcome : Nat
  deriving DecidableEq, Repr

/-- The reservation an owner sends to a remote home (03 R69), or, with `move`, to the new home of a list (06 R155). -/
structure ResvMsg where
  frm : Nat
  gid : Nat
  tenant : Nat
  prio : Nat
  resHbm : Nat
  resFlash : Nat
  parkOk : Bool
  durable : Bool
  kvPerTok : Nat
  pageClass : Nat
  codecSlot : Nat
  move : Bool
  ctxLen : Nat
  ns : Nat
  epoch : Nat
  deriving DecidableEq, Repr

/-- What a forward says of one request of the command it carries (05 R122, 09 R242): identifier, handle at the owner,
lengths, token history and auxiliary block. -/
structure FwdReq where
  gid : Nat
  handle : Nat
  genLen : Nat
  promptLen : Nat
  maxNew : Nat
  hist : List Nat
  aux : Bytes
  deriving DecidableEq, Repr

/-- A command forwarded to the home of its requests (05 R122); an opening step also names the requests it leaves out and the
codec slot of all (09 R242, R247). `checks` are the statuses and DETAILs of the owner's own checks of the entry's state, which
the home reports in their turn (02 R447). -/
structure FwdMsg where
  frm : Nat
  id : Nat
  op : Nat
  tenant : Nat
  isTenant : Bool
  target : Nat
  resultLen : Nat
  pay : Bytes
  reqs : List FwdReq
  left : List Nat
  codecSlot : Nat
  epoch : Nat
  checks : List (Nat × Nat)
  deriving DecidableEq, Repr

/-- The outcome of one request of a closing step, as the home returns it (09 R266 step 2). -/
structure StepOut where
  gid : Nat
  st : Nat
  toks : List Nat
  drafted : Nat
  accepted : Nat
  finish : Nat
  deriving DecidableEq, Repr

/-- The home's answer to a forward (05 R122). `outs` are the outcomes of a step that closes; none while it goes on. -/
structure FwdAns where
  frm : Nat
  id : Nat
  st : Nat
  r0 : Nat
  detail : Nat
  result : Bytes
  ctxLen : Nat
  usedHbm : Nat
  resHbm : Nat
  outs : Option (List StepOut)
  deriving DecidableEq, Repr

/-- A Jalnal frame that has passed the PCS: its port, the header of 10 R276 and its payload. `mem` tells a memory-mode outer
header; `bad` is a wrong FCS or UDP checksum, `ce` a Congestion Experienced mark. -/
structure Frame where
  port : Nat
  mem : Bool
  bad : Bool
  ce : Bool
  addr : Nat
  key : Nat
  seq : Nat
  epoch : Nat
  dst : Nat
  src : Nat
  conn : Nat
  off : Nat
  len : Nat
  op : Nat
  last : Bool
  ordered : Bool
  signed : Bool
  size64 : Bool
  ver : Nat
  tc : Nat
  reason : Nat
  hops : Nat
  status : Nat
  pay : Bytes
  deriving DecidableEq, Repr

/-- A mirror record of 12 R346, with the pair port it came on. `rsv` is the reserved bits. -/
structure MirRec where
  port : Nat
  object : Nat
  mseq : Nat
  check : Nat
  offset : Nat
  len : Nat
  rsv : Nat
  kind : Nat
  body : Bytes
  deriving DecidableEq, Repr

/-- The commands (one constructor per row of the table). `r` is a ring: 0 to 255 as in 02 R29, 256 to 271 for the sixteen
internal rings of 02 R38; `d` is the payload's DMA. -/
inductive Instr where
  -- 0x01xx host and command unit
  | sessHello (r : Nat) (d : Dma)
  | sessProve (r : Nat) (d : Dma)
  | sessClose (r : Nat) (d : Dma)
  | ringCreate (r : Nat) (d : Dma)
  | ringDestroy (r : Nat) (d : Dma)
  | nop (r : Nat) (d : Dma)
  -- 0x02xx request table
  | reqAdmit (r : Nat) (d : Dma)
  | reqQuery (r : Nat) (d : Dma)
  | reqSetDeadline (r : Nat) (d : Dma)
  | reqSetPriority (r : Nat) (d : Dma)
  | reqTokensAppend (r : Nat) (d : Dma)
  | reqComplete (r : Nat) (d : Dma)
  | reqCancel (r : Nat) (d : Dma)
  | reqPark (r : Nat) (d : Dma)
  | reqUnpark (r : Nat) (d : Dma)
  | reqList (r : Nat) (d : Dma)
  -- 0x03xx caravans
  | cvnOffer (r : Nat) (d : Dma)
  | cvnWithdraw (r : Nat) (d : Dma)
  | cvnStatus (r : Nat) (d : Dma)
  | mapInstall (r : Nat) (d : Dma)
  | mapQuery (r : Nat) (d : Dma)
  -- 0x04xx pages and prefixes
  | pageAlloc (r : Nat) (d : Dma)
  | pageFree (r : Nat) (d : Dma)
  | plistAppend (r : Nat) (d : Dma)
  | plistTruncate (r : Nat) (d : Dma)
  | plistQuery (r : Nat) (d : Dma)
  | prefixLookup (r : Nat) (d : Dma)
  | prefixInsert (r : Nat) (d : Dma)
  | prefixEvict (r : Nat) (d : Dma)
  | pageShare (r : Nat) (d : Dma)
  | pageStats (r : Nat) (d : Dma)
  | reclaim
  -- 0x05xx tiers
  | tierHint (r : Nat) (d : Dma)
  | tierMigrate (r : Nat) (d : Dma)
  | homeMoveCommit (slot : Nat) (newRoot : Nat)
  | rangeTrim (r : Nat) (d : Dma)
  | tierStats (r : Nat) (d : Dma)
  | gcSetWeights (r : Nat) (d : Dma)
  | flashHealth (r : Nat) (d : Dma)
  | durableFlush (r : Nat) (d : Dma)
  -- 0x06xx codecs
  | codecTableLoad (r : Nat) (d : Dma)
  | codecTableQuery (r : Nat) (d : Dma)
  | codecCompress (r : Nat) (d : Dma)
  | codecDecompress (r : Nat) (d : Dma)
  | codecQuantize (r : Nat) (d : Dma)
  | codecDequantize (r : Nat) (d : Dma)
  | codecScaleFind (r : Nat) (d : Dma)
  | codecRecode (r : Nat) (d : Dma)
  -- 0x07xx arrays
  | kernelLoad (r : Nat) (d : Dma)
  | kernelUnload (r : Nat) (d : Dma)
  | ctxCreate (r : Nat) (d : Dma)
  | ctxDestroy (r : Nat) (d : Dma)
  | ctxLaunch (r : Nat) (d : Dma)
  | schedSet (r : Nat) (d : Dma)
  | schedSwitch
  | arraySlowdown (r : Nat) (d : Dma)
  | arrayExclude (r : Nat) (d : Dma)
  | diagArrayTest (r : Nat) (d : Dma)
  | diagArrayTestDone (failed : Nat)
  -- 0x08xx attention and sampling
  | attnStep (r : Nat) (d : Dma)
  | attnBiasLoad (r : Nat) (d : Dma)
  | lseMerge (r : Nat) (d : Dma)
  | sampleSet (r : Nat) (d : Dma)
  | sampleStep (r : Nat) (d : Dma)
  | banLoad (r : Nat) (d : Dma)
  | specDraft (r : Nat) (d : Dma)
  | specVerify (r : Nat) (d : Dma)
  | bulletinSet (r : Nat) (d : Dma)
  | stepTimeout (owner tag : Nat)
  | stepAbort (frm gid : Nat)
  -- 0x09xx fabric commands
  | portConfig (r : Nat) (d : Dma)
  | portStatus (r : Nat) (d : Dma)
  | keyRegister (r : Nat) (d : Dma)
  | keyDeregister (r : Nat) (d : Dma)
  | connOpen (r : Nat) (d : Dma)
  | connClose (r : Nat) (d : Dma)
  | ergMap (r : Nat) (d : Dma)
  | ptpConfig (r : Nat) (d : Dma)
  -- 0x0Axx traffic, search, arbiters, event queues
  | queueConfig (r : Nat) (d : Dma)
  | shaperSet (r : Nat) (d : Dma)
  | queueSample (r : Nat) (d : Dma)
  | searchWrite (r : Nat) (d : Dma)
  | searchDelete (r : Nat) (d : Dma)
  | searchQuery (r : Nat) (d : Dma)
  | searchScrub (bank : Nat)
  | arbFreeze (r : Nat) (d : Dma)
  | drained (arb : Nat)
  | holdExpiry (arb : Nat)
  | evqConfig (r : Nat) (d : Dma)
  | eventIrqGap (q : Nat)
  | telemRead (r : Nat) (d : Dma)
  -- 0x0Bxx pairs
  | pairJoin (r : Nat) (d : Dma)
  | joinTimeout
  | copyDone
  | pairDissolve (r : Nat) (d : Dma)
  | dissolve (frm : Nat)
  | pairStatus (r : Nat) (d : Dma)
  | mirrorClassSet (r : Nat) (d : Dma)
  | pairPromote (r : Nat) (d : Dma)
  -- 0x0Cxx plant
  | plantStatus (r : Nat) (d : Dma)
  | coolTargetSet (r : Nat) (d : Dma)
  | holdupTest (r : Nat) (d : Dma)
  | holdupTestEnd (stepMv stepCa chargeMc fallMv : Nat)
  | powerCapSet (r : Nat) (d : Dma)
  | standbyEnter (r : Nat) (d : Dma)
  | standbyEntry
  | standbyWake
  -- 0x0Dxx boot, image, role
  | imageWrite (r : Nat) (d : Dma)
  | imageProgrammed (slot : Nat)
  | imageVerify (r : Nat) (d : Dma)
  | imageSelect (r : Nat) (d : Dma)
  | fwLoad (r : Nat) (d : Dma)
  | fwLoadTimeout
  | keyProvision (r : Nat) (d : Dma)
  | keyAreaWritten
  | deviceAttest (r : Nat) (d : Dma)
  | roleSet (r : Nat) (d : Dma)
  | roleSwitch
  | deviceReset (r : Nat) (d : Dma)
  -- 0x0Exx diagnostics
  | diagMemScrub (r : Nat) (d : Dma)
  | diagLoopback (r : Nat) (d : Dma)
  | loopbackDone (port : Nat) (errs : List Nat)
  | errInject (r : Nat) (d : Dma)
  -- work-ring descriptors (10 R290)
  | workWrite (r : Nat)
  | workRead (r : Nat)
  | workAdd (r : Nat)
  | workMin (r : Nat)
  | workMax (r : Nat)
  | workCas (r : Nat)
  -- array instructions (08 R215)
  | aBr (t : Thr)
  | aBrp (t : Thr)
  | aLoop (t : Thr)
  | aYield (t : Thr)
  | aHalt (t : Thr)
  | aAdd (t : Thr)
  | aSub (t : Thr)
  | aMul (t : Thr)
  | aAnd (t : Thr)
  | aOr (t : Thr)
  | aXor (t : Thr)
  | aShl (t : Thr)
  | aShr (t : Thr)
  | aSra (t : Thr)
  | aMovi (t : Thr)
  | aCmp (t : Thr)
  | aRdstat (t : Thr)
  | aLd (t : Thr)
  | aSt (t : Thr)
  | aVld (t : Thr)
  | aVst (t : Thr)
  | aDmaRd (t : Thr)
  | aDmaWr (t : Thr)
  | aDmaQld (t : Thr)
  | aDmaWait (t : Thr)
  | dmaDone (t : Thr)
  | gridMm (t : Thr)
  | passEnd (t : Thr)
  | gridWait (t : Thr)
  | cbLoad (t : Thr)
  | vFma (t : Thr)
  | vAdd (t : Thr)
  | vMul (t : Thr)
  | vMax (t : Thr)
  | vMin (t : Thr)
  | vCvt (t : Thr)
  | vRed (t : Thr)
  | vExp2 (t : Thr)
  | vRcp (t : Thr)
  | vRsqrt (t : Thr)
  | syncBar (t : Thr)
  | syncXbar (t : Thr)
  | semInc (t : Thr)
  | semWait (t : Thr)
  | arrayGate (a : Nat)
  -- caravan messages and timers
  | cvnMsgOffer (m : CvnMsg)
  | cvnMsgPull (m : CvnMsg)
  | cvnMsgManifest (m : CvnMsg)
  | cvnMsgReceipt (m : CvnMsg)
  | cvnMsgRelease (m : CvnMsg)
  | cvnMsgDecline (m : CvnMsg)
  | cvnMsgWithdraw (m : CvnMsg)
  | cvnMsgProbe (m : CvnMsg)
  | cvnMsgProbeAnswer (m : CvnMsg)
  | offerTimeout (cvn : Nat)
  | receiptTimeout (src cvn : Nat)
  | pulledTimeout (cvn : Nat)
  | probeInterval (src cvn : Nat)
  | releaseTimeout (src cvn : Nat)
  | epochActivate
  | drainTimeout (epoch : Nat)
  | bounceRetry (src cvn : Nat)
  | reservationRequest (m : ResvMsg)
  | reservationAnswer (frm gid st root key : Nat)
  | homeAnswerTimeout (gid : Nat)
  | admissionRelease (frm gid : Nat)
  | releaseResend (gid : Nat)
  | homeRelease (frm gid : Nat)
  | forward (m : FwdMsg)
  | forwardAnswer (a : FwdAns)
  | forwardTimeout (id : Nat)
  | pageLossReport (frm gid st : Nat) (charged : Bool)
  | deadlineExpiry (slot : Nat)
  | lingerEnd (slot : Nat)
  | parkCommit (gid : Nat)
  | unparkDone (gid : Nat)
  -- memory tiers and flash
  | memWindowRead (p addr len : Nat)
  | memWindowWrite (p addr : Nat) (bs : Bytes)
  | flashReadDone (id : Nat) (ok : Bool)
  | readRedirect (id : Nat)
  | dieRetry (die : Nat)
  | demotion
  | migrationSwitch (g : Nat)
  | heatSweep
  | journalPageWrite
  | journalCommit
  | checkpointWrite (leaf : Nat)
  | gcCollect
  | programFail (stream die : Nat)
  | bandErase (b : Nat)
  | eraseFail (b die : Nat)
  | readRelocate (b : Nat)
  | dieFailed (die : Nat)
  | stackRetire (k : Nat)
  | parityRebuildDone
  | scrubPass (addr : Nat) (corrected uncorrectable : Bool)
  -- plant
  | powerUp
  | powerFail
  | overVoltage
  | openRowsProgrammed
  | saveSeal
  | sequenceEnd
  | storeSample (mv : Nat) (ca : Int)
  | powerSample (mv ca : Nat)
  | dieTempSample (ts : List Int)
  | hbmTempSample (ts : List Int)
  | coolantSample (tIn tOut : Int)
  | pumpFault (n : Nat)
  | thermalTrip (sensor : Nat)
  | tripRestart
  | islandOff
  -- boot
  | restart
  | ptpWaitTimeout
  | bootDone
  | trialTimeout
  | slotConfirm
  | firmwareHeartbeat (v : Nat)
  | heartbeatLapse
  | keySlotUnlock (slot : Nat)
  -- registers and rings
  | sqTailWrite (src : Src) (ring v : Nat)
  | cqHeadWrite (src : Src) (ring v : Nat)
  | irqTimer (ring : Nat)
  | adminRingEnable (src : Src) (p v : Nat)
  | adminRingDisable (src : Src) (p v : Nat)
  | flagClear (src : Src) (v : Nat)
  | flagIrqGap (p : Nat)
  | pop (src : Src) (q v : Nat)
  | headWindowRead (src : Src) (q : Nat)
  | halfReadLatch (src : Src) (off : Nat)
  | bulletinHeadWrite (src : Src) (ring v : Nat)
  | capacityWrite (src : Src) (off v : Nat)
  | registerWrite (src : Src) (off len v : Nat)
  | i3cStatusRead
  | i3cRestart (key : Nat)
  | i3cWake (key : Nat)
  | perstAssert (p : Nat)
  -- Jalnal frames
  | mwrite (f : Frame)
  | mread (f : Frame)
  | madd (f : Frame)
  | mmin (f : Frame)
  | mmax (f : Frame)
  | mcas (f : Frame)
  | mresp (f : Frame)
  | twrite (f : Frame)
  | tread (f : Frame)
  | treadResp (f : Frame)
  | openMsg (f : Frame)
  | openAck (f : Frame)
  | openTimeout (conn : Nat)
  | closeMsg (f : Frame)
  | ack (f : Frame)
  | nak (f : Frame)
  | discover (port node peerPort mac : Nat)
  | pauseFrame (port : Nat)
  | neighborDiscovery (port node : Nat)
  | ptpSync (master : Nat)
  | ptpOffsetAlarm
  | holdoverRepeat
  | reasmTimeout (conn msn : Nat)
  | rtoExpiry (conn msn : Nat)
  | memTimeout (dst : Nat)
  | nakWaitTimer (src : Nat)
  | rateUpdate (conn : Nat)
  | shaperRefill
  | depthSample
  | apertureRead (p tag addr len : Nat)
  | apertureWrite (p addr : Nat) (bs : Bytes)
  | apertureFetchAdd (p tag addr : Nat) (size64 : Bool) (v : Nat)
  | apertureCas (p tag addr : Nat) (size64 : Bool) (cmp v : Nat)
  | apertureUnsupported (p tag : Nat)
  | apertureTimeout (p tag : Nat)
  | linkUp (port : Nat) (four upper : Bool)
  | laneLockLoss (port lane : Nat)
  | fecWindow (port : Nat) (corr : List Nat) (unc : Nat)
  -- mirror records, pair link
  | mirEntry (m : MirRec)
  | mirTokens (m : MirRec)
  | mirAux (m : MirRec)
  | mirCaravan (m : MirRec)
  | mirPlist (m : MirRec)
  | mirPage (m : MirRec)
  | mirJournal (m : MirRec)
  | mirStep (m : MirRec)
  | mirCharge (m : MirRec)
  | heartbeat (m : MirRec)
  | heartbeatTick
  | pairFormTimeout
  | lossProbe (frm : Nat)
  | lossProbeAnswer (frm : Nat)
  | lossProbeTimeout
  | claim (frm other : Nat)
  | grant (witness : Nat) (granted : Bool)
  | claimTimeout
  | grantHoldEnd (a b : Nat)
  | ringRegionWrite (src : Src) (off : Nat) (bs : Bytes)
  | tsend (f : Frame)
  | rowProgrammed (stream : Nat)
  | bandErased (b : Nat)
  | idlePlacement (g : Nat)
  | codecCommandDone (id : Nat)
  | diagScrubDone
  | imageVerifyDone (which : Nat)
  | arrayWake (a : Nat)
  | holdover
  | ppsOut
  | mirrorTick
  | ordinaryPorts
  | extest
  | tapReset
  deriving DecidableEq, Repr

end Sys2Proof
end

