-- ==== Sys2Proof/Config.lean ====
section
/-! DEFINITION. What the manual leaves open: free values (opaque, no body: nothing can be proved of them) and functions
that standards outside the manual define and this model does not evaluate. -/

namespace Sys2Proof

/-- The controller's nonce at the n-th draw (02 R43: random values). -/
opaque Config.nonce : Nat → BitVec 256

/-- The 64-byte summary of FLASH_HEALTH from free spare bands, free bands, wear and retired blocks: its layout is not
given (06 R173). -/
opaque Config.healthSummary : List Nat → BitVec 512

/-- A 16-byte die record of FLASH_HEALTH from erase mean, erase maximum, retired blocks, redirects and state: the fields'
places are not given (06 R173). -/
opaque Config.dieRecord : List Nat → BitVec 128

/-- The Zstandard frame that the encoder makes of raw bytes, from LEVEL, dictionary and raw bytes (07 R182: the format is
RFC 8878's, the encoder's choices the implementation's). -/
opaque Config.zstdEncode : Nat → Bytes → Bytes → Bytes

/-- The root mean square of BF16 elements in FP32 (07 R189: the order of its sum is not given). -/
opaque Config.rms : List (BitVec 16) → F32

/-- Spaondyr's public key in the factory region, x then y, big-endian (14 R400: the key is not given). -/
opaque Config.factoryKey : BitVec 768

/-- The ECDSA P-384 signature, r then s, of a message under the attestation key at the n-th draw (14 R402: the key is the
device's own). -/
opaque Config.attest : Nat → Bytes → BitVec 768

/-- The 256-byte record of DEVICE_ATTEST from its contents in the order 14 R402 names them: their widths and places are not
given. -/
opaque Config.attestRecord : List Bytes → BitVec 2048

/-- The session key that a key from policy firmware is wrapped under: an internal ring has no session (14 R401). -/
opaque Config.firmwareWrapKey : BitVec 256

/-- The hold-up store's measure where its divisor is 0: the current of the step, or the fall in voltage (13 R375: no result is
stated). -/
opaque Config.holdupOpen : Nat → Nat

/-- Where an array branch goes: from its own place, IMM and SRC_A's value (08 R215 names no form). -/
opaque Config.branchTarget : Nat → Nat → Nat → Nat

/-- The predicate that CMP sets: SRC_A's value, SRC_B's value and IMM (08 R215 names no conditions). -/
opaque Config.compare : Nat → Nat → Nat → Bool

/-- What RDSTAT reads: ACC_SAT, busy core cycles, work and IMM (08 R215 gives no layout). -/
opaque Config.readStat : Bool → Nat → Nat → Nat → Nat

/-- The order in which `n` terms of an FP32 sum are added (08 R209, R215; 07 R189; 09 R253: the order is not given). -/
opaque Config.sumOrder : Nat → List Nat

/-- Busy core cycles and work of an array in the launch of a built-in kernel, at the n-th draw, by context and array (08 R228,
R235: the kernels' own timing is not given). -/
opaque Config.builtinWork : Nat → Nat → Nat → Nat × Nat

/-- The image of built-in kernel k in the factory region (14 R388: its content is not given). -/
opaque Config.builtinImage : Nat → Bytes

/-- The word a NATIVE pass stores for an INT32 sum with a side term (08 R211: its form is not given). -/
opaque Config.sideWord : Int → F32 → BitVec 32

/-- What VCVT makes of a lane where the formats give no value: format code, direction, lane (08 R215). -/
opaque Config.convert : Nat → Bool → BitVec 32 → BitVec 32

/-- The natural logarithm of an FP32 value (09 R253, R257). -/
opaque Config.ln : F32 → F32

/-- The integer product of operands in FP32 (a weight times its record's scale) and the levels of value entries (07 R197: the
conversion of the operands is not given). -/
opaque Config.weighted : List F32 → List Int → F32

/-- The draft model's logit for a token after a history, at the n-th draw (09 R263: the kernel's arithmetic is not given). -/
opaque Config.draftLogit : Nat → List Nat → Nat → F32

/-- The draft state kept in DRAFT_PAGE at the n-th draw (09 R263: its layout is not given). -/
opaque Config.draftByte : Nat → Nat → Byte

end Sys2Proof
end

