-- ==== Sys2Proof/Machine/Table.lean ====
section
/-! DEFINITION. Sparse tables and sparse memory: the only operations by which either is read or changed.

A memory is a list of (address, byte) pairs in one canonical form: addresses strictly rising, no entry equal to what an
unlisted address reads as. -/

namespace Sys2Proof

/-- The value listed under a key. -/
def Tbl.get {α : Type} : Tbl α → Nat → Option α
  | [], _ => none
  | (k, v) :: t, n => if k = n then some v else Tbl.get t n

/-- The value under a key, `d` where the key is absent. -/
def Tbl.getD {α : Type} (t : Tbl α) (n : Nat) (d : α) : α := (Tbl.get t n).getD d

/-- Whether a key is listed. -/
def Tbl.has {α : Type} (t : Tbl α) (n : Nat) : Bool := (Tbl.get t n).isSome

/-- Put a value under a key. -/
def Tbl.set {α : Type} : Tbl α → Nat → α → Tbl α
  | [], n, v => [(n, v)]
  | (k, w) :: t, n, v =>
    if n < k then (n, v) :: (k, w) :: t else if n = k then (n, v) :: t else (k, w) :: Tbl.set t n v

/-- Remove a key. -/
def Tbl.del {α : Type} : Tbl α → Nat → Tbl α
  | [], _ => []
  | (k, w) :: t, n => if k = n then t else (k, w) :: Tbl.del t n

/-- Change the value under a key, if it is there. -/
def Tbl.upd {α : Type} : Tbl α → Nat → (α → α) → Tbl α
  | [], _, _ => []
  | (k, w) :: t, n, f => if k = n then (k, f w) :: t else (k, w) :: Tbl.upd t n f

/-- Change every value. -/
def Tbl.map {α : Type} (t : Tbl α) (f : Nat → α → α) : Tbl α := List.map (fun kv => (kv.1, f kv.1 kv.2)) t

/-- The keys. -/
def Tbl.keys {α : Type} (t : Tbl α) : List Nat := List.map (·.1) t

/-- The lowest natural number at or above `n` that is not a key, looking at most `fuel` numbers up. -/
def Tbl.freeFrom {α : Type} (t : Tbl α) : Nat → Nat → Option Nat
  | 0, _ => none
  | fuel + 1, n => if Tbl.has t n then Tbl.freeFrom t fuel (n + 1) else some n

namespace Machine

/-! ### Memory -/

/-- What an unlisted address reads as (DESIGN CHOICE, log entry 3). -/
def unlisted : Byte := 0

/-- One byte. -/
def memRead (m : List Host.Cell) (a : Nat) : Byte := Tbl.getD m a unlisted

/-- Write one byte; writing the unlisted value removes the entry. -/
def memWrite (m : List Host.Cell) (a : Nat) (b : Byte) : List Host.Cell :=
  if b = unlisted then Tbl.del m a else Tbl.set m a b

/-- `n` bytes from `a` up. -/
def memReadN (m : List Host.Cell) (a : Nat) : Nat → Bytes
  | 0 => []
  | n + 1 => memRead m a :: memReadN m (a + 1) n

/-- Write bytes from `a` up. -/
def memWriteN (m : List Host.Cell) (a : Nat) : Bytes → List Host.Cell
  | [] => m
  | b :: bs => memWriteN (memWrite m a b) (a + 1) bs

/-- Set `n` bytes from `a` up to the unlisted value. -/
def memClear (m : List Host.Cell) (a n : Nat) : List Host.Cell := m.filter fun c => !(a ≤ c.1 && c.1 < a + n)

/-- The cells of `n` bytes from `a` up, rebased at `b`. -/
def memSlice (m : List Host.Cell) (a n b : Nat) : List Host.Cell :=
  (m.filter fun c => a ≤ c.1 && c.1 < a + n).map fun c => (c.1 - a + b, c.2)

/-- Put the cells of `src`, rebased by `b`, into `m`. -/
def memPaste (m : List Host.Cell) (b : Nat) : List Host.Cell → List Host.Cell
  | [] => m
  | c :: cs => memPaste (memWrite m (b + c.1) c.2) b cs

/-- Combine the cells of `src`, rebased by `b`, into `m` by exclusive or. -/
def memXor (m : List Host.Cell) (b : Nat) : List Host.Cell → List Host.Cell
  | [] => m
  | c :: cs => memXor (memWrite m (b + c.1) (memRead m (b + c.1) ^^^ c.2)) b cs

/-- The cells of bytes from `a` up. -/
def cellsFrom (a : Nat) : Bytes → List Host.Cell
  | [] => []
  | b :: bs => if b = unlisted then cellsFrom (a + 1) bs else (a, b) :: cellsFrom (a + 1) bs

/-- Write bytes from `a` up in one pass. -/
def memPut (m : List Host.Cell) (a : Nat) (bs : Bytes) : List Host.Cell :=
  (m.filter fun c => decide (c.1 < a)) ++ cellsFrom a bs ++ m.filter fun c => decide (a + bs.length ≤ c.1)

/-- Bytes from `a` up of cells that start there, in one pass. -/
def cellsTake : List Host.Cell → Nat → Nat → Bytes
  | _, _, 0 => []
  | [], a, n + 1 => unlisted :: cellsTake [] (a + 1) n
  | c :: m, a, n + 1 => if c.1 = a then c.2 :: cellsTake m (a + 1) n else unlisted :: cellsTake (c :: m) (a + 1) n

/-- `n` bytes from `a` up in one pass. -/
def memTake (m : List Host.Cell) (a n : Nat) : Bytes := cellsTake (m.filter fun c => decide (a ≤ c.1)) a n

/-- The canonical form. -/
def memWf : List Host.Cell → Bool
  | [] => true
  | [c] => c.2 != unlisted
  | c :: d :: m => c.2 != unlisted && decide (c.1 < d.1) && memWf (d :: m)

end Machine

end Sys2Proof
end

