-- ==== Sys2Proof/Machine/Bits.lean ====
section
/-! DEFINITION. Bit fields and byte orders (00 R8): a structure of the manual is read as one little-endian number, and a
field [hi:lo] is cut out of it. -/

namespace Sys2Proof.Machine

/-- Field [hi:lo] of a number. -/
def bits (n hi lo : Nat) : Nat := (n >>> lo) % 2 ^ (hi + 1 - lo)

/-- Bit k of a number. -/
def bit (n k : Nat) : Bool := (n >>> k) % 2 = 1

/-- A Bool as a bit. -/
def b2n (b : Bool) : Nat := if b then 1 else 0

/-- The little-endian value of bytes. -/
def leNat : Bytes → Nat
  | [] => 0
  | b :: bs => b.toNat + 256 * leNat bs

/-- The big-endian value of bytes. -/
def beNat (bs : Bytes) : Nat := bs.foldl (fun a b => a * 256 + b.toNat) 0

/-- A number as `n` little-endian bytes. -/
def leBytes : Nat → Nat → Bytes
  | 0, _ => []
  | n + 1, v => BitVec.ofNat 8 v :: leBytes n (v / 256)

/-- A number as `n` big-endian bytes. -/
def beBytes (n v : Nat) : Bytes := (leBytes n v).reverse

/-- `n` bytes of `bs` from `o` up. -/
def sub (bs : Bytes) (o n : Nat) : Bytes := (bs.drop o).take n

/-- The little-endian value of `n` bytes of `bs` from `o` up. -/
def subNat (bs : Bytes) (o n : Nat) : Nat := leNat (sub bs o n)

/-- Zero bytes. -/
def zeros (n : Nat) : Bytes := List.replicate n 0

def allZero (bs : Bytes) : Bool := bs.all (· == 0)

/-- ASCII bytes. -/
def ascii (s : String) : Bytes := s.toList.map fun c => BitVec.ofNat 8 c.toNat

/-- A value put at bit `lo`. -/
def at' (v lo : Nat) : Nat := v <<< lo

/-- Rounded-up quotient. -/
def ceilDiv (a b : Nat) : Nat := (a + b - 1) / b

def isPow2 (n : Nat) : Bool := n != 0 && (n &&& (n - 1)) == 0

/-- Bits set in a number below 2^k. -/
def popCount : Nat → Nat → Nat
  | 0, _ => 0
  | k + 1, n => n % 2 + popCount k (n / 2)

/-- The numbers below `k` whose bit is set in `n`. -/
def bitList (k n : Nat) : List Nat := (List.range k).filter fun i => bit n i

/-- A subtraction that saturates into a field of `w` bits, and one that saturates at its top. -/
def satBits (w v : Nat) : Nat := min v (2 ^ w - 1)

/-- A signed number from `w` bits. -/
def signed (w v : Nat) : Int := if v < 2 ^ (w - 1) then (v : Int) else (v : Int) - (2 ^ w : Nat)

/-- A signed number into `w` bits. -/
def unsigned (w : Nat) (v : Int) : Nat := (v % ((2 ^ w : Nat) : Int)).toNat

/-- Insert into a list sorted by `lt`, after equals. -/
def insertBy {α : Type} (lt : α → α → Bool) (x : α) : List α → List α
  | [] => [x]
  | y :: t => if lt x y then x :: y :: t else y :: insertBy lt x t

/-- A stable sort. -/
def sortBy {α : Type} (lt : α → α → Bool) (l : List α) : List α := l.foldl (fun acc x => insertBy lt x acc) []

/-- Elements in first-appearance order, once each. -/
def distinct (l : List Nat) : List Nat := l.foldl (fun acc x => if acc.contains x then acc else acc ++ [x]) []

/-- Fixed-size pieces of a list, at most `k` of them. -/
def chunks {α : Type} (n : Nat) : Nat → List α → List (List α)
  | 0, _ => []
  | k + 1, l => l.take n :: chunks n k (l.drop n)

/-- One bit step of CRC-32C (reflected, polynomial 0x1EDC_6F41). -/
def crcStep : Nat → Nat → Nat
  | 0, c => c
  | k + 1, c => crcStep k (if c % 2 = 1 then (c / 2) ^^^ 0x82F63B78 else c / 2)

/-- CRC-32C of bytes (the Castagnoli polynomial, reflected, initial and final inversion). -/
def crc32c (bs : Bytes) : Nat := bs.foldl (fun c b => crcStep 8 (c ^^^ b.toNat)) 0xFFFFFFFF ^^^ 0xFFFFFFFF

end Sys2Proof.Machine
end

