-- ==== Sys2Proof/Machine/Sha.lean ====
section
/-! DEFINITION. SHA-256 and HMAC-SHA-256 (the functions 02 R39 and R43 name; FIPS 180-4, RFC 2104). -/

namespace Sys2Proof.Machine

/-- A 32-bit rotation to the right. -/
def rotr (n x : Nat) : Nat := (x >>> n) ||| ((x <<< (32 - n)) % 0x100000000)

/-- The first primes, in rising order: FIPS 180-4 draws every constant of its functions from their roots. -/
def shaPrimes : List Nat := (List.range' 2 408).filter fun p => (List.range' 2 19).all fun q => p % q != 0 || p == q

/-- The greatest number below r + 2^n whose k-th power is at most x, r being one and r + 2^n too great. -/
def rootFrom (k x : Nat) : Nat → Nat → Nat
  | 0, r => r
  | n + 1, r => rootFrom k x n (if (r + 2 ^ n) ^ k ≤ x then r + 2 ^ n else r)

/-- The first w bits of the fraction of the k-th root of p. -/
def rootFraction (k w p : Nat) : Nat := rootFrom k (p * 2 ^ (k * w)) (w + 5) 0 % 2 ^ w

/-- Round constants: the cube roots of the first 64 primes. -/
def shaK : List Nat := (shaPrimes.take 64).map (rootFraction 3 32)

/-- What the chaining value starts at: the square roots of the first eight. -/
def shaInit : List Nat := (shaPrimes.take 8).map (rootFraction 2 32)

/-- The message schedule kept as a sliding window of the last sixteen words. -/
def shaNextW (w : List Nat) : Nat :=
  let w15 := w.getD 1 0
  let w2 := w.getD 14 0
  let s0 := rotr 7 w15 ^^^ rotr 18 w15 ^^^ (w15 >>> 3)
  let s1 := rotr 17 w2 ^^^ rotr 19 w2 ^^^ (w2 >>> 10)
  (w.getD 0 0 + s0 + w.getD 9 0 + s1) % 0x100000000

/-- The rounds, over the round constants. -/
def shaRounds : List Nat → List Nat → List Nat → List Nat
  | [], _, h => h
  | k :: ks, w, h =>
    match w, h with
    | w0 :: wt, [a, b, c, d, e, f, g, hh] =>
      let s1 := rotr 6 e ^^^ rotr 11 e ^^^ rotr 25 e
      let ch := (e &&& f) ^^^ ((e ^^^ 0xFFFFFFFF) &&& g)
      let t1 := (hh + s1 + ch + k + w0) % 0x100000000
      let s0 := rotr 2 a ^^^ rotr 13 a ^^^ rotr 22 a
      let mj := (a &&& b) ^^^ (a &&& c) ^^^ (b &&& c)
      shaRounds ks (wt ++ [shaNextW w]) [(t1 + s0 + mj) % 0x100000000, a, b, c, (d + t1) % 0x100000000, e, f, g]
    | _, _ => h

def shaWords : Nat → Bytes → List Nat
  | 0, _ => []
  | n + 1, bs => beNat (bs.take 4) :: shaWords n (bs.drop 4)

def shaBlock (h : List Nat) (blk : Bytes) : List Nat :=
  List.zipWith (fun x y => (x + y) % 0x100000000) h (shaRounds shaK (shaWords 16 blk) h)

def shaPad (bs : Bytes) : Bytes :=
  bs ++ [0x80] ++ zeros ((119 - bs.length % 64) % 64) ++ beBytes 8 (8 * bs.length)

/-- SHA-256. -/
def sha256 (bs : Bytes) : Bytes :=
  let p := shaPad bs
  ((chunks 64 (p.length / 64) p).foldl shaBlock shaInit).flatMap (beBytes 4)

/-- HMAC-SHA-256 under a key of at most 64 bytes. -/
def hmac256 (key msg : Bytes) : Bytes :=
  let k := key ++ zeros (64 - key.length)
  sha256 (k.map (· ^^^ 0x5c) ++ sha256 (k.map (· ^^^ 0x36) ++ msg))

end Sys2Proof.Machine
end

