-- ==== Sys2Proof/Machine/State.lean ====
section
/-! DEFINITION. The state of the controller, as plain data: everything the manual gives the TF-768A, unit by unit
(INVENTORY.md, '## State', names the rule of each piece), and the state right after reset.

A table (`Tbl`) lists only what differs from its default. Device times are nanoseconds. -/

namespace Sys2Proof.Machine

/-! ### Common shapes -/

/-- The privilege a command is issued with (02 R41, R48); `firmware` is an internal ring, which holds both OPERATOR and
MAINTENANCE. -/
inductive Priv where
  | operator | tenant | maintenance | firmware
  deriving DecidableEq, Repr

/-- A command whose completion is still to be written: the ring it came on, its CID, the submission head after its fetch,
its session (0xFFFF on an internal ring), NO_IRQ, result buffer address. -/
structure Tok where
  ring : Nat
  cid : Nat
  sqHead : Nat
  sess : Nat
  noIrq : Bool
  resAddr : Nat
  deriving DecidableEq, Repr

/-- A completion as formed (02 R35), before it has a place in its completion ring. -/
structure Cpl where
  time : Nat
  detail : Nat
  r0 : Nat
  final : Bool
  tok : Tok
  st : Nat
  result : Bytes
  deriving DecidableEq, Repr

/-- Request states (03 R61). -/
inductive RState where
  | free | admitted | prefill | handoff | generate | parked | draining | done | expired | failed
  deriving DecidableEq, Repr

/-! ### Device time (10 R303, R304) -/

structure PtpCfg where
  portMask : Nat
  domain : Nat
  prio1 : Nat
  prio2 : Nat
  syncExp : Nat
  transport : Nat
  slaveOnly : Nat
  deriving DecidableEq, Repr

structure Clk where
  now : Nat
  synced : Bool
  bootSync : Bool
  holdover : Bool
  holdoverAt : Nat
  offset : Int
  offsetSince : Option Nat
  alarmed : Bool
  ptp : PtpCfg
  slew : Nat
  deriving DecidableEq, Repr

/-! ### Host and command unit (02) -/

structure KeySlot where
  key : Bytes
  priv : Priv
  tenant : Nat
  fails : Nat
  lockedUntil : Option Nat
  deriving DecidableEq, Repr

structure Session where
  gen : Nat
  isOpen : Bool
  slot : Nat
  priv : Priv
  tenant : Nat
  hostNonce : Bytes
  devNonce : Bytes
  helloRing : Nat
  helloTime : Nat
  key : Bytes
  tagFails : Nat
  deriving DecidableEq, Repr

/-- A ring pair (02 R29 to R38, R53). `outstanding` lists the fetched commands without a final completion, oldest first;
`held` the completions formed while the completion ring is full (R36); `pended` the commands of open sessions that have
returned ST_PENDING (R47); `waiting` the header of a fetched command that FENCE holds back (R34, R47). -/
structure Ring where
  owner : Nat
  port : Nat
  base : Nat
  sqEntries : Nat
  cqEntries : Nat
  cqBase : Nat
  notify : Nat
  vec : Nat
  irqTime : Nat
  irqCount : Nat
  head : Nat
  tail : Nat
  cqTail : Nat
  cqHead : Nat
  phase : Bool
  irqPend : Nat
  irqFirst : Nat
  held : List Cpl
  outstanding : List Nat
  waiting : Option Nat
  pended : List Tok
  fetching : Bool
  dying : Bool
  work : Bool
  deriving DecidableEq, Repr

structure AdminReg where
  base : Nat
  notify : Nat
  vec : Nat
  irqTime : Nat
  irqCount : Nat
  enable : Bool
  deriving DecidableEq, Repr

structure Hcu where
  keySlots : Tbl KeySlot
  sessions : Tbl Session
  sessGen : Tbl Nat
  rings : Tbl Ring
  adminRegs : Tbl AdminReg
  seqs : Tbl Nat
  ringMem : List Host.Cell
  fwMem : List Host.Cell
  fwMemLen : Nat
  role : Nat
  pendingRole : Nat
  roleTok : Option Tok
  roleStatus : Nat
  deriving DecidableEq, Repr

/-! ### Request table (03) -/

/-- A request entry: the fields of 03 R60. -/
structure Entry where
  gid : Nat
  deadline : Nat
  admitTime : Nat
  stateTime : Nat
  plistRoot : Nat
  tokRoot : Nat
  resHbm : Nat
  resFlash : Nat
  tenant : Nat
  usedHbm : Nat
  usedFlash : Nat
  kvPerTok : Nat
  prior : RState
  prevOwner : Nat
  epoch : Nat
  roleHist : Nat
  drainFrom : RState
  promptLen : Nat
  ctxLen : Nat
  genLen : Nat
  maxNew : Nat
  lastStatus : Nat
  handoffs : Nat
  stepCount : Nat
  draftTokens : Nat
  acceptedTokens : Nat
  home : Nat
  auxRoot : Nat
  cvnId : Nat
  codecSlot : Nat
  pageClass : Nat
  slotGen : Nat
  state : RState
  prio : Nat
  durable : Bool
  inStep : Bool
  expirePend : Bool
  cancelPend : Bool
  movePend : Bool
  remoteHome : Bool
  watch : Bool
  promptComplete : Bool
  batchTag : Nat
  deriving DecidableEq, Repr

/-- A count entry of the auxiliary block (09 R244). -/
structure Count where
  token : Nat
  promptSeen : Bool
  genCount : Nat
  deriving DecidableEq, Repr

/-- The auxiliary block (09 R243): the last accepted SAMPLE_SET payload, CAP, DRAFT_PAGE and the count entries in use. -/
structure Aux where
  params : Bytes
  cap : Nat
  draftPage : Nat
  counts : List Count
  deriving DecidableEq, Repr

/-- Why a command waits on a step or move of its entry (03 R74, R76). -/
inductive WaitKind where
  | cancel | complete
  deriving DecidableEq, Repr

/-- A loss kept for the end of a step or a caravan (03 R57, R78): its status, the home's answer on a parked request's
charge, and whether it ends the request (its token history or a word of its entry is lost). -/
structure KeptLoss where
  st : Nat
  charged : Bool
  fatal : Bool
  deriving DecidableEq, Repr

/-- A table slot that is not FREE: its entry and what the controller keeps beside it. `lossSt` is a loss kept for the
end of a step or a caravan; `parkFrom` the PRIOR_STATE that an offer has overwritten. -/
structure Slot where
  e : Entry
  hist : List Nat
  aux : Option Aux
  mark : Bool
  watchTok : Option Tok
  waits : List (WaitKind × Tok)
  moveTok : Option Tok
  lingerFrom : Option Nat
  lossSt : Option KeptLoss
  parkFrom : RState
  underAlias : Bool
  stepTag : Nat
  moveDest : Nat
  moveReady : Bool
  moveAt : Nat
  moveEpoch : Nat
  restoring : Bool
  deriving DecidableEq, Repr

structure ClassRow where
  gateOpen : Bool
  cap : Nat
  minLead : Nat
  deriving DecidableEq, Repr

/-- A reservation charged at this home (03 R66 to R70): `onFlash` tells which of the two amounts is charged,
`both` that a park or an unpark under way has charged the other as well. -/
structure Resv where
  cls : Nat
  tenant : Nat
  hbm : Nat
  flash : Nat
  onFlash : Bool
  both : Bool
  durable : Bool
  deriving DecidableEq, Repr

/-- What an admission waits for: the mark of the block its sequence would be drawn from (03 R59), its partner's hold
(12 R343), or its remote home's answer (03 R69). -/
inductive HomePhase where
  | mark | charge | home
  deriving DecidableEq, Repr

/-- An admission that is not complete. Its slot is held but invisible. -/
structure HomeWait where
  slot : Nat
  ent : Entry
  tok : Tok
  sentAt : Nat
  phase : HomePhase
  parkOk : Bool
  deriving DecidableEq, Repr

/-- The request table engine. FREE slots are `returned` (held once, never shown), those from `fresh` up, and `freed`;
`heldSlots` are held for an admission or a caravan. `markWaits` are admissions that wait for a mark, `homeWaits` those that
wait for a partner or a home, by identifier, and `releases` the admissions (identifier, home) whose release no home has
acknowledged. -/
structure Rte where
  slots : Tbl Slot
  slotGen : Tbl Nat
  freed : List Nat
  fresh : Nat
  returned : List Nat
  heldSlots : List Nat
  originSeq : Nat
  markEnd : Nat
  markAsked : Nat
  classRows : Tbl ClassRow
  tenantRows : Tbl (Nat × Nat)
  resv : Tbl Resv
  histUnits : Tbl Nat
  homeWaits : Tbl HomeWait
  markWaits : List HomeWait
  releases : List (Nat × Nat)
  lingerMs : Nat
  beatAt : Nat
  lapsed : Bool
  beats : Nat
  beatsSince : Nat
  lapseTold : Bool
  deriving DecidableEq, Repr

/-! ### Caravan engine (04) -/

/-- Caravan record states (04 R113). -/
inductive CState where
  | offered | pulled | inDoubt | released | withdrawn | resumed | pulling | relWait | aborted | closed
  deriving DecidableEq, Repr

structure Caravan where
  gid : Nat
  startTime : Nat
  lastTime : Nat
  cvnId : Nat
  src : Nat
  dst : Nat
  epoch : Nat
  status : Nat
  pageUnits : Nat
  probes : Nat
  cstate : CState
  kind : Nat
  slot : Nat
  tok : Option Tok
  stamp : Nat
  timeout : Nat
  probedAt : Nat
  home : Nat
  tenant : Nat
  prio : Nat
  durable : Bool
  deadline : Nat
  histTokens : Nat
  auxBytes : Nat
  codecFp : Nat
  key : Nat
  offerLife : Nat
  probeUs : Nat
  relUs : Nat
  unans : Nat
  cslot : Nat
  tags : List Nat
  bounceUntil : Option Nat
  bounceAt : Nat
  loss : Option KeptLoss
  deriving DecidableEq, Repr

structure NodeRec where
  node : Nat
  partner : Nat
  pool : Nat
  role : Nat
  domain : Nat
  inDomain : Bool
  lost : Bool
  deriving DecidableEq, Repr

inductive EpState where
  | pending | current | draining
  deriving DecidableEq, Repr

structure Epoch where
  num : Nat
  st : EpState
  activateAt : Nat
  drainUs : Nat
  drainFrom : Nat
  nodes : List NodeRec
  image : Bytes
  tok : Option Tok
  deriving DecidableEq, Repr

structure CvnTimers where
  offer : Nat
  receiptBase : Nat
  receiptPerMib : Nat
  probe : Nat
  release : Nat
  deriving DecidableEq, Repr

structure Cve where
  recs : Tbl Caravan
  ended : List Nat
  nextId : Nat
  landing : Tbl (List Host.Cell)
  timers : CvnTimers
  badHeaders : Nat
  epochs : List Epoch
  drainEnd : Nat
  selfLost : Bool
  deriving DecidableEq, Repr

/-! ### Page and prefix manager (05) -/

inductive PState where
  | free | live | reclaim | lost
  deriving DecidableEq, Repr

/-- A page-table entry (05 R117) with the page's generation mask (07 R194) and the codec slot its tags are of. `inner` tells a page of the controller's own:
a list block, a token history, an auxiliary block. -/
structure Page where
  tenant : Nat
  refs : Nat
  stack : Nat
  st : PState
  inPrefix : Bool
  loose : Bool
  mask : Nat
  maskSlot : Nat
  inner : Bool
  deriving DecidableEq, Repr

/-- A page list: the header of 05 R121 and the page identifiers in list order. -/
structure PList where
  root : Nat
  gid : Nat
  gen : Nat
  owner : Nat
  tenant : Nat
  shared : Nat
  ctxLen : Nat
  kvPerTok : Nat
  ns : Nat
  codecSlot : Nat
  cls : Nat
  depth : Nat
  resUnits : Nat
  usedUnits : Nat
  nodeRefs : Nat
  pages : List Nat
  blocks : List Nat
  deriving DecidableEq, Repr

structure PNode where
  key : Nat
  parent : Nat
  chain : Nat
  ns : Nat
  tenant : Nat
  depthTokens : Nat
  children : Nat
  plist : Nat
  lastHit : Nat
  toks : List Nat
  deriving DecidableEq, Repr

/-- A command forwarded to a remote home that waits for its answer (05 R122). -/
structure FwdWait where
  dst : Nat
  op : Nat
  slots : List Nat
  tag : Nat
  tok : Tok
  sentAt : Nat
  epoch : Nat
  deriving DecidableEq, Repr

structure Ppm where
  pages : Tbl Page
  lists : Tbl PList
  plists : Tbl PList
  nodes : Tbl PNode
  heads : Tbl Nat
  nodeGen : Tbl Nat
  reclaim : List Nat
  tailCopies : Nat
  lostCount : Nat
  fwds : Tbl FwdWait
  nextFwd : Nat
  prefixCap : Nat
  objectCap : Nat
  objectFlashCap : Nat
  serviceFloor : Nat
  staging : Nat
  deriving DecidableEq, Repr

/-! ### Tier and flash manager (06) -/

inductive Place where
  | zero | hbm | flash | lost
  deriving DecidableEq, Repr

/-- A tier-map entry (06 R145). -/
structure TEntry where
  place : Place
  moving : Bool
  heat : Nat
  hint : Nat
  restarts : Nat
  loc : Nat
  deriving DecidableEq, Repr

structure TierCtl where
  demoteLow : Nat
  demoteHigh : Nat
  promoteHeat : Nat
  heatPeriod : Nat
  migrateShare : Nat
  readRedirect : Nat
  deriving DecidableEq, Repr

inductive BandSt where
  | free | opened | closed | erasing | save | ckpt | jnl | broken
  deriving DecidableEq, Repr

/-- A band (06 R156): its state, the stream that has it open, rows programmed, granules placed in the open row, when it
was closed, whether it is scored first (06 R162, R167, R169), its block on each channel, and the SEQ of the last record
that took a granule off it (06 R159). A broken band has given a block to another band of its group. -/
structure Band where
  st : BandSt
  stream : Nat
  rows : Nat
  openRow : List Nat
  closedAt : Nat
  first : Bool
  blks : List Nat
  lastOff : Nat
  deriving DecidableEq, Repr

structure Block where
  erases : Nat
  reads : Nat
  retired : Bool
  deriving DecidableEq, Repr

inductive DieSt where
  | ok | slow | failed
  deriving DecidableEq, Repr

structure Die where
  st : DieSt
  redirects : Nat
  total : Nat
  second : Nat
  slowAt : Nat
  deriving DecidableEq, Repr

/-- Journal record types (06 R158). -/
inductive JType where
  | map | trim | bandOpen | bandClose | blockRetire | idMark | checkpoint | saveSeal
  deriving DecidableEq, Repr

structure JRec where
  seq : Nat
  type : JType
  granule : Nat
  count : Nat
  new : TEntry
  oldLoc : Nat
  deriving DecidableEq, Repr

/-- What a move of granules is for (06 R151, R154, R161, R173). -/
inductive MoveKind where
  | demote | promote | park (gid : Nat) | unpark (gid : Nat) | gc | hint (cmd : Nat) | migrate (cmd : Nat)
  deriving DecidableEq, Repr

structure Move where
  kind : MoveKind
  toFlash : Bool
  dest : Nat
  placed : Bool
  recSeq : Nat
  committed : Bool
  deriving DecidableEq, Repr

/-- A pending tier command (06 R173): TIER_HINT with a pin, TIER_MIGRATE, RANGE_TRIM. -/
structure TierJob where
  tok : Tok
  moved : Nat
  waitSeq : Nat
  deriving DecidableEq, Repr

/-- A park or unpark under way at this home (06 R154). `owner` is the node to tell, `fwdId` its forward. -/
structure ParkJob where
  parking : Bool
  owner : Nat
  fwdId : Nat
  deriving DecidableEq, Repr

/-- Who waits for a flash read (06 R148). -/
inductive Reader where
  | memRead (p addr len : Nat)
  | memWrite (p addr : Nat) (bs : Bytes)
  | fabric (src : Nat)
  deriving DecidableEq, Repr

/-- A flash read, or an access that needs one. `got`: the data is in, a frame or the end of a rebuild is awaited (06 R146,
R171); `left`: reads outstanding for it, two once it is redirected (06 R168). -/
structure FRead where
  granule : Nat
  who : Reader
  at' : Nat
  redirected : Bool
  die : Nat
  got : Bool
  left : Nat
  deriving DecidableEq, Repr

/-- A save of the durable region (06 R165): its seal's SEQ, the bytes, rebased at the region's start, and the granules
that were backed. -/
structure Save where
  sealSeq : Nat
  cells : List Host.Cell
  backed : List Nat
  deriving DecidableEq, Repr

structure GcCfg where
  wv : Nat
  wa : Nat
  ww : Nat
  low : Nat
  urgent : Nat
  deriving DecidableEq, Repr

structure ScrubJob where
  tok : Tok
  scope : Nat
  corrected : Nat
  bad : Nat
  deriving DecidableEq, Repr

structure MemWin where
  base : Nat
  len : Nat
  outside : Nat
  lastEvent : Option Nat
  deriving DecidableEq, Repr

structure Tfm where
  hbm : List Host.Cell
  flash : List Host.Cell
  mediaLost : List Nat
  poison : List Nat
  map : Tbl TEntry
  extTenant : Tbl Nat
  ctl : TierCtl
  bands : Tbl Band
  blocks : Tbl Block
  dies : Tbl Die
  moves : Tbl Move
  jobs : Tbl TierJob
  parks : Tbl ParkJob
  reads : Tbl FRead
  nextId : Nat
  gc : GcCfg
  stacksLost : List Nat
  rebuilding : Bool
  leafPool : Nat
  listBlocks : Nat
  scrub : Option ScrubJob
  heatAt : Nat
  writesOff : Bool
  memWin : Tbl MemWin
  hints : List (Nat × Nat × Nat)
  deriving DecidableEq, Repr

/-- The map journal (06 R158 to R160) and the durable region's saves (06 R165). -/
structure Jnl where
  buf : List JRec
  flight : List JRec
  done : List JRec
  seq : Nat
  committed : Nat
  firstAt : Nat
  ckpt : Tbl (Tbl TEntry)
  ckptPend : Tbl (Tbl TEntry)
  durBase : Nat
  durLen : Nat
  saveA : Option Save
  saveB : Option Save
  saveSeq : Nat
  saving : Bool
  saveTok : Option Tok
  durRestored : Bool
  pages : List Nat
  pageSeq : Nat
  ckptPos : Nat
  deriving DecidableEq, Repr

/-! ### Codec unit (07) -/

inductive SlotCond where
  | empty | lossless | quant
  deriving DecidableEq, Repr

/-- A codec table generation (07 R176 to R178): the header as a 512-bit number and the body. -/
structure Gen where
  tag : Nat
  header : Nat
  body : Bytes
  tableId : Nat
  loadSeq : Nat
  refs : Nat
  deriving DecidableEq, Repr

structure CSlot where
  cond : SlotCond
  tenant : Nat
  gens : List Gen
  cleared : Bool
  saturated : Nat
  nonfinite : Nat
  deriving DecidableEq, Repr

structure CodecJob where
  tok : Tok
  held : List (Nat × Nat)
  r0 : Nat
  detail : Nat
  st : Nat
  deriving DecidableEq, Repr

structure Cdu where
  slots : Tbl CSlot
  loadSeq : Nat
  jobs : Tbl CodecJob
  nextJob : Nat
  deriving DecidableEq, Repr

/-! ### Compute arrays (08) -/

inductive ASt where
  | active | excluded | failed
  deriving DecidableEq, Repr

/-- A codebook bank's copy (08 R219): the generation, by slot and load sequence number, and its body. A bank is valid
while that generation is live. -/
structure Bank where
  slot : Nat
  loadSeq : Nat
  header : Nat
  body : Bytes
  deriving DecidableEq, Repr

structure Arr where
  st : ASt
  auto : Bool
  gated : Bool
  wakeAt : Option Nat
  mhzSet : Nat
  mhzRun : Nat
  mhzDue : Option Nat
  streak : Nat
  slowPm : Nat
  slowHist : List Nat
  exclusions : Nat
  busy : Nat
  work : Nat
  idleFrom : Nat
  banks : Tbl Bank
  deriving DecidableEq, Repr

structure Kernel where
  gen : Nat
  tenant : Nat
  code : Bytes
  data : Bytes
  localMin : Nat
  threadsMin : Nat
  vregsMin : Nat
  arraysMin : Nat
  entries : List Nat
  builtin : Bool
  deriving DecidableEq, Repr

structure LaunchCmd where
  tok : Option Tok
  args : List Nat
  entry : Nat
  measure : Bool
  deriving DecidableEq, Repr

structure Ctx where
  gen : Nat
  kernel : Nat
  tenant : Nat
  mask : Nat
  threads : Nat
  localUnits : Nat
  vregs : Nat
  minArrays : Nat
  prio : Nat
  running : Option LaunchCmd
  runMask : Nat
  started : Bool
  startAt : Nat
  queue : List LaunchCmd
  sems : Tbl Nat
  deriving DecidableEq, Repr

/-- What an array DMA does (08 R218). -/
inductive DmaKind where
  | read | write | block
  deriving DecidableEq, Repr

/-- A DMA issued by a thread (08 R218): device and local address, length, the register a block read tells its side entries
in, where the instruction stands, and when it was issued. -/
structure ADma where
  kind : DmaKind
  dev : Nat
  loc : Nat
  len : Nat
  reg : Nat
  pc : Nat
  at' : Nat
  deriving DecidableEq, Repr

/-- A pass that streams (08 R216): where its results go, the words they are, whether they are INT32, whether they are
added, its streaming cycles, and when it ends (08 R217). -/
structure Pass where
  dest : Nat
  vals : List Nat
  isInt : Bool
  acc : Bool
  cycles : Nat
  endAt : Nat
  deriving DecidableEq, Repr

/-- What a waiting thread waits for. -/
inductive TWait where
  | none | dma | grid | bar | xbar | sem (n : Nat)
  deriving DecidableEq, Repr

structure Thread where
  pc : Nat
  regs : Tbl Nat
  preds : Nat
  accSat : Bool
  vregs : Tbl (List F32)
  halted : Bool
  wait : TWait
  dmas : List ADma
  passes : List Pass
  busy : Nat
  work : Nat
  deriving DecidableEq, Repr

structure ArrCtl where
  slowLimit : Nat
  slowSteps : Nat
  autoExclude : Bool
  maxExclude : Nat
  idleGate : Nat
  minWork : Nat
  deriving DecidableEq, Repr

structure Sched where
  base : Nat
  enable : Bool
  table : Bytes
  deriving DecidableEq, Repr

structure SchedNext where
  sched : Sched
  at' : Nat
  tok : Tok
  deriving DecidableEq, Repr

structure Cax where
  arrays : Tbl Arr
  kernels : Tbl Kernel
  kernelGen : Tbl Nat
  ctxs : Tbl Ctx
  ctxGen : Tbl Nat
  locals : Tbl (List Host.Cell)
  badLocal : Tbl (List Nat)
  threads : Tbl Thread
  ctl : ArrCtl
  sched : Sched
  schedNext : Option SchedNext
  tests : List (Nat × Tok)
  builtins : Bool
  deriving DecidableEq, Repr

/-! ### Attention and sampling (09) -/

/-- One request of an open step, as taken in (09 R245, R247): identifier, handle at the owner, length-table fields, query
tokens, lengths, history and auxiliary block; the cause that ends it (0: none) and whether that cause names FAILED; the
drafts proposed with the distributions they were drawn from; and its staged entries. -/
structure StepReq where
  gid : Nat
  handle : Nat
  posBase : Nat
  qPos : Nat
  qToks : Nat
  ctx0 : Nat
  genLen : Nat
  promptLen : Nat
  maxNew : Nat
  hist : List Nat
  aux : Option Aux
  st : Nat
  failed : Bool
  proposed : List Nat
  dist : List (List (Nat × F32))
  staged : List (BitVec 16)
  deriving DecidableEq, Repr

inductive Opener where
  | spec | attn | sample
  deriving DecidableEq, Repr

/-- A step open at this home (09 R245 to R252). `closing`: its outcomes are returned, its final lengths awaited. -/
structure Step where
  owner : Nat
  opener : Opener
  segment : Bool
  codecSlot : Nat
  genTag : Option Nat
  layers : Nat
  nextLayer : Nat
  openedAt : Nat
  stagingUnits : Nat
  biasSlots : List Nat
  closing : Bool
  reqs : List StepReq
  deriving DecidableEq, Repr

/-- One length-table entry as its owner keeps it: handle, GLOBAL_ID, slot, the status of R247, CTX_LEN before. -/
structure OwnEntry where
  handle : Nat
  gid : Nat
  slot : Nat
  st : Nat
  ctx0 : Nat
  deriving DecidableEq, Repr

/-- The owner's view of a step: its home, its bulletin ring, its length table; the command that closes it, the bulletin
entries and the final lengths decided, while the home's answer is awaited. -/
structure OwnStep where
  home : Nat
  bulletin : Nat
  segment : Bool
  isOpen : Bool
  openedAt : Nat
  entries : List OwnEntry
  closeTok : Option Tok
  closeRes : Bytes
  closeOut : List Bytes
  deriving DecidableEq, Repr

structure BiasSlot where
  tenant : Nat
  groups : Nat
  vals : List (BitVec 16)
  deriving DecidableEq, Repr

structure Bulletin where
  base : Nat
  maxBatch : Nat
  slots : Nat
  port : Nat
  tenant : Nat
  head : Nat
  tail : Nat
  phase : Bool
  bseq : Nat
  waiting : List Bytes
  deriving DecidableEq, Repr

/-- Sequences of a set that share what precedes the banned token: the search key, the entry's index, the banned tokens, and
where their list stands when there are several (09 R261). -/
structure BanItem where
  key : Nat
  idx : Nat
  toks : List Nat
  addr : Option Nat
  deriving DecidableEq, Repr

structure BanSet where
  tenant : Nat
  items : List BanItem
  deriving DecidableEq, Repr

structure Att where
  steps : Tbl Step
  owned : Tbl OwnStep
  bias : Tbl BiasSlot
  bulletins : Tbl Bulletin
  stepTimeout : Nat
  bans : Tbl BanSet
  deriving DecidableEq, Repr

/-! ### Fabric engine (10) -/

inductive PortSt where
  | disabled | down | training | up | degraded | loopback
  deriving DecidableEq, Repr

structure FPort where
  st : PortSt
  upperHalf : Bool
  badLanes : Nat
  mac : Nat
  gateway : Nat
  vlan : Nat
  tagged : Bool
  degradeSym : Nat
  degradeUnc : Nat
  modes : Nat
  enable : Bool
  fecCorr : Nat
  fecUnc : Nat
  drops : Nat
  ceMarked : Nat
  peerNode : Nat
  peerPort : Nat
  peerMac : Nat
  retrainAt : Option Nat
  pauses : Nat
  loopTok : Option Tok
  loopUntil : Nat
  loopLanes : Nat
  deriving DecidableEq, Repr

/-- What a key's region is when it is a landing buffer: a caravan's (its record's key), or a moved page list's. -/
inductive Landing where
  | no | caravan (key : Nat) | list (gid : Nat)
  deriving DecidableEq, Repr

structure Key where
  gen : Nat
  base : Nat
  len : Nat
  tenant : Nat
  rights : Nat
  peer : Nat
  landing : Landing
  deriving DecidableEq, Repr

/-- A message sent on a connection and not complete (10 R291, R298), a memory-mode request (10 R284), or a work descriptor
split into such requests. `dueAt` is when it is sent again and `why` the cause: 0 its timer, 1 a NAK NO_CONTEXT, 2 an epoch
bounce; `resends` counts all but the last kind, `timer` the first alone. `parts` are the requests that a descriptor still
waits for, `st` its first failure; `parent` the connection and number of a request's descriptor, `routes` its egress port
and alternate; `units` the 256-byte units of a response received, `moved` its bytes, `total` its length once known. -/
structure OutMsg where
  num : Nat
  op : Nat
  key : Nat
  addr : Nat
  len : Nat
  loc : Nat
  data : Bytes
  epoch : Nat
  ordered : Bool
  size64 : Bool
  signed : Bool
  tc : Nat
  tok : Option Tok
  aper : Option (Nat × Nat)
  parent : Option (Nat × Nat)
  routes : Nat × Nat
  parts : Nat
  moved : Nat
  st : Nat
  dueAt : Nat
  why : Nat
  resends : Nat
  timer : Nat
  acked : Bool
  units : List Nat
  total : Option Nat
  deriving DecidableEq, Repr

/-- A message being reassembled, complete or failed and not yet released (10 R294, R296). -/
structure InMsg where
  op : Nat
  key : Nat
  addr : Nat
  ordered : Bool
  bitmap : List Nat
  count : Nat
  length : Option Nat
  held : List Host.Cell
  lastAt : Nat
  complete : Bool
  failed : Bool
  deriving DecidableEq, Repr

inductive ConnSt where
  | opening | opened | closing | failed
  deriving DecidableEq, Repr

structure Conn where
  st : ConnSt
  memory : Bool
  peer : Nat
  peerIdx : Nat
  tenant : Nat
  ring : Nat
  maxRate : Nat
  window : Nat
  paths : Nat
  maxPkt : Nat
  tc : Nat
  engine : Nat
  tok : Option Tok
  openedAt : Nat
  nextMsn : Nat
  sent : List OutMsg
  rxBase : Nat
  rx : Tbl InMsg
  rate : Nat
  target : Nat
  alpha : Nat
  clean : Nat
  rxBytes : Nat
  rxMarked : Nat
  echoBytes : Nat
  echoMark : Nat
  acked : Nat
  marked : Nat
  rateAt : Nat
  closeTok : Option Tok
  ackAt : Nat
  ackDue : Bool
  deriving DecidableEq, Repr

structure ErgRec where
  base : Nat
  len : Nat
  node : Nat
  tenant : Nat
  route : Nat
  altRoute : Nat
  rights : Nat
  domain : Nat
  deriving DecidableEq, Repr

/-- The sequence toward one destination (10 R284). -/
structure SeqOut where
  next : Nat
  opened : Bool
  reqs : List OutMsg
  sentAt : Nat
  rounds : Nat
  deriving DecidableEq, Repr

/-- The sequence from one source (10 R284): next SEQ expected, the last 64 atomic results, and the requests held, the
first of which waits on a flash read. -/
structure SeqIn where
  expect : Nat
  opened : Bool
  atomics : List (Nat × Nat)
  queue : List Frame
  waitAt : Nat
  deriving DecidableEq, Repr

structure FabCtl where
  reasm : Nat
  rtoBase : Nat
  retryLimit : Nat
  memTimeout : Nat
  ratePeriod : Nat
  ai : Nat
  hai : Nat
  minRate : Nat
  deriving DecidableEq, Repr

structure Fbe where
  ports : Tbl FPort
  keys : Tbl Key
  keyGen : Tbl Nat
  keyFreed : List Nat
  keyFresh : Nat
  conns : Tbl Conn
  erg : List ErgRec
  seqOut : Tbl SeqOut
  seqIn : Tbl SeqIn
  ctl : FabCtl
  fabricPrefix : Nat
  memEtherType : Nat
  udpPort : Nat
  aper : Tbl Nat
  aperBad : Tbl Nat
  selfWaits : List OutMsg
  deriving DecidableEq, Repr

/-! ### Traffic and search unit (11) -/

/-- A frame in an egress queue: its counted length and when it was enqueued. -/
structure QFrame where
  len : Nat
  at' : Nat
  f : Frame
  deriving DecidableEq, Repr

/-- An egress queue (11 R310 to R317): its settings in force and those that wait for the next refill, its bucket, its
frames and those that an engine holds until there is room, its virtual times, its samples and counters. -/
structure Queue where
  weight : Nat
  newWeight : Nat
  qlimit : Nat
  markDepth : Nat
  delayAlarm : Nat
  strict : Bool
  rate : Nat
  burst : Nat
  newRate : Nat
  newBurst : Nat
  tokens : Int
  frames : List QFrame
  waiting : List QFrame
  start : Nat
  last : Nat
  depthLast : Nat
  depthMax : Nat
  depthAvg : Nat
  delayLast : Nat
  delayMax : Nat
  delayAvg : Nat
  drops : Nat
  marked : Nat
  alarmAt : Option Nat
  deriving DecidableEq, Repr

/-- An output: virtual time, shaper, counted bytes sent, and when its line is free. -/
structure Output where
  v : Nat
  overhead : Nat
  rate : Nat
  burst : Nat
  newRate : Nat
  newBurst : Nat
  tokens : Int
  sent : Nat
  freeAt : Nat
  deriving DecidableEq, Repr

structure SRow where
  key : Nat
  mask : Nat
  prio : Nat
  result : Nat
  space : Nat
  deriving DecidableEq, Repr

/-- A content-search entry: the match row, its SRAM copy (none: uncorrectable) and the rewrite mark (11 R321, R323). -/
structure SEntry where
  row : SRow
  copy : Option SRow
  rewrite : Bool
  deriving DecidableEq, Repr

structure Frozen where
  since : Nat
  hold : Nat
  tok : Option Tok
  drained : Bool
  deriving DecidableEq, Repr

/-- An event (11 R334). -/
structure Event where
  time : Nat
  object : Nat
  arg : Nat
  seq : Nat
  status : Nat
  unit : Nat
  kind : Nat
  cause : Nat
  sev : Nat
  deriving DecidableEq, Repr

structure EvQueue where
  entries : List Event
  enable : Bool
  notify : Nat
  spill : Nat
  unitMask : Nat
  minSev : Nat
  irqSev : Nat
  irqGap : Nat
  vec : Nat
  port : Nat
  lost : List Nat
  popIgnored : Nat
  latch : Option Event
  shown : List Nat
  irqDue : Bool
  irqAt : Option Nat
  deriving DecidableEq, Repr

structure Tsu where
  queues : Tbl Queue
  outputs : Tbl Output
  binds : Tbl Nat
  spread : List Nat
  search : Tbl SEntry
  searchGen : Tbl Nat
  spaces : Tbl Nat
  softErrors : Nat
  hardErrors : Nat
  searches : Nat
  updates : Nat
  voidGrants : Nat
  dropped : Nat
  marked : Nat
  arbPtr : Tbl Nat
  took : List Nat
  frozen : Tbl Frozen
  refillAt : Nat
  sampleAt : Nat
  evSeq : Nat
  evq : Tbl EvQueue
  deriving DecidableEq, Repr

/-! ### What the controller sends -/

/-- One thing sent outside the controller. The list `State.out` is the model's own: it records what an observer of the
connectors, the PCIe ports and the fabric sees, oldest first. -/
inductive Sent where
  /-- A posted write to a PCIe port's bus (completions, results, bulletins, notify writes); port 4 is the management
  cores' memory. -/
  | bus (port addr : Nat) (bs : Bytes)
  /-- An MSI-X interrupt. -/
  | msix (port vec : Nat)
  /-- A register or .mem read's answer; `ok` is false for a poisoned completion. -/
  | readAns (src : Src) (ok : Bool) (bs : Bytes)
  /-- A PCIe completion for an erg aperture request: 0 data, 1 poisoned, 2 Completer Abort, 3 Unsupported Request. -/
  | tlp (port tag code : Nat) (bs : Bytes)
  /-- A caravan message. -/
  | cvn (dest : Nat) (m : CvnMsg)
  /-- A landing write under a remote key. -/
  | land (dest key off : Nat) (bs : Bytes)
  /-- A reservation, its answer, its release, or the acknowledgement of a release. -/
  | resv (dest : Nat) (m : ResvMsg)
  | resvAns (dest gid st root key : Nat)
  | resvRelease (dest gid : Nat)
  | resvReleaseAck (dest gid : Nat)
  | homeRelease (dest gid : Nat)
  /-- A forward and its answer; the abort of a request's open step (12 R352); a page loss. -/
  | fwd (dest : Nat) (m : FwdMsg)
  | fwdAns (dest : Nat) (a : FwdAns)
  | stepAbort (dest gid : Nat)
  | pageLoss (dest gid st : Nat) (charged : Bool)
  /-- A Jalnal frame. -/
  | frame (f : Frame)
  /-- A released TSEND, handed to the unit it is for (10 R294); what that unit does with it is a command of its own. -/
  | handed (frm conn : Nat) (bs : Bytes)
  /-- A mirror record. -/
  | mirror (r : MirRec)
  | probe (dest : Nat)
  | probeAns (dest : Nat)
  | claim (dest other : Nat)
  | grantAns (dest : Nat) (granted : Bool)
  | dissolve (dest : Nat)
  /-- The answer to an I3C read (16 R437). -/
  | i3c (v : Nat)
  /-- IPv6 neighbour advertisement for a node address. -/
  | advert (port node : Nat)
  /-- A write of array data at the device range by a remote home's kernel (outputs under O_KEY). -/
  | remoteWrite (dest key off : Nat) (bs : Bytes)
  deriving DecidableEq, Repr

/-! ### Mirror unit (12) -/

inductive PairSt where
  | solo | joining | shadow | paired | broken | takenOver | fenced
  deriving DecidableEq, Repr

inductive LossStage where
  | probing | claiming
  deriving DecidableEq, Repr

structure Loss where
  stage : LossStage
  at' : Nat
  witnesses : List Nat
  grants : List Nat
  deriving DecidableEq, Repr

/-- A report held until the partner has acknowledged `mseq` (12 R347). -/
inductive Report where
  | cpl (c : Cpl)
  | send (x : Sent)
  | bulletin (ring : Nat) (bs : Bytes)
  deriving DecidableEq, Repr

/-- What a CHARGE sent to the partner is for (12 R343, R348): an admission, a caravan commit, a reservation of a remote
owner, a DURABLE bit. -/
inductive ChargeFor where
  | admission (gid : Nat)
  | commit (key : Nat)
  | home (m : ResvMsg)
  | durable (gid : Nat)
  deriving DecidableEq, Repr

structure Held where
  mseq : Nat
  what : Report
  deriving DecidableEq, Repr

/-- A copy of a page of the partner's; `lost` where its generations are not live here (12 R345). -/
structure ShadowPage where
  mask : Nat
  lost : Bool
  cells : List Host.Cell
  deriving DecidableEq, Repr

/-- What this member holds of its partner (12 R345): entries, histories, auxiliary blocks and lists by GLOBAL_ID, caravan
records by sender and CVN_ID, pages by the sender's identifiers. -/
structure Shadow where
  entries : Tbl Entry
  hists : Tbl (List Nat)
  auxs : Tbl Bytes
  caravans : Tbl Bytes
  lists : Tbl PList
  pages : Tbl ShadowPage
  journal : List Bytes
  deriving DecidableEq, Repr

/-- A DURABLE bit being set: the command that waits, or the forward to answer, and the MSEQ of its last page copy, 0 until
the partner's hold is granted (12 R348). -/
structure MirJob where
  tok : Option Tok
  frm : Nat
  fwdId : Nat
  gid : Nat
  mseq : Nat
  deriving DecidableEq, Repr

structure Inject where
  kind : Nat
  addr : Nat
  left : Nat
  until' : Option Nat
  deriving DecidableEq, Repr

structure Mru where
  st : PairSt
  partner : Nat
  cover : Nat
  side : Nat
  promote : Nat
  streak : Nat
  mism : Nat
  copyDone : Bool
  copyMseq : Nat
  joinTok : Option Tok
  joinAt : Nat
  partnerJoined : Bool
  mseqSent : Nat
  mseqAcked : Nat
  mseqApplied : Nat
  miss16 : Nat
  miss17 : Nat
  seen16 : Bool
  seen17 : Bool
  lastBeat : Nat
  beatAt : Nat
  stepAt : Nat
  held : List Held
  deriving DecidableEq, Repr

/-- The stream, what is held for the partner, and the loss procedure. `unacked` are the records sent and not yet
acknowledged; `changed` the requests whose images the present mirror step sent, `steps` the same of the last STEP records;
`lastTag` and `resetDue` tell the receiver where its digest begins; `applyQ` are records received ahead of their turn; `fetches` the pages that the
partner is asked to send back; `grants` the slots and units granted and not yet used,
`heldLists` lists of remote owners that are held. `witness` are the claims granted: a pair, the claimant, when. -/
structure Mru2 where
  shadow : Shadow
  unacked : List MirRec
  changed : List Nat
  steps : List (Nat × List Nat)
  lastTag : Nat
  resetDue : Bool
  digestSent : Nat
  digestRecv : Nat
  heldSlots : Nat
  heldUnits : Nat
  grants : List (Nat × Nat)
  heldLists : List Nat
  loss : Option Loss
  witness : List (Nat × Nat × Nat × Nat)
  aliasCvn : Nat
  aliasLists : List Nat
  applyQ : List MirRec
  sentAt : Nat
  fetches : List Nat
  aliasNode : Nat
  portsMirror : Bool
  dissolvedAt : Option Nat
  inject : List Inject
  resync : Bool
  mirrorJobs : List MirJob
  charges : List (ChargeFor × Nat × Nat)
  closes : List (Nat × Bytes)
  deriving DecidableEq, Repr

/-! ### Plant unit (13, 16) -/

inductive Phase where
  | off | booting | run | powerFail | trip | stopped | standby | test
  deriving DecidableEq, Repr

structure Plant where
  island : Bool
  phase : Phase
  pfAt : Nat
  pfStep : Nat
  vin : Nat
  iin : Nat
  pin : Nat
  pinHist : List Nat
  vstore : Nat
  istore : Int
  tIn : Int
  tOut : Int
  tDie : List Int
  tHbm : List Int
  tach0 : Nat
  tach1 : Nat
  cEst : Nat
  esrEst : Nat
  tested : Bool
  short : Bool
  goodRun : Nat
  overSince : Option Nat
  deriving DecidableEq, Repr

structure Plant2 where
  cap : Nat
  capCeil : Nat
  capAt : Nat
  capActive : Bool
  burst : Bool
  capHalf : Bool
  clampCeil : Tbl Nat
  clampAt : Tbl Nat
  clampHalf : List Nat
  hbmThrottle : List Nat
  tOutTarget : Nat
  tDieTarget : Nat
  tClamp : Nat
  pumpDuty0 : Nat
  pumpDuty1 : Nat
  fwCooling : Bool
  chgEn : Bool
  chgSet : Nat
  dutyNow0 : Nat
  dutyNow1 : Nat
  pumpFault0 : Bool
  pumpFault1 : Bool
  thermFault : Bool
  chgOn : Bool
  chgFull : Bool
  overVmax : Bool
  calmSince : Option Nat
  test : Option (Nat × Nat × Tok)
  standby : Option (Nat × Nat)
  deriving DecidableEq, Repr

/-- The plant cause register (15 R418) and the pins (16 R429 to R438). -/
structure Pins where
  cause : Nat
  nextCause : Nat
  tripSensor : Nat
  trips : List Nat
  tripLock : Bool
  factoryStep : Nat
  restarts : Nat
  pwrGood : Bool
  pwrFail : Bool
  thermTrip : Bool
  ppsUntil : Option Nat
  alert : Bool
  inputSwitch : Bool
  storeSwitch : Bool
  perst : List Nat
  extest : Bool
  deriving DecidableEq, Repr

/-! ### Security and boot unit (14) -/

/-- A verification slot: its public key, x then y, and its USE bits. The bytes kept for slot 0 are not read: its key is the
factory's (14 R400). -/
structure VerKey where
  key : Bytes
  use : Nat
  deriving DecidableEq, Repr

inductive ImgSt where
  | empty | written | verified | confirmed | bad
  deriving DecidableEq, Repr

structure ImgSlot where
  seq : Nat
  st : ImgSt
  tries : Nat
  wptr : Nat
  deriving DecidableEq, Repr

/-- The settings of 14 R393 in force. -/
structure Settings where
  nodeId : Nat
  role : Nat
  portMode : List Nat
  memWindow : List (Nat × Nat)
  rootInbound : List (Nat × Nat)
  apertureTenant : List Nat
  partner : Nat
  fabricPrefix : Nat
  memEtherType : Nat
  udpPort : Nat
  durBase : Nat
  durLen : Nat
  leafPool : Nat
  listBlocks : Nat
  builtin : Bytes
  tOutTarget : Nat
  tDieTarget : Nat
  tClamp : Nat
  pumpCount : Nat
  tachPpr : Nat
  pumpFloor : Nat
  cNominal : Nat
  margin : Nat
  storeVmax : Nat
  chgMax : Nat
  gc : GcCfg
  deriving DecidableEq, Repr

/-- What a pending change of the key area writes (14 R401). -/
inductive KeyChange where
  | setSession (slot : Nat) (k : KeySlot)
  | eraseSession (slot : Nat)
  | setVerify (slot : Nat) (k : VerKey)
  | eraseVerify (slot : Nat)
  deriving DecidableEq, Repr

structure ImgJob where
  which : Nat
  verify : Bool
  off : Nat
  data : Bytes
  erase : Bool
  tok : Tok
  deriving DecidableEq, Repr

structure Sbu where
  nor : List Host.Cell
  verKeys : Tbl VerKey
  minSvn : Nat
  factoryOnce : Bool
  slotA : ImgSlot
  slotB : ImgSlot
  keyAreaSeq : Nat
  factorySet : Settings
  set : Settings
  stage : Nat
  bootDone : Bool
  bootedSlot : Nat
  trial : Bool
  trialBeat : Bool
  bootAt : Nat
  mapRebuiltAt : Nat
  doneAt : Nat
  factorySvn : Nat
  userSvn : Nat
  factoryBad : Nat
  norQuad : Bool
  deriving DecidableEq, Repr

structure Sbu2 where
  verFactory : Bytes
  verUser : Bytes
  verFw : Bytes
  serial : Nat
  factoryFw : Bytes
  fwImage : Bytes
  fwPrev : Bytes
  certChain : Bytes
  builtinImages : List Bytes
  fwLoad : Option (Nat × Tok)
  imgJobs : List ImgJob
  keyJobs : List (KeyChange × Tok)
  resetting : Bool
  deriving DecidableEq, Repr

/-! ### Register space (15) -/

structure Reg where
  flags : Tbl Nat
  flagCount : Tbl Nat
  flagMask : Tbl Nat
  flagVec : Tbl Nat
  flagNotify : Tbl Nat
  flagLast : Tbl Nat
  flagDue : List Nat
  half : Tbl (Nat × Nat)
  msix : Tbl (Tbl Nat)
  pba : Tbl Nat
  deriving DecidableEq, Repr

/-! ### The whole -/

structure State where
  clk : Clk
  hcu : Hcu
  rte : Rte
  cve : Cve
  ppm : Ppm
  tfm : Tfm
  jnl : Jnl
  cdu : Cdu
  cax : Cax
  att : Att
  fbe : Fbe
  tsu : Tsu
  mru : Mru
  mir : Mru2
  plu : Plant
  plc : Plant2
  pin : Pins
  sbu : Sbu
  sec : Sbu2
  reg : Reg
  draws : Nat
  out : List Sent
  pending : List Instr
  deriving DecidableEq, Repr

/-- Why a step ends in a fault. No command of the table stops the controller, so no meaning raises one; the one
constructor is there because the type is asked for. Safe: it is raised nowhere. -/
inductive Fault where
  | none
  deriving DecidableEq, Repr

/-- Why a step is refused. `notModelled` is raised only by an arm of `exec` whose command has no meaning yet. Safe: the
model stops where the hardware goes on. -/
inductive Refusal where
  | notModelled (mnemonic : String)
  deriving DecidableEq, Repr

/-! ### Reset -/

/-- The factory settings of 14 R393. -/
def factorySettings : Settings where
  nodeId := 0xFFFE
  role := 3
  portMode := [2, 0, 0, 0]
  memWindow := [(0, 0), (0, 0), (0, 0), (0, 0)]
  rootInbound := List.replicate 4 (0x0000004000000000, 0x0010000000000000)
  apertureTenant := [0, 0, 0, 0]
  partner := 0xFFFF
  fabricPrefix := 0xFD00000000000000
  memEtherType := 0x88B5
  udpPort := 49512
  durBase := 0
  durLen := 0
  leafPool := 15728640
  listBlocks := 1048576
  builtin :=
    List.replicate 12 0xFF ++ [48, 12, 8, 0] ++ ([0xFF, 0xFF, 0xFF] ++ List.replicate 9 0 ++ [8, 2, 8, 0]) ++
      (List.replicate 12 0xFF ++ [32, 8, 4, 1])
  tOutTarget := 40
  tDieTarget := 85
  tClamp := 100
  pumpCount := 1
  tachPpr := 2
  pumpFloor := 30
  cNominal := 1000
  margin := 16
  storeVmax := 56
  chgMax := 500
  gc := ⟨200, 24, 32, 1024, 384⟩

/-- An internal ring pair (02 R446): 256 entries each way, in the management cores' memory. -/
def internalRing (k : Nat) : Ring where
  owner := 0xFFFF
  port := 4
  base := 65536 + 256 * k
  sqEntries := 256
  cqEntries := 256
  cqBase := 0
  notify := 0
  vec := 0
  irqTime := 0
  irqCount := 1
  head := 0
  tail := 0
  cqTail := 0
  cqHead := 0
  phase := true
  irqPend := 0
  irqFirst := 0
  held := []
  outstanding := []
  waiting := none
  pended := []
  fetching := true
  dying := false
  work := false

/-- The admin ring of port 0, which the factory settings make an ENDPOINT (02 R30): its 64 entries stand at the foot of the
port's quarter, and it takes commands once ADMIN_CTRL enables it. -/
def adminRing (p : Nat) : Ring :=
  { internalRing 0 with port := p, base := 64 * p, sqEntries := 64, cqEntries := 64, fetching := false }

/-- Event queue 0 at reset (11 R337). -/
def evq0 : EvQueue where
  entries := []
  enable := true
  notify := 0
  spill := 1024
  unitMask := 0xFFF
  minSev := 3
  irqSev := 0
  irqGap := 0
  vec := 0
  port := 0
  lost := [0, 0, 0, 0]
  popIgnored := 0
  latch := none
  shown := []
  irqDue := false
  irqAt := none

def emptyShadow : Shadow := ⟨[], [], [], [], [], [], []⟩

/-- The controller right after reset: every register at its reset value, nothing in any table, boot under way (14 R397,
15 R409: configuration space ready, BOOT_DONE 0). -/
def State.reset : State where
  clk := ⟨0, false, false, false, 0, 0, none, false, ⟨0, 0, 0, 0, 0, 0, 0⟩, 0⟩
  hcu :=
    { keySlots := [(0, ⟨List.replicate 32 0, .maintenance, 0, 0, none⟩)]
      sessions := [], sessGen := []
      rings := (0, adminRing 0) :: (List.range 16).map fun k => (256 + k, internalRing k)
      adminRegs := [], seqs := [], ringMem := [], fwMem := [], fwMemLen := 0x1000000
      role := 3, pendingRole := 0, roleTok := none, roleStatus := 0 }
  rte :=
    { slots := [], slotGen := [], freed := [], fresh := 0, returned := [], heldSlots := [], originSeq := 0, markEnd := 0, markAsked := 0
      classRows := [], tenantRows := [], resv := [], histUnits := [], homeWaits := [], markWaits := [], releases := [], lingerMs := 10
      beatAt := 0, lapsed := true, beats := 0, beatsSince := 0, lapseTold := false }
  cve :=
    { recs := [], ended := [], nextId := 1, landing := [], timers := ⟨200, 500, 40, 100, 1000⟩, badHeaders := 0
      epochs := [], drainEnd := 0, selfLost := false }
  ppm :=
    { pages := [], lists := [], plists := [], nodes := [], heads := [], nodeGen := [], reclaim := [], tailCopies := 0, lostCount := 0
      fwds := [], nextFwd := 0, prefixCap := 262144, objectCap := 1048576, objectFlashCap := 2097152
      serviceFloor := 131072, staging := 32768 }
  tfm :=
    { hbm := [], flash := [], mediaLost := [], poison := [], map := [], extTenant := [], ctl := ⟨10, 20, 3, 100, 25, 400⟩
      bands := [], blocks := [], dies := [], moves := [], jobs := [], parks := [], reads := [], nextId := 0
      gc := ⟨200, 24, 32, 1024, 384⟩, stacksLost := [], rebuilding := false, leafPool := 15728640
      listBlocks := 1048576, scrub := none, heatAt := 0, writesOff := false, memWin := [], hints := [] }
  jnl :=
    { buf := [], flight := [], done := [], seq := 1, committed := 0, firstAt := 0, ckpt := [], ckptPend := [], durBase := 0, durLen := 0
      saveA := none, saveB := none, saveSeq := 0, saving := false, saveTok := none, durRestored := false
      pages := [], pageSeq := 0, ckptPos := 0 }
  cdu := ⟨[], 0, [], 0⟩
  cax :=
    { arrays := [], kernels := [], kernelGen := [], ctxs := [], ctxGen := [], locals := [], badLocal := [], threads := []
      ctl := ⟨150, 3, true, 8, 50, 4096⟩, sched := ⟨0, false, []⟩, schedNext := none, tests := [], builtins := false }
  att := ⟨[], [], [], [], 100, []⟩
  fbe :=
    { ports := [], keys := [], keyGen := [], keyFreed := [], keyFresh := 1, conns := [], erg := [], seqOut := []
      seqIn := [], ctl := ⟨200, 100, 8, 20, 16, 5, 50, 10⟩, fabricPrefix := 0xFD00000000000000
      memEtherType := 0x88B5, udpPort := 49512, aper := [], aperBad := [], selfWaits := [] }
  tsu :=
    { queues := [], outputs := [], binds := [], spread := [], search := [], searchGen := [], spaces := [], softErrors := 0
      hardErrors := 0, searches := 0, updates := 0, voidGrants := 0, dropped := 0, marked := 0, arbPtr := [], took := []
      frozen := [], refillAt := 0, sampleAt := 0, evSeq := 0, evq := [(0, evq0)] }
  mru :=
    { st := .solo, partner := 0xFFFF, cover := 0, side := 0, promote := 0, streak := 0, mism := 0, copyDone := false
      copyMseq := 0, joinTok := none, joinAt := 0, partnerJoined := false, mseqSent := 0, mseqAcked := 0
      mseqApplied := 0, miss16 := 0, miss17 := 0, seen16 := false, seen17 := false, lastBeat := 0, beatAt := 0
      stepAt := 0, held := [] }
  mir :=
    { shadow := emptyShadow, unacked := [], changed := [], steps := [], lastTag := 0, resetDue := true
      digestSent := 0, digestRecv := 0, heldSlots := 0, heldUnits := 0, grants := [], heldLists := []
      loss := none, witness := [], aliasCvn := 1, aliasLists := [], applyQ := []
      sentAt := 0, fetches := [], aliasNode := 0xFFFF, portsMirror := false, dissolvedAt := none
      inject := [], resync := false, mirrorJobs := [], charges := [], closes := [] }
  plu :=
    { island := true, phase := .booting, pfAt := 0, pfStep := 0, vin := 0, iin := 0, pin := 0, pinHist := []
      vstore := 0, istore := 0, tIn := 0, tOut := 0, tDie := List.replicate 12 0, tHbm := List.replicate 12 0
      tach0 := 0, tach1 := 0, cEst := 1000, esrEst := 0, tested := false, short := false, goodRun := 0
      overSince := none }
  plc :=
    { cap := 1650, capCeil := 1600, capAt := 0, capActive := false, burst := false, capHalf := false, clampCeil := []
      clampAt := [], clampHalf := [], hbmThrottle := [], tOutTarget := 40, tDieTarget := 85, tClamp := 100
      pumpDuty0 := 100, pumpDuty1 := 100, fwCooling := false, chgEn := true, chgSet := 1000, dutyNow0 := 100
      dutyNow1 := 100, pumpFault0 := false, pumpFault1 := false, thermFault := false, chgOn := false, chgFull := false, overVmax := false, calmSince := none, test := none
      standby := none }
  pin :=
    { cause := 1, nextCause := 1, tripSensor := 0xFF, trips := [], tripLock := false, factoryStep := 0, restarts := 0
      pwrGood := false, pwrFail := false, thermTrip := false, ppsUntil := none, alert := false
      inputSwitch := true, storeSwitch := false, perst := [], extest := false }
  sbu :=
    { nor := [], verKeys := [(0, ⟨[], 7⟩)], minSvn := 0, factoryOnce := false, slotA := ⟨0, .empty, 0, 0⟩
      slotB := ⟨0, .empty, 0, 0⟩, keyAreaSeq := 0, factorySet := factorySettings, set := factorySettings, stage := 6
      bootDone := false, bootedSlot := 0, trial := false, trialBeat := false, bootAt := 0, mapRebuiltAt := 0, doneAt := 0
      factorySvn := 0, userSvn := 0, factoryBad := 0, norQuad := true }
  sec :=
    { verFactory := List.replicate 32 0, verUser := List.replicate 32 0, verFw := List.replicate 32 0, serial := 0
      factoryFw := [], fwImage := [], fwPrev := [], certChain := [], builtinImages := (List.range 3).map Config.builtinImage, fwLoad := none, imgJobs := []
      keyJobs := [], resetting := false }
  reg := ⟨[], [], [], [], [], [], [], [], [], []⟩
  draws := 0
  out := []
  pending := []

end Sys2Proof.Machine
end

