-- ==== Sys2Proof/Machine/Ops.lean ====
section
/-! DEFINITION. The named operations every command shares: sending, flags, interrupts, events, completions, sessions, and
the fetch and check of a host command (02 R29 to R56, R445 to R447; 11 R334 to R337; 15 R411, R412). -/

namespace Sys2Proof.Machine

/-! ### Status codes (02 R51) -/

def St.ok : Nat := 0x0000
def St.pending : Nat := 0x0001
def St.authFail : Nat := 0x0101
def St.sessionClosed : Nat := 0x0102
def St.privilege : Nat := 0x0103
def St.sequence : Nat := 0x0104
def St.badOpcode : Nat := 0x0201
def St.lengthRange : Nat := 0x0202
def St.fieldRange : Nat := 0x0203
def St.busy : Nat := 0x0204
def St.state : Nat := 0x0205
def St.notFound : Nat := 0x0206
def St.noCapacity : Nat := 0x0301
def St.expired : Nat := 0x0302
def St.epochStale : Nat := 0x0303
def St.staleTag : Nat := 0x0304
def St.accessViolation : Nat := 0x0305
def St.dataCheck : Nat := 0x0401
def St.codecOverrun : Nat := 0x0402
def St.codecUnderrun : Nat := 0x0403
def St.tableGone : Nat := 0x0404
def St.peerLost : Nat := 0x0501
def St.mediaFail : Nat := 0x0502

/-! ### Units, kinds and causes of events (11 R334) -/

def Un.hcu : Nat := 1
def Un.rte : Nat := 2
def Un.cve : Nat := 3
def Un.ppm : Nat := 4
def Un.tfm : Nat := 5
def Un.cdu : Nat := 6
def Un.cax : Nat := 7
def Un.fbe : Nat := 8
def Un.tsu : Nat := 9
def Un.mru : Nat := 10
def Un.plu : Nat := 11
def Un.sbu : Nat := 12

def Ek.none : Nat := 0
def Ek.request : Nat := 1
def Ek.caravan : Nat := 2
def Ek.address : Nat := 3
def Ek.port : Nat := 4
def Ek.array : Nat := 5
def Ek.flash : Nat := 6
def Ek.ring : Nat := 7
def Ek.key : Nat := 8
def Ek.search : Nat := 9
def Ek.queue : Nat := 10
def Ek.epoch : Nat := 11
def Ek.codec : Nat := 12
def Ek.sensor : Nat := 13
def Ek.arbiter : Nat := 14
def Ek.device : Nat := 15

def Ec.threshold : Nat := 1
def Ec.stateChange : Nat := 2
def Ec.corrected : Nat := 3
def Ec.uncorrected : Nat := 4
def Ec.timeout : Nat := 5
def Ec.refused : Nat := 6
def Ec.loss : Nat := 7
def Ec.config : Nat := 8
def Ec.peerReport : Nat := 9

/-! ### Small things -/

/-- Present device time in ns (00 R9). -/
def now (s : State) : Nat := s.clk.now

def ms : Nat := 1000000
def us : Nat := 1000

/-- This controller's node identifier. -/
def me (s : State) : Nat := s.sbu.set.nodeId

/-- Port modes in force (01 R16): 0 DISABLED, 1 ROOT, 2 ENDPOINT. -/
def portMode (s : State) (p : Nat) : Nat := s.sbu.set.portMode.getD p 0

/-- Send one thing outside. -/
def emit (s : State) (x : Sent) : State := { s with out := s.out ++ [x] }

/-- Interrupt a port: MSI-X where it is an ENDPOINT, a 32-bit write where it is a ROOT (02 R37, 15 R412, 11 R337). -/
def irqPort (s : State) (p vec addr word : Nat) : State :=
  if portMode s p = 2 then emit s (.msix p vec)
  else if portMode s p = 1 then emit s (.bus p addr (leBytes 4 word)) else s

/-! ### Flags (15 R411, R412) -/

def Fl.sev0 : Nat := 0
def Fl.bootDone : Nat := 1
def Fl.roleChange : Nat := 2
def Fl.pairChange : Nat := 3
def Fl.epochChange : Nat := 4
def Fl.fwLapse : Nat := 5
def Fl.storeShort : Nat := 6
def Fl.thermal : Nat := 7
def Fl.pumpFault : Nat := 8
def Fl.arrayState : Nat := 9
def Fl.portState : Nat := 10
def Fl.doorbellErr : Nat := 11
def Fl.regErr : Nat := 12

/-- The interrupt of a set of a masked flag: at once, or at the end of the 10 µs gap. -/
def flagIrq (s : State) (p : Nat) : State :=
  let due := match Tbl.get s.reg.flagLast p with
    | none => true
    | some t => decide (t + 10 * us ≤ now s)
  if due then
    irqPort { s with reg := { s.reg with flagLast := Tbl.set s.reg.flagLast p (now s) } } p (Tbl.getD s.reg.flagVec p 0)
      (Tbl.getD s.reg.flagNotify p 0) (Tbl.getD s.reg.flags p 0)
  else { s with reg := { s.reg with flagDue := if s.reg.flagDue.contains p then s.reg.flagDue else s.reg.flagDue ++ [p] } }

/-- A hardware set of flag k in port p's copy. -/
def setFlagOn (k : Nat) (s : State) (p : Nat) : State :=
  let s1 := { s with reg := { s.reg with flags := Tbl.set s.reg.flags p (Tbl.getD s.reg.flags p 0 ||| 2 ^ k) } }
  if bit (Tbl.getD s.reg.flagMask p 0) k then flagIrq s1 p else s1

def countFlag (s : State) (k : Nat) : State :=
  { s with reg := { s.reg with
      flagCount := Tbl.set s.reg.flagCount k ((Tbl.getD s.reg.flagCount k 0 + 1) % 2 ^ 64) } }

/-- A hardware set of flag k on all ports. -/
def setFlag (s : State) (k : Nat) : State := [0, 1, 2, 3].foldl (setFlagOn k) (countFlag s k)

/-- A hardware set of a flag of the writing port alone. A management core has no copy. -/
def setSrcFlag (s : State) (src : Src) (k : Nat) : State :=
  match src with
  | .pcie p => setFlagOn k (countFlag s k) p
  | .core => s

/-! ### Events (11 R334 to R337) -/

/-- Entries a queue holds (11 R335). -/
def evCap (q : EvQueue) : Nat := 128 + 1024 * q.spill

/-- Whether queue `i` takes an event: queue 0 all, another those its configuration accepts. -/
def evAccepts (i : Nat) (q : EvQueue) (e : Event) : Bool :=
  i == 0 || (q.enable && bit q.unitMask (e.unit - 1) && decide (e.sev ≤ q.minSev))

/-- Count one lost entry. -/
def evLose (q : EvQueue) (sev : Nat) : EvQueue :=
  { q with lost := q.lost.set sev ((q.lost.getD sev 0 + 1) % 2 ^ 32) }

/-- Place an event; when the queue is full it overwrites the oldest entry of any severity. -/
def evPlace (q : EvQueue) (e : Event) : EvQueue :=
  if q.entries.length < evCap q then { q with entries := q.entries ++ [e] }
  else match q.entries with
    | [] => evLose q e.sev
    | old :: rest => evLose { q with entries := rest ++ [e] } old.sev

/-- The interrupt of a queue of host software, at once or due at the end of its gap. -/
def evIrq (s : State) (i : Nat) (q : EvQueue) : State :=
  let due := match q.irqAt with
    | none => true
    | some t => decide (t + q.irqGap * us ≤ now s)
  let put (q' : EvQueue) : State := { s with tsu := { s.tsu with evq := Tbl.set s.tsu.evq i q' } }
  if due then irqPort (put { q with irqAt := some (now s), irqDue := false }) q.port q.vec q.notify q.entries.length
  else put { q with irqDue := true }

/-- Place an event in one queue. -/
def evInto (e : Event) (s : State) (i : Nat) : State :=
  match Tbl.get s.tsu.evq i with
  | none => s
  | some q =>
    if evAccepts i q e then
      let q1 := evPlace q e
      if i != 0 && decide (e.sev ≤ q.irqSev) then evIrq s i q1
      else { s with tsu := { s.tsu with evq := Tbl.set s.tsu.evq i q1 } }
    else s

/-- Post an event: it takes the next EVSEQ and the present device time, and goes into every accepting queue. A
severity-0 event sets its flag and ALERT (16 R437). -/
def post (s : State) (unit kind cause sev st object arg : Nat) : State :=
  let e : Event := ⟨now s, object, arg, s.tsu.evSeq, st, unit, kind, cause, sev⟩
  let s1 := { s with tsu := { s.tsu with evSeq := (s.tsu.evSeq + 1) % 2 ^ 32 } }
  let s2 := [0, 1, 2, 3, 4, 5, 6, 7].foldl (evInto e) s1
  if sev = 0 then setFlag { s2 with pin := { s2.pin with alert := true } } Fl.sev0 else s2

/-- The object form of a ring or session (11 R450). -/
def objRing (sess ring : Nat) : Nat := sess <<< 16 ||| ring

/-- The object form of a caravan (11 R450). -/
def objCaravan (src cvn : Nat) : Nat := src <<< 32 ||| cvn

/-- The object form of a key or connection (11 R450). -/
def objKey (peer conn key : Nat) : Nat := peer <<< 48 ||| conn <<< 32 ||| key

/-! ### Completions (02 R35 to R38, R47) -/

/-- The 32-byte completion entry. SQID of internal ring k is k (DESIGN CHOICE, entry 43). -/
def cplEntry (R : Ring) (c : Cpl) : Bytes :=
  leBytes 32 (c.tok.cid ||| c.st <<< 16 ||| c.tok.sqHead <<< 32 ||| (c.tok.ring % 256) <<< 48 ||| b2n c.final <<< 56
    ||| b2n R.phase <<< 63 ||| c.r0 <<< 64 ||| c.result.length <<< 128 ||| c.detail <<< 160 ||| c.time <<< 192)

/-- Completion ring full (02 R36). -/
def cqFull (R : Ring) : Bool := (R.cqTail + 1) % R.cqEntries == R.cqHead

def setRing (s : State) (r : Nat) (R : Ring) : State := { s with hcu := { s.hcu with rings := Tbl.set s.hcu.rings r R } }

/-- A dying ring goes once the last completion of its started commands is written (02 R54); an admin ring that ENABLE has
stopped returns to its start then (15 R413). -/
def reapRing (s : State) (r : Nat) : State :=
  match Tbl.get s.hcu.rings r with
  | none => s
  | some R =>
    if R.dying && R.outstanding.isEmpty && R.held.isEmpty then
      { s with hcu := { s.hcu with rings := Tbl.del s.hcu.rings r } }
    else if r < 4 && !R.fetching && R.outstanding.isEmpty && R.held.isEmpty && R.waiting.isNone then
      setRing s r { R with head := 0, tail := 0, cqTail := 0, cqHead := 0, phase := true, irqPend := 0 }
    else s

/-- Count a completion toward the ring's interrupt (02 R37). -/
def cplIrq (s : State) (r : Nat) (noIrq : Bool) : State :=
  match Tbl.get s.hcu.rings r with
  | none => s
  | some R =>
    if noIrq then s
    else
      let n := R.irqPend + 1
      let first := if R.irqPend = 0 then now s else R.irqFirst
      if R.irqCount ≤ n || R.irqTime == 0 then
        irqPort (setRing s r { R with irqPend := 0, irqFirst := first }) R.port R.vec R.notify R.cqTail
      else setRing s r { R with irqPend := n, irqFirst := first }

/-- Result data of an internal ring's command stands in the firmware memory (02 R446). -/
def putResult (r addr : Nat) (bs : Bytes) (s : State) : State :=
  if r < 256 then s else { s with hcu := { s.hcu with fwMem := memPut s.hcu.fwMem addr bs } }

/-- Write a completion into its ring, result data first. -/
def writeCpl (s : State) (R : Ring) (c : Cpl) : State :=
  let r := c.tok.ring
  let s1 := if c.result.isEmpty then s else putResult r c.tok.resAddr c.result (emit s (.bus R.port c.tok.resAddr c.result))
  let s2 := emit s1 (.bus R.port (R.cqBase + 32 * R.cqTail) (cplEntry R c))
  let t := (R.cqTail + 1) % R.cqEntries
  let R1 := { R with
    cqTail := t, phase := if t = 0 then !R.phase else R.phase
    outstanding := if c.final then R.outstanding.erase c.tok.cid else R.outstanding
    pended := if c.final then R.pended.erase c.tok else R.pended }
  reapRing (cplIrq (setRing s2 r R1) r c.tok.noIrq) r

/-- Deliver a completion: into its ring, or into internal storage while the ring is full (02 R36). -/
def deliverCpl (s : State) (c : Cpl) : State :=
  match Tbl.get s.hcu.rings c.tok.ring with
  | none => s
  | some R => if cqFull R || !R.held.isEmpty then setRing s c.tok.ring { R with held := R.held ++ [c] } else writeCpl s R c

/-- Write the completions held for a full ring as far as there is room. -/
def flushHeld (r : Nat) : Nat → State → State
  | 0, s => s
  | n + 1, s =>
    match Tbl.get s.hcu.rings r with
    | none => s
    | some R =>
      match R.held with
      | [] => s
      | c :: rest => if cqFull R then s else flushHeld r n (writeCpl (setRing s r { R with held := rest }) { R with held := rest } c)

/-- JOINING and PAIRED mirror changes to the partner (12 R347). -/
def mirroring (s : State) : Bool := s.mru.st == .joining || s.mru.st == .paired

/-- Report a completion outside the controller: at once, or held, unsettled until the step ends, while a partner mirrors
(12 R347). -/
def reportCpl (s : State) (c : Cpl) : State :=
  if mirroring s then { s with mru := { s.mru with held := s.mru.held ++ [⟨0, .cpl c⟩] } } else deliverCpl s c

/-- Session index and generation of an identifier (02 R42). -/
def sessIdx (id : Nat) : Nat := id % 64
def sessGenOf (id : Nat) : Nat := id / 64

/-- The session an identifier names, open or challenged. -/
def findSess (s : State) (id : Nat) : Option Session :=
  match Tbl.get s.hcu.sessions (sessIdx id) with
  | some x => if x.gen = sessGenOf id then some x else none
  | none => none

/-- A command's session still stands; an internal ring has none to close. -/
def tokLive (s : State) (t : Tok) : Bool := decide (256 ≤ t.ring) || (findSess s t.sess).isSome

/-- A command of an open session has returned ST_PENDING. -/
def markPended (s : State) (t : Tok) : State :=
  match Tbl.get s.hcu.rings t.ring with
  | none => s
  | some R => if tokLive s t then setRing s t.ring { R with pended := R.pended ++ [t] } else s

/-- Complete a command now. -/
def complete (s : State) (t : Tok) (st r0 detail : Nat) (result : Bytes) (final : Bool) : State :=
  reportCpl (if final then s else markPended s t) ⟨now s, detail % 2 ^ 32, r0 % 2 ^ 64, final, t, st, result⟩

/-- Drop a command that had returned ST_PENDING when its session closed: its final completion is discarded (02 R47). -/
def discard (s : State) (t : Tok) : State :=
  match Tbl.get s.hcu.rings t.ring with
  | none => s
  | some R => reapRing (setRing s t.ring { R with outstanding := R.outstanding.erase t.cid, pended := R.pended.erase t }) t.ring

/-- The final completion of a command answered earlier with ST_PENDING, or still to be answered; a created ring that has gone
takes none. -/
def finish (s : State) (t : Tok) (st r0 detail : Nat) (result : Bytes := []) : State :=
  match Tbl.get s.hcu.rings t.ring with
  | none => s
  | some R =>
    if 4 ≤ t.ring && t.ring < 256 && R.owner != t.sess then s
    else if !tokLive s t && R.pended.contains t then discard s t
    else complete s t st r0 detail result true

/-- The same where there may be no command to answer. -/
def finishOpt (s : State) (t : Option Tok) (st r0 detail : Nat) (result : Bytes := []) : State :=
  match t with
  | none => s
  | some t => finish s t st r0 detail result

/-! ### The command header (02 R39) -/

def hOpcode (h : Nat) : Nat := bits h 15 0
def hFence (h : Nat) : Bool := bit h 16
def hNoIrq (h : Nat) : Bool := bit h 17
def hSession (h : Nat) : Nat := bits h 47 32
def hCid (h : Nat) : Nat := bits h 63 48
def hSeq (h : Nat) : Nat := bits h 95 64
def hPayAddr (h : Nat) : Nat := bits h 191 128
def hPayLen (h : Nat) : Nat := bits h 223 192
def hResLen (h : Nat) : Nat := bits h 255 224
def hResAddr (h : Nat) : Nat := bits h 319 256
def hTarget (h : Nat) : Nat := bits h 383 320
def hTag (h : Nat) : Nat := bits h 511 384

/-- What a command is answered by; `R` is its ring before the fetch. -/
def mkTok (r : Nat) (R : Ring) (h : Nat) : Tok :=
  ⟨r, hCid h, (R.head + 1) % R.sqEntries, if r < 256 then hSession h else 0xFFFF, hNoIrq h, hResAddr h⟩

/-! ### Closing a session and destroying a ring (02 R47, R54) -/

/-- A ring stops fetching and is destroyed once the completions of its started commands are written; one that FENCE held back
has not started and goes with the ring (DEDUCED, entry 17). -/
def destroyRing (s : State) (r : Nat) : State :=
  match Tbl.get s.hcu.rings r with
  | none => s
  | some R => reapRing (setRing s r { R with fetching := false, dying := true, waiting := none }) r

/-- A ring as it stood before the fetch of the command that FENCE holds back. -/
def unfetched (R : Ring) : Ring := { R with head := (R.head + R.sqEntries - 1) % R.sqEntries, waiting := none }

/-- The command that FENCE holds back starts, or ends unstarted: it is among the ring's outstanding ones. -/
def released (s : State) (r : Nat) (R : Ring) (h : Nat) : State :=
  setRing s r { R with waiting := none, outstanding := R.outstanding ++ [hCid h] }

/-- A fetched command of a closing session that has not started completes with ST_SESSION_CLOSED. -/
def closeWaiting (id : Nat) (s : State) (kv : Nat × Ring) : State :=
  match kv.2.waiting with
  | none => s
  | some h =>
    if kv.1 < 256 && !kv.2.work && hSession h == id then
      complete (released s kv.1 kv.2 h) (mkTok kv.1 (unfetched kv.2) h) St.sessionClosed 0 0 [] true
    else s

/-- A session's ring goes at once but for completions of commands that have not returned ST_PENDING. -/
def closeRing (s : State) (r : Nat) : State :=
  match Tbl.get s.hcu.rings r with
  | none => s
  | some R => destroyRing (setRing s r { R with
      outstanding := R.outstanding.filter fun c => !R.pended.any fun t => t.cid == c, pended := [] }) r

/-- Stop fetching a work ring; its connection closes as by CONN_CLOSE without ABORT (10 R292). -/
def stopWork (s : State) (r : Nat) : State :=
  { s with
    hcu := { s.hcu with rings := Tbl.upd s.hcu.rings r fun R => { R with fetching := false } }
    fbe := { s.fbe with conns := Tbl.map s.fbe.conns fun _ c => if c.ring = r then { c with st := .closing } else c } }

/-- Close the session at an index: its generation advances, what it has fetched and not started completes, its created rings go
and its connections close. -/
def closeSession (s : State) (i : Nat) : State :=
  match Tbl.get s.hcu.sessions i with
  | none => s
  | some x =>
    let id := i + 64 * x.gen
    let s1 := { s with hcu := { s.hcu with
      sessions := Tbl.del s.hcu.sessions i
      sessGen := Tbl.set s.hcu.sessGen i ((x.gen + 1) % 1023)
      seqs := s.hcu.seqs.filter fun kv => kv.1 / 512 != i } }
    (s.hcu.rings.filter fun kv => kv.2.owner == id && decide (4 ≤ kv.1) && decide (kv.1 < 256)).foldl
      (fun a kv => if kv.2.work then stopWork a kv.1 else closeRing a kv.1) (s.hcu.rings.foldl (closeWaiting id) s1)

/-! ### Opcodes (02 R56) -/

/-- The opcodes of the index. -/
def opcodes : List Nat :=
  [0x0101, 0x0102, 0x0103, 0x0110, 0x0111, 0x0130,
   0x0201, 0x0202, 0x0203, 0x0204, 0x0205, 0x0206, 0x0207, 0x0208, 0x0209, 0x020A,
   0x0301, 0x0302, 0x0303, 0x0310, 0x0311] ++
  [0x0401, 0x0402, 0x0403, 0x0404, 0x0405, 0x0410, 0x0411, 0x0412, 0x0420, 0x0430,
   0x0501, 0x0502, 0x0503, 0x0504, 0x0510, 0x0511, 0x0512,
   0x0601, 0x0602, 0x0603, 0x0604, 0x0605, 0x0606, 0x0607, 0x0608] ++
  [0x0701, 0x0702, 0x0710, 0x0711, 0x0712, 0x0720, 0x0721, 0x0722,
   0x0801, 0x0802, 0x0803, 0x0810, 0x0811, 0x0812, 0x0820, 0x0821, 0x0830,
   0x0901, 0x0902, 0x0910, 0x0911, 0x0920, 0x0921, 0x0930, 0x0940] ++
  [0x0A01, 0x0A02, 0x0A03, 0x0A10, 0x0A11, 0x0A12, 0x0A20, 0x0A30,
   0x0B01, 0x0B02, 0x0B03, 0x0B04, 0x0B05, 0x0C01, 0x0C02, 0x0C03, 0x0C04, 0x0C05,
   0x0D01, 0x0D02, 0x0D03, 0x0D10, 0x0D11, 0x0D12, 0x0D20, 0x0D30,
   0x0E01, 0x0E10, 0x0E11, 0x0E12, 0x0E20]

def knownOp (op : Nat) : Bool := opcodes.contains op

/-- An opcode is accepted in a role (01 R15): 0x0801 to 0x0821 are not, in PREFILL. -/
def roleAllows (role op : Nat) : Bool := !(role == 1 && decide (0x0801 ≤ op) && decide (op ≤ 0x0821))

/-- An opcode is carried by a ring (02 R30). -/
def ringAllows (r op : Nat) : Bool :=
  if r < 4 then op / 256 == 1 else !(op == 0x0101 || op == 0x0102 || op == 0x0110)

/-! ### Fetch and check of a host command (02 R30 to R34, R40, R44 to R50, R446) -/

/-- A command as its meaning sees it, after steps 1 to 8 of R50. -/
structure Cmd where
  ring : Nat
  port : Nat
  hdr : Nat
  pay : Bytes
  priv : Priv
  tenant : Nat
  sess : Nat
  tok : Tok
  deriving DecidableEq, Repr

/-- What a meaning answers: a status (none: it is answered later), RESULT0, DETAIL and the result data. -/
structure Ans where
  st : Option Nat
  r0 : Nat := 0
  detail : Nat := 0
  result : Bytes := []
  deriving DecidableEq, Repr

abbrev Meaning := Cmd → State → Except Ans (Ans × State)

/-- The byte address of slot `i` of a ring in the ring region, or beyond it for an internal ring. -/
def slotAddr (R : Ring) (i : Nat) : Nat := 64 * (R.base + i)

/-- The header in the ring's head slot. -/
def slotHeader (s : State) (R : Ring) : Nat := leNat (memReadN s.hcu.ringMem (slotAddr R R.head) 64)

/-- The fast clocks run (13 R382): not with the rails off, nor in deep standby. -/
def clocked (s : State) : Bool :=
  s.plu.phase == .booting || s.plu.phase == .run || s.plu.phase == .test || s.plu.phase == .powerFail

/-- Fabric and PCIe links are down in a power-fail sequence (13 R369). -/
def linksOff (s : State) : Bool := s.plu.phase == .powerFail && decide (4 ≤ s.plu.pfStep)

/-- .mem and fabric writes are discarded in a power-fail sequence (13 R369, 06 R163). -/
def writesDead (s : State) : Bool := s.plu.phase == .powerFail && decide (2 ≤ s.plu.pfStep)

/-- Ports carry traffic: boot is done and the links are not down. -/
def portsOpen (s : State) : Bool := s.sbu.bootDone && clocked s && !linksOff s

/-- The controller takes commands: boot done (14 R397), or firmware started for an internal ring; power sound. -/
def serving (s : State) (r : Nat) : Bool :=
  clocked s && !linksOff s && !s.sec.resetting &&
    (if r < 256 then s.sbu.bootDone else decide (7 ≤ s.sbu.stage) && match s.sec.fwLoad with
      | none => true
      | some (t, _) => decide (t + ms ≤ now s))

/-- The ring has a slot that may be fetched now: not empty, fetching, its completion ring not full, no fetched command or
descriptor waiting to start (02 R32, R36). -/
def standing (s : State) (r : Nat) (R : Ring) : Bool :=
  serving s r && R.fetching && !R.dying && R.waiting.isNone && R.head != R.tail && !cqFull R && R.held.isEmpty

/-- The arbiter in front of a ring's fetch (11 R332). -/
def ringArb (r : Nat) (R : Ring) : Nat := if r < 256 then R.port else 4

/-- How far a ring stands behind its arbiter's pointer. -/
def arbRank (s : State) (r : Nat) (R : Ring) : Nat :=
  let n := if r < 256 then 256 else 16
  (r % 256 + n - Tbl.getD s.tsu.arbPtr (ringArb r R) 0) % n

/-- The arbiter grants this ring: it stands, the arbiter is not frozen, and no standing ring of the arbiter is nearer the
pointer (11 R329, R331). -/
def granted (s : State) (r : Nat) (R : Ring) : Bool :=
  standing s r R && !Tbl.has s.tsu.frozen (ringArb r R) &&
    s.hcu.rings.all fun kv =>
      !(ringArb kv.1 kv.2 == ringArb r R && (decide (kv.1 < 256)) == (decide (r < 256)) && standing s kv.1 kv.2 &&
        decide (arbRank s kv.1 kv.2 < arbRank s r R))

/-- An arbiter's grant: its pointer moves, and the step has taken it. -/
def took (s : State) (arb ptr : Nat) : Tsu := { s.tsu with arbPtr := Tbl.set s.tsu.arbPtr arb ptr, took := arb :: s.tsu.took }

/-- A void grant: nothing issues, the pointer moves past the requester (11 R330). -/
def voidGrant (s : State) (arb ptr : Nat) : State :=
  { s with tsu := { s.tsu with
    arbPtr := Tbl.set s.tsu.arbPtr arb ptr, voidGrants := (s.tsu.voidGrants + 1) % 2 ^ 64 } }

/-- The pointer past a ring. -/
def pastRing (r : Nat) : Nat := (r % 256 + 1) % if r < 256 then 256 else 16

/-- A ring's request falls in a step that does not grant it, though its arbiter was about to: a void grant. A controller that
stops serving grants nothing. -/
def fallsVoid (s0 s1 : State) (r : Nat) (R : Ring) : Bool :=
  Tbl.get s1.hcu.rings r != some R && granted s0 r R && serving s1 r && !s1.tsu.took.contains (ringArb r R) &&
    match Tbl.get s1.hcu.rings r with
    | none => true
    | some Q => !standing s1 r Q

/-- The void grants of a step, and its grants no longer kept. -/
def voidFalls (s0 s1 : State) : State :=
  let s2 := (s0.hcu.rings.filter fun kv => fallsVoid s0 s1 kv.1 kv.2).foldl
    (fun a kv => voidGrant a (ringArb kv.1 kv.2) (pastRing kv.1)) s1
  { s2 with tsu := { s2.tsu with took := [] } }

/-- Fetch: the head moves past the slot, the arbiter's pointer past the ring, and the command is outstanding. -/
def fetched (s : State) (r : Nat) (R : Ring) (h : Nat) : State :=
  { s with
    hcu := { s.hcu with rings := Tbl.set s.hcu.rings r { R with
      head := (R.head + 1) % R.sqEntries, outstanding := R.outstanding ++ [hCid h] } }
    tsu := took s (ringArb r R) (pastRing r) }

/-- A rejection: status, DETAIL, and the state with the bookkeeping that a rejection does (02 R52). -/
abbrev Rej := Nat × Nat × State

def rej {α : Type} (b : Bool) (st det : Nat) (s : State) (k : Except Rej α) : Except Rej α :=
  if b then .error (st, det, s) else k

def isHello (h : Nat) : Bool := hOpcode h == 0x0101
def isProve (h : Nat) : Bool := hOpcode h == 0x0102

/-- Step 1 of R50, in the form it has for SESS_PROVE too; a proof on another ring, or later than 100 ms, frees the
index (R44). A command of an internal ring is of no session, and its SESSION is not read (DEDUCED, entry 43). -/
def step1 (r h : Nat) (R : Ring) (s : State) : Except Rej (Option Session) :=
  if 256 ≤ r || isHello h then .ok none
  else match findSess s (hSession h) with
    | none => .error (St.sessionClosed, 0, s)
    | some x =>
      if isProve h then
        if x.isOpen then .error (St.sessionClosed, 0, s)
        else if x.helloRing != r || decide (x.helloTime + 100 * ms < now s) then
          .error (St.sessionClosed, 0, closeSession s (sessIdx (hSession h)))
        else .ok (some x)
      else if !x.isOpen then .error (St.sessionClosed, 0, s)
      else if 4 ≤ r && R.owner != hSession h then .error (St.privilege, 0, s)
      else .ok (some x)

/-- Step 2, with the firmware-memory ranges of R446 on an internal ring: each after the address and length that give it, with
DETAIL at its address or its length (DESIGN CHOICE, entry 43). -/
def step2 (r h : Nat) (s : State) : Except Rej Unit :=
  rej (hPayLen h != 0 && hPayAddr h % 8 != 0) St.fieldRange 16 s <|
  rej (decide (0x100000 < hPayLen h)) St.lengthRange 24 s <|
  rej (decide (256 ≤ r) && hPayLen h != 0 && decide (s.hcu.fwMemLen < hPayAddr h + hPayLen h)) St.lengthRange 16 s <|
  rej (decide (0x100000 < hResLen h)) St.lengthRange 28 s <|
  rej (hResLen h != 0 && hResAddr h % 8 != 0) St.fieldRange 32 s <|
  rej (decide (256 ≤ r) && hResLen h != 0 && decide (s.hcu.fwMemLen < hResAddr h + hResLen h)) St.lengthRange 28 s <|
  .ok ()

/-- The payload of step 3, as long as PAYLOAD_LEN says; an internal ring's stands in the firmware memory (R446). -/
def payload (s : State) (r h : Nat) (d : Dma) : Option Bytes :=
  if hPayLen h = 0 then some []
  else match d with
    | .error => none
    | .data bs =>
      if r < 256 then some ((bs ++ zeros (hPayLen h - bs.length)).take (hPayLen h))
      else some (memTake s.hcu.fwMem (hPayAddr h) (hPayLen h))

/-- What the management cores have put where an internal ring's command has its payload, as the row tells it. -/
def stored (r h : Nat) (d : Dma) (s : State) : State :=
  match d with
  | .error => s
  | .data bs =>
    if r < 256 then s
    else { s with hcu := { s.hcu with fwMem := memPut s.hcu.fwMem (hPayAddr h) (bs.take (hPayLen h)) } }

/-- A failed tag: sixteen in a row close the session (02 R45). -/
def tagFail (s : State) (i : Nat) (x : Session) : State :=
  if 16 ≤ x.tagFails + 1 then closeSession s i
  else { s with hcu := { s.hcu with sessions := Tbl.set s.hcu.sessions i { x with tagFails := x.tagFails + 1 } } }

/-- The tag of a command (02 R39). -/
def tagOf (key : Bytes) (h : Nat) (pay : Bytes) : Nat := leNat ((hmac256 key (leBytes 48 h ++ pay)).take 16)

/-- The expected SEQ of a session on a ring (02 R46). -/
def seqKey (i r : Nat) : Nat := 512 * i + r
def seqExp (s : State) (i r : Nat) : Nat := Tbl.getD s.hcu.seqs (seqKey i r) 1

/-- Steps 3 and 4: payload, tag, SEQ. -/
def step34 (r h : Nat) (x : Option Session) (d : Dma) (s : State) : Except Rej (Bytes × State) :=
  match payload s r h d with
  | none => .error (St.dataCheck, 0, s)
  | some pay =>
    match x with
    | none => .ok (pay, s)
    | some x =>
      if isProve h then .ok (pay, s)
      else
        let i := sessIdx (hSession h)
        if tagOf x.key h pay != hTag h then .error (St.authFail, 0, tagFail s i x)
        else
          let s1 := { s with hcu := { s.hcu with sessions := Tbl.set s.hcu.sessions i { x with tagFails := 0 } } }
          let e := seqExp s i r
          if 0xFFFFFFFE < e then .error (St.sessionClosed, 0, s1)
          else if hSeq h != e then .error (St.sequence, e, s1)
          else .ok (pay, { s1 with hcu := { s1.hcu with seqs := Tbl.set s1.hcu.seqs (seqKey i r) (e + 1) } })

/-- Step 6: header version and reserved fields, and the fields the handshake fixes (02 R43). -/
def step6 (h : Nat) (s : State) : Except Rej Unit :=
  rej (bits h 23 18 != 0) St.fieldRange 2 s <|
  rej (bits h 27 24 != 1 || bits h 31 28 != 0) St.fieldRange 3 s <|
  rej (isHello h && hSession h != 0xFFFF) St.fieldRange 4 s <|
  rej ((isHello h || isProve h) && hSeq h != 0) St.fieldRange 8 s <|
  rej (bits h 127 96 != 0) St.fieldRange 12 s <|
  rej ((isHello h || isProve h) && hTag h != 0) St.fieldRange 48 s <|
  .ok ()

/-- Privilege and tenant a ring's commands are issued with (02 R41, R48). -/
def who (r : Nat) (x : Option Session) : Priv × Nat :=
  match x with
  | some x => (x.priv, x.tenant)
  | none => if 256 ≤ r then (.firmware, 0) else (.maintenance, 0)

def privOk (privs : List Priv) (p : Priv) : Bool :=
  privs.isEmpty || privs.contains p || (p == .firmware && (privs.contains .operator || privs.contains .maintenance))

/-- Steps 1 to 8 of R50. `privs` empty is the handshake. -/
def check (privs : List Priv) (r : Nat) (R : Ring) (h : Nat) (d : Dma) (s : State) : Except Rej (Cmd × State) := do
  let x ← step1 r h R s
  step2 r h s
  let (pay, s1) ← step34 r h x d s
  rej (R.outstanding.contains (hCid h)) St.busy 0 s1 <| .ok ()
  step6 h s1
  rej (!knownOp (hOpcode h) || !ringAllows r (hOpcode h) || !roleAllows s1.hcu.role (hOpcode h)) St.badOpcode 0 s1 <| .ok ()
  let w := who r x
  rej (!privOk privs w.1) St.privilege 0 s1 <| .ok ()
  .ok (⟨r, R.port, h, pay, w.1, w.2, if r < 256 then hSession h else 0xFFFF, mkTok r R h⟩, s1)

/-- Count one act of the oldest injection of uncorrectable words. -/
def hitFirst : List Inject → List Inject
  | [] => []
  | x :: t => if x.kind = 2 then (if x.left ≤ 1 then t else { x with left := x.left - 1 } :: t) else x :: hitFirst t

/-- A command that fails with ST_DATA_CHECK counts toward the oldest armed injection of uncorrectable words (12 R363). -/
def injectHit (s : State) : State :=
  if s.mir.inject.isEmpty then s else { s with mir := { s.mir with inject := hitFirst s.mir.inject } }

/-- The completion of a command's answer: none where it is answered later, not final where it is ST_PENDING. -/
def answer (s : State) (t : Tok) (a : Ans) : State :=
  match a.st with
  | none => s
  | some st => complete (if st = St.dataCheck then injectHit s else s) t st a.r0 a.detail a.result (st != St.pending)

/-- Commands that reach the tables in the hardware parts of HBM: page table, tier map, list blocks, prefix index (06 R143). -/
def usesTables (op : Nat) : Bool := decide (0x0200 ≤ op) && decide (op < 0x0900)

/-- A fetched command is held back: by FENCE while an earlier command of its ring has no final completion (02 R34), and while
the hardware parts that it reaches are rebuilt (06 R171). -/
def heldBack (s : State) (R : Ring) (h : Nat) : Bool :=
  (hFence h && !R.outstanding.isEmpty) || (s.tfm.rebuilding && usesTables (hOpcode h))

/-- The command that ring `r` starts now, where there is one: the ring before its fetch, its header, and the state with it
started. It is the one that was held back, once nothing holds it any longer; otherwise the one in the head slot, when the
arbiter grants the ring. -/
def begins (s : State) (r : Nat) : Option (Ring × Nat × State) :=
  match Tbl.get s.hcu.rings r with
  | none => none
  | some R =>
    match R.waiting with
    | some h => if R.work || !serving s r || heldBack s R h then none else some (unfetched R, h, released s r R h)
    | none =>
      let h := slotHeader s R
      if R.work || !granted s r R || heldBack s R h then none else some (R, h, fetched s r R h)

/-- A fetch whose command or descriptor has to wait: the head moves past the slot, the arbiter's pointer past the ring. -/
def fetchedOnly (s : State) (r : Nat) (R : Ring) (h : Nat) : State :=
  { s with
    hcu := { s.hcu with rings := Tbl.set s.hcu.rings r { R with head := (R.head + 1) % R.sqEntries, waiting := some h } }
    tsu := took s (ringArb r R) (pastRing r) }

/-- A command that is held back is fetched and waits. -/
def holdBack (op r : Nat) (s : State) : State :=
  match Tbl.get s.hcu.rings r with
  | none => s
  | some R =>
    let h := slotHeader s R
    if R.work || !granted s r R || !heldBack s R h || (knownOp (hOpcode h) && hOpcode h != op) then s
    else fetchedOnly s r R h

/-- A host command: ring `r` starts it when it holds this opcode (a slot with an unknown opcode is answered whatever row names
the ring), it is checked, and its meaning runs; one that is held back is fetched. Otherwise nothing happens. -/
def hostCmd (op : Nat) (privs : List Priv) (r : Nat) (d : Dma) (body : Meaning) (s : State) : State :=
  match begins s r with
  | none => holdBack op r s
  | some (R, h, s0) =>
    if knownOp (hOpcode h) && hOpcode h != op then s
    else
      match check privs r R h d (stored r h d s0) with
      | .error (st, det, s1) => complete s1 (mkTok r R h) st 0 det [] true
      | .ok (c, s1) =>
        match body c s1 with
        | .error a => answer s1 (mkTok r R h) a
        | .ok (a, s2) => answer s2 (mkTok r R h) a

/-! ### Free values -/

/-- A fresh index for a free value: the step reads the counter and advances it. -/
def drawn (s : State) : State := { s with draws := s.draws + 1 }

end Sys2Proof.Machine
end

