-- ==== Sys2Proof/Machine/Operands.lean ====
section
/-! DEFINITION. The operands of a host command: TARGET, payload fields, records after a payload header, and the shape of
the checks on them, each with the DETAIL that 02 R445 gives. -/

namespace Sys2Proof.Machine

/-- A DETAIL that points into the payload (02 R35, R445). -/
def inPay (o : Nat) : Nat := 0x80000000 + o

/-- Stop with a status and DETAIL unless a condition holds. -/
def need (b : Bool) (st det : Nat) : Except Ans Unit := if b then .ok () else .error { st := some st, detail := det }

/-- Stop with a status. -/
def stop {α : Type} (st : Nat) (det : Nat := 0) : Except Ans α := .error { st := some st, detail := det }

/-- The first of a list of checks that fails decides. -/
def needAll : List (Bool × Nat × Nat) → Except Ans Unit
  | [] => .ok ()
  | (b, st, det) :: t => if b then needAll t else .error { st := some st, detail := det }

def okAns : Ans := { st := some St.ok }
def okR0 (r0 : Nat) : Ans := { st := some St.ok, r0 := r0 }
def okRes (bs : Bytes) : Ans := { st := some St.ok, result := bs }
def pendAns : Ans := { st := some St.pending }
def laterAns : Ans := { st := none }

def Cmd.target (c : Cmd) : Nat := hTarget c.hdr
def Cmd.payLen (c : Cmd) : Nat := c.pay.length
def Cmd.resLen (c : Cmd) : Nat := hResLen c.hdr

/-- Field [hi:lo] of the payload's first 128 bytes. -/
def Cmd.fld (c : Cmd) (hi lo : Nat) : Nat := bits (leNat (c.pay.take 128)) hi lo

/-- The payload length lies in a range (02 R49). -/
def Cmd.lenIn (c : Cmd) (lo hi : Nat) : Except Ans Unit :=
  need (decide (lo ≤ c.payLen) && decide (c.payLen ≤ hi)) St.lengthRange 24

/-- The payload has an exact length. -/
def Cmd.lenIs (c : Cmd) (n : Nat) : Except Ans Unit := need (c.payLen == n) St.lengthRange 24

/-- RESULT_LEN covers the result bound (02 R40). -/
def Cmd.bound (c : Cmd) (n : Nat) : Except Ans Unit := need (decide (n ≤ c.resLen)) St.lengthRange 28

/-- A length, count or size field at payload bit `lo` is in range. -/
def lenF (b : Bool) (lo : Nat) : Except Ans Unit := need b St.lengthRange (inPay (lo / 8))

/-- Another field at payload bit `lo` is in range. -/
def fldF (b : Bool) (lo : Nat) : Except Ans Unit := need b St.fieldRange (inPay (lo / 8))

/-- Payload bits [hi:lo] are reserved and zero (00 R12). -/
def Cmd.rsv (c : Cmd) (hi lo : Nat) : Except Ans Unit := fldF (c.fld hi lo == 0) lo

/-- TARGET[63:lo] is zero: a condition on the header's field TARGET (02 R39, R445). -/
def Cmd.tgtRsv (c : Cmd) (lo : Nat) : Except Ans Unit := need (c.target >>> lo == 0) St.fieldRange 40

/-- The tenant check of 02 R48. -/
def Cmd.tenantOk (c : Cmd) (t : Nat) : Bool := c.priv != .tenant || c.tenant == t

def Cmd.own (c : Cmd) (t : Nat) : Except Ans Unit := need (c.tenantOk t) St.accessViolation 0

/-- Only an internal ring or a session of a privilege. -/
def Cmd.isFw (c : Cmd) : Bool := c.priv == .firmware
def Cmd.isOp (c : Cmd) : Bool := c.priv == .operator || c.priv == .firmware

/-- The record at index `i` of records of `n` bytes that follow a header of `o` bytes, as a number. -/
def Cmd.recNat (c : Cmd) (o n i : Nat) : Nat := subNat c.pay (o + n * i) n

/-- All records in order, as numbers. -/
def recsOf (n : Nat) : Nat → Bytes → List Nat
  | 0, _ => []
  | k + 1, bs => leNat (bs.take n) :: recsOf n k (bs.drop n)

def Cmd.recs (c : Cmd) (o n k : Nat) : List Nat := recsOf n k (c.pay.drop o)

/-- Check each record in order, with its index. -/
def checkEach {α : Type} (f : Nat → α → Except Ans Unit) : Nat → List α → Except Ans Unit
  | _, [] => .ok ()
  | i, x :: t => match f i x with
    | .error a => .error a
    | .ok _ => checkEach f (i + 1) t

end Sys2Proof.Machine
end

