-- ==== Sys2Proof/Machine/Entry.lean ====
section
/-! DEFINITION. The images of the table's objects as they are read, sent and mirrored: the request entry (03 R60), the
caravan record (04 R113) and header (04 R83), the page-list header (05 R121). -/

namespace Sys2Proof.Machine

/-! ### Request states (03 R61) -/

def RState.code : RState → Nat
  | .free => 0 | .admitted => 1 | .prefill => 2 | .handoff => 3 | .generate => 4
  | .parked => 5 | .draining => 6 | .done => 7 | .expired => 8 | .failed => 9

def RState.ofCode (n : Nat) : RState :=
  if n = 1 then .admitted else if n = 2 then .prefill else if n = 3 then .handoff else if n = 4 then .generate
  else if n = 5 then .parked else if n = 6 then .draining else if n = 7 then .done else if n = 8 then .expired
  else if n = 9 then .failed else .free

def RState.terminal : RState → Bool
  | .done => true | .expired => true | .failed => true | _ => false

/-- A live request: any state other than FREE (01 R23). -/
def RState.live (st : RState) : Bool := st != .free

/-- "No page" and "no handle" (03 R58, R60). -/
def noId : Nat := 0xFFFFFFFF

def noEntry : Entry where
  gid := 0
  deadline := 0
  admitTime := 0
  stateTime := 0
  plistRoot := 0
  tokRoot := 0
  resHbm := 0
  resFlash := 0
  tenant := 0
  usedHbm := 0
  usedFlash := 0
  kvPerTok := 0
  prior := .free
  prevOwner := 0
  epoch := 0
  roleHist := 0
  drainFrom := .free
  promptLen := 0
  ctxLen := 0
  genLen := 0
  maxNew := 0
  lastStatus := 0
  handoffs := 0
  stepCount := 0
  draftTokens := 0
  acceptedTokens := 0
  home := 0
  auxRoot := 0
  cvnId := 0
  codecSlot := 0
  pageClass := 0
  slotGen := 0
  state := .free
  prio := 0
  durable := false
  inStep := false
  expirePend := false
  cancelPend := false
  movePend := false
  remoteHome := false
  watch := false
  promptComplete := false
  batchTag := 0

/-- The 1,024 bits of an entry. -/
def entryNat (e : Entry) : Nat :=
  e.batchTag <<< 64 ||| b2n e.promptComplete <<< 96 ||| b2n e.watch <<< 97 ||| b2n e.remoteHome <<< 98
    ||| b2n e.movePend <<< 99 ||| b2n e.cancelPend <<< 100 ||| b2n e.expirePend <<< 101 ||| b2n e.inStep <<< 102
    ||| b2n e.durable <<< 103 ||| e.prio <<< 106 ||| e.state.code <<< 109 ||| e.slotGen <<< 113
    ||| e.pageClass <<< 182 ||| e.codecSlot <<< 186 ||| e.cvnId <<< 192 ||| e.auxRoot <<< 224 ||| e.home <<< 272
    ||| e.acceptedTokens <<< 288 ||| e.draftTokens <<< 320 ||| e.stepCount <<< 352 ||| e.handoffs <<< 404
    ||| e.lastStatus <<< 412 ||| e.maxNew <<< 428 ||| e.genLen <<< 449 ||| e.ctxLen <<< 470 ||| e.promptLen <<< 491
    ||| e.drainFrom.code <<< 512 ||| e.roleHist <<< 516 ||| e.epoch <<< 536 ||| e.prevOwner <<< 552
    ||| e.prior.code <<< 568 ||| e.kvPerTok <<< 572 ||| e.usedFlash <<< 592 ||| e.usedHbm <<< 616 ||| e.tenant <<< 640
    ||| e.resFlash <<< 656 ||| e.resHbm <<< 680 ||| e.tokRoot <<< 704 ||| e.plistRoot <<< 736 ||| e.stateTime <<< 768
    ||| e.admitTime <<< 832 ||| e.deadline <<< 896 ||| e.gid <<< 960

/-- The 128-byte image of an entry. -/
def entryImage (e : Entry) : Bytes := leBytes 128 (entryNat e)

/-- The entry an image shows. -/
def entryOfNat (n : Nat) : Entry where
  gid := bits n 1023 960
  deadline := bits n 959 896
  admitTime := bits n 895 832
  stateTime := bits n 831 768
  plistRoot := bits n 767 736
  tokRoot := bits n 735 704
  resHbm := bits n 703 680
  resFlash := bits n 679 656
  tenant := bits n 655 640
  usedHbm := bits n 639 616
  usedFlash := bits n 615 592
  kvPerTok := bits n 591 572
  prior := RState.ofCode (bits n 571 568)
  prevOwner := bits n 567 552
  epoch := bits n 551 536
  roleHist := bits n 535 516
  drainFrom := RState.ofCode (bits n 515 512)
  promptLen := bits n 511 491
  ctxLen := bits n 490 470
  genLen := bits n 469 449
  maxNew := bits n 448 428
  lastStatus := bits n 427 412
  handoffs := bits n 411 404
  stepCount := bits n 383 352
  draftTokens := bits n 351 320
  acceptedTokens := bits n 319 288
  home := bits n 287 272
  auxRoot := bits n 255 224
  cvnId := bits n 223 192
  codecSlot := bits n 191 186
  pageClass := bits n 185 182
  slotGen := bits n 127 113
  state := RState.ofCode (bits n 112 109)
  prio := bits n 108 106
  durable := bit n 103
  inStep := bit n 102
  expirePend := bit n 101
  cancelPend := bit n 100
  movePend := bit n 99
  remoteHome := bit n 98
  watch := bit n 97
  promptComplete := bit n 96
  batchTag := bits n 95 64

/-- A handle: slot and slot generation (03 R58). -/
def handleOf (slot gen : Nat) : Nat := slot <<< 15 ||| gen

/-! ### Token histories and count entries -/

/-- A token history as 32-bit words. -/
def histBytes (h : List Nat) : Bytes := h.flatMap (leBytes 4)

/-- Tokens from 32-bit words. -/
def wordsOf : Nat → Bytes → List Nat
  | 0, _ => []
  | k + 1, bs => leNat (bs.take 4) :: wordsOf k (bs.drop 4)

/-! ### Caravans -/

def CState.code : CState → Nat
  | .offered => 1 | .pulled => 2 | .inDoubt => 3 | .released => 4 | .withdrawn => 5 | .resumed => 6
  | .pulling => 8 | .relWait => 9 | .aborted => 10 | .closed => 11

/-- A record that is open: not at its sender's or receiver's end. -/
def CState.isOpen : CState → Bool
  | .offered => true | .pulled => true | .inDoubt => true | .pulling => true | .relWait => true | _ => false

/-- The 64-byte caravan record of CVN_STATUS (04 R113). -/
def caravanImage (c : Caravan) : Bytes :=
  leBytes 64 (c.kind ||| c.cstate.code <<< 4 ||| c.probes <<< 192 ||| c.pageUnits <<< 200 ||| c.status <<< 224
    ||| c.epoch <<< 240 ||| c.dst <<< 256 ||| c.src <<< 272 ||| c.cvnId <<< 288 ||| c.lastTime <<< 320
    ||| c.startTime <<< 384 ||| c.gid <<< 448)

/-- The key of a caravan record: sender and identifier (04 R82). -/
def cvnKey (src cvn : Nat) : Nat := src * 2 ^ 32 + cvn

/-! ### Page lists -/

/-- Bytes of a page of a class (05 R114). -/
def psize (c : Nat) : Nat := 4096 * 2 ^ c

/-- P(n): pages that hold tokens 0 to n − 1 (05 R118). -/
def pagesFor (kv c n : Nat) : Nat := ceilDiv (n * kv) (psize c)

/-- The 64-byte page-list header (05 R121). -/
def plistNat (l : PList) : Nat :=
  l.nodeRefs <<< 181 ||| l.usedUnits <<< 205 ||| l.resUnits <<< 229 ||| l.depth <<< 253 ||| l.cls <<< 255
    ||| l.codecSlot <<< 259 ||| l.ns <<< 265 ||| l.kvPerTok <<< 297 ||| l.ctxLen <<< 317 ||| l.shared <<< 338
    ||| l.pages.length <<< 361 ||| l.tenant <<< 384 ||| l.owner <<< 400 ||| l.gen <<< 416 ||| l.gid <<< 448

def plistImage (l : PList) : Bytes := leBytes 64 (plistNat l)

/-! ### Auxiliary blocks (09 R243, R244) -/

/-- A count entry as 64 bits. -/
def countNat (c : Count) : Nat := c.genCount <<< 24 ||| b2n c.promptSeen <<< 45 ||| c.token <<< 46

def countOf (n : Nat) : Count := ⟨bits n 63 46, bit n 45, bits n 44 24⟩

/-- The bytes of an auxiliary block: parameters, header, count entries sorted by token, and unused entries zero. -/
def auxImage (a : Aux) : Bytes :=
  let es := a.counts.flatMap fun c => leBytes 8 (countNat c)
  a.params ++ zeros (48 - a.params.length) ++ leBytes 4 a.cap ++ leBytes 4 a.counts.length ++ leBytes 4 a.draftPage
    ++ leBytes 4 (crc32c es) ++ zeros 448 ++ es ++ zeros (8 * (a.cap - a.counts.length))

/-- The block that bytes show; none from no bytes. -/
def auxOf (bs : Bytes) : Option Aux :=
  if bs.isEmpty then none
  else some ⟨bs.take 48, subNat bs 48 4, subNat bs 56 4, (recsOf 8 (subNat bs 52 4) (bs.drop 512)).map countOf⟩

/-- An auxiliary block's length: 512 + 8 × CAP. -/
def auxLen (a : Option Aux) : Nat :=
  match a with
  | none => 0
  | some a => 512 + 8 * a.cap

end Sys2Proof.Machine
end

