-- ==== Sys2Proof/Machine/Pool.lean ====
section
/-! DEFINITION. Capacity: the floor and HBM_CAP (06 R143), flash units (06 R144), reservations and caps (03 R66 to R70),
and the map journal's records (06 R158). -/

namespace Sys2Proof.Machine

/-! ### The floor -/

/-- Hardware parts of the floor in MiB, with cross-stack parity (06 R143). -/
def hwFloorMib (leaves blocks : Nat) : Nat :=
  let p := 79 + 3069 + 2112 + 64 + ceilDiv ((leaves + blocks) * 4) 1024
  p + ceilDiv p 11

/-- The floor in 64 KiB units. -/
def floorUnits (leaves blocks prefixCap objectCap service : Nat) : Nat :=
  hwFloorMib leaves blocks * 16 + prefixCap + objectCap + service

/-- The floor in force. -/
def floorNow (s : State) : Nat :=
  floorUnits s.tfm.leafPool s.tfm.listBlocks s.ppm.prefixCap s.ppm.objectCap s.ppm.serviceFloor

/-- HBM_CAP in 64 KiB units, less 64 GiB for each retired stack (06 R143, R171). -/
def hbmCap (s : State) : Nat := 12582912 - floorNow s - 1048576 * s.tfm.stacksLost.length

/-! ### Reservations -/

/-- HBM units reserved here: reservations charged in HBM, token histories, units held for the partner. -/
def hbmUsed (s : State) : Nat :=
  (s.rte.resv.foldl (fun a kv => a + if kv.2.onFlash && !kv.2.both then 0 else kv.2.hbm) 0)
    + s.rte.histUnits.foldl (fun a kv => a + kv.2) 0 + s.mir.heldUnits

def freeHbm (s : State) : Nat := hbmCap s - hbmUsed s

/-- Flash units that reservations may take (06 R144). -/
def flashPool (s : State) : Nat := 14680064 - s.ppm.objectFlashCap

def flashUsed (s : State) : Nat := s.rte.resv.foldl (fun a kv => a + if kv.2.onFlash || kv.2.both then kv.2.flash else 0) 0

def freeFlash (s : State) : Nat := flashPool s - flashUsed s

/-- The token history's units (03 R66). -/
def histUnitsOf (tokens : Nat) : Nat := ceilDiv (tokens * 4) 65536

/-! ### Rows of R68 -/

/-- The whole pool as a cap (01 R28, 03 R68): what HBM holds, and what flash can hold of parked reservations, so that the
cap refuses nothing that fits (entry 12). -/
def wholePool : Nat := 12582912 + 32 * 14680064

/-- The class row in force: under the defaults of 01 R28 an open gate, the whole pool, no lead. -/
def classRow (s : State) (c : Nat) : ClassRow :=
  let d : ClassRow := ⟨true, wholePool, 0⟩
  if s.rte.lapsed then d else Tbl.getD s.rte.classRows c d

def classSum (s : State) (c : Nat) : Nat := s.rte.resv.foldl (fun a kv => a + if kv.2.cls = c then kv.2.hbm else 0) 0

def tenantSum (s : State) (t : Nat) : Nat := s.rte.resv.foldl (fun a kv => a + if kv.2.tenant = t then kv.2.hbm else 0) 0

/-- Step 4 of R67: the gate, and the class and tenant caps with `units` added. -/
def capsOk (s : State) (cls tenant units : Nat) : Bool :=
  (classRow s cls).gateOpen && decide (classSum s cls + units ≤ (classRow s cls).cap) &&
    (s.rte.lapsed || s.rte.tenantRows.all fun kv => kv.2.1 != tenant || decide (tenantSum s tenant + units ≤ kv.2.2))

/-- Step 6 of R67. -/
def hbmFits (s : State) (units : Nat) : Bool := decide (hbmUsed s + units ≤ hbmCap s)

/-- The flash tier is read-mostly (06 R170): free spare bands are below the table's last threshold, or wear has reached
pe_limit. -/
def readMostly (s : State) : Bool := s.tfm.writesOff

/-- Step 7 of R67. -/
def flashFits (s : State) (units : Nat) : Bool := !readMostly s && decide (flashUsed s + units ≤ flashPool s)

/-- RES_FLASH is ⌈RES_HBM ÷ 32⌉ (03 R60). -/
def resFlashOf (hbm : Nat) : Nat := ceilDiv hbm 32

def setResv (s : State) (gid : Nat) (r : Resv) : State := { s with rte := { s.rte with resv := Tbl.set s.rte.resv gid r } }
def delResv (s : State) (gid : Nat) : State := { s with rte := { s.rte with resv := Tbl.del s.rte.resv gid } }

/-! ### The map journal (06 R158) -/

def zeroEntry : TEntry := ⟨.zero, false, 0, 0, 0, 0⟩

/-- The map entry of a granule. -/
def tmap (s : State) (g : Nat) : TEntry := Tbl.getD s.tfm.map g zeroEntry

def setTmap (s : State) (g : Nat) (t : TEntry) : State :=
  { s with tfm := { s.tfm with map := if t = zeroEntry then Tbl.del s.tfm.map g else Tbl.set s.tfm.map g t } }

/-- Form a journal record: it takes the next SEQ and waits in the journal buffer. -/
def journal (s : State) (type : JType) (granule count : Nat) (new : TEntry) (oldLoc : Nat) : State :=
  { s with jnl := { s.jnl with
      buf := s.jnl.buf ++ [⟨s.jnl.seq, type, granule, count, new, oldLoc⟩]
      seq := s.jnl.seq + 1
      firstAt := if s.jnl.buf.isEmpty then now s else s.jnl.firstAt } }

/-! ### Page addresses (05 R115, 06 R140) -/

/-- First granule of the HBM page aperture. -/
def apGranule : Nat := 0x200000000

/-- Granules of one class's region. -/
def classSpan : Nat := 201326592

def pageClassOf (id : Nat) : Nat := id / classSpan
def pageGranules (id : Nat) : Nat := 2 ^ pageClassOf id
def pageAddr (id : Nat) : Nat := (apGranule + id) * 4096

/-- An identifier that names a page slot of the HBM aperture. -/
def validPageId (id : Nat) : Bool :=
  decide (id < 2013265920) && (id - pageClassOf id * classSpan) % pageGranules id == 0

/-- The slot of a class that a granule of the aperture lies in. -/
def pageOfGranule (g : Nat) : Nat :=
  let i := g - apGranule
  let c := i / classSpan
  c * classSpan + (i - c * classSpan) / 2 ^ c * 2 ^ c

/-- Granules `n` from `g` up. -/
def granules (g n : Nat) : List Nat := (List.range n).map (g + ·)

/-- A page's granules. -/
def pageGs (id : Nat) : List Nat := granules (apGranule + id) (pageGranules id)

/-! ### Frames and stacks (05 R116, 06 R143) -/

def framesPerStack : Nat := 16777216

/-- An arbiter's freeze stands since a time at or before `t`: what asks for it at `t` is not granted (11 R331). -/
def frozenSince (s : State) (a t : Nat) : Bool := (Tbl.get s.tsu.frozen a).any fun f => decide (f.since ≤ t)

/-- The stacks that hold granules. -/
def stacksOf (s : State) (gs : List Nat) : List Nat :=
  gs.filterMap fun g => if (tmap s g).place == .hbm then some ((tmap s g).loc / framesPerStack) else none

/-- The granules that a DMA reaches. -/
def dmaGranules (d : ADma) : List Nat :=
  granules (d.dev / 4096) ((d.dev + (if d.kind = .block then 16 else d.len) - 1) / 4096 - d.dev / 4096 + 1)

/-- Frames of each stack left to pages and objects: the hardware parts are spread evenly (DESIGN CHOICE, entry 6). -/
def stackRoom (s : State) : Nat := framesPerStack - ceilDiv (hwFloorMib s.tfm.leafPool s.tfm.listBlocks * 256) 12

/-- Frames of a stack in use by mapped granules. -/
def framesUsed (s : State) (k : Nat) : List Nat :=
  s.tfm.map.filterMap fun kv =>
    if kv.2.place == .hbm && kv.2.loc / framesPerStack == k then some kv.2.loc else none

/-- A granule of a list block: a class-0 page of the controller's own, whose frame is the floor's (05 R120). -/
def blockGranule (s : State) (g : Nat) : Bool :=
  decide (apGranule ≤ g) && decide (g < apGranule + classSpan) && (Tbl.get s.ppm.pages (g - apGranule)).any (·.inner)

/-- Free frames of a stack; none on a retired one. List blocks lie in the hardware parts. -/
def stackFree (s : State) (k : Nat) : Nat :=
  if s.tfm.stacksLost.contains k then 0
  else stackRoom s - (s.tfm.map.filter fun kv =>
    kv.2.place == .hbm && kv.2.loc / framesPerStack == k && !blockGranule s kv.1).length

/-- The stack with the most free frames, the lowest on a tie. -/
def bestStack (s : State) : Nat :=
  ((List.range 12).foldl (fun (b : Nat × Nat) k => if b.2 < stackFree s k then (k, stackFree s k) else b) (0, stackFree s 0)).1

/-- The lowest number from `n` up that is not in a list. -/
def lowestNot (used : List Nat) : Nat → Nat → Nat
  | 0, n => n
  | fuel + 1, n => if used.contains n then lowestNot used fuel (n + 1) else n

/-- `n` free frames of a stack, the lowest first (DESIGN CHOICE, entry 5). -/
def takeFrames (used : List Nat) : Nat → Nat → List Nat
  | 0, _ => []
  | n + 1, f =>
    let x := lowestNot used used.length f
    x :: takeFrames used n (x + 1)

/-- Leaves of the tier map in use: 2 MiB pieces of range with a granule that is not ZERO (06 R145). -/
def leavesUsed (s : State) : List Nat :=
  distinct ((s.tfm.map.filter fun kv => kv.2.place != .zero).map fun kv => kv.1 / 512)

/-- The leaf pool has room for these granules. -/
def leavesFit (s : State) (gs : List Nat) : Bool :=
  let used := leavesUsed s
  let new := (distinct (gs.map (· / 512))).filter fun l => !used.contains l
  decide (used.length + new.length ≤ s.tfm.leafPool)

end Sys2Proof.Machine
end

