-- ==== Sys2Proof/Machine/Flash.lean ====
section
/-! DEFINITION. Flash geometry and bands (06 R141, R156, R157): where a granule's slot lies, which band is open, what is
free, and the health thresholds (06 R170). -/

namespace Sys2Proof.Machine

def blocksPerDie : Nat := 2730
def bandCount : Nat := 43680
def rowGranules : Nat := 60
def bandRows : Nat := 3072
def bandGranules : Nat := 184320

/-- Bands below this are the durable save, the checkpoints and the journal (DESIGN CHOICE, entry 7). -/
def firstDataBand : Nat := 552

/-- A band nothing has touched: its die group is b mod 16, its block on every die b ÷ 16 (DESIGN CHOICE, entry 7). -/
def newBand (b : Nat) : Band where
  st := if b < 184 then .save else if b < 528 then .ckpt else if b < 552 then .jnl else .free
  stream := 0
  rows := 0
  openRow := []
  closedAt := 0
  first := false
  blks := List.replicate 16 (b / 16)
  lastOff := 0

def bandAt (s : State) (b : Nat) : Band := Tbl.getD s.tfm.bands b (newBand b)
def setBand (s : State) (b : Nat) (x : Band) : State := { s with tfm := { s.tfm with bands := Tbl.set s.tfm.bands b x } }

/-! ### Locations (06 R141, R145) -/

def locPage (loc : Nat) : Nat := loc / 4
def locChan (loc : Nat) : Nat := locPage loc / 2 ^ 27 % 16
def locGroup (loc : Nat) : Nat := locPage loc / 2 ^ 23 % 16
def locBlock (loc : Nat) : Nat := locPage loc % 2 ^ 23 / bandRows
def locRow (loc : Nat) : Nat := locPage loc % 2 ^ 23 % bandRows

/-- Dies are numbered channel × 16 + die within the channel. -/
def locDie (loc : Nat) : Nat := locChan loc * 16 + locGroup loc

/-- Blocks are numbered die × 2,730 + block. -/
def blockId (die blk : Nat) : Nat := die * blocksPerDie + blk

/-- A flash page identifier as an event's object (11 R450). -/
def objFlash (page : Nat) : Nat := 2 ^ 31 + page

/-- The page that stands for a whole die. -/
def diePage (die : Nat) : Nat := die / 16 * 2 ^ 27 + die % 16 * 2 ^ 23

/-- The band a flash location lies in. -/
def bandOfLoc (s : State) (loc : Nat) : Nat :=
  let b := locBlock loc * 16 + locGroup loc
  match s.tfm.bands.find? fun kv => kv.1 % 16 == locGroup loc && kv.2.blks.getD (locChan loc) noId == locBlock loc with
  | some kv => kv.1
  | none => b

/-- Location of position `j` of row `r` of a band: data pages fill the channels in order, the parity page stands on
channel r mod 16. -/
def rowLoc (b : Nat) (x : Band) (r j : Nat) : Nat :=
  let k := j / 4
  let ch := if k < r % 16 then k else k + 1
  (ch * 2 ^ 27 + (b % 16) * 2 ^ 23 + x.blks.getD ch 0 * bandRows + r) * 4 + j % 4

/-- The same of the row's parity page: the slot that position `j` is combined into (06 R156). -/
def parityLoc (b : Nat) (x : Band) (r j : Nat) : Nat :=
  (r % 16 * 2 ^ 27 + (b % 16) * 2 ^ 23 + x.blks.getD (r % 16) 0 * bandRows + r) * 4 + j % 4

/-- Cells written at position `j` of row `r` of a band, and combined into the row's parity page. -/
def putRow (flash : List Host.Cell) (b : Nat) (x : Band) (r j : Nat) (cells : List Host.Cell) : List Host.Cell :=
  let a := rowLoc b x r j * 4096
  memXor (memPaste (memClear flash a 4096) a cells) (parityLoc b x r j * 4096) cells

/-- Granules mapped into a band. -/
def validIn (s : State) (b : Nat) : List Nat :=
  s.tfm.map.filterMap fun kv => if kv.2.place == .flash && bandOfLoc s kv.2.loc == b then some kv.1 else none

/-! ### Free bands -/

def bandIsFree (s : State) (b : Nat) : Bool := (bandAt s b).st == .free

/-- Free bands: all past the reserved ones that are not listed as otherwise. -/
def freeBands (s : State) : Nat :=
  bandCount - firstDataBand - s.tfm.bands.countP fun kv => decide (firstDataBand ≤ kv.1) && kv.2.st != .free

/-- Free spare bands (06 R156, R170): of the 2,350 held back, those neither broken nor filled. -/
def spareBands (s : State) : Nat :=
  min (freeBands s) (2350 - s.tfm.bands.countP fun kv => kv.2.st == .broken)

def lowestFreeBand (s : State) : Nat → Nat → Option Nat
  | 0, _ => none
  | fuel + 1, b => if bandCount ≤ b then none else if bandIsFree s b then some b else lowestFreeBand s fuel (b + 1)

/-- The open band of a stream. -/
def openBand (s : State) (stream : Nat) : Option Nat :=
  (s.tfm.bands.find? fun kv => kv.2.st == .opened && kv.2.stream == stream).map (·.1)

/-- Close a band. -/
def closeBand (s : State) (b : Nat) (first : Bool) : State :=
  let x := bandAt s b
  journal (setBand s b { x with st := .closed, closedAt := now s, openRow := [], first := first }) .bandClose b 1 zeroEntry 0

/-- A record took a granule off the band of a flash location (06 R159). -/
def tookOff (s : State) (t : TEntry) : State :=
  if t.place = .flash then
    let b := bandOfLoc s t.loc
    setBand s b { bandAt s b with lastOff := s.jnl.seq - 1 }
  else s

/-! ### Blocks and dies -/

def blockAt (s : State) (i : Nat) : Block := Tbl.getD s.tfm.blocks i ⟨0, 0, false⟩
def setBlock (s : State) (i : Nat) (x : Block) : State := { s with tfm := { s.tfm with blocks := Tbl.set s.tfm.blocks i x } }
def dieAt (s : State) (d : Nat) : Die := Tbl.getD s.tfm.dies d ⟨.ok, 0, 0, 0, 0⟩
def setDie (s : State) (d : Nat) (x : Die) : State := { s with tfm := { s.tfm with dies := Tbl.set s.tfm.dies d x } }

/-- The die of a band on a channel, and its block there. -/
def bandDie (b ch : Nat) : Nat := ch * 16 + b % 16
def bandBlock (b : Nat) (x : Band) (ch : Nat) : Nat := blockId (bandDie b ch) (x.blks.getD ch 0)

/-- A page of a block is read once more (06 R167). -/
def readBlock (s : State) (i : Nat) : State := setBlock s i { blockAt s i with reads := (blockAt s i).reads + 1 }

/-- A flash location's page cannot be read: its die is SLOW or FAILED, or its block retired (06 R162, R168, R169). -/
def unreadable (s : State) (loc : Nat) : Bool :=
  (dieAt s (locDie loc)).st != .ok || (blockAt s (blockId (locDie loc) (locBlock loc))).retired

/-- A rebuild reads the other fifteen pages of the row (06 R156, R168). -/
def readOthers (s : State) (loc : Nat) : State :=
  let b := bandOfLoc s loc
  ((List.range 16).filter fun ch => ch != locChan loc).foldl (fun a ch => readBlock a (bandBlock b (bandAt s b) ch)) s

/-- A flash slot is read: its own page, or by rebuild. -/
def readLoc (s : State) (loc : Nat) : State :=
  if unreadable s loc then readOthers s loc else readBlock s (blockId (locDie loc) (locBlock loc))

/-! ### Health (06 R170) -/

def flashEvent (s : State) (cause sev st page arg : Nat) : State :=
  post s Un.tfm Ek.flash cause sev st (objFlash page) arg

/-- The mean erase count of a band's blocks, rounded down (06 R161). -/
def eraseMean (s : State) (b : Nat) : Nat :=
  let x := bandAt s b
  ((List.range 16).foldl (fun a ch => a + (blockAt s (bandBlock b x ch)).erases) 0) / 16

def peLimit : Nat := 3000

/-- The highest erase_mean of any band. -/
def wearNow (s : State) : Nat := s.tfm.bands.foldl (fun a kv => max a (eraseMean s kv.1)) 0

/-- A falling count passes below a threshold; a rising one reaches it. -/
def fellBelow (old new t : Nat) : Bool := decide (t ≤ old) && decide (new < t)
def roseTo (old new t : Nat) : Bool := decide (old < t) && decide (t ≤ new)

def healthPost (b : Bool) (sev arg : Nat) (s : State) : State :=
  if b then post s Un.tfm Ek.device Ec.threshold sev 0 (me s <<< 48) arg else s

/-- The threshold events between two states, and read-mostly once the last spare threshold or pe_limit is reached. -/
def flashHealthStep (s0 s : State) : State :=
  let a := spareBands s0
  let b := spareBands s
  let v := wearNow s0
  let w := wearNow s
  let s1 := healthPost (fellBelow a b 512) 0 b <| healthPost (fellBelow a b 1024) 1 b <| healthPost (fellBelow a b 1536) 2 b s
  let s2 := healthPost (roseTo v w 2850) 0 w <| healthPost (roseTo v w 2550) 1 w <| healthPost (roseTo v w 2100) 2 w s1
  if b < 512 || peLimit ≤ w then { s2 with tfm := { s2.tfm with writesOff := true } } else s2

/-- The open band of a stream, opening the lowest free one where none is. -/
def needBand (s : State) (stream : Nat) : Option (Nat × State) :=
  match openBand s stream with
  | some b => some (b, s)
  | none =>
    match lowestFreeBand s (s.tfm.bands.length + 1) firstDataBand with
    | none => none
    | some b =>
      some (b, flashHealthStep s (journal
        (setBand s b { bandAt s b with st := .opened, stream := stream, rows := 0, openRow := [], first := false })
        .bandOpen b 1 zeroEntry 0))

/-! ### Erasing and retiring (06 R159, R162) -/

/-- Clear the stored bytes of a band and count the erase in each block that is not retired. -/
def wipeBand (s : State) (b : Nat) : State :=
  let x := bandAt s b
  (List.range 16).foldl (fun a ch =>
    let i := bandBlock b x ch
    let k := blockAt a i
    if k.retired then a else
    let base := (ch * 2 ^ 27 + (b % 16) * 2 ^ 23 + x.blks.getD ch 0 * bandRows) * 16384
    setBlock { a with tfm := { a.tfm with flash := memClear a.tfm.flash base (bandRows * 16384) } } i
      { k with erases := k.erases + 1, reads := 0 }) s

/-- Retire the block of a band on a die: a BLOCK_RETIRE record and a severity-3 event (06 R162, R170). -/
def retireBlock (s : State) (b die : Nat) : State :=
  let ch := die / 16
  let i := bandBlock b (bandAt s b) ch
  let s1 := journal (setBlock s i { blockAt s i with retired := true }) .blockRetire i 1 zeroEntry 0
  flashEvent s1 Ec.stateChange 3 St.mediaFail (diePage die + (bandAt s b).blks.getD ch 0 * bandRows) i

/-- A spare block on a channel for a band of the group: from a broken band of the group, else from its highest free band,
which is broken then. -/
def spareBlock (s : State) (b ch : Nat) : Option (Nat × Nat) :=
  let group := s.tfm.bands.filter fun kv => kv.1 % 16 == b % 16 && kv.1 != b && kv.2.st == .broken && kv.2.blks.getD ch noId != noId
  match group.head? with
  | some kv => some (kv.1, kv.2.blks.getD ch 0)
  | none =>
    let top := (List.range 2696).findSome? fun k =>
      let c := 43664 + b % 16 - 16 * k
      if c != b && bandIsFree s c && decide (firstDataBand ≤ c) then some c else none
    top.map fun c => (c, (bandAt s c).blks.getD ch 0)

/-- Put a spare block in place of a retired one; without a spare the band is broken. -/
def replaceBlock (s : State) (b ch : Nat) : State :=
  let x := bandAt s b
  match spareBlock s b ch with
  | none => setBand s b { x with st := .broken, blks := x.blks.set ch noId }
  | some (c, k) =>
    let y := bandAt s c
    setBand (setBand s c { y with st := .broken, blks := y.blks.set ch noId }) b { x with blks := x.blks.set ch k, st := .free }

/-- Retired blocks of a band give way to spare ones. -/
def replaceRetired (s : State) (b : Nat) : State :=
  ((List.range 16).filter fun ch => (blockAt s (bandBlock b (bandAt s b) ch)).retired).foldl (fun a ch => replaceBlock a b ch) s

/-! ### The bands of checkpoints, journal and saves (06 R156, R157)

Which band, row and slot each of these streams appends at is the model's choice (entry 48). -/

/-- A reserved band is opened for its stream afresh: it is erased, and retired blocks give way. -/
def freshBand (s : State) (b stream : Nat) : State :=
  let s1 := replaceRetired (wipeBand s b) b
  setBand { s1 with tfm := { s1.tfm with bands := Tbl.map s1.tfm.bands fun _ x =>
    if x.st = .opened && x.stream = stream then { x with st := (newBand b).st } else x } } b
    { newBand b with blks := (bandAt s1 b).blks, st := .opened, stream := stream }

/-- The band that a reserved stream's position lies in, opened where it is not. -/
def streamBand (s : State) (b stream : Nat) : State := if openBand s stream = some b then s else freshBand s b stream

/-- Position `n` of the checkpoint stream: band, row and slot; of the journal: band and page. -/
def ckptBand (n : Nat) : Nat := 184 + n / bandGranules % 344
def journalPagesPerBand : Nat := 24576
def jnlBand (n : Nat) : Nat := 528 + n / journalPagesPerBand % 24

/-- A leaf's image is appended to the checkpoint stream. -/
def putCheckpoint (s : State) (cells : List Host.Cell) : State :=
  let n := s.jnl.ckptPos
  let b := ckptBand n
  let s1 := streamBand s b 3
  let x := bandAt s1 b
  let r := n % bandGranules / rowGranules
  let s2 := setBand s1 b { x with rows := r + 1 }
  { s2 with
    tfm := { s2.tfm with flash := putRow s2.tfm.flash b x r (n % rowGranules) cells }
    jnl := { s2.jnl with ckptPos := n + 1 } }

/-- A journal page is programmed on two channels. -/
def putJournal (s : State) (bs : Bytes) : State :=
  let n := s.jnl.pageSeq
  let b := jnlBand n
  let s1 := streamBand s b 4
  let x := bandAt s1 b
  let k := n % journalPagesPerBand
  let at_ (ch : Nat) : Nat := (ch * 2 ^ 27 + (b % 16) * 2 ^ 23 + x.blks.getD ch 0 * bandRows + k / 8) * 16384
  let s2 := setBand s1 b { x with rows := k / 8 + 1 }
  { s2 with
    tfm := { s2.tfm with flash := memPut (memPut s2.tfm.flash (at_ (2 * (k % 8))) bs) (at_ (2 * (k % 8) + 1)) bs }
    jnl := { s2.jnl with pageSeq := n + 1 } }

/-- Granule `i` of the durable save in copy `k` (0 A, 1 B). -/
def putSave (k : Nat) (s : State) (ic : Nat × List Host.Cell) : State :=
  let b := 92 * k + ic.1 / bandGranules
  let s1 := if ic.1 % bandGranules = 0 then freshBand s b 5 else s
  let x := bandAt s1 b
  let r := ic.1 % bandGranules / rowGranules
  let s2 := setBand s1 b { x with rows := r + 1 }
  { s2 with tfm := { s2.tfm with flash := putRow s2.tfm.flash b x r (ic.1 % rowGranules) ic.2 } }

/-- A program failure on a reserved stream: its position moves to the next band. -/
def nextReserved (s : State) (stream : Nat) : State :=
  { s with jnl := { s.jnl with
    ckptPos := if stream = 3 then (s.jnl.ckptPos / bandGranules + 1) * bandGranules else s.jnl.ckptPos
    pageSeq := if stream = 4 then (s.jnl.pageSeq / journalPagesPerBand + 1) * journalPagesPerBand else s.jnl.pageSeq } }

end Sys2Proof.Machine
end

