-- ==== Sys2Proof/Machine/Gens.lean ====
section
/-! DEFINITION. Codec slots and their generations: reference counts, retirement, fingerprints (07 R175 to R180, 04 R85). -/

namespace Sys2Proof.Machine

def emptyCSlot : CSlot := ⟨.empty, 0, [], false, 0, 0⟩
def cslot (s : State) (k : Nat) : CSlot := Tbl.getD s.cdu.slots k emptyCSlot
def setCSlot (s : State) (k : Nat) (x : CSlot) : State := { s with cdu := { s.cdu with slots := Tbl.set s.cdu.slots k x } }

/-- The newest live generation. Generations stand in load order, oldest first. -/
def CSlot.newest (x : CSlot) : Option Gen := x.gens.getLast?

def CSlot.byTag (x : CSlot) (tag : Nat) : Option Gen := x.gens.find? fun g => g.tag == tag

/-- A table header with TAG and SLOT set to zero. -/
def bareHeader (h : Nat) : Nat := h - (bits h 15 12 <<< 12) - (bits h 9 4 <<< 4)

/-- The bytes over which TABLE_ID is computed (07 R177). -/
def tableBytes (h : Nat) (body : Bytes) : Bytes := leBytes 64 (bareHeader h) ++ body

/-- The slot's fingerprint (04 R85). -/
def fingerprint (x : CSlot) : Nat := crc32c (x.gens.flatMap fun g => BitVec.ofNat 8 g.tag :: tableBytes g.header g.body)

def slotFp (s : State) (k : Nat) : Nat := fingerprint (cslot s k)

/-- The object form of a codec generation (11 R450). -/
def objCodec (tableId slot tag : Nat) : Nat := tableId <<< 32 ||| slot <<< 8 ||| tag

/-- Whether a generation retires: no reference, and not the newest or the newest cleared (07 R179). -/
def retires (x : CSlot) (g : Gen) : Bool :=
  g.refs == 0 && (x.cleared || match x.newest with
    | some n => n.loadSeq != g.loadSeq
    | none => false)

/-- Retire what retires: the table is freed and a severity-3 event posted; a slot without generations is EMPTY. -/
def retireGens (s : State) (k : Nat) : State :=
  let x := cslot s k
  let gone := x.gens.filter (retires x)
  if gone.isEmpty then s
  else
    let left := x.gens.filter fun g => !retires x g
    let x1 : CSlot := if left.isEmpty then { x with cond := .empty, tenant := 0, gens := [], cleared := false } else { x with gens := left }
    gone.foldl (fun a g => post a Un.cdu Ek.codec Ec.stateChange 3 0 (objCodec g.tableId k g.tag) 0) (setCSlot s k x1)

/-- Change the count of the generation with a tag: it saturates at zero and at 40 bits. -/
def bumpRef (s : State) (k tag : Nat) (up : Bool) (n : Nat) : State :=
  let x := cslot s k
  setCSlot s k { x with gens := x.gens.map fun g =>
    if g.tag = tag then { g with refs := if up then satBits 40 (g.refs + n) else g.refs - n } else g }

def holdRef (s : State) (k tag : Nat) : State := bumpRef s k tag true 1
def dropRef (s : State) (k tag : Nat) : State := retireGens (bumpRef s k tag false 1) k

/-- Hold, or let go of, the generations of some tags. -/
def holdTags (s : State) (k : Nat) (tags : List Nat) : State := tags.foldl (fun a t => holdRef a k t) s
def dropTags (s : State) (k : Nat) (tags : List Nat) : State := tags.foldl (fun a t => dropRef a k t) s

/-- Tags of a mask. -/
def maskTags (m : Nat) : List Nat := bitList 8 m

def liveTags (s : State) (k : Nat) : List Nat := (cslot s k).gens.map (·.tag)

end Sys2Proof.Machine
end

