-- ==== Sys2Proof/Machine/Pages.lean ====
section
/-! DEFINITION. Pages and page lists: allocation, counts, reclaim, growth, the private tail, truncation, release (05 R114
to R126, R134, R135), and the bytes behind device addresses (06 R140 to R147). -/

namespace Sys2Proof.Machine

/-! ### Bytes behind the device range -/

/-- The cell where a mapped granule's byte is stored: the frame, or the flash slot. -/
def cellOf (t : TEntry) (off : Nat) : Nat := t.loc * 4096 + off

/-- The stored byte at a device address, whatever tier holds it; ZERO and LOST granules read zero here. -/
def peek (s : State) (a : Nat) : Byte :=
  let t := tmap s (a / 4096)
  match t.place with
  | .hbm => memRead s.tfm.hbm (cellOf t (a % 4096))
  | .flash => memRead s.tfm.flash (cellOf t (a % 4096))
  | _ => unlisted

def peekN (s : State) (a : Nat) : Nat → Bytes
  | 0 => []
  | n + 1 => peek s a :: peekN s (a + 1) n

/-- Store a byte in an HBM granule; elsewhere nothing is stored. The 128-bit word is poisoned no longer (07 R185). -/
def poke (s : State) (a : Nat) (b : Byte) : State :=
  let t := tmap s (a / 4096)
  if t.place = .hbm then { s with tfm := { s.tfm with
    hbm := memWrite s.tfm.hbm (cellOf t (a % 4096)) b
    poison := if s.tfm.poison.isEmpty then [] else s.tfm.poison.filter (· != a / 16) } }
  else s

def pokeN (s : State) (a : Nat) : Bytes → State
  | [] => s
  | b :: bs => pokeN (poke s a b) (a + 1) bs

/-- Give back the frame or flash slot an entry names: a frame's bytes go at once, a flash slot's when its band is
erased. -/
def releaseCell (s : State) (t : TEntry) : State :=
  if t.place = .hbm then { s with tfm := { s.tfm with hbm := memClear s.tfm.hbm (t.loc * 4096) 4096 } } else tookOff s t

/-- A migration of a granule ends without a switch; the frame a promotion had taken is given back (06 R152). -/
def abandonMove (s : State) (g : Nat) : State :=
  if Tbl.has s.tfm.moves g then
    setTmap { s with tfm := { s.tfm with moves := Tbl.del s.tfm.moves g } } g { tmap s g with moving := false, restarts := 0 }
  else s

/-- Free a granule's frame or flash slot: it becomes ZERO, and any migration of it is abandoned (06 R174). -/
def freeGranule (s : State) (g : Nat) : State :=
  let s1 := abandonMove s g
  let s2 := setTmap (releaseCell s1 (tmap s1 g)) g zeroEntry
  { s2 with tfm := { s2.tfm with
    mediaLost := s2.tfm.mediaLost.filter (· != g), poison := s2.tfm.poison.filter fun w => w / 256 != g } }

/-! ### The page table -/

def getPage (s : State) (id : Nat) : Option Page := Tbl.get s.ppm.pages id
def setPage (s : State) (id : Nat) (p : Page) : State := { s with ppm := { s.ppm with pages := Tbl.set s.ppm.pages id p } }

/-- Some granule of a page is in flash. -/
def pageInFlash (s : State) (id : Nat) : Bool :=
  (granules (apGranule + id) (pageGranules id)).any fun g => (tmap s g).place == .flash

/-- Free a page: slot and frames return to the allocator; flash copies are trimmed (05 R124, 06 R158). -/
def freePage (s : State) (id : Nat) : State :=
  let g := apGranule + id
  let s1 := if pageInFlash s id then journal s .trim g (pageGranules id) zeroEntry 0 else s
  let s2 := (granules g (pageGranules id)).foldl freeGranule s1
  let s3 := match getPage s id with
    | some p => dropTags s2 p.maskSlot (maskTags p.mask)
    | none => s2
  { s3 with ppm := { s3.ppm with pages := Tbl.del s3.ppm.pages id } }

/-- A record or block of a generation is written into a page: its bit is set, and the generation held (07 R194). -/
def markPage (s : State) (id slot tag : Nat) : State :=
  match getPage s id with
  | none => s
  | some p =>
    if bit p.mask tag && p.maskSlot == slot then s
    else holdRef (setPage s id { p with mask := p.mask ||| 2 ^ tag, maskSlot := slot }) slot tag

/-- One holder less; at zero the page is freed. -/
def decRef (s : State) (id : Nat) : State :=
  match getPage s id with
  | none => s
  | some p => if p.refs ≤ 1 then freePage s id else setPage s id { p with refs := p.refs - 1 }

def incRef (s : State) (id : Nat) : State :=
  match getPage s id with
  | none => s
  | some p => setPage s id { p with refs := p.refs + 1 }

/-- One pass of the reclaimer over at most `n` list entries (05 R134). -/
def reclaimN (s : State) (n : Nat) : State :=
  let take := s.ppm.reclaim.take n
  take.foldl decRef { s with ppm := { s.ppm with reclaim := s.ppm.reclaim.drop n } }

/-- Drive the reclaimer to its end. -/
def reclaimAll (s : State) : State := reclaimN s s.ppm.reclaim.length

/-- Drive the reclaimer, eight list entries at a time, until there is enough or nothing is left (05 R116, R134). -/
def reclaimUntil (enough : State → Bool) : Nat → State → State
  | 0, s => s
  | n + 1, s => if enough s || s.ppm.reclaim.isEmpty then s else reclaimUntil enough n (reclaimN s 8)

/-- The lowest free slot of a class. -/
def freeSlotFrom (used : List Nat) (step : Nat) : Nat → Nat → Nat
  | 0, n => n
  | fuel + 1, n => if used.contains n then freeSlotFrom used step fuel (n + step) else n

def freePageId (s : State) (cls : Nat) : Nat :=
  let used := (Tbl.keys s.ppm.pages).filter fun id => pageClassOf id == cls
  freeSlotFrom used (2 ^ cls) used.length (cls * classSpan)

/-- Map granules to frames, in order. -/
def mapFrames (s : State) (hint : Nat) : List Nat → List Nat → State
  | g :: gs, f :: fs => mapFrames (setTmap s g ⟨.hbm, false, 0, hint, 0, f⟩) hint gs fs
  | _, _ => s

/-- List blocks in use, those that wait for the reclaimer among them. -/
def blocksUsed (s : State) : Nat := s.ppm.pages.countP fun kv => kv.2.inner && pageClassOf kv.1 == 0

/-- A page of a class has room: in the stack with the most free frames, or for a list block in the pool of blocks (05 R116,
R120). -/
def roomFor (cls : Nat) (inner : Bool) (s : State) : Bool :=
  if inner && cls == 0 then decide (blocksUsed s < s.tfm.listBlocks) else decide (2 ^ cls ≤ stackFree s (bestStack s))

/-- Allocate a page of a class from the stack with the most free frames; the reclaimer runs first when that stack holds
too few (05 R116). Loose pages carry HINT NONE, all others PREFER_HBM (06 R149). -/
def allocPage (s0 : State) (cls tenant : Nat) (loose inner : Bool) : Option (Nat × State) :=
  let s := reclaimUntil (roomFor cls inner) s0.ppm.reclaim.length s0
  let k := bestStack s
  if !roomFor cls inner s then none
  else
    let id := freePageId s cls
    let gs := granules (apGranule + id) (2 ^ cls)
    if !leavesFit s gs || classSpan ≤ id - cls * classSpan then none
    else
      let s1 := mapFrames s (if loose then 0 else 1) gs (takeFrames (framesUsed s k) (2 ^ cls) (k * framesPerStack))
      some (id, setPage s1 id ⟨tenant, 1, k, .live, false, loose, 0, 0, inner⟩)

/-- Allocate `n` pages, all or none. -/
def allocPages (s : State) (cls tenant : Nat) (loose inner : Bool) : Nat → Option (List Nat × State)
  | 0 => some ([], s)
  | n + 1 =>
    match allocPage s cls tenant loose inner with
    | none => none
    | some (id, s1) =>
      match allocPages s1 cls tenant loose inner n with
      | none => none
      | some (ids, s2) => some (id :: ids, s2)

/-! ### Budgets (05 R123, 06 R143, R144) -/

/-- Prefix budget used, in 64 KiB units. -/
def prefixUnits (s : State) : Nat :=
  ceilDiv (s.ppm.pages.foldl (fun a kv => a + if kv.2.inPrefix then psize (pageClassOf kv.1) else 0) 0) 65536

/-- HBM frames that count against OBJECT_CAP: the object region's and LOOSE pages'. -/
def objectFrames (s : State) : Nat :=
  s.tfm.map.foldl (fun a kv => a + if kv.2.place == .hbm && (decide (kv.1 < apGranule) ||
      match getPage s (pageOfGranule kv.1) with
      | some p => p.loose
      | none => false) then 1 else 0) 0

/-- Flash granules that count against OBJECT_FLASH_CAP. -/
def objectFlash (s : State) : Nat :=
  s.tfm.map.foldl (fun a kv => a + if kv.2.place == .flash && (decide (kv.1 < apGranule) ||
      match getPage s (pageOfGranule kv.1) with
      | some p => p.loose
      | none => false) then 1 else 0) 0

/-- Frames that OBJECT_CAP still allows. -/
def objectFree (s : State) : Nat := s.ppm.objectCap * 16 - objectFrames s

/-! ### Page lists -/

def getList (s : State) (gid : Nat) : Option PList := Tbl.get s.ppm.lists gid

/-- DEPTH of a list of `n` pages (05 R120). -/
def depthFor (n : Nat) : Nat := if n ≤ 1008 then 1 else if n ≤ 1032192 then 2 else 3

/-- List blocks of a list of `n` pages. -/
def blocksFor (n : Nat) : Nat :=
  if n ≤ 1008 then 1 else if n ≤ 1032192 then 1 + ceilDiv n 1024 else 1 + ceilDiv n 1024 + ceilDiv n 1048576

def usedUnitsOf (l : PList) : Nat := ceilDiv ((l.pages.length - l.shared) * psize l.cls) 65536

/-- Take or return list blocks so that a list has as many as its length needs. -/
def fitBlocks (s : State) (l : PList) : Option (PList × State) :=
  let n := blocksFor l.pages.length
  if l.blocks.length < n then
    match allocPages s 0 0 false true (n - l.blocks.length) with
    | none => none
    | some (ids, s1) => some ({ l with blocks := l.blocks ++ ids }, s1)
  else some ({ l with blocks := l.blocks.take n }, (l.blocks.drop n).foldl decRef s)

/-- The owner's entry in this table, where the request is owned here. -/
def slotOfGid (s : State) (gid : Nat) : Option Nat :=
  (s.rte.slots.find? fun kv => kv.2.e.gid == gid && kv.2.e.state != .free).map (·.1)

def setSlot (s : State) (n : Nat) (x : Slot) : State := { s with rte := { s.rte with slots := Tbl.set s.rte.slots n x } }

def updEntry (s : State) (n : Nat) (f : Entry → Entry) : State :=
  { s with rte := { s.rte with slots := Tbl.upd s.rte.slots n fun x => { x with e := f x.e } } }

/-- The owner takes lengths and reservation from its home's list (05 R122). -/
def takeLengths (s : State) (gid ctx used res : Nat) : State :=
  match slotOfGid s gid with
  | none => s
  | some n => updEntry s n fun e => { e with
      ctxLen := ctx, usedHbm := if e.state = .parked then e.usedHbm else used, resHbm := res, resFlash := resFlashOf res }

/-- SHARED_COUNT of a list of pages: the leading ones with PREFIX set (05 R121). -/
def sharedCount (s : State) (ps : List Nat) : Nat := (ps.takeWhile fun id => (getPage s id).any (·.inPrefix)).length

/-- Put a list back: SHARED_COUNT, DEPTH and USED_UNITS follow its pages, LIST_GEN advances where something has changed, and
an entry owned here follows the list (05 R121). -/
def putList (s : State) (l : PList) : State :=
  let l0 := { l with shared := sharedCount s l.pages }
  let l1 := { l0 with depth := depthFor l0.pages.length, usedUnits := usedUnitsOf l0 }
  let l2 := if getList s l.gid = some l1 then l1 else { l1 with gen := (l.gen + 1) % 2 ^ 32 }
  takeLengths { s with ppm := { s.ppm with lists := Tbl.set s.ppm.lists l.gid l2 } } l.gid l2.ctxLen l2.usedUnits l2.resUnits

/-- A command's parts change a list together: LIST_GEN advances once from `was`, or not at all where nothing changed. -/
def oneChange (was : PList) (s : State) : State :=
  { s with ppm := { s.ppm with lists := Tbl.upd s.ppm.lists was.gid fun l =>
      { l with gen := if { l with gen := was.gen } = was then was.gen else (was.gen + 1) % 2 ^ 32 } } }

/-- Create an empty list for a reservation (05 R119). -/
def newList (s : State) (gid owner tenant kv cls codec res : Nat) : Option (Nat × State) :=
  match allocPage s 0 0 false true with
  | none => none
  | some (root, s1) =>
    let l : PList := ⟨root, gid, 0, owner, tenant, 0, 0, kv, 0, codec, cls, 1, res, 0, 0, [], [root]⟩
    some (root, { s1 with ppm := { s1.ppm with lists := Tbl.set s1.ppm.lists gid l } })

/-- Grow a reservation to hold `units`, under steps 4 and 6 of R67 (03 R70); the reservation unchanged where it already
does. -/
def growRes (s : State) (gid units : Nat) : Option State :=
  match getList s gid, Tbl.get s.rte.resv gid with
  | some l, some r =>
    if units ≤ l.resUnits then some s
    else
      let d := units - l.resUnits
      if capsOk s r.cls r.tenant d && hbmFits s d then
        let s1 := setResv s gid { r with hbm := units, flash := resFlashOf units }
        some (takeLengths { s1 with ppm := { s1.ppm with lists := Tbl.set s1.ppm.lists gid { l with resUnits := units } } }
          gid l.ctxLen l.usedUnits units)
      else none
  | _, _ => none

/-- The tail page of a list, if it is partial (05 R118). -/
def tailPos (l : PList) : Option Nat :=
  if l.ctxLen * l.kvPerTok % psize l.cls = 0 then none else some (pagesFor l.kvPerTok l.cls l.ctxLen - 1)

/-! ### Uncorrectable words (00 R4) -/

/-- An armed injection of a kind on a word of a range (12 R363: 1 corrected, 2 uncorrectable). -/
def injectIn (k a n : Nat) (x : Inject) : Bool :=
  x.kind == k && decide (a / 16 ≤ x.addr / 16) && decide (x.addr / 16 ≤ (a + n - 1) / 16)

/-- The injections of a kind on a range have acted once more. -/
def injectActs (s : State) (k a n : Nat) : State :=
  if s.mir.inject.any (injectIn k a n) then { s with mir := { s.mir with inject := (s.mir.inject.map fun x =>
    if injectIn k a n x then { x with left := x.left - 1 } else x).filter fun x => x.left != 0 } }
  else s

/-- A word in a range that reads as uncorrectable: poisoned (07 R185), or by an armed injection. -/
def poisonedIn (s : State) (a n : Nat) : Bool :=
  n != 0 && (s.tfm.poison.any (fun w => decide (a / 16 ≤ w) && decide (w ≤ (a + n - 1) / 16)) || s.mir.inject.any (injectIn 2 a n))

/-- The 128-bit words of a range that read as uncorrectable. -/
def badWords (s : State) (a n : Nat) : List Nat :=
  let inside (w : Nat) : Bool := decide (a / 16 ≤ w) && decide (w ≤ (a + n - 1) / 16)
  if n = 0 then []
  else s.tfm.poison.filter inside ++ (s.mir.inject.filter (injectIn 2 a n)).map (·.addr / 16)

/-- Copy bytes of a page. An uncorrectable word is never copied as good data: its copy is poisoned (00 R4). Source and
destination lie alike in their 128-bit words. -/
def copyBytes (s : State) (dst src n : Nat) : State :=
  let bad := (badWords s src n).map fun w => dst / 16 + (w - src / 16)
  let s1 := pokeN (injectActs s 2 src n) dst (peekN s src n)
  if bad.isEmpty then s1 else { s1 with tfm := { s1.tfm with poison := distinct (s1.tfm.poison ++ bad) } }

/-- Make the tail private before it is written (05 R125). -/
def privTail (s : State) (gid : Nat) : Option State :=
  match getList s gid with
  | none => none
  | some l =>
    match tailPos l with
    | none => some s
    | some i =>
      let old := l.pages.getD i noId
      match getPage s old with
      | none => some s
      | some p =>
        if p.refs ≤ 1 then some s
        else
          let shared := if p.inPrefix then l.shared - 1 else l.shared
          match growRes s gid (usedUnitsOf { l with shared := shared }) with
          | none => none
          | some s1 =>
            match allocPage s1 l.cls 0 false false with
            | none => none
            | some (new, s2) =>
              let n := l.ctxLen * l.kvPerTok - i * psize l.cls
              let s3 := copyBytes s2 (pageAddr new) (pageAddr old) n
              let s4 := decRef ((maskTags p.mask).foldl (fun a t => markPage a new p.maskSlot t) s3) old
              let l1 := (getList s1 gid).getD l
              some (putList { s4 with ppm := { s4.ppm with tailCopies := (s4.ppm.tailCopies + 1) % 2 ^ 64 } }
                { l1 with pages := l1.pages.set i new, shared := shared })

/-- Append `n` private pages, growing the reservation. -/
def appendPages (s : State) (gid n : Nat) : Option (List Nat × State) :=
  match getList s gid with
  | none => none
  | some l =>
    match growRes s gid (usedUnitsOf { l with pages := l.pages ++ List.replicate n 0 }) with
    | none => none
    | some s1 =>
      match allocPages s1 l.cls 0 false false n with
      | none => none
      | some (ids, s2) =>
        let l1 := (getList s2 gid).getD l
        match fitBlocks s2 { l1 with pages := l1.pages ++ ids } with
        | none => none
        | some (l2, s3) => some (ids, putList s3 l2)

/-- Truncate a list to `ctx` tokens (05 R135). -/
def truncate (s : State) (gid ctx : Nat) : State :=
  match getList s gid with
  | none => s
  | some l =>
    let n := pagesFor l.kvPerTok l.cls ctx
    let s1 := (l.pages.drop n).foldl decRef s
    let ps := l.pages.take n
    let l1 := { l with pages := ps, ctxLen := ctx, shared := min l.shared ps.length }
    match fitBlocks s1 l1 with
    | none => putList s1 l1
    | some (l2, s2) => putList s2 l2

/-- Pages of the reclaim queue whose last holders are in it are in RECLAIM. -/
def markReclaim (s : State) : State :=
  { s with ppm := { s.ppm with pages := Tbl.map s.ppm.pages fun id p =>
      if p.refs ≤ s.ppm.reclaim.count id then { p with st := .reclaim } else p } }

/-- Detach a list: it leaves the directory, its reservation returns to the pool, and its pages and blocks join the
reclaim queue (05 R134). -/
def detachList (s : State) (gid : Nat) : State :=
  match getList s gid with
  | none => delResv s gid
  | some l =>
    let s1 := delResv s gid
    markReclaim { s1 with ppm := { s1.ppm with
      lists := Tbl.del s1.ppm.lists gid, reclaim := s1.ppm.reclaim ++ l.pages ++ l.blocks } }

/-- A prefix list that no node names is dropped in the same way (05 R133). -/
def dropPrefixList (s : State) (root : Nat) : State :=
  match Tbl.get s.ppm.plists root with
  | none => s
  | some l => markReclaim { s with ppm := { s.ppm with
      plists := Tbl.del s.ppm.plists root, reclaim := s.ppm.reclaim ++ l.pages ++ l.blocks } }

/-- Lists that hold a page. -/
def holders (s : State) (id : Nat) : List Nat := (s.ppm.lists.filter fun kv => kv.2.pages.contains id).map (·.1)

end Sys2Proof.Machine
end

