-- ==== Sys2Proof/Machine/Request.lean ====
section
/-! DEFINITION. What happens to a request entry (03 R57 to R78): slots, terminal transitions, the end of a step or a
move, the drain mark, page loss, and the lookups that commands naming a request make. -/

namespace Sys2Proof.Machine

/-! ### Maps (04 R101, R102) -/

def curEpoch (s : State) : Option Epoch := s.cve.epochs.find? fun e => e.st == .current
def epochNum (s : State) : Nat :=
  match curEpoch s with
  | some e => e.num
  | none => 0
def nodeRec (s : State) (n : Nat) : Option NodeRec :=
  match curEpoch s with
  | some e => e.nodes.find? fun r => r.node == n
  | none => none
def markedLost (s : State) (n : Nat) : Bool :=
  match nodeRec s n with
  | some r => r.lost
  | none => false

/-- An epoch is installed here and not retired. -/
def epochLive (s : State) (e : Nat) : Bool := s.cve.epochs.any fun x => x.num == e

/-- Traffic under an epoch passes here: installed, not retired, not the one that marks this controller LOST, nor at a FENCED
controller (04 R95, R103; 12 R351). -/
def epochPasses (s : State) (e : Nat) : Bool :=
  epochLive s e && !(s.cve.selfLost && e == epochNum s) && s.mru.st != .fenced

/-- An epoch's in-flight count (04 R102): open caravan records, outstanding fabric messages and memory requests, forwards,
reservations and home moves that name it. -/
def inFlight (s : State) (e : Nat) : Nat :=
  (s.cve.recs.filter fun kv => kv.2.cstate.isOpen && kv.2.epoch == e).length
    + (s.fbe.conns.foldl (fun a kv => a + (kv.2.sent.filter fun m => m.epoch == e).length) 0)
    + (s.fbe.seqOut.foldl (fun a kv => a + (kv.2.reqs.filter fun m => m.epoch == e).length) 0)
    + (s.ppm.fwds.filter fun kv => kv.2.epoch == e).length
    + (s.rte.homeWaits.filter fun kv => kv.2.phase == .home && kv.2.ent.epoch == e).length
    + (s.rte.slots.filter fun kv => kv.2.e.movePend && kv.2.moveDest != 0 && !kv.2.moveReady && kv.2.moveEpoch == e).length

/-- A DRAINING epoch with nothing in flight is RETIRED and forgotten. -/
def settleEpochs (s : State) : State :=
  { s with cve := { s.cve with epochs := s.cve.epochs.filter fun e => !(e.st == .draining && inFlight s e.num == 0) } }

/-- Fenced or marked LOST: nothing is served (04 R95, 12 R351). -/
def shunned (s : State) : Bool := s.cve.selfLost || s.mru.st == .fenced

/-! ### Slots (03 R58) -/

def getSlot (s : State) (n : Nat) : Option Slot := Tbl.get s.rte.slots n

/-- Freed slots that nothing holds, oldest first. -/
def freedFree (s : State) : List Nat := s.rte.freed.filter fun n => !s.rte.heldSlots.contains n

/-- FREE slots, those held for an admission, a caravan or the partner left out. -/
def freeSlots (s : State) : Nat :=
  s.rte.returned.length + (131072 - s.rte.fresh) + (freedFree s).length - s.mir.heldSlots

/-- Take a FREE slot: never-used slots in rising order, then slots in the order in which they were freed. It is held but
invisible until an entry is put in it; it leaves FREE only then. -/
def takeSlot (s : State) : Nat × State :=
  let hold (n : Nat) (t : State) : Nat × State := (n, { t with rte := { t.rte with heldSlots := t.rte.heldSlots ++ [n] } })
  match s.rte.returned with
  | n :: rest => hold n { s with rte := { s.rte with returned := rest } }
  | [] =>
    if s.rte.fresh < 131072 then hold s.rte.fresh { s with rte := { s.rte with fresh := s.rte.fresh + 1 } }
    else hold ((freedFree s).headD 0) s

def slotGenOf (s : State) (n : Nat) : Nat := Tbl.getD s.rte.slotGen n 0

def newSlot (e : Entry) : Slot where
  e := e
  hist := []
  aux := none
  mark := false
  watchTok := none
  waits := []
  moveTok := none
  lingerFrom := none
  lossSt := none
  parkFrom := .free
  underAlias := false
  stepTag := 0
  moveDest := 0
  moveReady := false
  moveAt := 0
  moveEpoch := 0
  restoring := false

/-- Make a held slot visible with an entry. -/
def showSlot (s : State) (n : Nat) (x : Slot) : State :=
  { s with rte := { s.rte with
    slots := Tbl.set s.rte.slots n x, heldSlots := s.rte.heldSlots.filter (· != n), freed := s.rte.freed.filter (· != n) } }

/-- Let go a held slot that never showed an entry: it never left FREE, so it keeps its place and its generation
(03 R58). Its history units go. -/
def dropSlot (s : State) (n : Nat) : State :=
  { s with rte := { s.rte with
    heldSlots := s.rte.heldSlots.filter (· != n)
    returned := if s.rte.freed.contains n then s.rte.returned
      else (s.rte.returned.filter (· < n)) ++ n :: s.rte.returned.filter (n < ·)
    histUnits := Tbl.del s.rte.histUnits n } }

/-- A page of the controller's own goes. -/
def freeInner (s : State) (id : Nat) : State := if id = noId then s else decRef s id

/-- An entry goes to FREE: token history and auxiliary block freed, SLOT_GEN advanced. -/
def freeEntry (s : State) (n : Nat) : State :=
  match getSlot s n with
  | none => s
  | some x =>
    let s1 := freeInner (freeInner s x.e.tokRoot) x.e.auxRoot
    { s1 with rte := { s1.rte with
      slots := Tbl.del s1.rte.slots n, freed := s1.rte.freed ++ [n]
      slotGen := Tbl.set s1.rte.slotGen n ((slotGenOf s1 n + 1) % 32767)
      histUnits := Tbl.del s1.rte.histUnits n } }

/-! ### Caravan records that hold an entry -/

def relWaiting (s : State) (n : Nat) : Bool := s.cve.recs.any fun kv => kv.2.cstate == .relWait && kv.2.slot == n

/-! ### Terminal transitions (03 R62, R63, R70, R71, R73) -/

/-- Release a request's reservation and pages at its home. -/
def releasePages (s : State) (e : Entry) : State :=
  if e.remoteHome then emit s (.homeRelease e.home e.gid) else detachList s e.gid

/-- The expiry event of 03 R73. -/
def expiryEvent (s : State) (gid : Nat) : State := post s Un.rte Ek.request Ec.timeout 3 St.expired gid 8

/-- An entry that holds nothing. -/
def emptied (e : Entry) : Entry :=
  { e with plistRoot := noId, resHbm := 0, resFlash := 0, usedHbm := 0, usedFlash := 0 }

/-- An entry becomes terminal. While its caravan is REL_WAIT the release waits for REL_WAIT's end (04 R91). -/
def terminate (s : State) (n : Nat) (st : RState) (ls : Nat) : State :=
  match getSlot s n with
  | none => s
  | some x =>
    let e : Entry := { x.e with
      state := st, lastStatus := ls, stateTime := now s, inStep := false, expirePend := false, cancelPend := false
      movePend := false, watch := false }
    let rw := relWaiting s n
    let s1 := setSlot s n { x with
      e := if rw then e else emptied e, lingerFrom := if rw then none else some (now s), watchTok := none, waits := []
      moveTok := none, mark := false, lossSt := none }
    let s2 := if rw then s1 else releasePages s1 x.e
    let s3 := if st = .expired then expiryEvent s2 e.gid else s2
    finishOpt s3 x.watchTok (if st = .done then St.ok else if st = .expired then St.expired else ls) e.gid st.code

/-- The release that waited for the end of REL_WAIT; the entry lingers from now. -/
def releaseLate (s : State) (n : Nat) (toHome : Bool) : State :=
  match getSlot s n with
  | none => s
  | some x =>
    if x.e.state.terminal then
      let s1 := setSlot s n { x with e := emptied x.e, lingerFrom := some (now s) }
      if toHome then releasePages s1 x.e else s1
    else s

/-! ### The end of a step or of a command (01 R25, 03 R74, R76) -/

def drainable : RState → Bool
  | .admitted => true | .prefill => true | .generate => true | .parked => true | _ => false

/-- A marked request at rest moves to DRAINING. -/
def drainIfMarked (s : State) (n : Nat) : State :=
  match getSlot s n with
  | none => s
  | some x =>
    if x.mark && drainable x.e.state && !x.e.inStep && !x.e.movePend && !relWaiting s n then
      setSlot s n { x with mark := false, e := { x.e with drainFrom := x.e.state, state := .draining, stateTime := now s } }
    else s

/-- Answer the commands that waited. -/
def answerWaits (ws : List (WaitKind × Tok)) (f : WaitKind → Nat × Nat) (s : State) : State :=
  ws.foldl (fun s w => finish s w.2 (f w.1).1 0 (f w.1).2) s

/-- What a step's or move's end does to an entry once its effects are in: expiry, then cancel, then a waiting
REQ_COMPLETE, then the drain mark. A waiting REQ_PARK or REQ_UNPARK is answered here when expiry or cancel rules. -/
def endBusy (s : State) (n : Nat) : State :=
  match getSlot s n with
  | none => s
  | some x =>
    if x.e.expirePend then
      let s1 := terminate s n .expired St.expired
      finishOpt (answerWaits x.waits (fun _ => (St.expired, 0)) s1) x.moveTok St.expired 0 0
    else if x.e.cancelPend then
      let s1 := terminate s n .failed St.ok
      finishOpt (answerWaits x.waits (fun w => if w = .cancel then (St.ok, 0) else (St.state, 9)) s1) x.moveTok St.state 0 9
    else if x.waits.isEmpty then drainIfMarked s n
    else answerWaits x.waits (fun _ => (St.ok, 0)) (terminate s n .done St.ok)

/-- The end of a park, an unpark or a home move: the waiting command is answered, unless an expiry or a cancel rules
(03 R74). -/
def endMove (s : State) (n st r0 : Nat) : State :=
  match getSlot s n with
  | none => s
  | some x =>
    let x1 := { x with e := { x.e with movePend := false, inStep := false }, moveReady := false, moveDest := 0 }
    if x.e.expirePend || x.e.cancelPend then endBusy (setSlot s n x1) n
    else endBusy (finishOpt (setSlot s n { x1 with moveTok := none }) x.moveTok st r0 0) n

/-- An unrecoverable error: the entry goes to FAILED, and every command that waits on it is answered (03 R57, R62, R78). -/
def failEntry (s : State) (n st : Nat) : State :=
  match getSlot s n with
  | none => s
  | some x =>
    let s1 := answerWaits x.waits (fun w => if w = .cancel then (St.ok, 0) else (St.state, 9)) (terminate s n .failed st)
    finishOpt s1 x.moveTok St.state 0 9

/-! ### The deadline watch (03 R72, R73, R76) -/

/-- The entry's bucket of 1,024 ns has passed its end. -/
def bucketEnded (s : State) (e : Entry) : Bool := decide ((e.deadline / 1024 + 1) * 1024 ≤ now s)

/-- The watch has still to act on the entry: it is in the wheel, and neither EXPIRE_PEND nor a cancel that came first
stands. -/
def watchActs (e : Entry) : Bool :=
  e.deadline != 0 && !e.state.terminal && e.state != .handoff && !e.expirePend && !((e.inStep || e.movePend) && e.cancelPend)

/-- The deadline watch on an entry: EXPIRED, or EXPIRE_PEND while a step or a move runs (03 R73, R74). -/
def watchFires (s : State) (n : Nat) : State :=
  match getSlot s n with
  | none => s
  | some x =>
    if x.e.inStep || x.e.movePend then
      if x.e.cancelPend then s else updEntry s n fun e => { e with expirePend := true }
    else terminate s n .expired St.expired

/-- A watch that is due reaches the entry before the event that calls this (03 R76). -/
def watchFirst (s : State) (n : Nat) : State :=
  match getSlot s n with
  | none => s
  | some x => if watchActs x.e && bucketEnded s x.e then watchFires s n else s

/-- Move to a state. -/
def setState (s : State) (n : Nat) (st : RState) : State :=
  updEntry s n fun e => { e with state := st, stateTime := now s }

/-! ### Page loss (03 R78) -/

/-- Charge a parked request's RES_HBM again, releasing its flash charge. -/
def chargeHbm (s : State) (gid : Nat) : Option State :=
  match Tbl.get s.rte.resv gid with
  | none => none
  | some r =>
    if capsOk { s with rte := { s.rte with resv := Tbl.del s.rte.resv gid } } r.cls r.tenant r.hbm && hbmFits s r.hbm then
      some (setResv s gid { r with onFlash := false })
    else none

/-- Of two losses the one that ends the request rules. -/
def worse (a : Option KeptLoss) (b : KeptLoss) : KeptLoss :=
  match a with
  | some x => if x.fatal then x else b
  | none => b

/-- R78 at the entry. An entry in HANDOFF keeps the loss for its caravan's end; one in a step keeps it for the step's end.
A request whose token history or entry is lost goes to FAILED. -/
def applyLoss (s : State) (n : Nat) (z : KeptLoss) : State :=
  match getSlot s n with
  | none => s
  | some x =>
    let st := z.st
    let charged := z.charged
    if x.e.state.terminal then s
    else if x.e.state = .handoff || (x.e.inStep && !x.e.movePend) then setSlot s n { x with lossSt := some (worse x.lossSt z) }
    else if z.fatal then failEntry (post s Un.rte Ek.request Ec.loss 1 st x.e.gid (handleOf n x.e.slotGen)) n st
    else
      let s1 := post s Un.rte Ek.request Ec.loss 1 st x.e.gid (handleOf n x.e.slotGen)
      let e : Entry := { x.e with ctxLen := 0, lastStatus := st, usedHbm := 0, usedFlash := 0 }
      let after (f : RState) : RState :=
        if f = .parked then (if charged then .admitted else .parked) else .admitted
      let e1 :=
        if e.state = .draining then
          { e with drainFrom := after e.drainFrom, prior := if e.drainFrom = .parked && !charged then .admitted else e.prior }
        else if e.state = .parked then
          if charged then { e with state := .admitted, stateTime := now s } else { e with prior := .admitted }
        else if e.state = .prefill || e.state = .generate then { e with state := .admitted, stateTime := now s }
        else e
      drainIfMarked (setSlot s1 n { x with e := e1, lossSt := none }) n

/-- A request of an open step whose pages are lost ends its part in it with the loss's status (09 R270). -/
def stepLoss (s : State) (gid st : Nat) : State :=
  { s with att := { s.att with steps := Tbl.map s.att.steps fun _ x =>
      { x with reqs := x.reqs.map fun r => if r.gid = gid && r.st = St.ok then { r with st := st } else r } } }

/-- A caravan pulled here keeps a loss of its request's pages for the commit (03 R78). -/
def pullLoss (s : State) (gid : Nat) (z : KeptLoss) : State :=
  { s with cve := { s.cve with recs := Tbl.map s.cve.recs fun _ r =>
      if r.cstate = .pulling && r.gid = gid then { r with loss := some z } else r } }

/-- Pages of a list homed here are lost: the list is emptied, a parked request's charge is tried again, and the owner is
told (03 R78, 05 R136). -/
def loseList (s : State) (gid st : Nat) : State :=
  match getList s gid with
  | none => s
  | some l =>
    let parked := match Tbl.get s.rte.resv gid with
      | some r => r.onFlash
      | none => false
    let s1 := stepLoss (truncate s gid 0) gid st
    let (charged, s2) := if parked then (match chargeHbm s1 gid with
      | some s2 => (true, s2)
      | none => (false, s1)) else (false, s1)
    match slotOfGid s2 gid with
    | some n => applyLoss s2 n ⟨st, charged, false⟩
    | none => if l.owner = me s2 then s2 else emit (pullLoss s2 gid ⟨st, charged, false⟩) (.pageLoss l.owner gid st charged)

/-! ### Naming a request in a command (03 R58, R62, 04 R91) -/

def findEntry (s : State) (h : Nat) : Option (Nat × Slot) :=
  match getSlot s (h >>> 15) with
  | some x => if x.e.slotGen = h % 32768 && h < 2 ^ 32 then some (h >>> 15, x) else none
  | none => none

/-- Step 11 of R50 for a handle. -/
def Cmd.entry (c : Cmd) (s : State) (h : Nat) : Except Ans (Nat × Slot) :=
  match findEntry s h with
  | none => stop St.notFound
  | some (n, x) => if c.tenantOk x.e.tenant then .ok (n, x) else stop St.accessViolation

/-- ST_STATE with the present state in DETAIL[3:0] (03 R62). -/
def wrongState (e : Entry) : Ans := { st := some St.state, detail := e.state.code }

/-- State checks every command naming an entry makes before its own: REL_WAIT, then EXPIRED. -/
def openEntry (s : State) (n : Nat) (x : Slot) : Except Ans Unit :=
  if x.e.state = .expired then stop St.expired
  else if relWaiting s n then stop St.busy
  else .ok ()

/-- The state is one of a list, else ST_STATE. -/
def stateIn (e : Entry) (l : List RState) : Except Ans Unit := if l.contains e.state then .ok () else .error (wrongState e)

/-- ADMITTED, PREFILL, GENERATE, or DRAINING from other than PARKED (05 R137). -/
def stepState (e : Entry) : Bool :=
  e.state == .admitted || e.state == .prefill || e.state == .generate || (e.state == .draining && e.drainFrom != .parked)

def stateErr (b : Bool) (e : Entry) : Except Ans Unit := if b then .ok () else .error (wrongState e)

/-! ### Admission (03 R67) -/

/-- Admission is open: no role change pending, no trial before its first heartbeat, device time synchronized, not marked
LOST or fenced, not a mirage (01 R25, 14 R396, 10 R304, 04 R95, 12 R355). -/
def admissionOpen (s : State) : Bool :=
  s.hcu.pendingRole == 0 && !(s.sbu.trial && !s.sbu.trialBeat) && s.clk.synced && !shunned s && s.mru.st != .shadow

/-- A request with this identifier is here, waits for its admission, or is on its way here in a caravan: the identifier is
held (03 R59, R67 step 2, 04 R89 step 2). -/
def gidHeld (s : State) (gid : Nat) : Bool :=
  (slotOfGid s gid).isSome || Tbl.has s.rte.homeWaits gid || s.cve.recs.any fun kv => kv.2.cstate == .pulling && kv.2.gid == gid

/-- An origin sequence may be drawn: its block's mark is committed (03 R59). -/
def seqReady (s : State) : Bool := decide (s.rte.originSeq < s.rte.markEnd)

/-- Draw an origin sequence; when half of a block has been issued the next block's mark is journaled. -/
def drawSeq (s : State) : Nat × State :=
  let q := s.rte.originSeq
  let s1 := { s with rte := { s.rte with originSeq := (q + 1) % 2 ^ 48 } }
  let next := (q / 2 ^ 20 + 2) * 2 ^ 20
  if (q + 1) % 2 ^ 20 = 2 ^ 19 && s1.rte.markAsked < next then
    (q, journal { s1 with rte := { s1.rte with markAsked := next } } .idMark (next / 2 ^ 20) 1 zeroEntry 0)
  else (q, s1)

end Sys2Proof.Machine
end

