-- ==== Sys2Proof/Machine/AuxBlock.lean ====
section
/-! DEFINITION. The service floor (15 R415) and auxiliary blocks: room, count entries (09 R243, R244). -/

namespace Sys2Proof.Machine

/-- Bytes of a ban list: a count and the tokens; a single token needs none (09 R261). -/
def banListLen (x : BanItem) : Nat := if x.toks.length ≤ 1 then 0 else 4 + 4 * x.toks.length

/-- Bytes of the service floor in use beside staging: codec tables, kernels, event spill, ban lists, auxiliary blocks, and
those of caravans pulled here (04 R88). -/
def serviceUsed (s : State) : Nat :=
  s.cdu.slots.foldl (fun a kv => a + kv.2.gens.foldl (fun b g => b + 64 + g.body.length) 0) 0
    + s.cax.kernels.foldl (fun a kv => a + kv.2.code.length) 0
    + s.tsu.evq.foldl (fun a kv => a + 32 * 1024 * kv.2.spill) 0
    + s.att.bans.foldl (fun a kv => a + kv.2.items.foldl (fun b x => b + banListLen x) 0) 0
    + s.rte.slots.foldl (fun a kv => a + auxLen kv.2.aux) 0
    + s.cve.recs.foldl (fun a kv => a + if kv.2.cstate = .pulling then kv.2.auxBytes else 0) 0

/-- `n` more bytes fit. -/
def serviceFits (s : State) (n : Nat) : Bool :=
  decide (serviceUsed s + n ≤ (s.ppm.serviceFloor - s.ppm.staging) * 65536)

/-- Count one token: its entry's counter, or a new entry in TOKEN order. -/
def countOne (gen : Bool) (t : Nat) : List Count → List Count
  | [] => [⟨t, !gen, b2n gen⟩]
  | c :: cs =>
    if t < c.token then ⟨t, !gen, b2n gen⟩ :: c :: cs
    else if t = c.token then { c with promptSeen := c.promptSeen || !gen, genCount := c.genCount + b2n gen } :: cs
    else c :: countOne gen t cs

def countAll (gen : Bool) (ts : List Nat) (cs : List Count) : List Count := ts.foldl (fun a t => countOne gen t a) cs

/-- CAP for a number of entries: a multiple of 64, at least 64. -/
def capFor (n : Nat) : Nat := max 64 (ceilDiv n 64 * 64)

/-- The block after accepted generated tokens; none past 131,008 entries (09 R244). -/
def auxCount (a : Aux) (ts : List Nat) : Option Aux :=
  let cs := countAll true ts a.counts
  if 131008 < cs.length then none else some { a with counts := cs, cap := max a.cap (capFor cs.length) }

/-- Accept generated tokens into a slot: history, GEN_LEN, count entries. -/
def acceptTokens (x : Slot) (ts : List Nat) (aux : Option Aux) : Slot :=
  { x with hist := x.hist ++ ts, aux := aux, e := { x.e with genLen := x.e.genLen + ts.length } }

/-- The block after accepted tokens, where there is one; none past its entries' limit. -/
def auxAfter (x : Slot) (ts : List Nat) : Option (Option Aux) :=
  match x.aux with
  | none => some none
  | some a => (auxCount a ts).map some

end Sys2Proof.Machine
end

