-- ==== Sys2Proof/Machine/Commit.lean ====
section
/-! DEFINITION. The mirror stream (12 R343 to R347): the records a step sends for what it changed, the reports they hold,
and `commit`, which every command's effect passes through. -/

namespace Sys2Proof.Machine

/-! ### Map journal records as bytes (06 R145, R158) -/

def Place.code : Place → Nat
  | .zero => 0 | .hbm => 1 | .flash => 2 | .lost => 3

/-- A tier-map entry as 64 bits. -/
def tentryNat (t : TEntry) : Nat :=
  t.loc ||| t.restarts <<< 52 ||| t.hint <<< 54 ||| t.heat <<< 57 ||| b2n t.moving <<< 61 ||| t.place.code <<< 62

def JType.code : JType → Nat
  | .map => 1 | .trim => 2 | .bandOpen => 3 | .bandClose => 4 | .blockRetire => 5 | .idMark => 6 | .checkpoint => 7
  | .saveSeal => 8

/-- The 32-byte journal record, CHECK last computed over bytes 4 to 31. -/
def jrecBytes (r : JRec) : Bytes :=
  let b := (leBytes 32 (r.oldLoc <<< 35 ||| tentryNat r.new <<< 68 ||| r.count <<< 132 ||| r.granule <<< 164
    ||| r.type.code <<< 204 ||| (r.seq % 2 ^ 48) <<< 208)).drop 4
  leBytes 4 (crc32c b) ++ b

/-! ### Bulletins (09 R268) -/

def bulletinFull (b : Bulletin) : Bool := (b.tail + 1) % b.slots == b.head

/-- Write a bulletin into its ring's next slot, its entries first; bit 0 of the header is the ring's phase, its top 64 bits
device time. -/
def writeBulletin (s : State) (r : Nat) (b : Bulletin) (bs : Bytes) : State :=
  let t := (b.tail + 1) % b.slots
  let hdr := leNat (bs.take 64)
  let h := leBytes 64 (hdr % 2 ^ 448 ||| b2n b.phase ||| (now s) <<< 448)
  let b1 := { b with tail := t, phase := if t = 0 then !b.phase else b.phase }
  let at_ := b.base + b.tail * 64 * (1 + b.maxBatch)
  let s1 := { s with att := { s.att with bulletins := Tbl.set s.att.bulletins r b1 } }
  emit (emit s1 (.bus b.port (at_ + 64) (bs.drop 64))) (.bus b.port at_ h)

/-- Deliver a bulletin, or let it wait while the ring is full. -/
def deliverBulletin (s : State) (r : Nat) (bs : Bytes) : State :=
  match Tbl.get s.att.bulletins r with
  | none => s
  | some b =>
    if bulletinFull b || !b.waiting.isEmpty then
      { s with att := { s.att with bulletins := Tbl.set s.att.bulletins r { b with waiting := b.waiting ++ [bs] } } }
    else writeBulletin s r b bs

/-- Write waiting bulletins as far as there is room. -/
def flushBulletins (r : Nat) : Nat → State → State
  | 0, s => s
  | n + 1, s =>
    match Tbl.get s.att.bulletins r with
    | none => s
    | some b =>
      match b.waiting with
      | [] => s
      | x :: rest => if bulletinFull b then s else flushBulletins r n (writeBulletin s r { b with waiting := rest } x)

/-! ### Reports (12 R347) -/

def deliver (s : State) (r : Report) : State :=
  match r with
  | .cpl c => deliverCpl s c
  | .send x => emit s x
  | .bulletin r bs => deliverBulletin s r bs

/-- Make a report: held while mirroring, otherwise at once. -/
def report (s : State) (r : Report) : State :=
  if mirroring s then { s with mru := { s.mru with held := s.mru.held ++ [⟨0, r⟩] } } else deliver s r

/-- Release every held report. -/
def releaseHeld (s : State) : State :=
  s.mru.held.foldl (fun a h => deliver a h.what) { s with mru := { s.mru with held := [] } }

/-- Release the reports whose records the partner has acknowledged. -/
def releaseAcked (s : State) : State :=
  let go := s.mru.held.filter fun h => h.mseq ≤ s.mru.mseqAcked
  go.foldl (fun a h => deliver a h.what) { s with mru := { s.mru with held := s.mru.held.filter fun h => s.mru.mseqAcked < h.mseq } }

/-! ### Records -/

def crcMore (c : Nat) (bs : Bytes) : Nat := bs.foldl (fun c b => crcStep 8 (c ^^^ b.toNat)) (c ^^^ 0xFFFFFFFF) ^^^ 0xFFFFFFFF

/-- The pair port the stream uses: 16, or 17 while 16 is lost to the pair. -/
def streamPort (s : State) : Nat := if 3 ≤ s.mru.miss16 && s.mru.miss17 < 3 then 17 else 16

/-- Send one mirror record: it takes the next MSEQ, and is kept until the partner has acknowledged it (12 R344). -/
def mirrorSend (s : State) (kind object offset : Nat) (body : Bytes) : State :=
  let q := s.mru.mseqSent + 1
  let r : MirRec := ⟨streamPort s, object, q, crc32c body, offset, body.length, 0, kind, body⟩
  let s1 := { s with
    mru := { s.mru with mseqSent := q }, mir := { s.mir with unacked := s.mir.unacked ++ [r], sentAt := now s } }
  emit s1 (.mirror r)

/-- A body sent in records of at most 65,536 bytes; the offset advances with `unit` bytes of body to one step. -/
def mirrorParts (kind object unit : Nat) : Nat → Nat → Bytes → State → State
  | 0, _, _, s => s
  | k + 1, off, bs, s =>
    if bs.isEmpty then s
    else mirrorParts kind object unit k (off + 65536 / unit) (bs.drop 65536) (mirrorSend s kind object off (bs.take 65536))

def mirrorBody (s : State) (kind object unit off : Nat) (bs : Bytes) : State :=
  mirrorParts kind object unit (bs.length / 65536 + 1) off bs s

/-- An entry's image, which joins the mirror step's digest. -/
def mirrorEntry (s : State) (e : Entry) : State :=
  let im := entryImage e
  let s1 := { s with mir := { s.mir with
    digestSent := crcMore s.mir.digestSent im
    changed := if s.mir.changed.contains e.gid then s.mir.changed else s.mir.changed ++ [e.gid] } }
  mirrorSend s1 1 e.gid 0 im

/-- Ask the partner to hold slots and units (12 R343). A CHARGE that asks carries ST_PENDING as its status. -/
def sendCharge (s : State) (what : ChargeFor) (slots units : Nat) : State :=
  mirrorSend { s with mir := { s.mir with charges := s.mir.charges ++ [(what, slots, units)] } } 9
    (slots <<< 46 ||| units <<< 22 ||| St.pending) 0 []

/-- Where two byte strings first differ. -/
def diffAt : Nat → Bytes → Bytes → Nat
  | n, x :: xs, y :: ys => if x = y then diffAt (n + 1) xs ys else n
  | n, _, _ => n

/-- The first list position where two lists of pages differ. -/
def pageDiffAt : Nat → List Nat → List Nat → Nat
  | n, x :: xs, y :: ys => if x = y then pageDiffAt (n + 1) xs ys else n
  | n, _, _ => n

def auxBytes (a : Option Aux) : Bytes :=
  match a with
  | none => []
  | some a => auxImage a

/-- Records for one slot's change. -/
def mirrorSlot (s0 : State) (s : State) (kv : Nat × Slot) : State :=
  let x := kv.2
  let old := getSlot s0 kv.1
  if old = some x then s
  else
    let same : Bool := match old with
      | some o => decide (o.e.gid = x.e.gid)
      | none => false
    let oldHist : Nat := match old with
      | some o => if same then o.hist.length else 0
      | none => 0
    let oldAux : Bytes := match old with
      | some o => if same then auxBytes o.aux else []
      | none => []
    let s1 := if (match old with
      | some o => o.e != x.e
      | none => true) then mirrorEntry s x.e else s
    let s2 := mirrorBody s1 2 x.e.gid 4 oldHist (histBytes (x.hist.drop oldHist))
    let na := auxBytes x.aux
    if na = oldAux then s2
    else
      let k := diffAt 0 oldAux na
      mirrorBody s2 3 x.e.gid 1 k (na.drop k)

/-- An entry that went to FREE: an image with STATE FREE drops it. -/
def mirrorGone (s1 : State) (s : State) (kv : Nat × Slot) : State :=
  if (match getSlot s1 kv.1 with
    | some x => x.e.gid == kv.2.e.gid
    | none => false) then s
  else mirrorEntry s { kv.2.e with state := .free }

def mirrorCvn (s0 : State) (s : State) (kv : Nat × Caravan) : State :=
  if (match Tbl.get s0.cve.recs kv.1 with
    | some o => o.cstate == kv.2.cstate
    | none => false) then s
  else mirrorSend s 4 (objCaravan kv.2.src kv.2.cvnId) 0 (caravanImage kv.2)

/-- A list from a position up, in records of the header and at most 16,368 entries. -/
def mirrorPlist (l : PList) : Nat → Nat → List Nat → State → State
  | 0, _, _, s => s
  | k + 1, off, ps, s =>
    let s1 := mirrorSend s 5 l.gid off (plistImage l ++ histBytes (ps.take 16368))
    if (ps.drop 16368).isEmpty then s1 else mirrorPlist l k (off + 16368) (ps.drop 16368) s1

def mirrorListFrom (s : State) (l : PList) (off : Nat) : State :=
  mirrorPlist l ((l.pages.length - off) / 16368 + 1) off (l.pages.drop off) s

def mirrorList (s0 : State) (s : State) (kv : Nat × PList) : State :=
  match Tbl.get s0.ppm.lists kv.1 with
  | some o => if o = kv.2 then s else mirrorListFrom s kv.2 (pageDiffAt 0 o.pages kv.2.pages)
  | none => mirrorListFrom s kv.2 0

/-- A list that left the directory: a header without pages or reservation. -/
def mirrorListGone (s1 : State) (s : State) (kv : Nat × PList) : State :=
  if Tbl.has s1.ppm.lists kv.1 then s
  else mirrorSend s 5 kv.1 0 (plistImage { kv.2 with pages := [], shared := 0, resUnits := 0, usedUnits := 0, ctxLen := 0 })

/-- The stored cells of a page. -/
def pageCells (s : State) (id : Nat) : List Host.Cell :=
  (granules (apGranule + id) (pageGranules id)).flatMap fun g =>
    let t := tmap s g
    let src := if t.place = .hbm then s.tfm.hbm else if t.place = .flash then s.tfm.flash else []
    memSlice src (t.loc * 4096) 4096 ((g - apGranule - id) * 4096)

/-- The bytes of a page, as stored. -/
def mirrorPage (s : State) (id : Nat) : State :=
  let m := match getPage s id with
    | some p => p.mask
    | none => 0
  mirrorBody s 6 (m <<< 32 ||| id) 1 0 (peekN s (pageAddr id) (psize (pageClassOf id)))

/-- The pages of a DURABLE list homed here, where their bytes changed. -/
def mirrorPages (s0 s1 : State) (s : State) (kv : Nat × PList) : State :=
  if (match Tbl.get s1.rte.resv kv.1 with
    | some r => r.durable
    | none => false) then
    kv.2.pages.foldl (fun a id => if pageCells s0 id = pageCells s1 id then a else mirrorPage a id) s
  else s

def mirrorJournal (s0 s1 : State) (s : State) : State :=
  (s1.jnl.buf.filter fun r => s0.jnl.seq ≤ r.seq).foldl (fun a r => mirrorSend a 7 0 0 (jrecBytes r)) s

/-- Every record of a step's changes (12 R345). -/
def mirrorChanges (s0 s1 : State) : State :=
  let a := s1.ppm.lists.foldl (mirrorList s0) s1
  let b := s0.ppm.lists.foldl (mirrorListGone s1) a
  let c := s1.ppm.lists.foldl (mirrorPages s0 s1) b
  let d := s1.rte.slots.foldl (mirrorSlot s0) c
  let e := s0.rte.slots.foldl (mirrorGone s1) d
  let f := s1.cve.recs.foldl (mirrorCvn s0) e
  mirrorJournal s0 s1 f

/-- STEP records of one close: each holds STATE_DIGEST and at most 1,023 bulletin entries. -/
def mirrorStepRec (object : Nat) (dig : Nat) : Nat → Bytes → State → State
  | 0, _, s => s
  | k + 1, es, s =>
    let s1 := mirrorSend s 8 object 0 (leBytes 4 dig ++ es.take 65472)
    if (es.drop 65472).isEmpty then s1 else mirrorStepRec object dig k (es.drop 65472) s1

/-- A mirror step ends: its STEP records go out, a new digest begins, and what changed in it is kept for a mismatch. -/
def mirrorStepEnd (tag : Nat) (es : Bytes) (s : State) : State :=
  let s1 := mirrorStepRec (tag <<< 32 ||| crc32c es) s.mir.digestSent 2 es s
  let steps := (s1.mir.steps ++ [(s1.mru.mseqSent, s1.mir.changed)])
  { s1 with
    mir := { s1.mir with digestSent := 0, changed := [], steps := steps.drop (steps.length - 64) }
    mru := { s1.mru with stepAt := now s1 } }

/-- The STEP records of the batch steps closed in this command. -/
def mirrorCloses (s : State) : State :=
  s.mir.closes.foldl (fun a te => mirrorStepEnd te.1 te.2 a) { s with mir := { s.mir with closes := [] } }

/-- Records are sent in JOINING and PAIRED, and while a BROKEN pair resynchronizes (12 R356). -/
def streaming (s : State) : Bool := mirroring s || (s.mru.st == .broken && s.mir.resync)

/-- The end of a step: while a partner mirrors, the records of what changed are sent, and the step's reports wait for the
last of them, or leave at once where nothing mirrored changed. Without a partner no report is held. -/
def settle (s0 s1 : State) : State :=
  if streaming s1 then
    let s2 := mirrorCloses (mirrorChanges s0 s1)
    let q := if s2.mru.mseqSent = s0.mru.mseqSent then 0 else s2.mru.mseqSent
    let s3 := { s2 with mru := { s2.mru with held := s2.mru.held.map fun h => if h.mseq = 0 then { h with mseq := q } else h } }
    if q = 0 then
      (s3.mru.held.filter fun h => h.mseq = 0).foldl (fun a h => deliver a h.what)
        { s3 with mru := { s3.mru with held := s3.mru.held.filter fun h => h.mseq != 0 } }
    else s3
  else releaseHeld s1

/-- What a command's effect passes through: the void grants of the step, then the mirror stream. With the fast clocks
stopped nothing happens but what the always-on island does (13 R382), which settles its effects itself. -/
def commit (s0 s1 : State) : State := if clocked s0 then settle s0 (voidFalls s0 s1) else s0

end Sys2Proof.Machine
end

