-- ==== Sys2Proof/Machine/Home.lean ====
section
/-! DEFINITION. Commands that the home of a request applies (05 R122, 09 R242): the message a home acts on, whether the
command was issued here or forwarded, and the forward itself. -/

namespace Sys2Proof

namespace Machine

/-- What a home answers: an answer and the next state, or a rejection. -/
abbrev HomeAct := FwdMsg → State → Except Ans (Ans × State)

def orFull {α : Type} (o : Option α) : Except Ans α :=
  match o with
  | none => stop St.noCapacity
  | some x => .ok x

/-- What a command tells the home of one request. -/
def fwdReq (s : State) (n : Nat) : FwdReq :=
  match getSlot s n with
  | none => ⟨0, noId, 0, 0, 0, [], []⟩
  | some x => ⟨x.e.gid, handleOf n x.e.slotGen, x.e.genLen, x.e.promptLen, x.e.maxNew, x.hist, auxBytes x.aux⟩

/-- A check as a message carries it: its status and DETAIL. -/
def verdict : Except Ans Unit → Nat × Nat
  | .ok _ => (St.ok, 0)
  | .error a => (a.st.getD St.ok, a.detail)

/-- The message for a command naming the requests in slots `ns`, with the owner's checks of their state. -/
def homeMsg (s : State) (c : Cmd) (op id : Nat) (ns : List Nat) (checks : List (Except Ans Unit) := []) : FwdMsg :=
  ⟨me s, id, op, c.tenant, c.priv == .tenant, c.target, c.resLen, c.pay, ns.map (fwdReq s), [], 0, epochNum s,
    checks.map verdict⟩

/-- Forward a command to a remote home; it completes at the answer, or after 1 ms without one. `left` and `slot` are the
requests that an opening leaves out and the codec slot of all it names. -/
def sendForwardOf (left : List Nat) (slot : Nat) (s : State) (c : Cmd) (op dst tag : Nat) (ns : List Nat)
    (checks : List (Except Ans Unit) := []) : State :=
  let id := s.ppm.nextFwd
  let s1 := { s with ppm := { s.ppm with
    nextFwd := (id + 1) % 2 ^ 32, fwds := Tbl.set s.ppm.fwds id ⟨dst, op, ns, tag, c.tok, now s, epochNum s⟩ } }
  emit s1 (.fwd dst { homeMsg s c op id ns checks with left := left, codecSlot := slot })

def sendForward (s : State) (c : Cmd) (op dst tag : Nat) (ns : List Nat) (checks : List (Except Ans Unit) := []) : State :=
  sendForwardOf [] 0 s c op dst tag ns checks

/-- Apply a command at the home of an entry: here, or forwarded. `own` is what the owner does once it is applied; `checks`
are its checks of the entries' state. -/
def atHome (op : Nat) (c : Cmd) (ns : List Nat) (e : Entry) (checks : List (Except Ans Unit)) (act : HomeAct)
    (own : State → State) (s : State) : Except Ans (Ans × State) :=
  if e.remoteHome then .ok (laterAns, sendForward s c op e.home 0 ns checks)
  else
    match act (homeMsg s c op 0 ns checks) s with
    | .error a => .error a
    | .ok (a, s1) => .ok (a, own s1)

end Machine

/-- Payload field [hi:lo] of a forwarded command. -/
def FwdMsg.fld (m : FwdMsg) (hi lo : Nat) : Nat := Machine.bits (Machine.leNat (m.pay.take 128)) hi lo

/-- The owner's `i`-th check of the entry's state, in its turn. -/
def FwdMsg.check (m : FwdMsg) (i : Nat) : Except Machine.Ans Unit :=
  match m.checks[i]? with
  | none => .ok ()
  | some v => if v.1 = Machine.St.ok then .ok () else .error { st := some v.1, detail := v.2 }

/-- The list of a message's first request at this home. -/
def FwdMsg.list (m : FwdMsg) (s : Machine.State) : Except Machine.Ans Machine.PList :=
  match m.reqs with
  | [] => Machine.stop Machine.St.notFound
  | q :: _ => match Machine.getList s q.gid with
    | none => Machine.stop Machine.St.notFound
    | some l => .ok l

end Sys2Proof
end

