-- ==== Sys2Proof/Machine/PrefixIndex.lean ====
section
/-! DEFINITION. The prefix index (05 R127 to R133). -/

namespace Sys2Proof.Machine

def noNode : Nat := 0xFFFFFFFF

def nodeHandle (s : State) (i : Nat) : Nat := Tbl.getD s.ppm.nodeGen i 0 <<< 24 ||| i

/-- The node a handle names: its generation is the present one. -/
def findNode (s : State) (h : Nat) : Option (Nat × PNode) :=
  let i := h % 2 ^ 24
  match Tbl.get s.ppm.nodes i with
  | some n => if nodeHandle s i = h then some (i, n) else none
  | none => none

/-- A node is visible to a tenant when its TENANT is 0 or that tenant (05 R127). -/
def nodeVisible (n : PNode) (tenant : Nat) : Bool := n.tenant == 0 || n.tenant == tenant

def wordBytes (ts : List Nat) : Bytes := ts.flatMap (leBytes 4)

/-- KEY of the first chunk, and of each next chunk from the key before it (05 R128). -/
def nextKey (key : Nat) (toks : List Nat) : Nat := crcMore key (wordBytes toks)

def nsKey (ns : Nat) : Nat := crc32c (leBytes 4 ns)

/-- The end of a bucket's chain. -/
def noIndex : Nat := 0xFFFFFF

/-- The bucket of a key (05 R128). -/
def bucketOf (key : Nat) : Nat := key % 2 ^ 24

/-- The nodes of a chain from an index on. -/
def chainFrom (s : State) : Nat → Nat → List (Nat × PNode)
  | 0, _ => []
  | fuel + 1, i =>
    match Tbl.get s.ppm.nodes i with
    | none => []
    | some n => (i, n) :: chainFrom s fuel n.chain

/-- The nodes of a key's bucket. -/
def bucket (s : State) (key : Nat) : List (Nat × PNode) :=
  chainFrom s s.ppm.nodes.length (Tbl.getD s.ppm.heads (bucketOf key) noIndex)

/-- A node comes into its bucket, at the chain's head (DESIGN CHOICE, entry 47). -/
def linkNode (s : State) (i : Nat) (n : PNode) : State :=
  let b := bucketOf n.key
  { s with ppm := { s.ppm with
    nodes := Tbl.set s.ppm.nodes i { n with chain := Tbl.getD s.ppm.heads b noIndex }, heads := Tbl.set s.ppm.heads b i } }

/-- A node leaves its bucket: what named it in the chain names the next. -/
def unlinkNode (s : State) (i : Nat) (n : PNode) : State :=
  let b := bucketOf n.key
  { s with ppm := { s.ppm with
    nodes := Tbl.map (Tbl.del s.ppm.nodes i) fun _ m => if m.chain = i then { m with chain := n.chain } else m
    heads := if Tbl.getD s.ppm.heads b noIndex != i then s.ppm.heads
      else if n.chain = noIndex then Tbl.del s.ppm.heads b else Tbl.set s.ppm.heads b n.chain } }

/-- Walk the chunks: the matched nodes, level 1 first, along the parent that leads deepest (05 R129). -/
def walk (s : State) (ns tenant : Nat) : Nat → Nat → Nat → Nat → List Nat → List Nat
  | 0, _, _, _, _ => []
  | fuel + 1, level, key, parent, toks =>
    if toks.length < 16 then []
    else
      let ch := toks.take 16
      let k := nextKey key ch
      let fits := (bucket s k).filter fun kv => kv.2.key == k && kv.2.ns == ns && kv.2.depthTokens == 16 * level &&
          nodeVisible kv.2 tenant && kv.2.parent == parent && kv.2.toks == ch
      fits.foldl (fun best kv =>
        let path := kv.1 :: walk s ns tenant fuel (level + 1) k (nodeHandle s kv.1) (toks.drop 16)
        if best.length < path.length then path else best) []

def lookup (s : State) (ns tenant : Nat) (toks : List Nat) : List Nat :=
  walk s ns tenant (toks.length / 16) 1 (nsKey ns) noNode toks

/-- Set LAST_HIT. -/
def hitNodes (s : State) (is : List Nat) : State :=
  { s with ppm := { s.ppm with nodes := is.foldl (fun t i => Tbl.upd t i fun n => { n with lastHit := now s }) s.ppm.nodes } }

/-- RESULT0 of a lookup: handle and depth of the deepest match. -/
def lookupR0 (s : State) (is : List Nat) : Nat :=
  match is.getLast? with
  | none => noNode <<< 32
  | some i => nodeHandle s i <<< 32 ||| 16 * is.length

/-- Evict one node: unlinked from parent and prefix list, generation advanced; a list no node names is dropped and its
pages reclaimed (05 R133). -/
def evictNode (s : State) (i : Nat) : State :=
  match Tbl.get s.ppm.nodes i with
  | none => s
  | some n =>
    let s0 := unlinkNode s i n
    let up := Tbl.upd s0.ppm.nodes (n.parent % 2 ^ 24) fun p => { p with children := p.children - 1 }
    let s1 := { s0 with ppm := { s0.ppm with
      nodes := if n.parent = noNode then s0.ppm.nodes else up
      nodeGen := Tbl.set s0.ppm.nodeGen i ((Tbl.getD s0.ppm.nodeGen i 0 + 1) % 255) } }
    match Tbl.get s1.ppm.plists n.plist with
    | none => s1
    | some l =>
      let l1 := { l with nodeRefs := l.nodeRefs - 1, gen := (l.gen + 1) % 2 ^ 32 }
      let s2 := { s1 with ppm := { s1.ppm with plists := Tbl.set s1.ppm.plists n.plist l1 } }
      if l.nodeRefs ≤ 1 then reclaimAll (dropPrefixList s2 n.plist) else s2

/-- A node's subtree, leaves first. -/
def subtree (s : State) : Nat → Nat → List Nat
  | 0, i => [i]
  | fuel + 1, i =>
    ((s.ppm.nodes.filter fun kv => kv.2.parent == nodeHandle s i).flatMap fun kv => subtree s fuel kv.1) ++ [i]

/-- The least-recently-hit leaf, outside a list of nodes. -/
def lruLeaf (s : State) (keep : List Nat) : Option Nat :=
  (s.ppm.nodes.foldl (fun (b : Option (Nat × Nat)) kv =>
    if kv.2.children != 0 || keep.contains kv.1 then b
    else match b with
      | none => some (kv.1, kv.2.lastHit)
      | some (_, t) => if kv.2.lastHit < t then some (kv.1, kv.2.lastHit) else b) none).map (·.1)

/-- Evict least-recently-hit leaves: at most `n`; tells how many. -/
def evictLru : Nat → State → Nat × State
  | 0, s => (0, s)
  | n + 1, s =>
    match lruLeaf s [] with
    | none => (0, s)
    | some i => let (k, s1) := evictLru n (evictNode s i); (k + 1, s1)

/-- Bytes a prefix insertion would newly charge. -/
def newPrefixBytes (s : State) (ps : List Nat) : Nat :=
  (distinct ps).foldl (fun a id => a + match getPage s id with
    | some p => if p.inPrefix then 0 else psize (pageClassOf id)
    | none => 0) 0

def prefixFits (s : State) (ps : List Nat) : Bool :=
  decide (ceilDiv (s.ppm.pages.foldl (fun a kv => a + if kv.2.inPrefix then psize (pageClassOf kv.1) else 0) 0
    + newPrefixBytes s ps) 65536 ≤ s.ppm.prefixCap)

/-- Evict leaves until the pages fit under PREFIX_CAP; none where that cannot be reached (05 R132). -/
def makeRoom (ps keep : List Nat) : Nat → State → Option State
  | 0, s => if prefixFits s ps then some s else none
  | fuel + 1, s =>
    if prefixFits s ps then some s
    else match lruLeaf s keep with
      | none => none
      | some i => makeRoom ps keep fuel (evictNode s i)

/-- Create nodes for the chunks past the matched ones. -/
def addNodes (ns tenant root : Nat) : Nat → Nat → Nat → Nat → List Nat → State → Nat × State
  | 0, _, _, parent, _, s => (parent, s)
  | fuel + 1, level, key, parent, toks, s =>
    let ch := toks.take 16
    let k := nextKey key ch
    let i := (Tbl.freeFrom s.ppm.nodes (s.ppm.nodes.length + 1) 0).getD 0
    let n : PNode := ⟨k, parent, noIndex, ns, tenant, 16 * level, 0, root, now s, ch⟩
    let up := if parent = noNode then s.ppm.nodes
      else Tbl.upd s.ppm.nodes (parent % 2 ^ 24) fun p => { p with children := p.children + 1 }
    let s1 := linkNode { s with ppm := { s.ppm with nodes := up } } i n
    addNodes ns tenant root fuel (level + 1) k (nodeHandle s1 i) (toks.drop 16) s1

/-- Evict every node that names a prefix list, with its subtree (05 R136: a page of the list is LOST). -/
def evictList (s : State) (root : Nat) : State :=
  (s.ppm.nodes.filter fun kv => kv.2.plist == root).foldl
    (fun a kv => if Tbl.has a.ppm.nodes kv.1 then (subtree a a.ppm.nodes.length kv.1).foldl evictNode a else a) s

end Sys2Proof.Machine
end

