-- ==== Sys2Proof/Machine/Float.lean ====
section
/-! DEFINITION. Floating point, exactly (08 R209): every operation computes the exact value and rounds it once, to nearest
even; nothing is flushed; a NaN operand gives the NaN 0x7FC0_0000. -/

namespace Sys2Proof.Machine

/-- A format: exponent bits, fraction bits, and whether the top exponent means infinity and NaN. -/
structure Fmt where
  ew : Nat
  fw : Nat
  inf : Bool
  deriving DecidableEq, Repr

def f32 : Fmt := ⟨8, 23, true⟩
def bf16 : Fmt := ⟨8, 7, true⟩
def fp16 : Fmt := ⟨5, 10, true⟩

/-- A value: not a number, an infinity, or sign and magnitude m × 2^e. -/
inductive Val where
  | nan
  | inf (neg : Bool)
  | fin (neg : Bool) (m : Nat) (e : Int)
  deriving DecidableEq, Repr

def Fmt.bias (f : Fmt) : Nat := 2 ^ (f.ew - 1) - 1

/-- The value of a bit pattern. -/
def Fmt.val (f : Fmt) (x : Nat) : Val :=
  let fr := x % 2 ^ f.fw
  let ex := x / 2 ^ f.fw % 2 ^ f.ew
  let neg := bit x (f.fw + f.ew)
  if f.inf && ex == 2 ^ f.ew - 1 then (if fr = 0 then .inf neg else .nan)
  else if ex = 0 then .fin neg fr (1 - (f.bias : Int) - f.fw)
  else .fin neg (fr + 2 ^ f.fw) ((ex : Int) - f.bias - f.fw)

/-- Bits in a number. -/
def bitLen (n : Nat) : Nat := if n = 0 then 0 else Nat.log2 n + 1

/-- Drop `k` low bits, to nearest even; `sticky` tells that a part below the number was already dropped. -/
def roundShift (m k : Nat) (sticky : Bool) : Nat :=
  let q := m >>> k
  let r := m % 2 ^ k
  let half := 2 ^ k / 2
  if k = 0 then q
  else if half < r || (r == half && (sticky || q % 2 == 1)) then q + 1 else q

/-- The bit pattern of m × 2^e (plus a dropped part) in a format, to nearest even. A result past the largest finite value
is an infinity, or the largest finite value where `sat`. -/
def Fmt.round (f : Fmt) (sat neg : Bool) (m : Nat) (e : Int) (sticky : Bool) : Nat :=
  let s := b2n neg <<< (f.fw + f.ew)
  if m = 0 then s
  else
    let qmin : Int := 1 - (f.bias : Int) - f.fw
    let q : Int := max qmin (e + bitLen m - 1 - f.fw)
    let v := if e ≤ q then roundShift m (q - e).toNat sticky else m <<< (e - q).toNat
    let (v, q) := if 2 ^ (f.fw + 1) ≤ v then (v / 2, q + 1) else (v, q)
    let emax : Int := (2 ^ f.ew : Nat) - (if f.inf then 2 else 1)
    let ex : Int := if v < 2 ^ f.fw then 0 else q + f.fw + f.bias
    if emax < ex then
      if sat || !f.inf then s ||| ((emax.toNat <<< f.fw) ||| (2 ^ f.fw - 1)) else s ||| ((2 ^ f.ew - 1) <<< f.fw)
    else s ||| (ex.toNat <<< f.fw) ||| (v % 2 ^ f.fw)

def nanBits : F32 := 0x7FC00000

/-- FP32 from a value. -/
def ofVal (v : Val) (sticky : Bool := false) : F32 :=
  match v with
  | .nan => nanBits
  | .inf neg => BitVec.ofNat 32 (b2n neg <<< 31 ||| 0x7F800000)
  | .fin neg m e => BitVec.ofNat 32 (f32.round false neg m e sticky)

def toVal (x : F32) : Val := f32.val x.toNat

def isNan (x : F32) : Bool := toVal x == .nan
def isFinite (x : F32) : Bool := match toVal x with
  | .fin _ _ _ => true
  | _ => false

/-- A signed multiple of 2^e. -/
def signedOf (neg : Bool) (m : Nat) : Int := if neg then -(m : Int) else m

/-- Exact sum of two magnitudes with signs; a zero sum is +0 unless both are negative. -/
def addFin (n1 : Bool) (m1 : Nat) (e1 : Int) (n2 : Bool) (m2 : Nat) (e2 : Int) : Val :=
  let e := min e1 e2
  let a := signedOf n1 (m1 <<< (e1 - e).toNat) + signedOf n2 (m2 <<< (e2 - e).toNat)
  if a = 0 then .fin (n1 && n2) 0 0 else .fin (decide (a < 0)) a.natAbs e

def Val.add : Val → Val → Val
  | .nan, _ => .nan
  | _, .nan => .nan
  | .inf a, .inf b => if a = b then .inf a else .nan
  | .inf a, _ => .inf a
  | _, .inf b => .inf b
  | .fin a m e, .fin b n f => addFin a m e b n f

def Val.neg : Val → Val
  | .nan => .nan
  | .inf a => .inf !a
  | .fin a m e => .fin (!a) m e

def Val.mul : Val → Val → Val
  | .nan, _ => .nan
  | _, .nan => .nan
  | .inf a, .inf b => .inf (a != b)
  | .inf a, .fin b n _ => if n = 0 then .nan else .inf (a != b)
  | .fin a m _, .inf b => if m = 0 then .nan else .inf (a != b)
  | .fin a m e, .fin b n f => .fin (a != b) (m * n) (e + f)

def fadd (a b : F32) : F32 := ofVal (Val.add (toVal a) (toVal b))
def fsub (a b : F32) : F32 := ofVal (Val.add (toVal a) (Val.neg (toVal b)))
def fmul (a b : F32) : F32 := ofVal (Val.mul (toVal a) (toVal b))

/-- a × b + c, rounded once. -/
def ffma (a b c : F32) : F32 := ofVal (Val.add (Val.mul (toVal a) (toVal b)) (toVal c))

/-- Quotient of magnitudes to at least 32 bits, and whether a remainder is left. -/
def divFin (m n : Nat) (e f : Int) : Nat × Int × Bool :=
  let k := 32 + bitLen n
  ((m <<< k) / n, e - f - k, (m <<< k) % n != 0)

def fdiv (a b : F32) : F32 :=
  match toVal a, toVal b with
  | .nan, _ => nanBits
  | _, .nan => nanBits
  | .inf _, .inf _ => nanBits
  | .inf x, .fin y _ _ => ofVal (.inf (x != y))
  | .fin x _ _, .inf y => ofVal (.fin (x != y) 0 0)
  | .fin x m e, .fin y n f =>
    if n = 0 then (if m = 0 then nanBits else ofVal (.inf (x != y)))
    else
      let (q, g, st) := divFin m n e f
      ofVal (.fin (x != y) q g) st

/-- Integer square root, by digits from the top. -/
def isqrtGo : Nat → Nat → Nat → Nat
  | 0, _, r => r
  | k + 1, n, r => if (r + 2 ^ k) * (r + 2 ^ k) ≤ n then isqrtGo k n (r + 2 ^ k) else isqrtGo k n r
def isqrt (n : Nat) : Nat := isqrtGo (bitLen n / 2 + 1) n 0

def fsqrt (a : F32) : F32 :=
  match toVal a with
  | .nan => nanBits
  | .inf n => if n then nanBits else a
  | .fin n m e =>
    if m = 0 then a
    else if n then nanBits
    else
      let k := 64 + (if e % 2 = 0 then 0 else 1)
      let x := m <<< k
      let r := isqrt x
      ofVal (.fin false r ((e - k) / 2)) (r * r != x)

def fone : F32 := 0x3F800000

/-- Order of values, −∞ to +∞; the zeros are equal. -/
def Val.lt : Val → Val → Bool
  | .nan, _ => false
  | _, .nan => false
  | .inf a, .inf b => a && !b
  | .inf a, .fin _ _ _ => a
  | .fin _ _ _, .inf b => !b
  | .fin a m e, .fin b n f =>
    let g := min e f
    decide (signedOf a (m <<< (e - g).toNat) < signedOf b (n <<< (f - g).toNat))

def flt (a b : F32) : Bool := Val.lt (toVal a) (toVal b)
def fle (a b : F32) : Bool := !isNan a && !isNan b && !flt b a
def fneg (a : F32) : F32 := a ^^^ 0x80000000
def fabs (a : F32) : F32 := a &&& 0x7FFFFFFF

/-- The greater and the lesser; a NaN in either gives the NaN. -/
def fmax (a b : F32) : F32 := if isNan a || isNan b then nanBits else if flt a b then b else a
def fmin (a b : F32) : F32 := if isNan a || isNan b then nanBits else if flt b a then b else a

/-- FP32 from an integer, and from a natural number. -/
def fofInt (i : Int) : F32 := ofVal (.fin (decide (i < 0)) i.natAbs 0)
def fofNat (n : Nat) : F32 := fofInt n

/-- Reciprocal square root: one over the square root, rounded once. -/
def frsqrt (a : F32) : F32 :=
  match toVal a with
  | .nan => nanBits
  | .inf n => if n then nanBits else 0
  | .fin n m e =>
    if m = 0 then ofVal (.inf n)
    else if n then nanBits
    else
      -- 1/√(m·2^e) = √(2^k/m)·2^(−(k+e)/2), with k + e even and 2^k/m of at least 64 bits
      let k0 := 66 + 2 * bitLen m
      let k := if (e + k0) % 2 = 0 then k0 else k0 + 1
      let x := 2 ^ k / m
      let r := isqrt x
      ofVal (.fin false r (-((e + k) / 2))) (r * r * m != 2 ^ k)

/-! ### Narrow formats -/

/-- A bit pattern of a format from FP32, to nearest even. -/
def narrow (f : Fmt) (sat : Bool) (x : F32) : Nat :=
  match toVal x with
  | .nan => ((2 ^ f.ew - 1) <<< f.fw) ||| (if f.fw = 0 then 0 else 2 ^ (f.fw - 1))
  | .inf n => if sat || !f.inf then f.round true n 1 (2 ^ 20) false else b2n n <<< (f.fw + f.ew) ||| ((2 ^ f.ew - 1) <<< f.fw)
  | .fin n m e => f.round sat n m e false

def widen (f : Fmt) (x : Nat) : F32 := ofVal (f.val x)

def ofBf16 (x : BitVec 16) : F32 := x.setWidth 32 <<< 16
def toBf16 (x : F32) : BitVec 16 := if isNan x then 0x7FC0 else BitVec.ofNat 16 (narrow bf16 false x)

/-- The smallest BF16 value at or above a non-negative finite value. -/
def bf16Up (x : F32) : BitVec 16 :=
  let t := x.extractLsb' 16 16
  if x.extractLsb' 0 16 = 0 then t else t + 1

/-- FP8 formats (08 R209): E4M3 has no infinity and its all-ones pattern is NaN; E5M2 has both. -/
def e5m2 : Fmt := ⟨5, 2, true⟩
def e4m3Val (x : Nat) : Val := if x % 128 = 127 then .nan else Fmt.val ⟨4, 3, false⟩ x

/-- E4M3 from FP32, saturating at 448. -/
def toE4m3 (x : F32) : Nat :=
  match toVal x with
  | .nan => 127
  | .inf n => b2n n <<< 7 ||| 126
  | .fin n m e =>
    let r := Fmt.round ⟨4, 3, false⟩ true n m e false
    if r % 128 = 127 then b2n n <<< 7 ||| 126 else r

/-- E5M2 from FP32, saturating at the largest finite value. -/
def toE5m2 (x : F32) : Nat :=
  match toVal x with
  | .nan => 0x7E
  | .inf n => b2n n <<< 7 ||| 0x7B
  | .fin n m e => e5m2.round true n m e false

/-- Nearest integer, ties to even. -/
def roundInt (x : Val) : Option Int :=
  match x with
  | .nan => none
  | .inf _ => none
  | .fin n m e => some (signedOf n (if 0 ≤ e then m <<< e.toNat else roundShift m (-e).toNat false))

/-- A saturating integer of `w` bits; NaN gives 0. -/
def toIntSat (w : Nat) (x : F32) : Int :=
  match toVal x with
  | .nan => 0
  | .inf n => if n then -(2 ^ (w - 1) : Nat) else (2 ^ (w - 1) - 1 : Nat)
  | v => min (2 ^ (w - 1) - 1 : Nat) (max (-(2 ^ (w - 1) : Nat)) ((roundInt v).getD 0))

/-- A running sum in order. -/
def fsum (xs : List F32) : F32 := xs.foldl fadd 0

/-- A sum of terms in the order that the implementation adds them: a free one, among the orders that take each term once. -/
def fsumOpen (xs : List F32) : F32 :=
  let o := Config.sumOrder xs.length
  fsum (if (o.all fun i => decide (i < xs.length)) && o.length == xs.length && decide o.Nodup then o.map fun i => xs.getD i 0
    else xs)

/-- A value with its exponent raised by `k`, rounded once. -/
def fscale (x : F32) (k : Int) : F32 :=
  match toVal x with
  | .fin n m e => ofVal (.fin n m (e + k))
  | v => ofVal v

/-- 2^f for the 64 fraction bits of `f`, in units of 2^-128 and rounded down: the product of the roots 2^(2^-i) of its set
bits. `c` is the last root taken. -/
def exp2Go : Nat → Nat → Nat → Nat → Nat
  | 0, _, _, acc => acc
  | k + 1, f, c, acc =>
    let r := isqrt (c <<< 128)
    exp2Go k f r (if bit f k then (acc * r) >>> 128 else acc)

/-- 2^x, rounded to nearest even (08 R210): the exact value is enclosed far more closely than any FP32 argument comes to a tie. -/
def fexp2 (x : F32) : F32 :=
  match toVal x with
  | .nan => nanBits
  | .inf n => if n then 0 else x
  | .fin n m e =>
    let top : Int := e + bitLen m
    if m = 0 || top ≤ -26 then fone
    else if 8 < top then (if n then 0 else 0x7F800000)
    else
      let v : Int := signedOf n (if 0 ≤ e + 64 then m <<< (e + 64).toNat else m >>> (-(e + 64)).toNat)
      let f := (v % 2 ^ 64).toNat
      ofVal (.fin false (exp2Go 64 f (2 ^ 129) (2 ^ 128)) (v / 2 ^ 64 - 128)) (f != 0)

/-- FP32 values of little-endian words. -/
def f32sOf (bs : Bytes) (n : Nat) : List F32 := (List.range n).map fun i => BitVec.ofNat 32 (subNat bs (4 * i) 4)
def f32Bytes (xs : List F32) : Bytes := xs.flatMap fun x => leBytes 4 x.toNat
def bf16sOf (bs : Bytes) (n : Nat) : List (BitVec 16) := (List.range n).map fun i => BitVec.ofNat 16 (subNat bs (2 * i) 2)

end Sys2Proof.Machine
end

