-- ==== Sys2Proof/Machine/Quant.lean ====
section
/-! DEFINITION. Codebook quantization: a table's parameters, scales, the coding of a group, variable blocks and key-value
records (07 R187 to R195). -/

namespace Sys2Proof.Machine

/-! ### Parameters of a QUANT table (07 R176, R187) -/

/-- A QUANT generation as the codec lanes use it. -/
structure QTab where
  tag : Nat
  tableId : Nat
  w : Nat
  group : Nat
  grouped : Bool
  esc : Option Nat
  sideMax : Nat
  outlierT : Nat
  window : Nat
  layers : Nat
  kvHeads : Nat
  headDim : Nat
  sideInline : Nat
  sidePool : Nat
  levels : List Int
  deriving DecidableEq, Repr

def groupOf (h : Nat) : Nat := 32 <<< bits h 396 395
def headDimOf (h : Nat) : Nat := 64 <<< bits h 431 430
def codeWidth (h : Nat) : Nat := if bit h 385 then 8 else 4
def levelOf (b : Byte) : Int := signed 8 b.toNat
def escOf (h : Nat) : Option Nat := if bits h 394 386 = 0x1FF then none else some (bits h 394 386)

def qtab (g : Gen) : QTab where
  tag := g.tag
  tableId := g.tableId
  w := codeWidth g.header
  group := groupOf g.header
  grouped := bit g.header 397
  esc := escOf g.header
  sideMax := bits g.header 401 398
  outlierT := bits g.header 409 402
  window := bits g.header 414 410
  layers := bits g.header 422 415
  kvHeads := bits g.header 429 423
  headDim := headDimOf g.header
  sideInline := bits g.header 433 432
  sidePool := bits g.header 447 434
  levels := g.body.map levelOf

/-- Codes that stand for levels. -/
def QTab.codes (q : QTab) : List (Nat × Int) :=
  ((List.range q.levels.length).zip q.levels).filter fun cl => some cl.1 != q.esc

/-- L_max. -/
def QTab.lmax (q : QTab) : Nat := q.codes.foldl (fun a cl => max a cl.2.natAbs) 0

/-- Groups of a record, and bytes of one group's part of it (07 R194). -/
def QTab.groups (q : QTab) : Nat := q.layers * 2 * q.kvHeads * q.headDim / q.group
def QTab.groupLen (q : QTab) : Nat := q.group * q.w / 8 + 4 + 2 * q.sideInline
def QTab.recLen (q : QTab) : Nat := 8 + q.groups * q.groupLen + 4 * q.sidePool
def QTab.hasLayout (q : QTab) : Bool := q.layers != 0

/-- Groups of one head vector. -/
def QTab.headGroups (q : QTab) : Nat := q.headDim / q.group

/-! ### Scales (07 R188, R189) -/

/-- The clip point of a unit's elements in bulk: the largest finite magnitude, or OUTLIER_T ÷ 16 times their RMS where that
is less. -/
def clipPoint (q : QTab) (xs : List (BitVec 16)) : F32 :=
  let fin := xs.filter fun x => isFinite (ofBf16 x)
  let amax := fin.foldl (fun a x => fmax a (fabs (ofBf16 x))) 0
  if q.outlierT = 0 then amax
  else fmin amax (fmul (fdiv (fofNat q.outlierT) (fofNat 16)) (Config.rms fin))

/-- The scale of a clip point: the smallest BF16 value at or above c ÷ L_max. -/
def scaleOf (q : QTab) (c : F32) : BitVec 16 := bf16Up (fdiv c (fofNat q.lmax))

/-- AMAX of a unit whose scale was given. -/
def givenAmax (q : QTab) (sc : BitVec 16) : BitVec 16 := toBf16 (fmul (ofBf16 sc) (fofNat q.lmax))

/-! ### One element, one group (07 R187, R191, R192) -/

/-- |level × scale − x|, exactly. -/
def codeDist (sc : BitVec 16) (x : F32) (l : Int) : Val :=
  match Val.add (Val.mul (toVal (fofInt l)) (toVal (ofBf16 sc))) (Val.neg (toVal x)) with
  | .fin _ m e => .fin false m e
  | .inf _ => .inf false
  | .nan => .nan

/-- The code nearest to a finite element: ties to the smaller magnitude, then to the lower code. -/
def nearest (q : QTab) (sc : BitVec 16) (x : F32) : Nat :=
  let better (a b : Nat × Int) : Bool :=
    let da := codeDist sc x a.2
    let db := codeDist sc x b.2
    Val.lt da db || (!Val.lt db da && (decide (a.2.natAbs < b.2.natAbs) || (a.2.natAbs == b.2.natAbs && decide (a.1 < b.1))))
  match q.codes with
  | [] => 0
  | c :: cs => (cs.foldl (fun b a => if better a b then a else b) c).1

/-- The code of an element that is not escaped: the level nearest 0 where the scale is 0 or the element not finite. -/
def codeFor (q : QTab) (sc : BitVec 16) (x : F32) : Nat :=
  if sc = 0 || !isFinite x then nearest q 0x3F80 0 else nearest q sc x

/-- An outlier candidate. -/
def candidate (q : QTab) (sc : BitVec 16) (x : F32) : Bool :=
  !isFinite x || flt (fmul (fofNat q.lmax) (ofBf16 sc)) (fabs x)

/-- The order in which candidates take room: not finite first, then decreasing magnitude, then lower index. -/
def candBefore (a b : Nat × F32) : Bool :=
  let fa := isFinite a.2
  let fb := isFinite b.2
  if fa != fb then !fa
  else if fa && flt (fabs b.2) (fabs a.2) then true
  else if fa && flt (fabs a.2) (fabs b.2) then false
  else decide (a.1 < b.1)

def indexed {α : Type} (xs : List α) : List (Nat × α) := (List.range xs.length).zip xs

/-- A group's candidates, in that order; none where the table has no escape code. -/
def groupCands (q : QTab) (sc : BitVec 16) (xs : List F32) : List (Nat × F32) :=
  sortBy candBefore ((indexed xs).filter fun ix => candidate q sc ix.2)

/-- Codes of a group whose elements at `esc` are escaped. -/
def groupCodes (q : QTab) (sc : BitVec 16) (xs : List F32) (esc : List Nat) : List Nat :=
  (indexed xs).map fun ix => if esc.contains ix.1 then q.esc.getD 0 else codeFor q sc ix.2

/-- Codes as bytes (07 R187). -/
def packCodes (w : Nat) : List Nat → Bytes
  | [] => []
  | [a] => [BitVec.ofNat 8 a]
  | a :: b :: t => if w = 8 then BitVec.ofNat 8 a :: BitVec.ofNat 8 b :: packCodes w t else BitVec.ofNat 8 (a + 16 * b) :: packCodes w t

def unpackCodes (w : Nat) (bs : Bytes) : List Nat :=
  if w = 8 then bs.map (·.toNat) else bs.flatMap fun b => [b.toNat % 16, b.toNat / 16]

/-- Counts of elements encoded under R192 step 3: finite, and not finite. -/
structure Lost3 where
  sat : Nat
  non : Nat
  deriving DecidableEq, Repr

def lostOf (left : List (Nat × F32)) : Lost3 := ⟨left.countP fun ix => isFinite ix.2, left.countP fun ix => !isFinite ix.2⟩

def Lost3.add (a b : Lost3) : Lost3 := ⟨a.sat + b.sat, a.non + b.non⟩

/-- Side values of the escaped elements, in element order. -/
def sideVals (xs : List F32) (esc : List Nat) : List (BitVec 16) :=
  (indexed xs).filterMap fun ix => if esc.contains ix.1 then some (toBf16 ix.2) else none

/-- The values a group's codes stand for: level × scale, or the next side value. -/
def groupVals (q : QTab) (sc : BitVec 16) : List Nat → List (BitVec 16) → List F32
  | [], _ => []
  | c :: cs, side =>
    if some c = q.esc then
      match side with
      | [] => 0 :: groupVals q sc cs []
      | v :: vs => ofBf16 v :: groupVals q sc cs vs
    else fmul (fofInt (q.levels.getD c 0)) (ofBf16 sc) :: groupVals q sc cs side

def escCount (q : QTab) (cs : List Nat) : Nat := cs.countP fun c => some c == q.esc

/-- A stored scale is neither negative nor without a finite value (07 R184). -/
def scaleOk (sc : BitVec 16) : Bool := isFinite (ofBf16 sc) && !sc.msb

/-! ### The variable block (07 R193) -/

/-- The coded bytes of a block of elements, one scale to each group, and the losses. -/
def encodeBlock (q : QTab) (xs : List F32) (scales : List (BitVec 16)) : Bytes × Lost3 :=
  let gs := (chunks q.group (xs.length / q.group) xs).zip scales
  let one (gx : List F32 × BitVec 16) : List Nat × List (BitVec 16) × Lost3 :=
    let cands := groupCands q gx.2 gx.1
    let cap := if q.esc.isNone then 0 else q.sideMax
    let esc := (cands.take cap).map (·.1)
    (groupCodes q gx.2 gx.1 esc, sideVals gx.1 esc, lostOf (cands.drop cap))
  let rs := gs.map one
  let body := packCodes q.w (rs.flatMap (·.1)) ++ (gs.flatMap fun gx => leBytes 2 gx.2.toNat)
    ++ ((rs.flatMap (·.2.1)).flatMap fun v => leBytes 2 v.toNat)
  (body ++ zeros ((8 - body.length % 8) % 8), rs.foldl (fun a r => a.add r.2.2) ⟨0, 0⟩)

/-- The scales stored in a block's coded bytes. -/
def blockScales (q : QTab) (raw : Nat) (bs : Bytes) : List (BitVec 16) :=
  let e := raw / 2
  bf16sOf (bs.drop (e * q.w / 8)) (e / q.group)

/-- Decode a block's coded bytes; none where the layout breaks R193. -/
def decodeBlock (q : QTab) (raw : Nat) (bs : Bytes) : Option (List F32) :=
  let e := raw / 2
  let n := e / q.group
  let codes := (unpackCodes q.w (bs.take (e * q.w / 8))).take e
  let scales := blockScales q raw bs
  let per := chunks q.group n codes
  let counts := per.map (escCount q)
  let total := counts.foldl (· + ·) 0
  let len := e * q.w / 8 + 2 * n + 2 * total
  let sides := bf16sOf (bs.drop (e * q.w / 8 + 2 * n)) total
  let go := per.foldl (fun (a : List F32 × List (BitVec 16) × List (BitVec 16)) cs =>
    let k := escCount q cs
    (a.1 ++ groupVals q (a.2.1.headD 0) cs (a.2.2.take k), a.2.1.drop 1, a.2.2.drop k)) ([], scales, sides)
  if raw % (2 * q.group) = 0 && bs.length == ceilDiv len 8 * 8 && allZero (bs.drop len) && counts.all (fun c => decide (c ≤ q.sideMax)) &&
      scales.all scaleOk then some go.1 else none

/-! ### The key-value record (07 R194, R195) -/

/-- One group of a record as coded: scale, AMAX and elements. -/
structure RecGroup where
  scale : BitVec 16
  amax : BitVec 16
  xs : List F32
  deriving DecidableEq, Repr

/-- What a record's coding leaves unescaped in each group, for AMAX (07 R190). -/
def keptMax (xs : List F32) (esc : List Nat) : F32 :=
  (indexed xs).foldl (fun a ix => if esc.contains ix.1 || !isFinite ix.2 then a else fmax a (fabs ix.2)) 0

/-- The escaped elements of every group of a record, and the losses: the inline room of each group first, then the pool. -/
def recEscapes (q : QTab) (gs : List RecGroup) : List (List Nat) × Lost3 :=
  let cands := gs.map fun g => groupCands q g.scale g.xs
  let inl := if q.esc.isNone then 0 else q.sideInline
  let pool := if q.esc.isNone then 0 else q.sidePool
  let rest := (indexed cands).flatMap fun gc => (gc.2.drop inl).map fun ix => (gc.1 * q.group + ix.1, ix.2)
  let sorted := sortBy candBefore rest
  let won := (sorted.take pool).map (·.1)
  let esc := (indexed cands).map fun gc =>
    ((gc.2.take inl).map (·.1)) ++ ((gc.2.drop inl).map (·.1)).filter fun i => won.contains (gc.1 * q.group + i)
  (esc, lostOf (sorted.drop pool))

/-- A record's bytes from its groups and their escaped elements. `own` keeps each group's AMAX; otherwise AMAX is the
largest magnitude of the unit's elements that stayed out of side lists (07 R190). -/
def recordBytes (q : QTab) (first : Bool) (gs : List RecGroup) (esc : List (List Nat)) (amaxs : List (BitVec 16)) : Bytes :=
  let parts := ((gs.zip esc).zip amaxs).map fun gea =>
    let side := sideVals gea.1.1.xs gea.1.2
    let inl := side.take q.sideInline
    (packCodes q.w (groupCodes q gea.1.1.scale gea.1.1.xs gea.1.2) ++ leBytes 2 gea.1.1.scale.toNat ++ leBytes 2 gea.2.toNat
      ++ (inl.flatMap fun v => leBytes 2 v.toNat) ++ zeros (2 * (q.sideInline - inl.length)), side.drop q.sideInline)
  let pool := (indexed parts).flatMap fun gp => gp.2.2.map fun v => leBytes 4 (v.toNat <<< 16 ||| gp.1)
  let body := (parts.flatMap (·.1)) ++ pool.flatMap id ++ (List.replicate (q.sidePool - pool.length) (leBytes 4 0xFFFF)).flatMap id
  leBytes 8 (pool.length ||| b2n first <<< 28 ||| q.tag <<< 29 ||| crc32c body <<< 32) ++ body

/-- AMAX of each group of an appended record: in NATIVE mode the unit is the head vector. -/
def keptAmaxs (q : QTab) (gs : List RecGroup) (esc : List (List Nat)) : List (BitVec 16) :=
  let own := (gs.zip esc).map fun ge => keptMax ge.1.xs ge.2
  if q.grouped then own.map toBf16
  else (List.range own.length).map fun g =>
    let u := g / q.headGroups * q.headGroups
    toBf16 (((own.drop u).take q.headGroups).foldl fmax 0)

/-- A record decoded: its groups with their elements. None where R184 steps 2, 4 or 5 fail. -/
def decodeRecord (q : QTab) (bs : Bytes) : Option (List RecGroup) :=
  let h := leNat (bs.take 8)
  let used := bits h 15 0
  let b := q.groupLen
  let cw := q.group * q.w / 8
  let pool := recsOf 4 q.sidePool (bs.drop (8 + q.groups * b))
  let live := pool.take used
  let part (g : Nat) : Bytes := sub bs (8 + g * b) b
  let codes (g : Nat) : List Nat := unpackCodes q.w ((part g).take cw)
  let mine (g : Nat) : List (BitVec 16) := live.filterMap fun e => if e % 65536 = g then some (BitVec.ofNat 16 (e / 65536)) else none
  let ok (g : Nat) : Bool :=
    (mine g).length == escCount q (codes g) - q.sideInline && scaleOk (BitVec.ofNat 16 (subNat (part g) cw 2))
  let rising := (live.zip (live.drop 1)).all fun xy => decide (xy.1 % 65536 ≤ xy.2 % 65536)
  let g0 := List.range q.groups
  if bits h 27 16 = 0 && decide (used ≤ q.sidePool) && bits h 63 32 == crc32c (bs.drop 8) && g0.all ok && rising &&
      live.all (fun e => decide (e % 65536 < q.groups)) && (pool.drop used).all (· == 0xFFFF) then
    some (g0.map fun g =>
      let sc := BitVec.ofNat 16 (subNat (part g) cw 2)
      ⟨sc, BitVec.ofNat 16 (subNat (part g) (cw + 2) 2),
        groupVals q sc (codes g) (bf16sOf ((part g).drop (cw + 4)) (min (escCount q (codes g)) q.sideInline) ++ mine g)⟩)
  else none

end Sys2Proof.Machine
end

