-- ==== Sys2Proof/Machine/Tier.lean ====
section
/-! DEFINITION. The tier map at work (06 R145 to R174): what an address is, reads and writes through the map, migrations,
and the map journal. -/

namespace Sys2Proof.Machine

/-! ### What a granule is (06 R140, R146, R147) -/

inductive GKind where
  | zero | hbm | flash | lost | outside | reserved | flashView | beyond
  deriving DecidableEq, Repr

def gkind (s : State) (g : Nat) : GKind :=
  if g < 0x300000000 then
    if g < apGranule || (match getPage s (pageOfGranule g) with
        | some p => p.st == .live || p.st == .lost
        | none => false) then
      match (tmap s g).place with
      | .zero => .zero | .hbm => .hbm | .flash => .flash | .lost => .lost
    else if g < 0x278000000 then .outside else .reserved
  else if g < 0x500000000 then .flashView
  else .beyond

/-- The granules that `n` bytes from `a` up touch. -/
def granulesOf (a n : Nat) : List Nat := if n = 0 then [] else granules (a / 4096) ((a + n - 1) / 4096 - a / 4096 + 1)

/-- Pages of the controller's own keep what the controller put there. -/
def innerAt (s : State) (g : Nat) : Bool :=
  decide (apGranule ≤ g) && match getPage s (pageOfGranule g) with
    | some p => p.inner
    | none => false

/-- List block `i` of a list (05 R120): the root, then the last level's blocks, then at DEPTH 3 the middle level's. -/
def blockBytes (l : PList) (i : Nat) : Bytes :=
  let leaves := ceilDiv l.pages.length 1024
  let ids (o n : Nat) (ps : List Nat) : Bytes := histBytes ((ps.drop o).take n)
  if i = 0 then plistImage l ++ (if l.depth ≤ 1 then histBytes l.pages else if l.depth = 2 then ids 1 leaves l.blocks
    else ids (1 + leaves) 1008 l.blocks)
  else if i ≤ leaves then ids ((i - 1) * 1024) 1024 l.pages
  else ids (1 + (i - 1 - leaves) * 1024) (min 1024 (leaves - (i - 1 - leaves) * 1024)) l.blocks

/-- What a page of the controller's own shows: a list block, a token history, an auxiliary block. -/
def innerBytes (s : State) (id : Nat) : Bytes :=
  match (s.ppm.lists ++ s.ppm.plists).find? fun kv => kv.2.blocks.contains id with
  | some kv => blockBytes kv.2 (kv.2.blocks.findIdx (· == id))
  | none =>
    match s.rte.slots.find? fun kv => kv.2.e.tokRoot == id || kv.2.e.auxRoot == id with
    | none => []
    | some kv => if kv.2.e.tokRoot = id then histBytes kv.2.hist else auxBytes kv.2.aux

/-- The bytes of a piece that lies in one granule. -/
def pieceRead (s : State) (a n : Nat) : Bytes :=
  if innerAt s (a / 4096) then
    let id := pageOfGranule (a / 4096)
    (((innerBytes s id).drop (a - pageAddr id)) ++ zeros n).take n
  else peekN s a n

/-- A range cut at granule boundaries. -/
def spans : Nat → Nat → Nat → List (Nat × Nat)
  | 0, _, _ => []
  | k + 1, a, n => if n = 0 then [] else
    let m := min n (4096 - a % 4096)
    (a, m) :: spans k (a + m) (n - m)

/-- The bytes of a device range, through the map or straight from flash. -/
def devRead (s : State) (a n : Nat) : Bytes :=
  if 0x300000000000 ≤ a then memReadN s.tfm.flash (a - 0x300000000000) n
  else (spans (n / 4096 + 2) a n).flatMap fun p => pieceRead s p.1 p.2

/-- A granule of the durable region (06 R165). -/
def isDurable (s : State) (g : Nat) : Bool :=
  decide (s.jnl.durBase ≤ g * 4096) && decide (g * 4096 < s.jnl.durBase + s.jnl.durLen)

/-- Writes to the durable region are refused until the energy for its save suffices (06 R165). -/
def durableShut (s : State) : Bool := s.plu.short

/-- Heat-driven moves touch the object region, the durable part left out, and LOOSE pages (06 R149). -/
def movable (s : State) (g : Nat) : Bool :=
  if g < apGranule then !isDurable s g
  else match getPage s (pageOfGranule g) with
    | some p => p.loose && p.st == .live
    | none => false

/-- The granules that move with `g`: a LOOSE page moves whole (06 R151). -/
def wholeOf (g : Nat) : List Nat :=
  if g < apGranule then [g] else granules (apGranule + pageOfGranule g) (pageGranules (pageOfGranule g))

/-- The hint that a range command left on a granule, the latest first. -/
def hintFor (s : State) (g : Nat) : Nat :=
  match s.tfm.hints.find? fun h => decide (h.1 ≤ g) && decide (g < h.1 + h.2.1) with
  | some h => h.2.2
  | none => 0

/-- Each access adds 1 to HEAT, saturating at 15 (06 R150). -/
def touch (s : State) (g : Nat) : State :=
  if Tbl.has s.tfm.map g then setTmap s g { tmap s g with heat := min 15 ((tmap s g).heat + 1) } else s

def addrEvent (s : State) (cause sev st a arg : Nat) : State := post s Un.tfm Ek.address cause sev st a arg

/-! ### Moves (06 R151, R152) -/

def setMove (s : State) (g : Nat) (m : Move) : State := { s with tfm := { s.tfm with moves := Tbl.set s.tfm.moves g m } }

def moveStream : MoveKind → Nat
  | .park _ => 1
  | .gc => 2
  | _ => 0

/-- Whether a move belongs to a pending tier command. -/
def moveCmd : MoveKind → Option Nat
  | .hint c => some c
  | .migrate c => some c
  | _ => none

/-- Set MOVING. A granule already on its way to the same tier goes on under the new purpose; one on its way to the other
tier turns round. -/
def startMove (kind : MoveKind) (toFlash : Bool) (s : State) (g : Nat) : State :=
  match Tbl.get s.tfm.moves g with
  | some m =>
    if m.toFlash = toFlash then setMove s g { m with kind := kind }
    else setMove s g ⟨kind, toFlash, 0, false, 0, false⟩
  | none => setTmap (setMove s g ⟨kind, toFlash, 0, false, 0, false⟩) g { tmap s g with moving := true, restarts := 0 }

/-- Count a granule moved toward its command. -/
def countMoved (s : State) (k : MoveKind) : State :=
  match moveCmd k with
  | none => s
  | some c => { s with tfm := { s.tfm with jobs := Tbl.upd s.tfm.jobs c fun j => { j with moved := j.moved + 1 } } }

/-- Finish the tier commands none of whose moves is left (06 R173). -/
def settleJobs (s : State) : State :=
  s.tfm.jobs.foldl (fun a kv =>
    if kv.2.waitSeq = 0 && !(a.tfm.moves.any fun m => moveCmd m.2.kind == some kv.1) then
      finish { a with tfm := { a.tfm with jobs := Tbl.del a.tfm.jobs kv.1 } } kv.2.tok St.ok kv.2.moved 0
    else a) s

/-- Put an unplaced granule of a stream into the open row, while the row has room. -/
def placeOne (stream : Nat) (s : State) (g : Nat) : State :=
  match Tbl.get s.tfm.moves g with
  | none => s
  | some m =>
    if m.placed || !m.toFlash || moveStream m.kind != stream then s
    else match needBand s stream with
      | none => s
      | some (b, s1) =>
        let x := bandAt s1 b
        let j := x.openRow.length
        if rowGranules ≤ j then s
        else setMove (setBand s1 b { x with openRow := x.openRow ++ [g] }) g { m with placed := true, dest := rowLoc b x x.rows j }

/-- Fill a stream's open row. -/
def fillRow (stream : Nat) (s : State) : State := (Tbl.keys s.tfm.moves).foldl (placeOne stream) s

/-- Fill every stream's open row. -/
def fillRows (s : State) : State := fillRow 2 (fillRow 1 (fillRow 0 s))

/-- A granule's flash slot is read, or a slot of the flash aperture (06 R167). -/
def readMedia (s : State) (g : Nat) : State :=
  if (tmap s g).place = .flash then readLoc s (tmap s g).loc
  else if 0x300000000 ≤ g && g < 0x500000000 then readLoc s (g - 0x300000000)
  else s

def countReads (s : State) (a n : Nat) : State := (granulesOf a n).foldl readMedia s

/-- The stored cells behind an entry, rebased at 0. -/
def cellsOf (s : State) (t : TEntry) : List Host.Cell :=
  memSlice (if t.place = .hbm then s.tfm.hbm else if t.place = .flash then s.tfm.flash else []) (t.loc * 4096) 4096 0

/-- A granule of a row that is programmed: its copy stands in flash and its MAP record is formed. -/
def programOne (b : Nat) (x : Band) (s : State) (gj : Nat × Nat) : State :=
  match Tbl.get s.tfm.moves gj.1 with
  | none => s
  | some m =>
    let t := tmap s gj.1
    if m.placed && m.recSeq == 0 && m.dest == rowLoc b x x.rows gj.2 then
      let s0 := readMedia s gj.1
      let s1 := { s0 with tfm := { s0.tfm with flash := putRow s0.tfm.flash b x x.rows gj.2 (cellsOf s t) } }
      journal (setMove s1 gj.1 { m with recSeq := s.jnl.seq }) .map gj.1 1 ⟨.flash, false, t.heat, t.hint, 0, m.dest⟩ t.loc
    else s

/-- The open row of a band is programmed with its parity, full or padded (06 R157, R162, R163). -/
def programRow (s : State) (b : Nat) : State :=
  let x := bandAt s b
  if x.openRow.isEmpty then s
  else
    let s1 := (x.openRow.zip (List.range x.openRow.length)).foldl (programOne b x) s
    let s2 := setBand s1 b { bandAt s1 b with rows := x.rows + 1, openRow := [] }
    if bandRows ≤ x.rows + 1 then closeBand s2 b false else s2

/-- STACK follows a page's granules: the stack of those in HBM, 0xF where none is (05 R117). -/
def restack (s : State) (id : Nat) : State :=
  match getPage s id with
  | none => s
  | some p => setPage s id { p with stack := ((pageGs id).findSome? fun g =>
      if (tmap s g).place = .hbm && !s.tfm.stacksLost.contains ((tmap s g).loc / framesPerStack)
      then some ((tmap s g).loc / framesPerStack) else none).getD 15 }

/-- A granule has changed its place: the STACK of its page follows. -/
def placed (s : State) (g : Nat) : State := if apGranule ≤ g then restack s (pageOfGranule g) else s

/-- The stack that a granule's frame is taken from, where it has one free: a page keeps to its stack, and one with no granule
in HBM takes the best stack if that holds it whole (05 R116). -/
def stackFor (s : State) (g : Nat) : Option Nat :=
  let k := bestStack s
  let whole (n : Nat) : Option Nat := if n ≤ stackFree s k then some k else none
  if g < apGranule then whole 1
  else match getPage s (pageOfGranule g) with
    | none => whole 1
    | some p =>
      if p.inner then some k
      else if p.stack < 12 && !s.tfm.stacksLost.contains p.stack then (if 0 < stackFree s p.stack then some p.stack else none)
      else whole (pageGranules (pageOfGranule g))

/-- A frame for a granule: the lowest free one of its stack. -/
def frameFor (s : State) (g : Nat) : Option Nat :=
  (stackFor s g).bind fun k => (takeFrames (framesUsed s k) 1 (k * framesPerStack)).head?

/-- The map switches to a flash copy and the source is freed (06 R152). -/
def switchToFlash (s : State) (g : Nat) : State :=
  match Tbl.get s.tfm.moves g with
  | none => s
  | some m =>
    let t := tmap s g
    let s1 := releaseCell { s with tfm := { s.tfm with moves := Tbl.del s.tfm.moves g } } t
    countMoved (placed (setTmap s1 g { t with place := .flash, loc := m.dest, moving := false, restarts := 0 }) g) m.kind

/-- OBJECT_CAP pays for this granule's frame. -/
def paidByObject (s : State) (g : Nat) : Bool :=
  decide (g < apGranule) || match getPage s (pageOfGranule g) with
    | some p => p.loose
    | none => false

/-- Free object frames are below DEMOTE_LOW per mille. -/
def belowLow (s : State) : Bool := decide (objectFree s * 1000 < s.tfm.ctl.demoteLow * (s.ppm.objectCap * 16))

/-- Copy a flash granule to HBM, record it, and switch (06 R151, R158). -/
def promote (s : State) (g : Nat) : Option State :=
  let t := tmap s g
  if t.place != .flash || (paidByObject s g && objectFree s == 0) then none
  else match frameFor s g with
    | none => none
    | some f =>
      let n : TEntry := ⟨.hbm, false, t.heat, t.hint, 0, f⟩
      let s1 := { s with tfm := { s.tfm with hbm := memPaste s.tfm.hbm (f * 4096) (cellsOf s t) } }
      let s2 := tookOff (journal s1 .map g 1 n t.loc) t
      let k := Tbl.get s2.tfm.moves g
      let s3 := placed (setTmap { s2 with tfm := { s2.tfm with moves := Tbl.del s2.tfm.moves g } } g n) g
      some (match k with
        | some m => countMoved s3 m.kind
        | none => s3)

/-- A write reached a granule under migration: the copy is made again; at the third restart the migration is abandoned
(06 R152). -/
def restartMove (s : State) (g : Nat) : State :=
  match Tbl.get s.tfm.moves g with
  | none => s
  | some m =>
    let t := tmap s g
    if 2 ≤ t.restarts then settleJobs (abandonMove s g)
    else fillRow (moveStream m.kind)
      (setTmap (setMove s g { m with placed := false, recSeq := 0, committed := false }) g { t with restarts := t.restarts + 1 })

/-! ### Writing (06 R146) -/

/-- Back a ZERO granule of the object region with a zero-filled frame. -/
def backGranule (s : State) (g : Nat) : Option State :=
  if objectFree s = 0 then none
  else match frameFor s g with
    | none => none
    | some f =>
      let n : TEntry := ⟨.hbm, false, 0, if isDurable s g then 2 else hintFor s g, 0, f⟩
      some (setTmap (journal s .map g 1 n 0) g n)

/-- Write bytes of one granule that is in HBM. -/
def writeHbm (s : State) (a : Nat) (bs : Bytes) : State := restartMove (touch (pokeN s a bs) (a / 4096)) (a / 4096)

/-- The pieces of a write, one for each granule. -/
def pieces : Nat → Nat → Bytes → List (Nat × Bytes)
  | 0, _, _ => []
  | k + 1, a, bs =>
    if bs.isEmpty then []
    else
      let n := 4096 - a % 4096
      (a, bs.take n) :: pieces k (a + n) (bs.drop n)

def piecesOf (a : Nat) (bs : Bytes) : List (Nat × Bytes) := pieces (bs.length / 4096 + 2) a bs

/-- Store one piece at once where that can be done: into HBM, into a newly backed granule, or into a flash granule promoted
for it, a frame being free above DEMOTE_LOW (06 R151). None: it must wait for a frame. -/
def storePiece (s : State) (a : Nat) (bs : Bytes) : Option State :=
  let g := a / 4096
  if innerAt s g then some s
  else match gkind s g with
    | .hbm => some (writeHbm s a bs)
    | .zero => (backGranule s g).map fun s1 => writeHbm s1 a bs
    | .flash => if paidByObject s g && belowLow s then none else (promote s g).map fun s1 => writeHbm s1 a bs
    | _ => some s

/-- A page whose REFS is greater than 1 is read-only (05 R117). -/
def readOnly (s : State) (g : Nat) : Bool :=
  decide (apGranule ≤ g) && match getPage s (pageOfGranule g) with
    | some p => decide (1 < p.refs)
    | none => false

/-- What a write to a granule meets before any byte is stored: ST_OK, or the status it is refused with. -/
def writeStatus (s : State) (g : Nat) : Nat :=
  if isDurable s g && durableShut s then St.busy
  else match gkind s g with
    | .zero => St.ok
    | .hbm => if readOnly s g then St.accessViolation else St.ok
    | .flash => if readOnly s g then St.accessViolation else St.ok
    | .lost => if s.tfm.mediaLost.contains g then St.mediaFail else St.dataCheck
    | _ => St.accessViolation

def readStatus (s : State) (g : Nat) : Nat :=
  match gkind s g with
  | .zero => St.ok
  | .hbm => St.ok
  | .flash => St.ok
  | .lost => if s.tfm.mediaLost.contains g then St.mediaFail else St.dataCheck
  | _ => St.accessViolation

/-- The first status other than ST_OK over some granules. -/
def firstBad (f : Nat → Nat) : List Nat → Nat
  | [] => St.ok
  | g :: t => if f g = St.ok then firstBad f t else f g

/-- Whether a command may read, or write, a device range: every granule's status. -/
def rangeRead (s : State) (a n : Nat) : Nat :=
  let st := firstBad (readStatus s) (granulesOf a n)
  if st = St.ok && poisonedIn s a n then St.dataCheck else st

/-- The same of a write, with leaves for all that it backs (06 R145). -/
def rangeWrite (s : State) (a n : Nat) : Nat :=
  let gs := granulesOf a n
  let st := firstBad (writeStatus s) gs
  if st = St.ok && !leavesFit s (gs.filter fun g => gkind s g == .zero) then St.noCapacity else st

/-- A write of a device range, promoting and backing granules; none where no frame is left. -/
def devPut (s : State) (a : Nat) (bs : Bytes) : Option State :=
  (piecesOf a bs).foldl (fun o p => match o with
    | none => none
    | some s => storePiece s p.1 p.2) (some s)

/-- The same for a command, an array or a landing transfer: granules in flash are read for their promotion. -/
def devWrite (s : State) (a : Nat) (bs : Bytes) : Option State := devPut (countReads s a bs.length) a bs

/-- A read has brought a granule to PROMOTE_HEAT: it is copied to HBM while a frame is free above DEMOTE_LOW. -/
def promoteHot (s : State) (g : Nat) : State :=
  let t := tmap s g
  if t.place = .flash && (t.hint = 0 || t.hint = 1 || (t.hint = 3 && s.rte.lapsed)) && movable s g && !t.moving &&
      decide (s.tfm.ctl.promoteHeat ≤ t.heat) && !belowLow s && decide (0 < objectFree s) then startMove .promote false s g else s

/-- A device range has been read: each granule is touched, and promoted where it is hot enough (06 R150, R151). -/
def touchAll (s : State) (a n : Nat) : State := injectActs ((granulesOf a n).foldl (fun b g => promoteHot (touch b g) g) s) 1 a n

/-- A device range is read straight from its media, by a command, an array or a transfer. -/
def readAll (s : State) (a n : Nat) : State := touchAll (countReads s a n) a n

/-! ### LOST granules (06 R146, R169, R171; 05 R136) -/

/-- A granule becomes LOST: its content is gone, and the journal records it (06 R158). `media` tells loss in flash, which each access reports as
ST_MEDIA_FAIL. -/
def loseGranule (media : Bool) (s : State) (g : Nat) : State :=
  let s0 := settleJobs (abandonMove s g)
  let t := tmap s0 g
  let z : TEntry := ⟨.lost, false, 0, t.hint, 0, 0⟩
  let s1 := if g < apGranule || t.place = .flash then journal s0 .map g 1 z t.loc else s0
  let s2 := placed (setTmap (releaseCell s1 t) g z) g
  { s2 with tfm := { s2.tfm with mediaLost := (s2.tfm.mediaLost.filter (· != g)) ++ if media then [g] else [] } }

/-- A page with a LOST granule is LOST; request lists that hold it are emptied, prefix lists that
hold it are evicted, and a request whose token history it held fails (03 R78). -/
def losePage (st : Nat) (s : State) (id : Nat) : State :=
  match getPage s id with
  | none => s
  | some p =>
    if p.st = .lost then s
    else
    let s1 := { setPage s id { p with st := .lost } with ppm := { (setPage s id { p with st := .lost }).ppm with
      lostCount := (s.ppm.lostCount + 1) % 2 ^ 32 } }
    let s2 := (s1.ppm.plists.filter fun kv => kv.2.pages.contains id).foldl (fun a kv => evictList a kv.1) s1
    let s3 := (holders s2 id).foldl (fun a gid => loseList a gid st) s2
    (s3.rte.slots.filter fun kv => kv.2.e.tokRoot == id).foldl (fun a kv => applyLoss a kv.1 ⟨st, false, true⟩) s3

end Sys2Proof.Machine
end

