-- ==== Sys2Proof/Machine/Zstd.lean ====
section
/-! DEFINITION. What a Zstandard frame decodes to, as RFC 8878 defines it and within the restrictions of 07 R182 (PRESUMED,
log 50: the RFC's text is not in the spec). -/

namespace Sys2Proof.Machine

/-! ### Bit streams read from their end -/

/-- Bits not yet read, as a number, and how many there are. -/
abbrev ZBits := Nat × Nat

/-- Open a stream: the highest set bit of its last byte marks its end. -/
def zOpen (bs : Bytes) : Option ZBits :=
  match bs.getLast? with
  | none => none
  | some b =>
    if b = 0 then none
    else
      let v := leNat bs
      some (v - 2 ^ Nat.log2 v, Nat.log2 v)

/-- The next `k` bits, zeros past the end. -/
def zPeek (k : Nat) (b : ZBits) : Nat := if k ≤ b.2 then b.1 >>> (b.2 - k) else b.1 <<< (k - b.2)

def zSkip (k : Nat) (b : ZBits) : ZBits := (b.1 % 2 ^ (b.2 - k), b.2 - k)

def zTake (k : Nat) (b : ZBits) : Option (Nat × ZBits) := if k ≤ b.2 then some (zPeek k b, zSkip k b) else none

/-! ### FSE tables -/

structure FseCell where
  sym : Nat
  bits : Nat
  base : Nat
  deriving DecidableEq, Repr

/-- Accuracy log and cells. -/
structure FseTab where
  log : Nat
  cells : List FseCell
  deriving DecidableEq, Repr

/-- A run of 2-bit repeat flags: how many symbols of probability 0, and the place after it. -/
def zZeroRun : Nat → Nat → Nat → Nat × Nat
  | 0, _, pos => (0, pos)
  | k + 1, v, pos =>
    let r := (v >>> pos) % 4
    if r = 3 then
      let more := zZeroRun k v (pos + 2)
      (3 + more.1, more.2)
    else (r, pos + 2)

/-- Probabilities of a table description from bit `pos` on, −1 for "less than 1", and the place after them. -/
def zNorms : Nat → Nat → Nat → Nat → List Int → Option (List Int × Nat)
  | 0, _, _, _, _ => none
  | k + 1, v, pos, left, acc =>
    if left = 0 then some (acc.reverse, pos)
    else
      let b := Nat.log2 (left + 1) + 1
      let x := (v >>> pos) % 2 ^ b
      let low := x % 2 ^ (b - 1)
      let few := 2 ^ b - 2 - left
      let short := decide (low < few)
      let y := if short then low else if 2 ^ (b - 1) ≤ x then x - few else x
      let at1 := pos + (if short then b - 1 else b)
      let p : Int := (y : Int) - 1
      if left < p.natAbs then none
      else if p = 0 then
        let z := zZeroRun 128 v at1
        zNorms k v z.2 left (List.replicate (z.1 + 1) 0 ++ acc)
      else zNorms k v at1 (left - p.natAbs) (p :: acc)

/-- Cells in state order: a symbol's n-th cell reads the bits that bring its next state into range. -/
def fseCells (log : Nat) : List Nat → List Nat → List FseCell
  | [], _ => []
  | s :: t, next =>
    let n := next.getD s 1
    let b := log - Nat.log2 n
    ⟨s, b, n * 2 ^ b - 2 ^ log⟩ :: fseCells log t (next.set s (n + 1))

def zIndexed {α : Type} (xs : List α) : List (Nat × α) := (List.range xs.length).zip xs

/-- The decoding table of probabilities. -/
def fseBuild (log : Nat) (norms : List Int) : FseTab :=
  let size := 2 ^ log
  let lows := (zIndexed norms).filterMap fun sn => if sn.2 = -1 then some sn.1 else none
  let high := size - lows.length
  let step := size / 2 + size / 8 + 3
  let spots := ((List.range size).map fun k => k * step % size).filter fun p => decide (p < high)
  let syms := (zIndexed norms).flatMap fun sn => List.replicate sn.2.toNat sn.1
  let placed := (spots.zip syms ++ (zIndexed lows).map fun il => (size - 1 - il.1, il.2)).foldl
    (fun (l : List Nat) ps => l.set ps.1 ps.2) (List.replicate size 0)
  ⟨log, fseCells log placed (norms.map fun n => if n = -1 then 1 else n.toNat)⟩

/-- A table description, and the bytes after it. -/
def fseDesc (maxLog maxSym : Nat) (bs : Bytes) : Option (FseTab × Bytes) :=
  let v := leNat (bs.take 256)
  let log := v % 16 + 5
  if bs.isEmpty || decide (maxLog < log) then none
  else match zNorms 300 v 4 (2 ^ log) [] with
    | none => none
    | some (norms, pos) =>
      let n := (pos + 7) / 8
      if bs.length < n || maxSym + 1 < norms.length then none else some (fseBuild log norms, bs.drop n)

def fseCell (t : FseTab) (st : Nat) : FseCell := t.cells.getD st ⟨0, 0, 0⟩

/-- The next state; none past the end of the bits. -/
def fseNext (t : FseTab) (st : Nat) (b : ZBits) : Option (Nat × ZBits) :=
  (zTake (fseCell t st).bits b).map fun vb => ((fseCell t st).base + vb.1, vb.2)

/-! ### Huffman tables -/

/-- Longest code, and for each symbol in code order: first place in the table, symbol, weight. -/
structure HufTab where
  longest : Nat
  codes : List (Nat × Nat × Nat)
  deriving DecidableEq, Repr

/-- The table of the weights given; the last symbol's weight completes them. -/
def hufBuild (ws : List Nat) : Option HufTab :=
  let sum := ws.foldl (fun a w => if w = 0 then a else a + 2 ^ (w - 1)) 0
  let longest := Nat.log2 sum + 1
  let left := 2 ^ longest - sum
  if sum = 0 || decide (11 < longest) || !isPow2 left || decide (255 < ws.length) then none
  else
    let all := zIndexed (ws ++ [Nat.log2 left + 1])
    let order := (List.range longest).flatMap fun w => all.filter fun sw => sw.2 == w + 1
    some ⟨longest, (order.foldl (fun (a : Nat × List (Nat × Nat × Nat)) sw => (a.1 + 2 ^ (sw.2 - 1), (a.1, sw.1, sw.2) :: a.2))
      (0, [])).2.reverse⟩

/-- Weights coded by two interleaved FSE states; the bits' end leaves one symbol in the other state. -/
def hufWeights (t : FseTab) : Nat → Nat → Nat → ZBits → List Nat → Option (List Nat)
  | 0, _, _, _, _ => none
  | k + 1, st, other, b, acc =>
    let acc1 := (fseCell t st).sym :: acc
    match fseNext t st b with
    | none => some ((fseCell t other).sym :: acc1).reverse
    | some (n, b1) => hufWeights t k other n b1 acc1

/-- A Huffman tree description, and the bytes after it. -/
def hufDesc (bs : Bytes) : Option (HufTab × Bytes) :=
  match bs with
  | [] => none
  | h :: t =>
    let n := h.toNat
    if 128 ≤ n then
      let c := n - 127
      let m := (c + 1) / 2
      if t.length < m then none
      else (hufBuild (((t.take m).flatMap fun b => [b.toNat / 16, b.toNat % 16]).take c)).map fun x => (x, t.drop m)
    else if t.length < n then none
    else match fseDesc 6 255 (t.take n) with
      | none => none
      | some (ft, rest) => match zOpen rest with
        | none => none
        | some b0 => match zTake ft.log b0 with
          | none => none
          | some (s1, b1) => match zTake ft.log b1 with
            | none => none
            | some (s2, b2) =>
              ((hufWeights ft 256 s1 s2 b2 []).bind hufBuild).map fun x => (x, t.drop n)

/-- `n` symbols of a stream, which they use up. -/
def hufSyms (t : HufTab) : Nat → ZBits → Bytes → Option Bytes
  | 0, b, acc => if b.2 = 0 then some acc.reverse else none
  | k + 1, b, acc =>
    let i := zPeek t.longest b
    match t.codes.find? fun c => decide (c.1 ≤ i) && decide (i < c.1 + 2 ^ (c.2.2 - 1)) with
    | none => none
    | some c =>
      let w := t.longest + 1 - c.2.2
      if w ≤ b.2 then hufSyms t k (zSkip w b) (BitVec.ofNat 8 c.2.1 :: acc) else none

def hufStream (t : HufTab) (n : Nat) (bs : Bytes) : Option Bytes := (zOpen bs).bind fun b => hufSyms t n b []

/-- Four streams behind their jump table. -/
def hufFour (t : HufTab) (n : Nat) (bs : Bytes) : Option Bytes :=
  let a := subNat bs 0 2
  let b := subNat bs 2 2
  let c := subNat bs 4 2
  let q := (n + 3) / 4
  if bs.length < 6 + a + b + c || n < 3 * q then none
  else
    match hufStream t q (sub bs 6 a), hufStream t q (sub bs (6 + a) b), hufStream t q (sub bs (6 + a + b) c),
        hufStream t (n - 3 * q) (bs.drop (6 + a + b + c)) with
    | some w, some x, some y, some z => some (w ++ x ++ y ++ z)
    | _, _, _, _ => none

/-! ### Blocks -/

/-- The most bytes a block holds. -/
def zBlockMax : Nat := 131072

/-- What blocks hand on: tables, repeat offsets, and the bytes so far, last first (a dictionary's content below them). -/
structure ZState where
  huf : Option HufTab
  ll : Option FseTab
  off : Option FseTab
  ml : Option FseTab
  reps : Nat × Nat × Nat
  rev : Bytes
  deriving DecidableEq, Repr

/-- The literals section: literals, the Huffman table in force, the bytes after it. -/
def zLiterals (z : ZState) (bs : Bytes) : Option (Bytes × Option HufTab × Bytes) :=
  let h := leNat (bs.take 5)
  let kind := h % 4
  let fmt := h / 4 % 4
  if kind < 2 then
    let hl := if fmt % 2 = 0 then 1 else if fmt = 1 then 2 else 3
    let n := if fmt % 2 = 0 then bits h 7 3 else if fmt = 1 then bits h 15 4 else bits h 23 4
    let body := bs.drop hl
    if bs.length < hl || zBlockMax < n then none
    else if kind = 0 then (if body.length < n then none else some (body.take n, z.huf, body.drop n))
    else match body with
      | [] => none
      | b :: rest => some (List.replicate n b, z.huf, rest)
  else
    let hl := if fmt < 2 then 3 else fmt + 2
    let w := if fmt < 2 then 10 else if fmt = 2 then 14 else 18
    let n := bits h (3 + w) 4
    let m := bits h (3 + 2 * w) (4 + w)
    if bs.length < hl + m || zBlockMax < n then none
    else
      let body := sub bs hl m
      let tree := if kind = 2 then hufDesc body else z.huf.map fun t => (t, body)
      match tree with
      | none => none
      | some (t, streams) =>
        (if fmt = 0 then hufStream t n streams else hufFour t n streams).map fun lits => (lits, some t, bs.drop (hl + m))

/-- Baseline and extra bits of a literals-length code and of a match-length code. -/
def llCode (c : Nat) : Nat × Nat :=
  if c < 16 then (c, 0)
  else ([(16, 1), (18, 1), (20, 1), (22, 1), (24, 2), (28, 2), (32, 3), (40, 3), (48, 4), (64, 6), (128, 7), (256, 8), (512, 9),
    (1024, 10), (2048, 11), (4096, 12), (8192, 13), (16384, 14), (32768, 15)] : List (Nat × Nat)).getD (c - 16) (65536, 16)

def mlCode (c : Nat) : Nat × Nat :=
  if c < 32 then (c + 3, 0)
  else ([(35, 1), (37, 1), (39, 1), (41, 1), (43, 2), (47, 2), (51, 3), (59, 3), (67, 4), (83, 4), (99, 5), (131, 7), (259, 8),
    (515, 9), (1027, 10), (2051, 11), (4099, 12), (8195, 13), (16387, 14), (32771, 15)] : List (Nat × Nat)).getD (c - 32) (65539, 16)

/-- The predefined distributions. -/
def llDefault : FseTab := fseBuild 6 ([4, 3] ++ List.replicate 11 2 ++ [1, 1, 1] ++ List.replicate 9 2 ++ [3, 2] ++
  List.replicate 5 1 ++ List.replicate 4 (-1))

def mlDefault : FseTab := fseBuild 6 ([1, 4, 3] ++ List.replicate 6 2 ++ List.replicate 37 1 ++ List.replicate 7 (-1))

def offDefault : FseTab := fseBuild 5 (List.replicate 6 1 ++ [2, 2, 2] ++ List.replicate 15 1 ++ List.replicate 5 (-1))

/-- The table of one kind of code under its mode, and the bytes after its description. -/
def zTable (mode maxLog maxSym : Nat) (dflt : FseTab) (last : Option FseTab) (bs : Bytes) : Option (FseTab × Bytes) :=
  if mode = 0 then some (dflt, bs)
  else if mode = 1 then
    match bs with
    | [] => none
    | b :: t => if maxSym < b.toNat then none else some (⟨0, [⟨b.toNat, 0, 0⟩]⟩, t)
  else if mode = 2 then fseDesc maxLog maxSym bs
  else last.map fun t => (t, bs)

/-- The offset that an offset value stands for, and the repeat offsets after it; none for an offset of 0. -/
def zOffset (v ll : Nat) (r : Nat × Nat × Nat) : Option (Nat × (Nat × Nat × Nat)) :=
  if 3 < v then some (v - 3, (v - 3, r.1, r.2.1))
  else
    let k := v - 1 + (if ll = 0 then 1 else 0)
    if k = 0 then some (r.1, r)
    else if k = 1 then some (r.2.1, (r.2.1, r.1, r.2.2))
    else if k = 2 then some (r.2.2, (r.2.2, r.1, r.2.1))
    else if r.1 ≤ 1 then none
    else some (r.1 - 1, (r.1 - 1, r.1, r.2.1))

/-- Copy bytes from `off` back, one by one. -/
def zCopy (off : Nat) : Nat → Bytes → Bytes
  | 0, rev => rev
  | k + 1, rev => zCopy off k (rev.getD (off - 1) 0 :: rev)

/-- The sequences of a block: literals left, repeat offsets and bytes after them. -/
def zSequences (tl tf tm : FseTab) : Nat → Nat × Nat × Nat → ZBits → Bytes → Nat × Nat × Nat → Bytes →
    Option (Bytes × (Nat × Nat × Nat) × Bytes)
  | 0, _, b, lits, reps, rev => if b.2 = 0 then some (lits, reps, rev) else none
  | k + 1, st, b, lits, reps, rev =>
    let oc := (fseCell tf st.2.1).sym
    let mc := mlCode (fseCell tm st.2.2).sym
    let lc := llCode (fseCell tl st.1).sym
    match zTake oc b with
    | none => none
    | some (ov, b1) => match zTake mc.2 b1 with
      | none => none
      | some (mv, b2) => match zTake lc.2 b2 with
        | none => none
        | some (lv, b3) =>
          let ll := lc.1 + lv
          match zOffset (2 ^ oc + ov) ll reps with
          | none => none
          | some (off, reps1) =>
            let rev1 := (lits.take ll).reverse ++ rev
            if lits.length < ll || rev1.length < off then none
            else
              let rev2 := zCopy off (mc.1 + mv) rev1
              if k = 0 then zSequences tl tf tm k st b3 (lits.drop ll) reps1 rev2
              else match fseNext tl st.1 b3 with
                | none => none
                | some (s1, b4) => match fseNext tm st.2.2 b4 with
                  | none => none
                  | some (s2, b5) => match fseNext tf st.2.1 b5 with
                    | none => none
                    | some (s3, b6) => zSequences tl tf tm k (s1, s3, s2) b6 (lits.drop ll) reps1 rev2

/-- How many sequences a section has, and the bytes after the number. -/
def zSeqCount (bs : Bytes) : Option (Nat × Bytes) :=
  match bs with
  | [] => none
  | b :: t =>
    let n := b.toNat
    if n < 128 then some (n, t)
    else if n < 255 then (if t.length < 1 then none else some ((n - 128) * 256 + subNat t 0 1, t.drop 1))
    else if t.length < 2 then none
    else some (subNat t 0 2 + 0x7F00, t.drop 2)

/-- The sequences section behind the literals. -/
def zSeqSection (z : ZState) (lits : Bytes) (bs : Bytes) : Option ZState :=
  match zSeqCount bs with
  | none => none
  | some (n, rest) =>
    if n = 0 then (if rest.isEmpty then some { z with rev := lits.reverse ++ z.rev } else none)
    else match rest with
      | [] => none
      | m :: r0 =>
        let modes := m.toNat
        if modes % 4 ≠ 0 then none
        else match zTable (bits modes 7 6) 9 35 llDefault z.ll r0 with
          | none => none
          | some (tl, r1) => match zTable (bits modes 5 4) 8 31 offDefault z.off r1 with
            | none => none
            | some (tf, r2) => match zTable (bits modes 3 2) 9 52 mlDefault z.ml r2 with
              | none => none
              | some (tm, r3) => match zOpen r3 with
                | none => none
                | some b => match zTake tl.log b with
                  | none => none
                  | some (s1, b1) => match zTake tf.log b1 with
                    | none => none
                    | some (s2, b2) => match zTake tm.log b2 with
                      | none => none
                      | some (s3, b3) =>
                        (zSequences tl tf tm n (s1, s2, s3) b3 lits z.reps z.rev).map fun e =>
                          { z with ll := some tl, off := some tf, ml := some tm, reps := e.2.1, rev := e.1.reverse ++ e.2.2 }

/-- One compressed block. -/
def zCompressed (z : ZState) (bs : Bytes) : Option ZState :=
  match zLiterals z bs with
  | none => none
  | some (lits, huf, rest) =>
    (zSeqSection { z with huf := huf } lits rest).bind fun w => if z.rev.length + zBlockMax < w.rev.length then none else some w

/-- Blocks up to the last one, after which nothing may stand. -/
def zBlocks : Nat → ZState → Bytes → Option ZState
  | 0, _, _ => none
  | k + 1, z, bs =>
    let h := leNat (bs.take 3)
    let kind := h / 2 % 4
    let n := h / 8
    let body := bs.drop 3
    let used := if kind = 1 then 1 else n
    if bs.length < 3 || kind = 3 || zBlockMax < n || body.length < used then none
    else
      let z1 :=
        if kind = 0 then some { z with rev := (body.take n).reverse ++ z.rev }
        else if kind = 1 then some { z with rev := List.replicate n (body.headD 0) ++ z.rev }
        else zCompressed z (body.take n)
      match z1 with
      | none => none
      | some w => if h % 2 = 1 then (if body.length = used then some w else none) else zBlocks k w (body.drop used)

/-! ### Dictionaries and frames -/

def zFresh (content : Bytes) : ZState := ⟨none, none, none, none, (1, 4, 8), content.reverse⟩

/-- What a dictionary's bytes give: raw content, or tables, repeat offsets and content behind the format's magic number. -/
def zDictionary (d : Bytes) : Option ZState :=
  if leNat (d.take 4) ≠ 0xEC30A437 || d.length < 4 then some (zFresh d)
  else match hufDesc (d.drop 8) with
    | none => none
    | some (h, r1) => match fseDesc 8 31 r1 with
      | none => none
      | some (o, r2) => match fseDesc 9 52 r2 with
        | none => none
        | some (m, r3) => match fseDesc 9 35 r3 with
          | none => none
          | some (l, r4) =>
            let content := r4.drop 12
            let rep (k : Nat) : Nat := subNat r4 (4 * k) 4
            let ok (k : Nat) : Bool := rep k != 0 && decide (rep k ≤ content.length)
            if r4.length < 12 || !(ok 0 && ok 1 && ok 2) then none
            else some ⟨some h, some l, some o, some m, (rep 0, rep 1, rep 2), content.reverse⟩

/-- A frame's header under R182: Single_Segment_Flag 1, no checksum, no dictionary identifier; Frame_Content_Size and the
bytes after it. -/
def zHeader (bs : Bytes) : Option (Nat × Bytes) :=
  let f := subNat bs 4 1
  let n := 1 <<< bits f 7 6
  if leNat (bs.take 4) ≠ 0xFD2FB528 || bs.length < 5 + n || !bit f 5 || bits f 3 0 != 0 then none
  else some (subNat bs 5 n + (if n = 2 then 256 else 0), bs.drop (5 + n))

/-- What a frame decodes to under a dictionary; none where the bytes are not one frame that R182 admits. -/
def zstdDecode (dict bs : Bytes) : Option Bytes :=
  match zHeader bs, zDictionary dict with
  | some h, some z => (zBlocks bs.length z h.2).map fun w => (w.rev.take (w.rev.length - z.rev.length)).reverse
  | _, _ => none

end Sys2Proof.Machine
end

