-- ==== Sys2Proof/Machine/Codec.lean ====
section
/-! DEFINITION. Blocks, index tables and the outcome of a decode, over the device range and over page lists (07 R181 to R186,
R194). -/

namespace Sys2Proof.Machine

/-! ### Writing whole ranges, poison (07 R185) -/

/-- Poison a range: every 128-bit word that it touches reads as an uncorrectable error until it is next written. -/
def poisonRange (s : State) (a n : Nat) : State :=
  if n = 0 then s
  else
    let ws := granules (a / 16) ((a + n - 1) / 16 - a / 16 + 1)
    { s with tfm := { s.tfm with poison := s.tfm.poison ++ ws.filter fun w => !s.tfm.poison.contains w } }

/-- A step that may find no frame: carry on from the state before. -/
def andThen (o : Option State) (f : State → Option State) : Option State :=
  match o with
  | none => none
  | some s => f s

/-! ### Page lists as one run of bytes -/

/-- A run of a list's bytes cut at page ends: page position, offset in the page, length. -/
def listSpans (p : Nat) : Nat → Nat → Nat → List (Nat × Nat × Nat)
  | 0, _, _ => []
  | k + 1, off, n => if n = 0 then [] else
    let m := min n (p - off % p)
    (off / p, off % p, m) :: listSpans p k (off + m) (n - m)

def spansOf (l : PList) (off n : Nat) : List (Nat × Nat × Nat) := listSpans (psize l.cls) (n / psize l.cls + 2) off n

/-- The device range of one span. -/
def spanAddr (l : PList) (sp : Nat × Nat × Nat) : Nat := pageAddr (l.pages.getD sp.1 0) + sp.2.1

def listRead (s : State) (l : PList) (off n : Nat) : Bytes := (spansOf l off n).flatMap fun sp => devRead s (spanAddr l sp) sp.2.2

/-- The first status other than ST_OK of a list's run. -/
def listStatus (s : State) (l : PList) (off n : Nat) : Nat :=
  (spansOf l off n).foldl (fun st sp => if st = St.ok then rangeRead s (spanAddr l sp) sp.2.2 else st) St.ok

/-- Write a run of a list's bytes; the pages take the mark of the record's generation. -/
def listWrite (s : State) (l : PList) (off : Nat) (bs : Bytes) (slot tag : Nat) : Option State :=
  (((spansOf l off bs.length).foldl (fun (a : Option State × Bytes) sp =>
    (andThen a.1 fun t => (devWrite t (spanAddr l sp) (a.2.take sp.2.2)).map fun u => markPage u (l.pages.getD sp.1 0) slot tag,
      a.2.drop sp.2.2)) (some s, bs))).1

/-- Make the page at a position private before it is written (05 R125): its bytes up to CTX_LEN are copied. -/
def privPage (s : State) (gid i : Nat) : Option State :=
  match getList s gid with
  | none => none
  | some l =>
    let old := l.pages.getD i noId
    match getPage s old with
    | none => some s
    | some p =>
      if p.refs ≤ 1 then some s
      else
        let shared := if p.inPrefix then l.shared - 1 else l.shared
        match growRes s gid (usedUnitsOf { l with shared := shared }) with
        | none => none
        | some s1 =>
          match allocPage s1 l.cls 0 false false with
          | none => none
          | some (new, s2) =>
            let n := min (psize l.cls) (l.ctxLen * l.kvPerTok - i * psize l.cls)
            let s3 := copyBytes s2 (pageAddr new) (pageAddr old) n
            let s4 := decRef ((maskTags p.mask).foldl (fun a t => markPage a new p.maskSlot t) s3) old
            let l1 := (getList s1 gid).getD l
            some (putList { s4 with ppm := { s4.ppm with tailCopies := (s4.ppm.tailCopies + 1) % 2 ^ 64 } }
              { l1 with pages := l1.pages.set i new, shared := shared })

/-- Make every page of a run private. -/
def privRun (s : State) (gid off n : Nat) : Option State :=
  match getList s gid with
  | none => none
  | some l => (spansOf l off n).foldl (fun o sp => andThen o fun t => privPage t gid sp.1) (some s)

/-! ### Blocks (07 R181) -/

structure BlkHdr where
  raw : Bool
  hver : Nat
  kind : Nat
  gen : Nat
  slot : Nat
  coded : Nat
  rawLen : Nat
  tableId : Nat
  check : Nat
  rsv : Bool
  deriving DecidableEq, Repr

def blkHdr (n : Nat) : BlkHdr where
  raw := bit n 0
  hver := bits n 11 8
  kind := bits n 15 12
  gen := bits n 23 21
  slot := bits n 29 24
  coded := bits n 46 30
  rawLen := bits n 63 47
  tableId := bits n 95 64
  check := bits n 127 96
  rsv := bits n 7 1 != 0 || bits n 20 16 != 0

def blkBytes (raw : Bool) (kind gen slot rawLen tableId check : Nat) (body : Bytes) : Bytes :=
  leBytes 16 (b2n raw ||| 1 <<< 8 ||| kind <<< 12 ||| gen <<< 21 ||| slot <<< 24 ||| body.length <<< 30 ||| rawLen <<< 47
    ||| tableId <<< 64 ||| check <<< 96) ++ body

/-- The encoder's frame of raw bytes: its choices are free, within 07 R182. It states the raw length, and it decodes to the
raw bytes. -/
def zstdFrame (level : Nat) (dict raw : Bytes) : Option Bytes :=
  let f := Config.zstdEncode level dict raw
  if (zHeader f).map (·.1) = some raw.length && zstdDecode dict f = some raw then some f else none

/-- A LOSSLESS block: a frame, or the raw bytes where the frame would be longer (07 R182). -/
def losslessBlock (slot : Nat) (g : Gen) (raw : Bytes) : Bytes :=
  let stored := blkBytes true 1 0 0 raw.length 0 (crc32c raw) raw
  match zstdFrame (bits g.header 384 381) g.body raw with
  | none => stored
  | some f => if raw.length < f.length then stored else blkBytes false 1 g.tag slot raw.length g.tableId (crc32c raw) f

def quantBlock (slot : Nat) (q : QTab) (body : Bytes) (rawLen : Nat) : Bytes :=
  blkBytes false 2 q.tag slot rawLen q.tableId (crc32c body) body

/-! ### Index tables (07 R183) -/

structure Index where
  base : Nat
  total : Nat
  coded : Nat
  count : Nat
  rowLen : Nat
  slot : Nat
  kind : Nat
  deriving DecidableEq, Repr

def indexOf (n : Nat) : Index where
  base := bits n 511 448
  total := bits n 447 408
  coded := bits n 407 368
  count := bits n 367 344
  rowLen := bits n 343 323
  slot := bits n 322 317
  kind := bits n 316 313

def indexHdr (i : Index) : Bytes :=
  leBytes 64 (i.kind <<< 313 ||| i.slot <<< 317 ||| i.rowLen <<< 323 ||| i.count <<< 344 ||| i.coded <<< 368 ||| i.total <<< 408
    ||| i.base <<< 448)

/-- The index table at an address; an unreadable one has a status. -/
def readIndex (s : State) (a : Nat) : Except Nat Index :=
  let st := rangeRead s a 64
  if st != St.ok then .error st
  else
    let i := indexOf (leNat (devRead s a 64))
    let st1 := rangeRead s (a + 64) (8 * i.count)
    if st1 != St.ok then .error st1 else .ok i

/-- Block `k`'s offset from DATA_BASE. -/
def blockOff (s : State) (a k : Nat) : Nat := bits (leNat (devRead s (a + 64 + 8 * k) 8)) 63 24

/-- The raw length that the index implies for block `k`. -/
def impliedRaw (i : Index) (k : Nat) : Nat := if k + 1 < i.count then 65536 else i.total - 65536 * (i.count - 1)

/-- Lay blocks out from an offset of a data area at `base`, each on an 8-byte boundary; a poisoned block (none) takes one
128-bit word of its own. -/
def layBlocks (base : Nat) : Nat → List (Option Bytes) → List (Nat × Option Bytes)
  | _, [] => []
  | o, some b :: t => (o, some b) :: layBlocks base (o + ceilDiv b.length 8 * 8) t
  | o, none :: t =>
    let w := ceilDiv (base + o) 16 * 16 - base
    (w, none) :: layBlocks base (w + 16) t

/-- CODED_TOTAL: the end of the last block. -/
def codedEnd (bs : List (Nat × Option Bytes)) : Nat :=
  match bs.getLast? with
  | none => 0
  | some (o, b) => o + (b.map (·.length)).getD 16

/-- Write a coded object: its blocks and its index table. Answers CODED_TOTAL. -/
def writeObject (s : State) (base idx total rowLen slot kind : Nat) (blocks : List (Option Bytes)) : Option (Nat × State) :=
  let lay := layBlocks base 0 blocks
  let ix : Index := ⟨base, total, codedEnd lay, blocks.length, rowLen, slot, kind⟩
  let s1 := lay.foldl (fun o ob => andThen o fun t => devWrite t (base + ob.1) (ob.2.getD (zeros 16))) (some s)
  let table := indexHdr ix ++ lay.flatMap fun ob => leBytes 8 (ob.1 <<< 24)
  let s2 := andThen s1 fun t => devWrite t idx table
  s2.map fun t => (ix.coded, lay.foldl (fun a ob => if ob.2.isNone then poisonRange a (base + ob.1) 16 else a) t)

/-! ### Decode outcomes (07 R184) -/

/-- What a block or record decodes to: bytes as they were (LOSSLESS), or elements. -/
inductive Decoded where
  | raw (bs : Bytes)
  | elems (xs : List F32) (scales : List (BitVec 16))
  deriving DecidableEq, Repr

/-- The live generation a block names. -/
def blockGen (s : State) (h : BlkHdr) : Option Gen :=
  (cslot s h.slot).gens.find? fun g => g.tag == h.gen && g.tableId == h.tableId

/-- Header not as R181 gives it, or the block past its place. -/
def malformed (h : BlkHdr) (implied room : Nat) : Bool :=
  h.hver != 1 || (h.kind != 1 && h.kind != 2) || h.rsv || h.rawLen = 0 || decide (65536 < h.rawLen) || h.coded = 0 ||
    decide (65536 < h.coded) || (h.raw && (h.kind != 1 || h.coded != h.rawLen)) || h.rawLen != implied || decide (room < 16 + h.coded)

/-- A block's header, where it can be read. -/
def blockHdrAt (s : State) (a : Nat) : Option BlkHdr :=
  if rangeRead s a 16 = St.ok then some (blkHdr (leNat (devRead s a 16))) else none

/-- The outcome of a coded LOSSLESS block from what its frame decodes to: the data, or a status and the bytes it leaves in
its raw range. -/
def frameOutcome (h : BlkHdr) (out : Option Bytes) : Except (Nat × Bytes) Decoded :=
  match out with
  | none => .error (St.dataCheck, [])
  | some bs =>
    if h.rawLen < bs.length then .error (St.codecOverrun, bs.take h.rawLen)
    else if bs.length < h.rawLen then .error (St.codecUnderrun, bs)
    else if crc32c bs = h.check then .ok (.raw bs)
    else .error (St.dataCheck, bs)

/-- The checks of R184 in order on the block at an address that has `room` bytes: the data, or a status and the bytes that
stand before the zeros of its raw range. -/
def decodeOut (s : State) (a implied room : Nat) : Except (Nat × Bytes) Decoded :=
  match blockHdrAt s a with
  | none => .error (St.dataCheck, [])
  | some h =>
    if malformed h implied room then .error (St.dataCheck, [])
    else if rangeRead s (a + 16) h.coded != St.ok then .error (St.dataCheck, [])
    else
      let body := devRead s (a + 16) h.coded
      if h.raw then (if crc32c body = h.check then .ok (.raw body) else .error (St.dataCheck, body))
      else match blockGen s h with
        | none => .error (St.tableGone, [])
        | some g =>
          if h.kind = 2 then
            if crc32c body != h.check then .error (St.dataCheck, [])
            else match decodeBlock (qtab g) h.rawLen body with
              | none => .error (St.dataCheck, [])
              | some xs => .ok (.elems xs (blockScales (qtab g) h.rawLen body))
          else frameOutcome h (zstdDecode g.body body)

/-- A decode as data or a status. -/
def statusOf {α : Type} (r : Except (Nat × Bytes) α) : Except Nat α := r.mapError Prod.fst

def decodeAt (s : State) (a implied room : Nat) : Except Nat Decoded := statusOf (decodeOut s a implied room)

/-- The checks on block `k` of an object: its place ends at the next block's offset, and at CODED_TOTAL. -/
def decodeBlkOut (s : State) (a : Nat) (i : Index) (k : Nat) : Except (Nat × Bytes) Decoded :=
  let o := blockOff s a k
  let e := if k + 1 < i.count then min (blockOff s a (k + 1)) i.coded else i.coded
  if e < o then .error (St.dataCheck, []) else decodeOut s (i.base + o) (impliedRaw i k) (e - o)

/-- Decode block `k` of an object. -/
def decodeBlk (s : State) (a : Nat) (i : Index) (k : Nat) : Except Nat Decoded := statusOf (decodeBlkOut s a i k)

/-- A record header is malformed: a reserved field, or more pool entries than the slot's layout has (07 R195). -/
def badRecHdr (x : CSlot) (h : Nat) : Bool :=
  bits h 27 16 != 0 || match x.newest with
    | none => false
    | some g => decide ((qtab g).sidePool < bits h 15 0)

/-- Decode the record at token `t` of a list: steps 1 to 5 of R184 (07 R195). -/
def decodeRec (s : State) (l : PList) (t : Nat) : Except Nat (Nat × List RecGroup) :=
  let off := t * l.kvPerTok
  let x := cslot s l.codecSlot
  if listStatus s l off l.kvPerTok != St.ok then .error St.dataCheck
  else
    let bs := listRead s l off l.kvPerTok
    let h := leNat (bs.take 8)
    if badRecHdr x h then .error St.dataCheck
    else match x.byTag (bits h 31 29) with
      | none => .error St.tableGone
      | some g => match decodeRecord (qtab g) bs with
        | none => .error St.dataCheck
        | some gs => .ok (g.tag, gs)

/-- Whether a record stores STEP_FIRST. -/
def stepFirstAt (s : State) (l : PList) (t : Nat) : Bool := bit (leNat (listRead s l (t * l.kvPerTok) 8)) 28

/-- The statuses of several decodes as a result, the first failing one and how many failed (07 R186). -/
def statusBytes {α : Type} (rs : List (Except Nat α)) : Bytes :=
  rs.flatMap fun r => leBytes 2 (match r with
    | .ok _ => St.ok
    | .error st => st)

def failures {α : Type} (rs : List (Except Nat α)) : List Nat :=
  rs.filterMap fun r => match r with
    | .ok _ => none
    | .error st => some st

/-! ### Counts of a slot -/

/-- Count elements that found no room in a side list (07 R192). -/
def countLost (s : State) (slot : Nat) (n : Lost3) : State :=
  let x := cslot s slot
  setCSlot s slot { x with saturated := (x.saturated + n.sat) % 2 ^ 64, nonfinite := (x.nonfinite + n.non) % 2 ^ 64 }

/-- A reference for each block of a generation, and one less. -/
def holdN (s : State) (slot tag n : Nat) : State := bumpRef s slot tag true n
def dropN (s : State) (slot tag n : Nat) : State := retireGens (bumpRef s slot tag false n) slot

end Sys2Proof.Machine
end

