-- ==== Sys2Proof/Machine/Arrays.lean ====
section
/-! DEFINITION. Contexts, launches, their ends and their traps, array states and clocks, the cyclic schedule (08 R205 to R241). -/

namespace Sys2Proof.Machine

/-! ### Arrays -/

def freshArr : Arr where
  st := .active
  auto := false
  gated := false
  wakeAt := none
  mhzSet := 1600
  mhzRun := 1600
  mhzDue := none
  streak := 0
  slowPm := 0
  slowHist := []
  exclusions := 0
  busy := 0
  work := 0
  idleFrom := 0
  banks := []

def arr (s : State) (a : Nat) : Arr := Tbl.getD s.cax.arrays a freshArr
def setArr (s : State) (a : Nat) (x : Arr) : State := { s with cax := { s.cax with arrays := Tbl.set s.cax.arrays a x } }

/-- Array group of an array (08 R205). -/
def arrGroup (a : Nat) : Nat := a / 12

/-- The object of an array's event. -/
def arrEvent (s : State) (cause sev a arg : Nat) : State := post s Un.cax Ek.array cause sev 0 a arg

/-- The arrays of a mask, in array order. -/
def maskArrays (m : Nat) : List Nat := bitList 96 m

/-- The clock an array is to run at: the lowest of its setting and the ceilings in force (08 R206, 13 R366, R380). -/
def mhzTarget (s : State) (a : Nat) : Nat :=
  min (arr s a).mhzSet (min s.plc.capCeil (Tbl.getD s.plc.clampCeil (arrGroup a) 1800))

/-! ### Contexts and threads -/

/-- Handle of a context, and the context a handle names (08 R223). -/
def ctxHandle (id gen : Nat) : Nat := id ||| gen <<< 6

def getCtx (s : State) (id : Nat) : Option Ctx := Tbl.get s.cax.ctxs id
def setCtx (s : State) (id : Nat) (x : Ctx) : State := { s with cax := { s.cax with ctxs := Tbl.set s.cax.ctxs id x } }

def findCtx (s : State) (h : Nat) : Option (Nat × Ctx) :=
  match getCtx s (h % 64) with
  | some x => if x.gen = h / 64 then some (h % 64, x) else none
  | none => none

def localKey (c a : Nat) : Nat := c * 96 + a
def thrKey (t : Thr) : Nat := (t.ctx * 96 + t.arr) * 128 + t.idx
def getThr (s : State) (t : Thr) : Option Thread := Tbl.get s.cax.threads (thrKey t)
def setThr (s : State) (t : Thr) (x : Thread) : State := { s with cax := { s.cax with threads := Tbl.set s.cax.threads (thrKey t) x } }

/-- A share on an array, and a change of it. -/
def share (s : State) (c a : Nat) : List Host.Cell := Tbl.getD s.cax.locals (localKey c a) []
def setShare (s : State) (c a : Nat) (m : List Host.Cell) : State :=
  { s with cax := { s.cax with locals := Tbl.set s.cax.locals (localKey c a) m } }

/-- Words of a share that hold an uncorrectable error, by their place ÷ 16 (08 R208). -/
def badWordsOf (s : State) (c a : Nat) : List Nat := Tbl.getD s.cax.badLocal (localKey c a) []

/-- A range of a share that an array reads holds such a word (08 R220 DATA). -/
def localBad (s : State) (c a at_ n : Nat) : Bool :=
  n != 0 && (badWordsOf s c a).any fun w => decide (at_ / 16 ≤ w) && decide (w ≤ (at_ + n - 1) / 16)

def setBadWords (s : State) (c a : Nat) (l : List Nat) : State :=
  { s with cax := { s.cax with badLocal := Tbl.set s.cax.badLocal (localKey c a) l } }

/-- Bytes stored in a share. A word that they cover whole is good again. -/
def putLocal (s : State) (c a at_ : Nat) (bs : Bytes) : State :=
  let s1 := setShare s c a (memPut (share s c a) at_ bs)
  let l := badWordsOf s c a
  if l.isEmpty then s1
  else setBadWords s1 c a (l.filter fun w => !(decide (at_ ≤ 16 * w) && decide (16 * w + 16 ≤ at_ + bs.length)))

def shareLen (x : Ctx) : Nat := x.localUnits * 65536

/-- The threads of a running launch: its arrays in order, thread by thread. -/
def launchThreads (id : Nat) (x : Ctx) : List Thr :=
  (maskArrays x.runMask).flatMap fun a => (List.range x.threads).map fun i => ⟨id, a, i⟩

/-- Use of an array by contexts: threads, share units, vector registers (08 R225). -/
def arrUse (s : State) (a : Nat) : Nat × Nat × Nat :=
  s.cax.ctxs.foldl (fun u kv =>
    if bit kv.2.mask a then (u.1 + kv.2.threads, u.2.1 + kv.2.localUnits, u.2.2 + kv.2.threads * kv.2.vregs) else u) (0, 0, 0)

def arrFits (s : State) (a threads units vregs : Nat) : Bool :=
  let u := arrUse s a
  decide (u.1 + threads ≤ 128) && decide (u.2.1 + units ≤ 32) && decide (u.2.2 + threads * vregs ≤ 1024)

/-! ### Kernels (08 R221, R222, R230) -/

/-- A kernel image as a kernel. -/
def imageKernel (gen tenant : Nat) (img : Bytes) : Kernel :=
  let f (o n : Nat) : Nat := subNat img o n
  { gen := gen, tenant := tenant, code := sub img 256 (f 8 4), data := sub img (256 + f 8 4) (f 12 4), localMin := f 16 2
    threadsMin := f 18 2, vregsMin := f 20 2, arraysMin := f 22 2
    entries := (List.range (f 24 2)).map fun i => f (32 + 4 * i) 4, builtin := bit (f 6 2) 0 }

/-- The loaded kernel a handle names. -/
def findKernel (s : State) (h : Nat) : Option Kernel :=
  match Tbl.get s.cax.kernels (h % 256) with
  | some k => if k.gen = h / 256 then some k else none
  | none => none

/-- The kernel a context runs: a loaded one, or, under the generation that no handle has, a built-in one. -/
def kernelOf (s : State) (h : Nat) : Option Kernel :=
  if h / 256 = 255 then some (imageKernel 0 0 (s.sec.builtinImages.getD (h % 256) [])) else findKernel s h

/-! ### The start of a launch (08 R212, R226, R227) -/

/-- A thread at the start of a launch. -/
def newThread (pc : Nat) (args : List Nat) (rank count idx : Nat) : Thread where
  pc := pc
  regs := (([(1, args.getD 0 0), (2, args.getD 1 0), (3, args.getD 2 0), (4, rank), (5, count), (6, idx)] : Tbl Nat)).filter fun kv => kv.2 != 0
  preds := 0
  accSat := false
  vregs := []
  halted := false
  wait := .none
  dmas := []
  passes := []
  busy := 0
  work := 0

def activeMask (s : State) (mask : Nat) : Nat :=
  (maskArrays mask).foldl (fun m a => if (arr s a).st = .active then m ||| 2 ^ a else m) 0

/-- Wake the gated arrays of a mask: each is awake 2 µs from now (08 R207). -/
def wakeArrays (s : State) (as : List Nat) : State :=
  as.foldl (fun t a => if (arr t a).gated && (arr t a).wakeAt.isNone then setArr t a { arr t a with wakeAt := some (now s + 2 * us) } else t) s

/-- All threads of a launch stand at its entry. -/
def placeThreads (s : State) (id : Nat) (x : Ctx) (l : LaunchCmd) (pc : Nat) : State :=
  let as := maskArrays x.runMask
  (as.zip (List.range as.length)).foldl (fun t ar =>
    (List.range x.threads).foldl (fun u i => setThr u ⟨id, ar.1, i⟩ (newThread pc l.args ar.2 as.length i)) t) s

/-- Start a launch on the context's ACTIVE arrays; with a gated one among them it waits for the wake. -/
def startLaunch (s : State) (id : Nat) (l : LaunchCmd) : State :=
  match getCtx s id with
  | none => s
  | some x =>
    let mask := activeMask s x.mask
    let as := maskArrays mask
    let gated := as.any fun a => (arr s a).gated
    let x1 : Ctx := { x with running := some l, runMask := mask, started := !gated, startAt := now s }
    let pc := match kernelOf s x.kernel with
      | some k => k.entries.getD l.entry 0
      | none => 0
    wakeArrays (placeThreads (setCtx s id x1) id x1 l pc) as

/-! ### Passes and DMA in flight -/

/-- Store 32-bit words. -/
def wordsBytes (ws : List Nat) : Bytes := ws.flatMap (leBytes 4)

/-- A signed 32-bit sum that saturates, and whether it did (08 R210). -/
def satAdd (a b : Nat) : Nat × Bool :=
  let v := signed 32 a + signed 32 b
  if 2147483647 < v then (0x7FFFFFFF, true) else if v < -2147483648 then (0x80000000, true) else (unsigned 32 v, false)

/-- The words a pass leaves over old ones: added where ACC is set, INT32 sums saturating. -/
def passWords (p : Pass) (old : List Nat) : List Nat × Bool :=
  if !p.acc then (p.vals, false)
  else if p.isInt then
    let r := (p.vals.zip old).map fun vo => satAdd vo.1 vo.2
    (r.map (·.1), r.any (·.2))
  else ((p.vals.zip old).map fun vo => (fadd (BitVec.ofNat 32 vo.2) (BitVec.ofNat 32 vo.1)).toNat, false)

/-- The end of a pass: its results are stored, its work counted. -/
def endPass (s : State) (t : Thr) (x : Thread) (p : Pass) (rest : List Pass) : State :=
  let m := share s t.ctx t.arr
  let (ws, sat) := passWords p (wordsOf p.vals.length (memReadN m p.dest (4 * p.vals.length)))
  setThr (putLocal s t.ctx t.arr p.dest (wordsBytes ws)) t { x with
    passes := rest, accSat := x.accSat || sat, work := x.work + p.cycles }

/-- Passes that stream complete, and writes already issued complete (08 R220). -/
def flushThread (s : State) (t : Thr) : State :=
  match getThr s t with
  | none => s
  | some x =>
    let s1 := x.passes.foldl (fun u p => match getThr u t with
      | some y => endPass u t y p (y.passes.drop 1)
      | none => u) s
    x.dmas.foldl (fun u d =>
      if d.kind = .write && rangeWrite u d.dev d.len == St.ok then
        (devWrite u d.dev (memReadN (share u t.ctx t.arr) d.loc d.len)).getD u
      else u) s1

/-! ### Slowdown and exclusion (08 R235 to R237) -/

/-- Present busy core cycles of a launch: the core runs at 2 GHz (08 R227, R241). -/
def busyCycles (s : State) (x : Ctx) : Nat := 2 * (now s - x.startAt)

/-- Busy and work of an array of a launch. -/
def arrCounts (s : State) (id a n : Nat) : Nat × Nat :=
  (List.range n).foldl (fun u i => match getThr s ⟨id, a, i⟩ with
    | some t => (max u.1 t.busy, u.2 + t.work)
    | none => u) (0, 0)

def lowerMedian (xs : List Nat) : Nat :=
  let l := sortBy (fun a b => decide (a < b)) xs
  l.getD ((l.length - 1) / 2) 0

/-- Arrays excluded automatically. -/
def autoExcluded (s : State) : Nat := s.cax.arrays.countP fun kv => kv.2.st == .excluded && kv.2.auto

/-- Some context would keep fewer ACTIVE arrays than its MIN_ARRAYS without an array. -/
def starves (s : State) (a : Nat) : Bool :=
  s.cax.ctxs.any fun kv => bit kv.2.mask a && decide (popCount 96 (activeMask s kv.2.mask) - 1 < kv.2.minArrays)

/-- R237 on one array at the end of a measured launch. -/
def autoExclude (s : State) (a : Nat) : State :=
  let x := arr s a
  if x.streak < s.cax.ctl.slowSteps || !s.cax.ctl.autoExclude || x.st != .active then s
  else if s.cax.ctl.maxExclude ≤ autoExcluded s || starves s a then arrEvent s Ec.threshold 1 a x.slowPm
  else
    let s1 := setArr s a { x with st := .excluded, auto := true, exclusions := satBits 16 (x.exclusions + 1) }
    setFlag (arrEvent s1 Ec.stateChange 2 a x.slowPm) Fl.arrayState

/-- The measurement of R235 over a launch's arrays with their busy cycles and work. -/
def measureWith (s : State) (cs : List (Nat × Nat × Nat)) : State :=
  let s0 := cs.foldl (fun t ac => setArr t ac.1 { arr t ac.1 with busy := satBits 32 ac.2.1, work := satBits 32 ac.2.2 }) s
  if cs.length < 4 then s0
  else
    let counted := cs.filter fun ac => decide (s.cax.ctl.minWork ≤ ac.2.2) && ac.2.1 != 0
    let rates := counted.map fun ac => (ac.1, (ac.2.2 <<< 16) / ac.2.1)
    let med := lowerMedian (rates.map (·.2))
    let s1 := rates.foldl (fun t ar =>
      let slow := if med ≤ ar.2 then 0 else 1000 - ar.2 * 1000 / med
      let y := arr t ar.1
      let streak := if s.cax.ctl.slowLimit < slow then min (y.streak + 1) 15 else 0
      let hist := y.slowHist ++ [slow]
      setArr t ar.1 { y with slowPm := slow, streak := streak, slowHist := hist.drop (hist.length - 16) }) s0
    (rates.map (·.1)).foldl autoExclude s1

/-- The same of a launch of threads. -/
def measure (s : State) (id : Nat) (x : Ctx) : State :=
  measureWith s ((maskArrays x.runMask).map fun a => (a, arrCounts s id a x.threads))

/-- A built-in kernel runs a batch step as one launch with MEASURE set (08 R228): its arrays are awake, what it took on each is
free. -/
def builtinRun (id : Nat) (s : State) : State :=
  match getCtx s id with
  | none => s
  | some x =>
    let as := maskArrays (activeMask s x.mask)
    if as.isEmpty then s
    else measureWith (drawn (as.foldl (fun t a => setArr t a { arr t a with gated := false, wakeAt := none, idleFrom := now s }) s))
      (as.map fun a => (a, Config.builtinWork s.draws id a))

/-! ### The end of a launch (08 R220, R227) -/

/-- The time of an array's last HALT in a launch. -/
def lastHalt (s : State) (id : Nat) (x : Ctx) (a : Nat) : Nat := x.startAt + (arrCounts s id a x.threads).1 / 2

/-- The first queued launch that finds its arrays starts; those before it that find too few are rejected (08 R226). -/
def startQueued (id : Nat) : List LaunchCmd → State → State
  | [], s => s
  | l :: rest, s =>
    match getCtx s id with
    | none => s
    | some x =>
      if popCount 96 (activeMask s x.mask) < x.minArrays then startQueued id rest (finishOpt s l.tok St.noCapacity 0 0)
      else startLaunch (setCtx s id { x with queue := rest }) id l

/-- A launch is over: its arrays are idle from their last HALT, its threads are gone, and the next queued launch starts. -/
def nextLaunch (s : State) (id : Nat) (x : Ctx) : State :=
  let s1 := (maskArrays x.runMask).foldl (fun t a =>
    setArr t a { arr t a with idleFrom := max (arr t a).idleFrom (lastHalt s id x a) }) s
  let s2 := { s1 with cax := { s1.cax with threads := s1.cax.threads.filter fun kv => kv.1 / 12288 != id } }
  startQueued id x.queue (setCtx s2 id { x with running := none, runMask := 0, started := false, queue := [] })

/-- RESULT0 of a launch that ended well. -/
def launchR0 (s : State) (id : Nat) (x : Ctx) : Nat :=
  let busy := (maskArrays x.runMask).foldl (fun m a => max m (arrCounts s id a x.threads).1) 0
  let sat := (launchThreads id x).any fun t => match getThr s t with
    | some y => y.accSat
    | none => false
  satBits 32 busy ||| b2n sat <<< 32

/-- The end of a launch: RESULT0 with the busy cycles of the slowest array and ACC_SAT where it ended well; otherwise the
trap's status, place and DETAIL. A failed array's launch is not measured. -/
def endLaunch (s : State) (id : Nat) (bad : Option (Nat × Nat × Nat)) (measured : Bool) : State :=
  match getCtx s id with
  | none => s
  | some x =>
    match x.running with
    | none => s
    | some l =>
      let s1 := (launchThreads id x).foldl flushThread s
      let r := bad.getD (St.ok, launchR0 s1 id x, 0)
      let s2 := if l.measure && measured then measure s1 id x else s1
      nextLaunch (finishOpt s2 l.tok r.1 r.2.1 r.2.2) id x

/-- Trap codes (08 R220). -/
def Tr.illegal : Nat := 1
def Tr.field : Nat := 2
def Tr.length : Nat := 3
def Tr.localBound : Nat := 4
def Tr.deviceAccess : Nat := 5
def Tr.data : Nat := 6
def Tr.codec : Nat := 7
def Tr.killed : Nat := 8
def Tr.arrayFail : Nat := 9
def Tr.dma : Nat := 10

/-- The status of a trap; CODEC and a failed DMA have their own. -/
def trapStatus (code own : Nat) : Nat :=
  if code = Tr.illegal || code = Tr.field then St.fieldRange
  else if code = Tr.length then St.lengthRange
  else if code = Tr.localBound || code = Tr.deviceAccess then St.accessViolation
  else if code = Tr.killed then St.state
  else if code = Tr.data || code = Tr.arrayFail then St.dataCheck
  else own

/-- A trap halts every thread of the launch and ends it. -/
def trap (s : State) (t : Thr) (pc code own : Nat) : State :=
  let s1 := match getCtx s t.ctx with
    | none => s
    | some x => (launchThreads t.ctx x).foldl (fun u h => match getThr u h with
      | some y => if y.halted then u else setThr u h { y with halted := true, busy := busyCycles s x }
      | none => u) s
  endLaunch s1 t.ctx (some (trapStatus code own, pc, code <<< 24 ||| t.arr <<< 17 ||| t.idx <<< 10)) (code != Tr.arrayFail)

/-- Passes that stream on an array: one to each weight plane at most. -/
def arrPasses (s : State) (a : Nat) : Nat := s.cax.threads.foldl (fun n kv => n + if kv.1 / 128 % 96 = a then kv.2.passes.length else 0) 0

/-- An array's clock changes now: what is left of its passes takes the new clock's time. -/
def setClock (s : State) (a : Nat) : State :=
  let new := mhzTarget s a
  let old := (arr s a).mhzRun
  let redo (k : Nat) (th : Thread) : Thread :=
    if k / 128 % 96 != a then th
    else { th with passes := th.passes.map fun p => { p with endAt := now s + ceilDiv ((p.endAt - now s) * old) (max 1 new) } }
  let s1 := setArr s a { arr s a with mhzRun := new, mhzDue := none }
  if arrPasses s a = 0 then s1 else { s1 with cax := { s1.cax with threads := Tbl.map s1.cax.threads redo } }

/-- A new target for an array's clock: it holds at once without a pass in flight, else from the next pass boundary and no
later than 5 µs from now (08 R206). -/
def wantClock (s : State) (a : Nat) : State :=
  if (arr s a).mhzRun = mhzTarget s a then s
  else if arrPasses s a = 0 then setClock s a
  else if (arr s a).mhzDue.isSome then s
  else setArr s a { arr s a with mhzDue := some (now s + 5 * us) }

/-- Clock changes whose 5 µs are over. -/
def lateClocks (s : State) : State :=
  s.cax.arrays.foldl (fun t kv => match kv.2.mhzDue with
    | none => t
    | some d => if d ≤ now s then setClock t kv.1 else t) s

/-! ### The cyclic schedule (08 R231 to R233) -/

/-- The table in force at a device time: the pending one from its switch on. -/
def schedAt (s : State) (t : Nat) : Sched :=
  match s.cax.schedNext with
  | none => s.cax.sched
  | some n => if n.at' ≤ t then n.sched else s.cax.sched

/-- The entry for a group at a device time. -/
def schedEntry (s : State) (g t : Nat) : Nat :=
  let c := schedAt s t
  if !c.enable || decide (t < c.base) then 0 else subNat c.table (8 * ((t - c.base) / 2000 % 4096) + g) 1

/-- An entry that shuts out other contexts than its own. -/
def shutsOut (e id : Nat) : Bool := bit e 7 && bit e 6 && e % 64 != id

/-- A thread of a context may issue on an array now: no EXCLUSIVE slot of another context is in force. -/
def mayIssue (s : State) (id a : Nat) : Bool := !shutsOut (schedEntry s (arrGroup a) (now s)) id

/-- Starts of slots of a table from now to `ns` later: of the running slot first. -/
def slotStarts (s : State) (c : Sched) (ns : Nat) : List Nat :=
  let first := if now s < c.base then c.base else c.base + (now s - c.base) / 2000 * 2000
  (List.range (ns / 2000 + 2)).map fun k => max (now s) (first + k * 2000)

/-- The pass would still stream at the start of a slot EXCLUSIVE for another context: some slot that begins before its end,
of the table in force then, is one. -/
def passHeld (s : State) (id a ns : Nat) : Bool :=
  let starts := slotStarts s s.cax.sched ns ++ match s.cax.schedNext with
    | none => []
    | some n => n.at' :: slotStarts s n.sched ns
  starts.any fun t => decide (now s ≤ t) && decide (t < now s + ns) && shutsOut (schedEntry s (arrGroup a) t) id

/-- Entries of a table that name a context are cleared (08 R234). -/
def clearTable (id : Nat) (bs : Bytes) : Bytes := bs.map fun b => if b.toNat % 64 = id && b.msb then 0 else b

/-! ### Built-in contexts (08 R230) -/

/-- The three built-in contexts' shares: mask, threads, units, vector registers, PRIO, from the settings. -/
def builtinShare (s : State) (k : Nat) : Nat × Nat × Nat × Nat × Nat :=
  let b := sub s.sbu.set.builtin (16 * k) 16
  (subNat b 0 12, subNat b 12 1, subNat b 13 1, subNat b 14 1, subNat b 15 1)

/-- Arrays of a mask with room for a share. -/
def roomMask (s : State) (mask threads units vregs : Nat) : Nat :=
  (maskArrays mask).foldl (fun m a => if arrFits s a threads units vregs then m ||| 2 ^ a else m) 0

/-- A built-in context without a launch. -/
def builtinCtx (s : State) (k : Nat) (mask : Nat) : Ctx :=
  let b := builtinShare s k
  { gen := Tbl.getD s.cax.ctxGen (61 + k) 0, kernel := 0xFF00 + k, tenant := 0, mask := mask, threads := b.2.1
    localUnits := b.2.2.1, vregs := b.2.2.2.1, minArrays := 1, prio := b.2.2.2.2, running := none, runMask := 0
    started := false, startAt := 0, queue := [], sems := [] }

/-- A share at creation: zero, with the data image at its foot (08 R208). -/
def freshShare (k : Kernel) : List Host.Cell := memPut [] 0 k.data

/-- A context's shares on some arrays are made. -/
def makeShares (s : State) (id : Nat) (as : List Nat) : State :=
  match (getCtx s id).bind fun x => kernelOf s x.kernel with
  | none => s
  | some k => as.foldl (fun t a => setShare t id a (freshShare k)) s

/-- Create the built-in contexts; an array that lacks room is left out, with an event. -/
def createBuiltins (s : State) : State :=
  [0, 1, 2].foldl (fun t k =>
    let b := builtinShare t k
    let mask := roomMask t b.1 b.2.1 b.2.2.1 b.2.2.2.1
    let t1 := makeShares (setCtx t (61 + k) (builtinCtx t k mask)) (61 + k) (maskArrays mask)
    ((maskArrays b.1).filter fun a => !bit mask a).foldl (fun u a => arrEvent u Ec.refused 1 a (61 + k)) t1)
    { s with cax := { s.cax with builtins := true } }

/-- Built-in contexts join arrays that have room now. -/
def joinBuiltins (s : State) : State :=
  [0, 1, 2].foldl (fun t k => match getCtx t (61 + k) with
    | none => t
    | some x =>
      let b := builtinShare t k
      let want := (maskArrays b.1).filter fun a => !bit x.mask a && arrFits t a x.threads x.localUnits x.vregs
      makeShares (setCtx t (61 + k) { x with mask := want.foldl (fun m a => m ||| 2 ^ a) x.mask }) (61 + k) want) s

/-- Every entry of the schedule that names a context is cleared, in the table in force and in a pending one (08 R234). -/
def clearEntries (s : State) (id : Nat) : State :=
  let clear (c : Sched) : Sched := { c with table := clearTable id c.table }
  { s with cax := { s.cax with
    sched := clear s.cax.sched, schedNext := s.cax.schedNext.map fun n => { n with sched := clear n.sched } } }

/-- A context's shares are gone. -/
def dropShares (s : State) (id : Nat) : State :=
  { s with cax := { s.cax with
    locals := s.cax.locals.filter fun kv => kv.1 / 96 != id, badLocal := s.cax.badLocal.filter fun kv => kv.1 / 96 != id } }

/-- The built-in contexts go (01 R26). -/
def dropBuiltins (s : State) : State :=
  [61, 62, 63].foldl (fun t id => match getCtx t id with
    | none => t
    | some x =>
      let t1 := clearEntries (dropShares t id) id
      { t1 with cax := { t1.cax with
        ctxs := Tbl.del t1.cax.ctxs id, ctxGen := Tbl.set t1.cax.ctxGen id ((x.gen + 1) % 1023) } })
    { s with cax := { s.cax with builtins := false } }

end Sys2Proof.Machine
end

