-- ==== Sys2Proof/Machine/Sha384.lean ====
section
/-! DEFINITION. SHA-384, the curve P-384 and the verification of ECDSA signatures on it (the functions 08 R221, 14 R388, R389,
R390 and R401 name; FIPS 180-4, FIPS 186-5, SP 800-186). -/

namespace Sys2Proof.Machine

/-- A 64-bit rotation to the right. -/
def rotr64 (n x : Nat) : Nat := (x >>> n) ||| ((x <<< (64 - n)) % 2 ^ 64)

/-- Round constants: the cube roots of the first 80 primes. -/
def sha384K : List Nat := shaPrimes.map (rootFraction 3 64)

/-- What the chaining value starts at: the square roots of the ninth to the sixteenth. -/
def sha384Init : List Nat := ((shaPrimes.drop 8).take 8).map (rootFraction 2 64)

/-- The next word of the schedule, from the last sixteen. -/
def sha384NextW (w : List Nat) : Nat :=
  let w15 := w.getD 1 0
  let w2 := w.getD 14 0
  let s0 := rotr64 1 w15 ^^^ rotr64 8 w15 ^^^ (w15 >>> 7)
  let s1 := rotr64 19 w2 ^^^ rotr64 61 w2 ^^^ (w2 >>> 6)
  (w.getD 0 0 + s0 + w.getD 9 0 + s1) % 2 ^ 64

/-- The rounds, over the round constants. -/
def sha384Rounds : List Nat → List Nat → List Nat → List Nat
  | [], _, h => h
  | k :: ks, w, h =>
    match w, h with
    | w0 :: wt, [a, b, c, d, e, f, g, hh] =>
      let s1 := rotr64 14 e ^^^ rotr64 18 e ^^^ rotr64 41 e
      let ch := (e &&& f) ^^^ ((e ^^^ 0xFFFFFFFFFFFFFFFF) &&& g)
      let t1 := (hh + s1 + ch + k + w0) % 2 ^ 64
      let s0 := rotr64 28 a ^^^ rotr64 34 a ^^^ rotr64 39 a
      let mj := (a &&& b) ^^^ (a &&& c) ^^^ (b &&& c)
      sha384Rounds ks (wt ++ [sha384NextW w]) [(t1 + s0 + mj) % 2 ^ 64, a, b, c, (d + t1) % 2 ^ 64, e, f, g]
    | _, _ => h

def sha384Words : Nat → Bytes → List Nat
  | 0, _ => []
  | n + 1, bs => beNat (bs.take 8) :: sha384Words n (bs.drop 8)

def sha384Block (h : List Nat) (blk : Bytes) : List Nat :=
  List.zipWith (fun x y => (x + y) % 2 ^ 64) h (sha384Rounds sha384K (sha384Words 16 blk) h)

def sha384Pad (bs : Bytes) : Bytes :=
  bs ++ [0x80] ++ zeros ((239 - bs.length % 128) % 128) ++ beBytes 16 (8 * bs.length)

/-- SHA-384: 48 bytes. -/
def sha384 (bs : Bytes) : Bytes :=
  let p := sha384Pad bs
  (((chunks 128 (p.length / 128) p).foldl sha384Block sha384Init).take 6).flatMap (beBytes 8)

def p384 : Nat := 2 ^ 384 - 2 ^ 128 - 2 ^ 96 + 2 ^ 32 - 1

def p384b : Nat :=
  0xb3312fa7e23ee7e4988e056be3f82d19181d9c6efe8141120314088f5013875ac656398d8a2ed19d2a85c8edd3ec2aef

/-- The point with coordinates x and y lies on P-384: y squared is x cubed less 3x plus b. -/
def onP384 (x y : Nat) : Bool :=
  decide (x < p384) && decide (y < p384) && (y * y + 3 * x) % p384 == (x * x * x + p384b) % p384

/-! ### ECDSA on P-384 -/

/-- The order of the base point, and the base point. -/
def p384n : Nat :=
  0xffffffffffffffffffffffffffffffffffffffffffffffffc7634d81f4372ddf581a0db248b0a77aecec196accc52973

def p384gx : Nat :=
  0xaa87ca22be8b05378eb1c71ef320ad746e1d3b628ba79b9859f741e082542a385502f25dbf55296c3a545e3872760ab7

def p384gy : Nat :=
  0x3617de4a96262c6f5d9e98bf9292dc29f8f41dbd289a147ce9da3113b5f0b8c00a60b1ce1d7e819d7a431d7c90ea0e5f

/-- A point in Jacobian coordinates: x is X over Z squared, y is Y over Z cubed; Z is 0 at infinity. -/
structure Pt where
  x : Nat
  y : Nat
  z : Nat
  deriving DecidableEq, Repr

def fmulP (a b : Nat) : Nat := a * b % p384
def fsubP (a b : Nat) : Nat := (a + (p384 - b)) % p384

/-- Twice a point. -/
def ptDouble (q : Pt) : Pt :=
  let d := fmulP q.z q.z
  let g := fmulP q.y q.y
  let b := fmulP q.x g
  let a := 3 * (fsubP q.x d * (q.x + d)) % p384
  let x := fsubP (fmulP a a) (8 * b % p384)
  ⟨x, fsubP (fmulP a (fsubP (4 * b % p384) x)) (8 * fmulP g g % p384), 2 * fmulP q.y q.z % p384⟩

/-- The sum of two points. -/
def ptAdd (q r : Pt) : Pt :=
  if q.z = 0 then r
  else if r.z = 0 then q
  else
    let qz := fmulP q.z q.z
    let rz := fmulP r.z r.z
    let u := fmulP q.x rz
    let v := fmulP q.y (fmulP r.z rz)
    let h := fsubP (fmulP r.x qz) u
    let w := fsubP (fmulP r.y (fmulP q.z qz)) v
    if h = 0 then (if w = 0 then ptDouble q else ⟨1, 1, 0⟩)
    else
      let hh := fmulP h h
      let hhh := fmulP h hh
      let uh := fmulP u hh
      let x := fsubP (fsubP (fmulP w w) hhh) (2 * uh % p384)
      ⟨x, fsubP (fmulP w (fsubP uh x)) (fmulP v hhh), fmulP h (fmulP q.z r.z)⟩

/-- The multiple of a point by the uppermost bits of a number of 384 bits, as many as the argument says. -/
def ptMul (k : Nat) (q : Pt) : Nat → Pt
  | 0 => ⟨1, 1, 0⟩
  | n + 1 =>
    let r := ptDouble (ptMul k q n)
    if k / 2 ^ (383 - n) % 2 = 1 then ptAdd r q else r

/-- A power modulo the order, by the exponent's uppermost bits of 384. -/
def powN (a e : Nat) : Nat → Nat
  | 0 => 1
  | n + 1 =>
    let r := powN a e n
    if e / 2 ^ (383 - n) % 2 = 1 then r * r % p384n * a % p384n else r * r % p384n

/-- A signature, r then s, over a message's SHA-384 verifies under a public key, x then y: each of 48 bytes, big-endian. -/
def ecdsaOk (key msg sig : Bytes) : Bool :=
  let x := beNat (key.take 48)
  let y := beNat (key.drop 48)
  let r := beNat (sig.take 48)
  let s := beNat (sig.drop 48)
  let w := powN s (p384n - 2) 384
  let q := ptAdd (ptMul (beNat (sha384 msg) * w % p384n) ⟨p384gx, p384gy, 1⟩ 384) (ptMul (r * w % p384n) ⟨x, y, 1⟩ 384)
  key.length == 96 && onP384 x y && decide (0 < r) && decide (r < p384n) && decide (0 < s) && decide (s < p384n) && q.z != 0 &&
    (fmulP r (fmulP q.z q.z) == q.x || (decide (r + p384n < p384) && fmulP (r + p384n) (fmulP q.z q.z) == q.x))

end Sys2Proof.Machine
end

