-- ==== Sys2Proof/Machine/ArrayCmds.lean ====
section
/-! DEFINITION. The 0x07xx commands and the arrays' own events (08 R207, R221 to R240). -/

namespace Sys2Proof.Machine

/-! ### Kernels (08 R221, R222) -/

/-- Step 1 of R222: lengths, counts and offsets. -/
def imageLens (c : Cmd) : Except Ans Unit := do
  let f (o n : Nat) : Nat := subNat c.pay o n
  need (decide (256 ≤ c.payLen)) St.lengthRange 24
  needAll [(decide (8 ≤ f 8 4) && decide (f 8 4 ≤ 1048320) && f 8 4 % 8 == 0, St.lengthRange, inPay 8),
    (decide (f 12 4 ≤ 2097152) && f 12 4 % 16 == 0, St.lengthRange, inPay 12),
    (decide (1 ≤ f 16 2) && decide (f 16 2 ≤ 32) && decide (ceilDiv (f 12 4) 65536 ≤ f 16 2), St.lengthRange, inPay 16),
    (decide (1 ≤ f 18 2) && decide (f 18 2 ≤ 128), St.lengthRange, inPay 18),
    (decide (f 20 2 ≤ 32), St.lengthRange, inPay 20),
    (decide (1 ≤ f 22 2) && decide (f 22 2 ≤ 96), St.lengthRange, inPay 22),
    (decide (1 ≤ f 24 2) && decide (f 24 2 ≤ 16), St.lengthRange, inPay 24)]
  needAll ((List.range 16).map fun i =>
    let v := f (32 + 4 * i) 4
    (if i < f 24 2 then v % 8 == 0 && decide (v < f 8 4) else v == 0, St.lengthRange, inPay (32 + 4 * i)))
  c.lenIs (256 + f 8 4 + f 12 4)

/-- A verification slot is provisioned with the KERNEL use; only slot 0 signs BUILTIN (14 R400). -/
def signerOk (s : State) (slot : Nat) (builtin : Bool) : Bool :=
  (match Tbl.get s.sbu.verKeys slot with
    | some k => bit k.use 0
    | none => false) && (!builtin || slot == 0)

/-- Step 2 of R222. -/
def imageFields (s : State) (c : Cmd) : Except Ans Unit :=
  let f (o n : Nat) : Nat := subNat c.pay o n
  needAll [(c.pay.take 4 == ascii "TFKN", St.fieldRange, inPay 0), (f 4 2 == 1, St.fieldRange, inPay 4),
    (decide (f 6 2 < 2), St.fieldRange, inPay 6),
    (decide (f 26 1 ≤ 7) && signerOk s (f 26 1) (f 6 2 == 1), St.fieldRange, inPay 26),
    (f 27 5 == 0, St.fieldRange, inPay 27), (allZero (sub c.pay 128 32), St.fieldRange, inPay 128)]

/-- The public key of a verification slot; slot 0 holds the factory region's (14 R400). -/
def verKey (s : State) (slot : Nat) : Bytes :=
  if slot = 0 then beBytes 96 Config.factoryKey.toNat else ((Tbl.get s.sbu.verKeys slot).map (·.key)).getD []

def kernelLoad : Meaning := fun c s => do
  imageLens c
  c.tgtRsv 0
  imageFields s c
  need (ecdsaOk (verKey s (subNat c.pay 26 1)) (c.pay.take 160 ++ c.pay.drop 256) (sub c.pay 160 96)) St.authFail 0
  match Tbl.freeFrom s.cax.kernels 256 0 with
  | none => stop St.noCapacity
  | some k =>
    let g := Tbl.getD s.cax.kernelGen k 0
    let x := imageKernel g c.tenant c.pay
    need (serviceFits s x.code.length) St.noCapacity 0
    .ok (okR0 (k ||| g <<< 8), { s with cax := { s.cax with kernels := Tbl.set s.cax.kernels k x } })

def execKernelLoad (r : Nat) (d : Dma) (s : State) : Host.Outcome State Fault Refusal :=
  .next (commit s (hostCmd 0x0701 [.operator, .tenant] r d kernelLoad s))

def kernelUnload : Meaning := fun c s => do
  c.lenIs 0
  c.tgtRsv 16
  match findKernel s c.target with
  | none => stop St.notFound
  | some k =>
    c.own k.tenant
    need (s.cax.ctxs.all fun kv => kv.2.kernel != c.target) St.busy 0
    let n := c.target % 256
    .ok (okAns, { s with cax := { s.cax with
      kernels := Tbl.del s.cax.kernels n, kernelGen := Tbl.set s.cax.kernelGen n ((k.gen + 1) % 255) } })

def execKernelUnload (r : Nat) (d : Dma) (s : State) : Host.Outcome State Fault Refusal :=
  .next (commit s (hostCmd 0x0702 [.operator, .tenant] r d kernelUnload s))

/-! ### Contexts (08 R224 to R229) -/

def ctxCreate : Meaning := fun c s => do
  let mask := c.fld 255 160
  let threads := c.fld 143 136
  let units := c.fld 135 130
  let vregs := c.fld 129 124
  let minA := c.fld 123 117
  c.lenIs 32
  let kernel := findKernel s (c.fld 159 144)
  let least (f : Kernel → Nat) (n : Nat) : Bool := kernel.all fun k => decide (f k ≤ n)
  lenF (decide (minA ≤ 96) && decide (minA ≤ popCount 96 mask) && least (·.arraysMin) minA) 117
  lenF (decide (vregs ≤ 32) && least (·.vregsMin) vregs) 124
  lenF (decide (1 ≤ units) && decide (units ≤ 32) && least (·.localMin) units) 130
  lenF (decide (1 ≤ threads) && decide (threads ≤ 128) && least (·.threadsMin) threads) 136
  c.tgtRsv 0
  c.rsv 113 0
  match kernel with
  | none => stop St.notFound
  | some k =>
    c.own k.tenant
    need ((maskArrays mask).all fun a => (arr s a).st == .active) St.state 0
    match Tbl.freeFrom s.cax.ctxs 61 0 with
    | none => stop St.noCapacity
    | some id =>
      need ((maskArrays mask).all fun a => arrFits s a threads units vregs) St.noCapacity 0
      let g := Tbl.getD s.cax.ctxGen id 0
      let x : Ctx :=
        { gen := g, kernel := c.fld 159 144, tenant := c.tenant, mask := mask, threads := threads, localUnits := units
          vregs := vregs, minArrays := minA, prio := c.fld 116 114, running := none, runMask := 0, started := false
          startAt := 0, queue := [], sems := [] }
      .ok (okR0 (ctxHandle id g), makeShares (setCtx s id x) id (maskArrays mask))

def execCtxCreate (r : Nat) (d : Dma) (s : State) : Host.Outcome State Fault Refusal :=
  .next (commit s (hostCmd 0x0710 [.operator, .tenant] r d ctxCreate s))

/-- A context goes: shares and threads freed, its generation advanced, its schedule entries cleared, and built-in contexts
join arrays that now have room. -/
def dropCtx (s : State) (id : Nat) (x : Ctx) : State :=
  let s1 := clearEntries (dropShares s id) id
  joinBuiltins { s1 with cax := { s1.cax with
    ctxs := Tbl.del s1.cax.ctxs id, ctxGen := Tbl.set s1.cax.ctxGen id ((x.gen + 1) % 1023)
    threads := s1.cax.threads.filter fun kv => kv.1 / 12288 != id } }

/-- KILL: queued launches end in order, then the running one, with trap KILLED at its lowest thread that still runs. -/
def killCtx (s : State) (id : Nat) (x : Ctx) : State :=
  let s1 := x.queue.foldl (fun t l => finishOpt t l.tok St.state 0 0) (setCtx s id { x with queue := [] })
  match (launchThreads id x).find? fun t => match getThr s1 t with
    | some y => !y.halted
    | none => false with
  | none => s1
  | some t => trap s1 t (((getThr s1 t).map (·.pc)).getD 0) Tr.killed 0

def ctxDestroy : Meaning := fun c s => do
  c.lenIs 8
  c.tgtRsv 16
  c.rsv 63 1
  need (decide (c.target % 64 < 61)) St.fieldRange 40
  match findCtx s c.target with
  | none => stop St.notFound
  | some (id, x) =>
    c.own x.tenant
    if x.running.isNone && x.queue.isEmpty then .ok (okAns, dropCtx s id x)
    else
      need (c.fld 0 0 == 1) St.busy 0
      .ok (okAns, dropCtx (killCtx s id x) id x)

def execCtxDestroy (r : Nat) (d : Dma) (s : State) : Host.Outcome State Fault Refusal :=
  .next (commit s (hostCmd 0x0711 [.operator, .tenant] r d ctxDestroy s))

/-- ENTRY is below the kernel's ENTRY_COUNT. -/
def entryOk (s : State) (x : Ctx) (e : Nat) : Bool :=
  match kernelOf s x.kernel with
  | some k => decide (e < k.entries.length)
  | none => false

def ctxLaunch : Meaning := fun c s => do
  c.lenIs 32
  c.tgtRsv 16
  c.rsv 7 1
  c.rsv 63 12
  match findCtx s c.target with
  | none => stop St.notFound
  | some (id, x) =>
    c.own x.tenant
    fldF (entryOk s x (c.fld 11 8)) 8
    let l : LaunchCmd := ⟨some c.tok, [c.fld 255 192, c.fld 191 128, c.fld 127 64], c.fld 11 8, c.fld 0 0 == 1⟩
    need (x.running.isNone || decide (x.queue.length < 64)) St.busy 0
    need (decide (x.minArrays ≤ popCount 96 (activeMask s x.mask))) St.noCapacity 0
    if x.running.isNone then .ok (laterAns, startLaunch s id l)
    else .ok (laterAns, setCtx s id { x with queue := x.queue ++ [l] })

def execCtxLaunch (r : Nat) (d : Dma) (s : State) : Host.Outcome State Fault Refusal :=
  .next (commit s (hostCmd 0x0712 [.operator, .tenant] r d ctxLaunch s))

/-! ### The cyclic schedule (08 R234) -/

/-- One entry of a table, at index 8 × slot + group: it names a context with an array in the group. -/
def schedEntryOk (s : State) (i : Nat) (b : Byte) : Except Ans Unit :=
  if !b.msb then .ok ()
  else match getCtx s (b.toNat % 64) with
    | none => stop St.notFound
    | some x => need (bits x.mask (12 * (i % 8) + 11) (12 * (i % 8)) != 0) St.fieldRange (inPay (16 + i))

/-- Slot 0 of the first cycle that begins at least 10 µs from now. -/
def schedStart (s : State) (base : Nat) : Nat :=
  let t := now s + 10 * us
  if t ≤ base then base else base + ceilDiv (t - base) 8192000 * 8192000

def schedSet : Meaning := fun c s => do
  c.lenIs 32784
  c.tgtRsv 0
  c.rsv 63 1
  let table := c.pay.drop 16
  checkEach (schedEntryOk s) 0 table
  need s.clk.synced St.state 0
  need s.cax.schedNext.isNone St.busy 0
  let x : Sched := ⟨c.fld 127 64, c.fld 0 0 == 1, table⟩
  .ok (pendAns, { s with cax := { s.cax with schedNext := some ⟨x, schedStart s x.base, c.tok⟩ } })

def execSchedSet (r : Nat) (d : Dma) (s : State) : Host.Outcome State Fault Refusal :=
  .next (commit s (hostCmd 0x0720 [.operator] r d schedSet s))

/-- SCHED_SWITCH: at its time the pending table is in force. -/
def execSchedSwitch (s : State) : Host.Outcome State Fault Refusal :=
  .next <| commit s <|
    match s.cax.schedNext with
    | none => s
    | some n =>
      if now s < n.at' then s
      else finish { s with cax := { s.cax with sched := n.sched, schedNext := none } } n.tok St.ok 0 0

/-! ### Slowdown, exclusion, self-test (08 R238 to R240) -/

def ASt.code : ASt → Nat
  | .active => 0 | .excluded => 1 | .failed => 2

/-- Mean of the recorded slowdowns. -/
def slowAvg (x : Arr) : Nat := if x.slowHist.isEmpty then 0 else x.slowHist.foldl (· + ·) 0 / x.slowHist.length

def slowRecord (x : Arr) : Bytes :=
  leBytes 16 (x.exclusions <<< 8 ||| x.mhzRun <<< 24 ||| b2n x.auto <<< 36 ||| b2n x.gated <<< 37 ||| x.st.code <<< 38
    ||| x.streak <<< 40 ||| slowAvg x <<< 44 ||| x.slowPm <<< 54 ||| x.work <<< 64 ||| x.busy <<< 96)

def arraySlowdown : Meaning := fun c s => do
  c.lenIs 0
  c.bound 1536
  c.tgtRsv 0
  .ok (okRes ((List.range 96).flatMap fun a => slowRecord (arr s a)), s)

def execArraySlowdown (r : Nat) (d : Dma) (s : State) : Host.Outcome State Fault Refusal :=
  .next (commit s (hostCmd 0x0721 [.operator, .maintenance] r d arraySlowdown s))

/-- ARRAY_EXCLUDE on one array. -/
def excludeOne (restore : Bool) (s : State) (a : Nat) : State :=
  let x := arr s a
  if restore then
    if x.st = .excluded then setArr s a { x with st := .active, streak := 0, auto := false } else s
  else if x.st = .active then
    setFlag (setArr s a { x with st := .excluded, auto := false, exclusions := satBits 16 (x.exclusions + 1) }) Fl.arrayState
  else s

def arrayExclude : Meaning := fun c s => do
  let mask := c.fld 127 32
  let act := c.fld 1 0
  c.lenIs 16
  c.tgtRsv 0
  fldF (act == 1 || act == 2) 0
  c.rsv 31 2
  need (act == 1 || (maskArrays mask).all fun a => (arr s a).st != .failed) St.state 0
  .ok (okAns, (maskArrays mask).foldl (excludeOne (act == 2)) s)

def execArrayExclude (r : Nat) (d : Dma) (s : State) : Host.Outcome State Fault Refusal :=
  .next (commit s (hostCmd 0x0722 [.operator] r d arrayExclude s))

/-- An array becomes FAILED: launches on it end with trap ARRAY_FAIL, unmeasured. -/
def failArray (s : State) (a : Nat) : State :=
  let s1 := setFlag (arrEvent (setArr s a { arr s a with st := .failed }) Ec.uncorrected 1 a 0) Fl.arrayState
  (Tbl.keys s1.cax.ctxs).foldl (fun t id => match getCtx t id with
    | some x =>
      if x.running.isSome && bit x.runMask a then
        trap t ⟨id, a, 0⟩ (((getThr t ⟨id, a, 0⟩).map (·.pc)).getD 0) Tr.arrayFail 0
      else t
    | none => t) s1

def diagArrayTest : Meaning := fun c s => do
  let mask := c.fld 127 32
  c.lenIs 16
  c.bound 16
  c.tgtRsv 0
  c.rsv 31 0
  need ((maskArrays mask).all fun a => (arr s a).st == .excluded) St.state 0
  .ok (pendAns, { s with cax := { s.cax with tests := s.cax.tests ++ [(mask, c.tok)] } })

def execDiagArrayTest (r : Nat) (d : Dma) (s : State) : Host.Outcome State Fault Refusal :=
  .next (commit s (hostCmd 0x0E10 [.maintenance] r d diagArrayTest s))

/-- DIAG_ARRAY_TEST_DONE: the arrays of the test that failed become FAILED and the result is posted. While the controller boots
no test is pending, and it is the end of the self-test at boot. -/
def execDiagArrayTestDone (failed : Nat) (s : State) : Host.Outcome State Fault Refusal :=
  .next <| commit s <|
    match s.cax.tests with
    | [] => if s.plu.phase = .booting && s.sbu.stage = 7 then (maskArrays failed).foldl failArray s else s
    | (mask, t) :: rest =>
      let bad := mask &&& failed
      let s1 := (maskArrays bad).foldl failArray { s with cax := { s.cax with tests := rest } }
      finish s1 t St.ok 0 0 (leBytes 16 bad)

/-! ### Gating (08 R207) -/

/-- Since when no launch has a thread running on an array; none while one has. -/
def idleSince (s : State) (a : Nat) : Option Nat :=
  s.cax.ctxs.foldl (fun o kv =>
    match o with
    | none => none
    | some t =>
      if kv.2.running.isNone || !bit kv.2.runMask a then some t
      else if !kv.2.started || (List.range kv.2.threads).any fun i => match getThr s ⟨kv.1, a, i⟩ with
        | some y => !y.halted
        | none => false then none
      else some (max t (lastHalt s kv.1 kv.2 a))) (some (arr s a).idleFrom)

/-- ARRAY_GATE: an array idle for IDLE_GATE is gated. -/
def execArrayGate (a : Nat) (s : State) : Host.Outcome State Fault Refusal :=
  .next <| commit s <|
    match idleSince s a with
    | none => s
    | some t =>
      if decide (a < 96) && !(arr s a).gated && decide (t + s.cax.ctl.idleGate * us ≤ now s) then
        setArr s a { arr s a with gated := true, wakeAt := none }
      else s

/-- Start the launches whose arrays are all awake. -/
def startWaiting (s : State) : State :=
  { s with cax := { s.cax with ctxs := Tbl.map s.cax.ctxs fun _ x =>
    if x.running.isSome && !x.started && (maskArrays x.runMask).all fun a => !(arr s a).gated then
      { x with started := true, startAt := now s }
    else x } }

/-- ARRAY_WAKE: 2 µs after it was named, an array is awake. -/
def execArrayWake (a : Nat) (s : State) : Host.Outcome State Fault Refusal :=
  .next <| commit s <|
    match (arr s a).wakeAt with
    | none => s
    | some t => if now s < t then s else startWaiting (setArr s a { arr s a with gated := false, wakeAt := none })

end Sys2Proof.Machine
end

