-- ==== Sys2Proof/Machine/ArrayInstr.lean ====
section
/-! DEFINITION. The array instructions (08 R212 to R219): fetch, checks and predicate, and one meaning to each. -/

namespace Sys2Proof.Machine

/-! ### Fetch (08 R214) -/

/-- An instruction word's fields. -/
structure Word64 where
  cls : Nat
  op : Nat
  pred : Nat
  dst : Nat
  a : Nat
  b : Nat
  fmt : Nat
  imm : Nat
  deriving DecidableEq, Repr

def wordOf (n : Nat) : Word64 where
  cls := bits n 63 60
  op := bits n 59 54
  pred := bits n 53 51
  dst := bits n 50 46
  a := bits n 45 41
  b := bits n 40 36
  fmt := bits n 35 32
  imm := bits n 31 0

/-- The kernel of a context. -/
def ctxKernel (s : State) (x : Ctx) : Option Kernel := kernelOf s x.kernel

def reg (x : Thread) (i : Nat) : Nat := if i = 0 then 0 else Tbl.getD x.regs i 0

/-- Write a scalar register; s0 ignores writes. -/
def setReg (x : Thread) (i v : Nat) : Thread := if i = 0 then x else { x with regs := Tbl.set x.regs i (v % 2 ^ 64) }

/-- A vector register: 64 lanes, zero until it is written. -/
def vreg (x : Thread) (i : Nat) : List F32 := Tbl.getD x.vregs i (List.replicate 64 0)
def setVreg (x : Thread) (i : Nat) (v : List F32) : Thread := { x with vregs := Tbl.set x.vregs i v }

def next (x : Thread) : Thread := { x with pc := x.pc + 8 }

/-- IMM sign-extended to 64 bits. -/
def sext (w : Word64) : Nat := unsigned 64 (signed 32 w.imm)

/-- Whether the word's predicate lets it act. -/
def predHolds (x : Thread) (w : Word64) : Bool := w.pred == 0 || bit x.preds (w.pred - 1)

/-- What an instruction does to the machine with its thread past it. -/
abbrev Meaning64 := Thr → Ctx → Thread → Word64 → State → State

/-- Operations of a class. OP numbers them from 0 in the order in which 08 R215 names them, which gives no codes (DESIGN
CHOICE, entry 49). -/
def opCount (cls : Nat) : Nat := [5, 12, 4, 4, 3, 10, 4].getD cls 0

/-- The array port a class issues on: GRID 0, VEC 1, SCALAR 2. -/
def portOf (cls : Nat) : Nat := if cls = 4 then 0 else if cls = 5 then 1 else 2

/-- The port's arbiter may be frozen (11 R331, R332). -/
def portFrozen (s : State) (a cls : Nat) : Bool := Tbl.has s.tsu.frozen (0x100 + 3 * a + portOf cls)

/-- The rotating pointer of a port's arbiter at a level (11 R329, R332). -/
def portArb (a port prio : Nat) : Nat := 0x10000 + 8 * (0x100 + 3 * a + port) + prio

/-- A thread's number among the array's 128: contexts stack in rising order of their numbers (DESIGN CHOICE, entry 49). -/
def thrNumber (s : State) (t : Thr) : Nat :=
  s.cax.ctxs.foldl (fun n kv => if kv.1 < t.ctx && bit kv.2.mask t.arr then n + kv.2.threads else n) t.idx % 128

/-- The thread that a key of the thread table names. -/
def thrOf (k : Nat) : Thr := ⟨k / 12288, k / 128 % 96, k % 128⟩

/-- Who is granted first on a port: in a VALID slot its context, then by PRIO, then by the rotating arbiter (08 R213, R232). -/
def grantRank (s : State) (port : Nat) (t : Thr) (x : Ctx) : Nat :=
  let e := schedEntry s (arrGroup t.arr) (now s)
  let own : Bool := bit e 7 && e % 64 == t.ctx
  let ptr := Tbl.getD s.tsu.arbPtr (portArb t.arr port x.prio) 0
  (if own then 0 else 1024) + 128 * x.prio + (thrNumber s t + 128 - ptr) % 128

/-! ### Pass descriptors (08 R211, R216, R217) -/

/-- The pass descriptor. -/
structure PDesc where
  w : Nat
  a : Nat
  d : Nat
  sc : Nat
  n : Nat
  wf : Nat
  af : Nat
  acc : Bool
  grouped : Bool
  group : Nat
  cb : Nat
  side : Nat
  aScale : F32
  badGroup : Bool
  rsv : Bool
  deriving DecidableEq, Repr

def pdesc (n : Nat) : PDesc where
  w := bits n 255 235
  a := bits n 234 214
  d := bits n 213 193
  sc := bits n 192 172
  n := bits n 171 161
  wf := bits n 160 157
  af := bits n 156 153
  acc := bit n 152
  grouped := bit n 151
  group := 32 <<< bits n 150 149
  cb := bits n 148 146
  side := bits n 145 130
  aScale := BitVec.ofNat 32 (bits n 129 98)
  badGroup := bits n 150 149 == 3
  rsv := bits n 97 0 != 0

def coded (f : Nat) : Bool := f == 1 || f == 2

/-- Bits of an element, and reduction elements of a vector (08 R209). -/
def fmtBits (f : Nat) : Nat := if f = 1 || f = 9 then 4 else if f = 7 || f = 8 then 6 else if f = 10 || f = 11 then 16 else 8
def redElems (f : Nat) : Nat := if f = 1 || f = 9 then 128 else 64
def isMx (f : Nat) : Bool := decide (5 ≤ f) && decide (f ≤ 9)

/-- Bytes of `k` rows of reduction elements, the block scales of an MX format after them. -/
def tileLen (f e k : Nat) : Nat := k * e * fmtBits f / 8 + (if isMx f then k * e / 32 else 0)

def aFmtFor (wf : Nat) : Nat := if coded wf then 0 else wf

/-- A pass in GROUP mode, and whether it reads S_ADDR; bytes it reads there: scales, then the side table. -/
def PDesc.isGroup (p : PDesc) : Bool := coded p.wf && p.grouped
/-- Group scales of a row of the tile: one for a tile of 64 elements in groups of 128, whose part it rescales (entry 49). -/
def PDesc.rowScales (p : PDesc) : Nat := max 1 (redElems p.wf / p.group)
def PDesc.scaleLen (p : PDesc) : Nat := if p.isGroup then ceilDiv (2 * 64 * p.rowScales) 16 * 16 else 0
def PDesc.sLen (p : PDesc) : Nat := p.scaleLen + 8 * p.side

/-- Streaming cycles (08 R211). -/
def PDesc.cycles (p : PDesc) : Nat :=
  let c := if p.wf = 10 || p.wf = 11 then 4 else 1
  let l := p.side + (if p.isGroup then 64 * redElems p.wf / p.group else 0)
  max (c * p.n) (ceilDiv (p.n * max (64 * c) l) 64)

/-- The descriptor's checks: LENGTH, FIELD, then the ranges. -/
def PDesc.bad (p : PDesc) (share : Nat) : Option Nat :=
  let e := redElems p.wf
  let nMax := if p.wf = 10 || p.wf = 11 then 256 else 1024
  if p.n = 0 || nMax < p.n || 8192 < p.side then some Tr.length
  else if 12 ≤ p.wf || p.af != aFmtFor p.wf || p.badGroup || p.rsv || p.w % 16 != 0 || p.a % 16 != 0 then some Tr.field
  else if share < p.w + tileLen p.wf e 64 || share < p.a + tileLen p.af e p.n || share < p.d + 256 * p.n ||
      (p.sLen != 0 && decide (share < p.sc + p.sLen)) then some Tr.localBound
  else none

/-- A side-table entry: its reserved bits are zero, and its position lies in the tile (08 R216). -/
def sideOk (p : PDesc) (e : Nat) : Bool := bits e 34 0 == 0 && decide (bits e 41 35 < redElems p.wf)

/-- Ranges of the share that a pass reads. -/
def PDesc.reads (p : PDesc) : List (Nat × Nat) :=
  let e := redElems p.wf
  [(p.w, tileLen p.wf e 64), (p.a, tileLen p.af e p.n), (p.sc, p.sLen), (p.d, if p.acc then 256 * p.n else 0)]

/-- The descriptor at a local address, and what it meets before its pass may start: a trap's code. -/
def passDesc (s : State) (t : Thr) (x : Ctx) (at0 : Nat) : Except Nat PDesc :=
  let m := share s t.ctx t.arr
  let p := pdesc (leNat (memReadN m at0 32))
  if shareLen x < at0 + 32 then .error Tr.localBound
  else if localBad s t.ctx t.arr at0 32 then .error Tr.data
  else match p.bad (shareLen x) with
    | some code => .error code
    | none =>
      if p.reads.any fun r => localBad s t.ctx t.arr r.1 r.2 then .error Tr.data
      else if !((recsOf 8 p.side (memReadN m (p.sc + p.scaleLen) (8 * p.side))).all (sideOk p)) then .error Tr.field
      else .ok p

/-- A pass's length in ns at the array's clock, whole or begun (08 R217). -/
def passNs (s : State) (a : Nat) (p : PDesc) : Nat := ceilDiv ((p.cycles + 140) * 1000) (max 1 (arr s a).mhzRun)

/-- The pass that a GRID.MM would start waits: both planes stream, or an EXCLUSIVE slot would begin before its end (08 R213,
R233). -/
def passWaits (s : State) (t : Thr) (x : Ctx) (th : Thread) (w : Word64) : Bool :=
  match passDesc s t x (reg th w.a) with
  | .error _ => false
  | .ok p => decide (2 ≤ arrPasses s t.arr) || passHeld s t.ctx t.arr (passNs s t.arr p)

/-! ### Grants and issue (08 R213, R214, R232) -/

/-- The word that a thread issues next. -/
def nextWord (s : State) (x : Ctx) (th : Thread) : Option Word64 :=
  match ctxKernel s x with
  | none => none
  | some k => some (wordOf (if k.code.length < th.pc + 8 then 2 ^ 64 - 1 else subNat k.code th.pc 8))

/-- A thread's request stands at a port: its launch has started, it runs and does not wait, no EXCLUSIVE slot of another context
holds it, its next word is for the port, and a pass that it would start finds a plane and fits before such slots. -/
def stands (s : State) (port : Nat) (t : Thr) : Bool :=
  match getCtx s t.ctx, getThr s t with
  | some x, some th =>
    match nextWord s x th with
    | none => false
    | some w => x.started && !th.halted && th.wait == .none && mayIssue s t.ctx t.arr && portOf w.cls == port &&
        !(w.cls == 4 && w.op == 0 && predHolds th w && passWaits s t x th w)
  | _, _ => false

/-- The array's port grants a thread: no other that stands there comes first. -/
def portGrants (s : State) (port : Nat) (t : Thr) (x : Ctx) : Bool :=
  stands s port t && s.cax.threads.all fun kv =>
    let h := thrOf kv.1
    h.arr != t.arr || h == t || !stands s port h || match getCtx s h.ctx with
      | none => true
      | some y => decide (grantRank s port t x < grantRank s port h y)

/-- The port's pointer moves past a thread that it has granted. -/
def tookPort (s : State) (cls : Nat) (t : Thr) (x : Ctx) : State :=
  { s with tsu := { s.tsu with
    arbPtr := Tbl.set s.tsu.arbPtr (portArb t.arr (portOf cls) x.prio) ((thrNumber s t + 1) % 128) } }

/-- The threads but `own`, and their ports, whose request stood and was about to be granted, and falls in a step. -/
def fallen (s0 s1 : State) (own : Option Thr) : List (Thr × Nat) :=
  (Tbl.keys s0.cax.threads).flatMap fun k =>
    let h := thrOf k
    if some h == own || getThr s1 h == getThr s0 h then []
    else (([0, 1, 2] : List Nat).filter fun p => stands s0 p h && !stands s1 p h && !Tbl.has s0.tsu.frozen (0x100 + 3 * h.arr + p) &&
      match getCtx s0 h.ctx with
      | none => false
      | some x => portGrants s0 p h x).map fun p => (h, p)

/-- Their void grants (11 R330). -/
def voidThreads (s0 s1 : State) (own : Option Thr) : State :=
  (fallen s0 s1 own).foldl (fun a hp =>
    voidGrant a (portArb hp.1.arr hp.2 (((getCtx s0 hp.1.ctx).map (·.prio)).getD 0)) ((thrNumber s0 hp.1 + 1) % 128)) s1

/-- What an instruction that its port has granted does. -/
def issued (cls op : Nat) (fmts : List Nat) (f : Meaning64) (t : Thr) (x : Ctx) (th : Thread) (w : Word64) (s s1 : State) : State :=
  if opCount w.cls ≤ w.op || 5 ≤ w.pred then trap s1 t th.pc Tr.illegal 0
  else if w.cls != cls || w.op != op then s
  else if !fmts.contains w.fmt then trap s1 t th.pc Tr.illegal 0
  else if !predHolds th w then setThr s1 t (next th)
  else f t x th w s1

/-- Issue one instruction: operation `op` of a class. The thread's port grants it; its word is checked; a false predicate skips
it. `fmts` are the format codes the operation takes. A word of another operation is not this instruction. -/
def issue (cls op : Nat) (fmts : List Nat) (f : Meaning64) (t : Thr) (s : State) : State :=
  match getCtx s t.ctx, getThr s t with
  | some x, some th =>
    match nextWord s x th with
    | none => s
    | some w =>
      if portFrozen s t.arr w.cls || !portGrants s (portOf w.cls) t x then s
      else voidThreads s (issued cls op fmts f t x th w s (tookPort s w.cls t x)) (some t)
  | _, _ => s

/-- The thread after an instruction that only changes it. -/
def thread (g : Thread → Word64 → Thread) : Meaning64 := fun t _ th w s => setThr s t (next (g th w))

/-! ### CTRL -/

/-- The branch's target. -/
def branched (th : Thread) (w : Word64) : Thread := { th with pc := Config.branchTarget th.pc w.imm (reg th w.a) }

def mBr : Meaning64 := fun t _ th w s => setThr s t (branched th w)
def execABr (t : Thr) (s : State) : Host.Outcome State Fault Refusal := .next <| commit s <| issue 0 0 [0] mBr t s

/-- BRP branches on its predicate, which `issue` has found set. -/
def mBrp : Meaning64 := fun t _ th w s => setThr s t (branched th w)
def execABrp (t : Thr) (s : State) : Host.Outcome State Fault Refusal := .next <| commit s <| issue 0 1 [0] mBrp t s

/-- LOOP lowers the count in SRC_A and branches while it is not zero. -/
def mLoop : Meaning64 := fun t _ th w s =>
  let n := (reg th w.a + 2 ^ 64 - 1) % 2 ^ 64
  let th1 := setReg th w.a n
  setThr s t (if reg th1 w.a = 0 then next th1 else { th1 with pc := Config.branchTarget th.pc w.imm 0 })
def execALoop (t : Thr) (s : State) : Host.Outcome State Fault Refusal := .next <| commit s <| issue 0 2 [0] mLoop t s

def execAYield (t : Thr) (s : State) : Host.Outcome State Fault Refusal :=
  .next <| commit s <| issue 0 3 [0] (thread fun th _ => th) t s

/-- A thread has halted, or is not there. -/
def haltedAt (s : State) (h : Thr) : Bool :=
  match getThr s h with
  | some y => y.halted
  | none => true

/-- Let the threads of a list that wait for something go on. -/
def releaseAll (wt : TWait) (ts : List Thr) (s : State) : State :=
  ts.foldl (fun u h => match getThr u h with
    | some y => if y.wait == wt then setThr u h (next { y with wait := .none }) else u
    | none => u) s

/-- A thread has halted, stands at a barrier, or is not there. -/
def atBarrier (s : State) (wt : TWait) (h : Thr) : Bool :=
  match getThr s h with
  | some y => y.halted || y.wait == wt
  | none => true

/-- A barrier that a halt has made complete lets its threads go on. -/
def releaseIf (wt : TWait) (ts : List Thr) (s : State) : State := if ts.all (atBarrier s wt) then releaseAll wt ts s else s

/-- HALT: the last thread's ends the launch; a barrier waits for it no longer. -/
def mHalt : Meaning64 := fun t x th _ s =>
  let s1 := setThr s t { th with halted := true, busy := busyCycles s x }
  let ts := launchThreads t.ctx x
  if ts.all (haltedAt s1) then endLaunch s1 t.ctx none true
  else releaseIf .xbar ts (releaseIf .bar (ts.filter fun h => h.arr == t.arr) s1)
def execAHalt (t : Thr) (s : State) : Host.Outcome State Fault Refusal := .next <| commit s <| issue 0 4 [0] mHalt t s

/-! ### SALU -/

/-- Operand B of an arithmetic operation: SRC_B plus the sign-extended IMM; of a logical one, IMM is not extended. -/
def opB (th : Thread) (w : Word64) : Nat := (reg th w.b + sext w) % 2 ^ 64
def opBu (th : Thread) (w : Word64) : Nat := (reg th w.b + w.imm) % 2 ^ 64

def salu (f : Nat → Nat → Nat) : Meaning64 := thread fun th w => setReg th w.dst (f (reg th w.a) (opB th w))
def saluU (f : Nat → Nat → Nat) : Meaning64 := thread fun th w => setReg th w.dst (f (reg th w.a) (opBu th w))

def execAAdd (t : Thr) (s : State) : Host.Outcome State Fault Refusal := .next <| commit s <| issue 1 0 [0] (salu (· + ·)) t s
def execASub (t : Thr) (s : State) : Host.Outcome State Fault Refusal :=
  .next <| commit s <| issue 1 1 [0] (salu fun a b => a + (2 ^ 64 - b)) t s
def execAMul (t : Thr) (s : State) : Host.Outcome State Fault Refusal := .next <| commit s <| issue 1 2 [0] (salu (· * ·)) t s
def execAAnd (t : Thr) (s : State) : Host.Outcome State Fault Refusal := .next <| commit s <| issue 1 3 [0] (saluU (· &&& ·)) t s
def execAOr (t : Thr) (s : State) : Host.Outcome State Fault Refusal := .next <| commit s <| issue 1 4 [0] (saluU (· ||| ·)) t s
def execAXor (t : Thr) (s : State) : Host.Outcome State Fault Refusal := .next <| commit s <| issue 1 5 [0] (saluU (· ^^^ ·)) t s

/-- A shift's count is the low six bits. -/
def execAShl (t : Thr) (s : State) : Host.Outcome State Fault Refusal :=
  .next <| commit s <| issue 1 6 [0] (saluU fun a b => a <<< (b % 64)) t s
def execAShr (t : Thr) (s : State) : Host.Outcome State Fault Refusal :=
  .next <| commit s <| issue 1 7 [0] (saluU fun a b => a >>> (b % 64)) t s
def execASra (t : Thr) (s : State) : Host.Outcome State Fault Refusal :=
  .next <| commit s <| issue 1 8 [0] (saluU fun a b => unsigned 64 (signed 64 a / 2 ^ (b % 64))) t s

def execAMovi (t : Thr) (s : State) : Host.Outcome State Fault Refusal :=
  .next <| commit s <| issue 1 9 [0] (thread fun th w => setReg th w.dst (sext w)) t s

/-- CMP sets the predicate that DST[1:0] names. -/
def mCmp : Meaning64 := thread fun th w =>
  let p := w.dst % 4
  let v := Config.compare (reg th w.a) (reg th w.b) w.imm
  { th with preds := if v then th.preds ||| 2 ^ p else th.preds - (if bit th.preds p then 2 ^ p else 0) }
def execACmp (t : Thr) (s : State) : Host.Outcome State Fault Refusal := .next <| commit s <| issue 1 10 [0] mCmp t s

/-- RDSTAT reads the thread's ACC_SAT and the array's counters of R235. -/
def mRdstat : Meaning64 := fun t x th w s =>
  setThr s t (next (setReg th w.dst (Config.readStat th.accSat (busyCycles s x) (arrCounts s t.ctx t.arr x.threads).2 w.imm)))
def execARdstat (t : Thr) (s : State) : Host.Outcome State Fault Refusal := .next <| commit s <| issue 1 11 [0] mRdstat t s

/-! ### LSU -/

/-- Local address of a load or store: SRC_A plus IMM. -/
def lsuAddr (th : Thread) (w : Word64) : Nat := (reg th w.a + sext w) % 2 ^ 64

/-- An access of `n` bytes of the share, or LOCAL_BOUND. -/
def lsu (n : Nat) (f : Meaning64) : Meaning64 := fun t x th w s =>
  if shareLen x < lsuAddr th w + n then trap s t th.pc Tr.localBound 0 else f t x th w s

/-- The same of a load: an uncorrectable word traps with DATA (08 R220). -/
def load (n : Nat) (f : Meaning64) : Meaning64 := lsu n fun t x th w s =>
  if localBad s t.ctx t.arr (lsuAddr th w) n then trap s t th.pc Tr.data 0 else f t x th w s

/-- A vector register within VREGS, or ILLEGAL. -/
def needV (rs : Word64 → List Nat) (f : Meaning64) : Meaning64 := fun t x th w s =>
  if (rs w).all fun r => decide (r < x.vregs) then f t x th w s else trap s t th.pc Tr.illegal 0

def mLd : Meaning64 := load 8 fun t _ th w s =>
  setThr s t (next (setReg th w.dst (leNat (memReadN (share s t.ctx t.arr) (lsuAddr th w) 8))))
def execALd (t : Thr) (s : State) : Host.Outcome State Fault Refusal := .next <| commit s <| issue 2 0 [0] mLd t s

def mSt : Meaning64 := lsu 8 fun t _ th w s =>
  setThr (putLocal s t.ctx t.arr (lsuAddr th w) (leBytes 8 (reg th w.b))) t (next th)
def execASt (t : Thr) (s : State) : Host.Outcome State Fault Refusal := .next <| commit s <| issue 2 1 [0] mSt t s

def mVld : Meaning64 := needV (fun w => [w.dst]) <| load 256 fun t _ th w s =>
  setThr s t (next (setVreg th w.dst (f32sOf (memReadN (share s t.ctx t.arr) (lsuAddr th w) 256) 64)))
def execAVld (t : Thr) (s : State) : Host.Outcome State Fault Refusal := .next <| commit s <| issue 2 2 [0] mVld t s

def mVst : Meaning64 := needV (fun w => [w.b]) <| lsu 256 fun t _ th w s =>
  setThr (putLocal s t.ctx t.arr (lsuAddr th w) (f32Bytes (vreg th w.b))) t (next th)
def execAVst (t : Thr) (s : State) : Host.Outcome State Fault Refusal := .next <| commit s <| issue 2 3 [0] mVst t s

/-! ### DMA (08 R218) -/

/-- A context may reach a granule: an extent of its tenant (any, for tenant 0), or a LOOSE page of its tenant that is not
shared where it is written; a built-in kernel reaches every page. -/
def dmaGranule (s : State) (x : Ctx) (write : Bool) (g : Nat) : Bool :=
  if g < 0x200000000 then x.tenant == 0 || Tbl.getD s.tfm.extTenant (g / 262144) 0 == x.tenant
  else match getPage s (pageOfGranule g) with
    | some p => (decide (0xFF00 ≤ x.kernel) || (p.loose && p.tenant == x.tenant)) && !(write && decide (1 < p.refs))
    | none => false

def dmaAllowed (s : State) (x : Ctx) (write : Bool) (a n : Nat) : Bool := (granulesOf a n).all (dmaGranule s x write)

/-- DMA.RD and DMA.WR: device address in SRC_A, local address in SRC_B, length in IMM. -/
def mDma (kind : DmaKind) : Meaning64 := fun t x th w s =>
  let dev := reg th w.a
  let loc := reg th w.b
  let n := w.imm
  if n < 16 || decide (1048576 < n) || n % 16 != 0 then trap s t th.pc Tr.length 0
  else if shareLen x < loc + n then trap s t th.pc Tr.localBound 0
  else if dev % 16 != 0 || !dmaAllowed s x (kind == .write) dev n then trap s t th.pc Tr.deviceAccess 0
  else setThr s t (next { th with dmas := th.dmas ++ [⟨kind, dev, loc, n, 0, th.pc, now s⟩] })

def execADmaRd (t : Thr) (s : State) : Host.Outcome State Fault Refusal := .next <| commit s <| issue 3 0 [0] (mDma .read) t s
def execADmaWr (t : Thr) (s : State) : Host.Outcome State Fault Refusal := .next <| commit s <| issue 3 1 [0] (mDma .write) t s

/-- DMA.QLD: the block's device address in SRC_A, the local address in SRC_B; DST takes the number of side entries. -/
def mQld : Meaning64 := fun t x th w s =>
  let dev := reg th w.a
  if dev % 8 != 0 || !dmaAllowed s x false dev 16 then trap s t th.pc Tr.deviceAccess 0
  else setThr s t (next { th with dmas := th.dmas ++ [⟨.block, dev, reg th w.b, 0, w.dst, th.pc, now s⟩] })
def execADmaQld (t : Thr) (s : State) : Host.Outcome State Fault Refusal := .next <| commit s <| issue 3 2 [0] mQld t s

def mDmaWait : Meaning64 := fun t _ th _ s => setThr s t (if th.dmas.isEmpty then next th else { th with wait := .dma })
def execADmaWait (t : Thr) (s : State) : Host.Outcome State Fault Refusal := .next <| commit s <| issue 3 3 [0] mDmaWait t s

/-- The side table of a block in the form of R216: rows of one tile's reduction elements. -/
def sideTable (q : QTab) (codes : List Nat) (side : List (BitVec 16)) : List Nat :=
  let e := if q.w = 4 then 128 else 64
  let at0 := (indexed codes).filter fun ic => some ic.2 == q.esc
  (at0.zip side).map fun iv => iv.2.toNat <<< 48 ||| (iv.1.1 / e % 64) <<< 42 ||| (iv.1.1 % e) <<< 35

/-- A block in pass form: codes, then at 16-byte boundaries its group scales and its side table; and the side entries. -/
def blockForm (q : QTab) (raw : Nat) (body : Bytes) : Bytes × Nat :=
  let e := raw / 2
  let n := e / q.group
  let cb := body.take (e * q.w / 8)
  let codes := (unpackCodes q.w cb).take e
  let scales := sub body (e * q.w / 8) (2 * n)
  let side := sideTable q codes (bf16sOf (body.drop (e * q.w / 8 + 2 * n)) (escCount q codes))
  let pad (bs : Bytes) : Bytes := bs ++ zeros ((16 - bs.length % 16) % 16)
  (pad cb ++ pad scales ++ side.flatMap (leBytes 8), side.length)

/-- Steps 1 to 5 of R184 on one QUANT block: its table, raw length and coded bytes, or its status. -/
def quantBlockAt (s : State) (a : Nat) : Except Nat (QTab × Nat × Bytes) :=
  match blockHdrAt s a with
  | none => .error St.dataCheck
  | some h =>
    match decodeAt s a h.rawLen (16 + h.coded), blockGen s h with
    | .error st, _ => .error st
    | .ok (.elems _ _), some g => .ok (qtab g, h.rawLen, devRead s (a + 16) h.coded)
    | .ok _, _ => .error St.dataCheck

/-- A DMA issued under a freeze of a stack that it reaches has not been granted (11 R331, R332). -/
def dmaHeld (s : State) (d : ADma) : Bool := (stacksOf s (dmaGranules d)).any fun k => frozenSince s (0x10 + k) d.at'

/-- DMA_DONE: the oldest DMA of a thread completes, or traps on the tier manager's refusal; a thread in DMA.WAIT goes on
after its last. -/
def dmaDone (t : Thr) (s : State) : State :=
  match getCtx s t.ctx, getThr s t with
  | some x, some th =>
    match th.dmas with
    | [] => s
    | d :: rest =>
      if dmaHeld s d then s else
      let done (th : Thread) : Thread :=
        let th1 := { th with dmas := rest }
        if rest.isEmpty && th1.wait == .dma then next { th1 with wait := .none } else th1
      let m := share s t.ctx t.arr
      match d.kind with
      | .read =>
        let st := rangeRead s d.dev d.len
        if st != St.ok then trap s t d.pc Tr.dma st
        else setThr (putLocal (readAll s d.dev d.len) t.ctx t.arr d.loc (devRead s d.dev d.len)) t (done th)
      | .write =>
        let st := rangeWrite s d.dev d.len
        if localBad s t.ctx t.arr d.loc d.len then trap s t d.pc Tr.data 0
        else if st != St.ok then trap s t d.pc Tr.dma st
        else match devWrite s d.dev (memReadN m d.loc d.len) with
          | none => trap s t d.pc Tr.dma St.noCapacity
          | some s1 => setThr s1 t (done th)
      | .block =>
        match quantBlockAt s d.dev with
        | .error st => trap s t d.pc Tr.codec st
        | .ok (q, raw, body) =>
          let (bs, n) := blockForm q raw body
          if !dmaAllowed s x false d.dev (16 + body.length) then trap s t d.pc Tr.deviceAccess 0
          else if shareLen x < d.loc + bs.length then trap s t d.pc Tr.localBound 0
          else setThr (putLocal (readAll s d.dev (16 + body.length)) t.ctx t.arr d.loc bs) t (done (setReg th d.reg n))
  | _, _ => s

def execDmaDone (t : Thr) (s : State) : Host.Outcome State Fault Refusal :=
  .next <| commit s <| voidThreads s (dmaDone t s) none

/-! ### GRID (08 R211, R216, R217, R219) -/

/-- Element `i` of packed elements of `b` bits. -/
def packed (m : List Host.Cell) (base b i : Nat) : Nat := (leNat (memReadN m (base + i * b / 8) 3) >>> (i * b % 8)) % 2 ^ b

/-- The FP32 value of an element of a floating format. -/
def elemF32 (f v : Nat) : F32 :=
  if f = 3 || f = 5 then ofVal (e4m3Val v)
  else if f = 4 || f = 6 then widen e5m2 v
  else if f = 7 then widen ⟨3, 2, false⟩ v
  else if f = 8 then widen ⟨2, 3, false⟩ v
  else if f = 9 then widen ⟨2, 1, false⟩ v
  else if f = 10 then widen bf16 v
  else widen fp16 v

/-- A bank's generation is still live. -/
def bankLive (s : State) (b : Bank) : Bool := (cslot s b.slot).gens.any fun g => g.loadSeq == b.loadSeq

/-- One integer output: Σ level × a, escaped elements contributing nothing, over a range of positions. -/
def intSum (ws : List (Option Int)) (as : List Int) : Int :=
  (ws.zip as).foldl (fun t wa => match wa.1 with
    | some l => t + l * wa.2
    | none => t) 0

/-- The side term of an output row: Σ side value × a × s_a in element order. -/
def sideTerm (sides : List Nat) (row : Nat) (as : List Int) (sa : F32) : F32 :=
  let mine := sortBy (fun x y => decide (bits x 41 35 < bits y 41 35)) (sides.filter fun e => bits e 47 42 == row)
  mine.foldl (fun t e =>
    fadd t (fmul (fmul (ofBf16 (BitVec.ofNat 16 (bits e 63 48))) (fofInt (as.getD (bits e 41 35) 0))) sa)) 0

/-- An INT8 or coded output: INT32 in NATIVE mode, the FP32 of R196 in GROUP mode. -/
def intOut (p : PDesc) (ws : List (Option Int)) (as : List Int) (scales : List (BitVec 16)) (sides : List Nat) (row : Nat) : Nat :=
  if p.isGroup then
    let k := p.rowScales
    let y := (List.range k).foldl (fun (t : F32) j =>
      let pg := intSum ((ws.drop (j * p.group)).take p.group) ((as.drop (j * p.group)).take p.group)
      ffma (fofInt pg) (fmul (ofBf16 (scales.getD (row * k + j) 0)) p.aScale) t) 0
    (fadd y (sideTerm sides row as p.aScale)).toNat
  else
    let acc := intSum ws as
    if p.side = 0 then unsigned 32 acc else (Config.sideWord acc (sideTerm sides row as p.aScale)).toNat

/-- The product of two elements, which FP32 holds exactly, under the product of their blocks' scales as an exponent (08 R209). -/
def scaledProduct (sw sa : List Nat) (i : Nat) (w a : F32) : F32 :=
  let k (l : List Nat) : Int := if l.isEmpty then 0 else (l.getD (i / 32) 127 : Nat) - 127
  fscale (fmul w a) (k sw + k sa)

/-- A floating output: a NaN in an operand gives the NaN, otherwise the FP32 sum of products. -/
def fpOut (ws as : List F32) (sw sa : List Nat) : Nat :=
  if ws.any isNan || as.any isNan || sw.contains 255 || sa.contains 255 then nanBits.toNat else (fsumOpen ((indexed (ws.zip as)).map fun iwa => scaledProduct sw sa iwa.1 iwa.2.1 iwa.2.2)).toNat

/-- The results of a pass, vector by vector, 64 outputs each. -/
def passVals (m : List Host.Cell) (bank : Option QTab) (p : PDesc) : List Nat :=
  let e := redElems p.wf
  let rows := List.range 64
  if p.wf ≤ 2 then
    let lev (v : Nat) : Option Int := match bank with
      | some q => if coded p.wf then (if some v == q.esc then none else some (q.levels.getD v 0)) else some (signed 8 v)
      | none => some (signed 8 v)
    let wt := rows.map fun r => (List.range e).map fun i => lev (packed m p.w (fmtBits p.wf) (r * e + i))
    let scales := bf16sOf (memReadN m p.sc p.scaleLen) (p.scaleLen / 2)
    let sides := recsOf 8 p.side (memReadN m (p.sc + p.scaleLen) (8 * p.side))
    (List.range p.n).flatMap fun v =>
      let as := (List.range e).map fun i => signed 8 (packed m p.a 8 (v * e + i))
      (indexed wt).map fun rw => intOut p rw.2 as scales sides rw.1
  else
    let vec (base f k total : Nat) : List F32 × List Nat :=
      ((List.range e).map fun i => elemF32 f (packed m base (fmtBits f) (k * e + i)),
        if isMx f then (memReadN m (base + total * e * fmtBits f / 8 + k * e / 32) (e / 32)).map (·.toNat) else [])
    let wt := rows.map fun r => vec p.w p.wf r 64
    (List.range p.n).flatMap fun v =>
      let as := vec p.a p.af v p.n
      wt.map fun w => fpOut w.1 as.1 w.2 as.2

/-- GRID.MM: the descriptor is checked, and the pass starts. -/
def mGridMm : Meaning64 := fun t x th w s =>
  match passDesc s t x (reg th w.a) with
  | .error code => trap s t th.pc code 0
  | .ok p =>
    let bank := Tbl.get (arr s t.arr).banks p.cb
    if coded p.wf && !(match bank with
      | some b => bankLive s b
      | none => false) then trap s t th.pc Tr.codec St.tableGone
    else
      let q := bank.map fun b => qtab ⟨0, b.header, b.body, 0, 0, 0⟩
      let pass : Pass := ⟨p.d, passVals (share s t.ctx t.arr) q p, decide (p.wf ≤ 2) && !p.isGroup && p.side == 0, p.acc, p.cycles,
        now s + passNs s t.arr p⟩
      setThr s t (next { th with passes := th.passes ++ [pass] })
def execGridMm (t : Thr) (s : State) : Host.Outcome State Fault Refusal := .next <| commit s <| issue 4 0 [0] mGridMm t s

/-- PASS_END: at its time the oldest pass of a thread writes its last results; a clock change of the array takes effect; a thread in
GRID.WAIT goes on after its last pass. -/
def passEnd (t : Thr) (s : State) : State :=
  match getThr s t with
  | none => s
  | some th =>
    match th.passes with
    | [] => s
    | p :: rest =>
      if now s < p.endAt then s else
      let s1 := endPass s t th p rest
      let s2 := match getThr s1 t with
        | none => s1
        | some y => if y.passes.isEmpty && y.wait == .grid then setThr s1 t (next { y with wait := .none }) else s1
      if (arr s2 t.arr).mhzRun = mhzTarget s2 t.arr then s2 else setClock s2 t.arr

def execPassEnd (t : Thr) (s : State) : Host.Outcome State Fault Refusal :=
  .next <| commit s <| voidThreads s (passEnd t s) none

def mGridWait : Meaning64 := fun t _ th _ s => setThr s t (if th.passes.isEmpty then next th else { th with wait := .grid })
def execGridWait (t : Thr) (s : State) : Host.Outcome State Fault Refusal := .next <| commit s <| issue 4 1 [0] mGridWait t s

/-- CB.LOAD: the generation that s1, s2 and s3 name goes into the bank that IMM[2:0] names. -/
def mCbLoad : Meaning64 := fun t _ th w s =>
  let slot := reg th 1
  match (cslot s slot).gens.find? fun g => g.tag == reg th 2 && g.tableId == reg th 3 && decide ((cslot s slot).cond = .quant) with
  | none => trap s t th.pc Tr.codec St.tableGone
  | some g =>
    let x := arr s t.arr
    setThr (setArr s t.arr { x with banks := Tbl.set x.banks (w.imm % 8) ⟨slot, g.loadSeq, g.header, g.body⟩ }) t (next th)
def execCbLoad (t : Thr) (s : State) : Host.Outcome State Fault Refusal := .next <| commit s <| issue 4 2 [0] mCbLoad t s

/-! ### VEC -/

/-- One more VEC issue is counted (08 R235). -/
def vecDone (th : Thread) : Thread := next { th with work := th.work + 1 }

def s32 (x : F32) : Int := x.toInt

/-- An INT32 lane from an exact value: it saturates (08 R210). -/
def satLane (v : Int) : F32 × Bool :=
  if 2147483647 < v then (0x7FFFFFFF, true) else if v < -2147483648 then (0x80000000, true) else (BitVec.ofInt 32 v, false)

/-- A lane operation on FP32 (FMT 0 or 0xC) or INT32 (FMT 0xD) lanes: A, B and the destination's old value. -/
def vec3 (f : F32 → F32 → F32 → F32) (g : Int → Int → Int → Int) : Meaning64 := needV (fun w => [w.dst, w.a, w.b]) fun t _ th w s =>
  let ls := ((vreg th w.a).zip (vreg th w.b)).zip (vreg th w.dst)
  if w.fmt = 0xD then
    let rs := ls.map fun abc => satLane (g (s32 abc.1.1) (s32 abc.1.2) (s32 abc.2))
    setThr s t (vecDone { setVreg th w.dst (rs.map (·.1)) with accSat := th.accSat || rs.any (·.2) })
  else setThr s t (vecDone (setVreg th w.dst (ls.map fun abc => f abc.1.1 abc.1.2 abc.2)))

def laneFmts : List Nat := [0, 0xC, 0xD]

def execVFma (t : Thr) (s : State) : Host.Outcome State Fault Refusal :=
  .next <| commit s <| issue 5 0 laneFmts (vec3 ffma fun a b c => a * b + c) t s
def execVAdd (t : Thr) (s : State) : Host.Outcome State Fault Refusal :=
  .next <| commit s <| issue 5 1 laneFmts (vec3 (fun a b _ => fadd a b) fun a b _ => a + b) t s
def execVMul (t : Thr) (s : State) : Host.Outcome State Fault Refusal :=
  .next <| commit s <| issue 5 2 laneFmts (vec3 (fun a b _ => fmul a b) fun a b _ => a * b) t s
def execVMax (t : Thr) (s : State) : Host.Outcome State Fault Refusal :=
  .next <| commit s <| issue 5 3 laneFmts (vec3 (fun a b _ => fmax a b) fun a b _ => max a b) t s
def execVMin (t : Thr) (s : State) : Host.Outcome State Fault Refusal :=
  .next <| commit s <| issue 5 4 laneFmts (vec3 (fun a b _ => fmin a b) fun a b _ => min a b) t s

/-- One lane to a format: to nearest even; FP8 and integers saturate. What the formats do not settle is free. -/
def convertTo (f : Nat) (x : F32) : F32 :=
  if f = 0 then BitVec.ofNat 32 (unsigned 8 (toIntSat 8 x))
  else if f = 3 || f = 5 then BitVec.ofNat 32 (toE4m3 x)
  else if f = 4 || f = 6 then BitVec.ofNat 32 (toE5m2 x)
  else if f = 10 then (toBf16 x).setWidth 32
  else if f = 11 then BitVec.ofNat 32 (narrow fp16 false x)
  else if f = 12 then x
  else if f = 13 then BitVec.ofNat 32 (unsigned 32 (toIntSat 32 x))
  else if isNan x || coded f then Config.convert f false x
  else BitVec.ofNat 32 (narrow (if f = 7 then ⟨3, 2, false⟩ else if f = 8 then ⟨2, 3, false⟩ else ⟨2, 1, false⟩) true x)

/-- One lane of a format to FP32. -/
def convertFrom (f : Nat) (x : F32) : F32 :=
  if f = 0 then fofInt (signed 8 (x.toNat % 256))
  else if f = 12 then x
  else if f = 13 then fofInt (s32 x)
  else if coded f then Config.convert f true x
  else elemF32 f (x.toNat % 2 ^ fmtBits f)

/-- VCVT: FP32 to FMT, or with IMM[0] set FMT to FP32. -/
def mVcvt : Meaning64 := needV (fun w => [w.dst, w.a]) fun t _ th w s =>
  setThr s t (vecDone (setVreg th w.dst ((vreg th w.a).map fun x => if bit w.imm 0 then convertFrom w.fmt x else convertTo w.fmt x)))
def execVCvt (t : Thr) (s : State) : Host.Outcome State Fault Refusal :=
  .next <| commit s <| issue 5 5 (List.range 14) mVcvt t s

/-- VRED: the sum of the lanes, or with IMM[0] set their maximum, in every lane of DST. -/
def mVred : Meaning64 := needV (fun w => [w.dst, w.a]) fun t _ th w s =>
  let ls := vreg th w.a
  if w.fmt = 0xD then
    let r := if bit w.imm 0 then satLane (ls.foldl (fun m x => max m (s32 x)) (-2147483648)) else satLane (ls.foldl (fun m x => m + s32 x) 0)
    setThr s t (vecDone { setVreg th w.dst (List.replicate 64 r.1) with accSat := th.accSat || r.2 })
  else
    let r : F32 := if ls.any isNan then nanBits
      else if bit w.imm 0 then ls.foldl fmax 0xFF800000 else fsumOpen ls
    setThr s t (vecDone (setVreg th w.dst (List.replicate 64 r)))
def execVRed (t : Thr) (s : State) : Host.Outcome State Fault Refusal := .next <| commit s <| issue 5 6 laneFmts mVred t s

/-- A lane function of one operand. -/
def vec1 (f : F32 → F32) : Meaning64 := needV (fun w => [w.dst, w.a]) fun t _ th w s =>
  setThr s t (vecDone (setVreg th w.dst ((vreg th w.a).map f)))

def execVExp2 (t : Thr) (s : State) : Host.Outcome State Fault Refusal :=
  .next <| commit s <| issue 5 7 [0, 0xC] (vec1 fexp2) t s
def execVRcp (t : Thr) (s : State) : Host.Outcome State Fault Refusal :=
  .next <| commit s <| issue 5 8 [0, 0xC] (vec1 fun x => fdiv fone x) t s
def execVRsqrt (t : Thr) (s : State) : Host.Outcome State Fault Refusal :=
  .next <| commit s <| issue 5 9 [0, 0xC] (vec1 frsqrt) t s

/-! ### SYNC -/

/-- A barrier over some threads: the last that has not halted lets all go on. -/
def barrier (wt : TWait) (who : Thr → Thr → Bool) : Meaning64 := fun t x th _ s =>
  let s1 := setThr s t { th with wait := wt }
  let ts := (launchThreads t.ctx x).filter (who t)
  if ts.all (atBarrier s1 wt) then releaseAll wt ts s1 else s1

def execSyncBar (t : Thr) (s : State) : Host.Outcome State Fault Refusal :=
  .next <| commit s <| issue 6 0 [0] (barrier .bar fun t h => t.arr == h.arr) t s
def execSyncXbar (t : Thr) (s : State) : Host.Outcome State Fault Refusal :=
  .next <| commit s <| issue 6 1 [0] (barrier .xbar fun _ _ => true) t s

def sem (x : Ctx) (n : Nat) : Nat := Tbl.getD x.sems n 0
def setSem (s : State) (id n v : Nat) : State :=
  { s with cax := { s.cax with ctxs := Tbl.upd s.cax.ctxs id fun x => { x with sems := Tbl.set x.sems n v } } }

/-- A thread waits on a semaphore. -/
def waitsSem (s : State) (n : Nat) (h : Thr) : Bool :=
  match getThr s h with
  | some y => y.wait == .sem n && !y.halted
  | none => false

/-- SEM.INC: IMM[3:0] names the semaphore; a thread that waits on it goes on, the lowest first. -/
def mSemInc : Meaning64 := fun t x th w s =>
  let n := w.imm % 16
  let s1 := setThr s t (next th)
  match (launchThreads t.ctx x).find? (waitsSem s1 n) with
  | some h => releaseAll (.sem n) [h] s1
  | none => setSem s1 t.ctx n (sem x n + 1)
def execSemInc (t : Thr) (s : State) : Host.Outcome State Fault Refusal := .next <| commit s <| issue 6 2 [0] mSemInc t s

def mSemWait : Meaning64 := fun t x th w s =>
  let n := w.imm % 16
  if sem x n = 0 then setThr s t { th with wait := .sem n } else setSem (setThr s t (next th)) t.ctx n (sem x n - 1)
def execSemWait (t : Thr) (s : State) : Host.Outcome State Fault Refusal := .next <| commit s <| issue 6 3 [0] mSemWait t s

end Sys2Proof.Machine
end

