-- ==== Sys2Proof/Machine/Hcu.lean ====
section
/-! DEFINITION. The host and command unit's own commands: sessions, rings, NOP (02 R42 to R47, R53, R54). -/

namespace Sys2Proof.Machine

/-! ### The handshake (02 R43, R44) -/

/-- The 78-byte message of the handshake. -/
def shakeMsg (label : String) (id slot : Nat) (host dev : Bytes) : Bytes :=
  ascii label ++ leBytes 2 id ++ leBytes 1 slot ++ host ++ dev

def slotLocked (s : State) (k : KeySlot) : Bool :=
  match k.lockedUntil with
  | none => false
  | some t => decide (now s < t)

def sessHello : Meaning := fun c s => do
  c.lenIs 48
  c.bound 32
  fldF (decide (c.fld 7 0 ≤ 15)) 0
  c.rsv 127 8
  let slot := c.fld 7 0
  let i := (Tbl.freeFrom s.hcu.sessions 64 0).getD 64
  need (decide (i < 64)) St.busy 0
  match Tbl.get s.hcu.keySlots slot with
  | none => stop St.authFail
  | some k =>
    need (!slotLocked s k) St.authFail 0
    let g := Tbl.getD s.hcu.sessGen i 0
    let dev := leBytes 32 (Config.nonce s.draws).toNat
    let x : Session := ⟨g, false, slot, k.priv, k.tenant, sub c.pay 16 32, dev, c.ring, now s, [], 0⟩
    let s1 := drawn { s with hcu := { s.hcu with sessions := Tbl.set s.hcu.sessions i x } }
    .ok ({ st := some St.ok, r0 := 64 * g + i, result := dev }, s1)

def execSessHello (r : Nat) (d : Dma) (s : State) : Host.Outcome State Fault Refusal :=
  .next (commit s (hostCmd 0x0101 [] r d sessHello s))

/-- A wrong proof: the slot's failure count rises, eight in a row lock the slot for 1 s, and the index is freed. -/
def proofFails (s : State) (x : Session) (i : Nat) : State :=
  let bump (k : KeySlot) : KeySlot :=
    if 8 ≤ k.fails + 1 then { k with fails := 0, lockedUntil := some (now s + 1000 * ms) } else { k with fails := k.fails + 1 }
  closeSession { s with hcu := { s.hcu with keySlots := Tbl.upd s.hcu.keySlots x.slot bump } } i

def sessProve : Meaning := fun c s => do
  c.lenIs 32
  c.bound 32
  let i := sessIdx c.sess
  match findSess s c.sess with
  | none => stop St.sessionClosed
  | some x =>
    let key := ((Tbl.get s.hcu.keySlots x.slot).map (·.key)).getD []
    let msg (label : String) : Bytes := shakeMsg label c.sess x.slot x.hostNonce x.devNonce
    if hmac256 key (msg "TF768A-HPRF") = c.pay then
      let x1 := { x with isOpen := true, key := hmac256 key (msg "TF768A-SKEY") }
      .ok (okRes (hmac256 key (msg "TF768A-DPRF")), { s with hcu := { s.hcu with
        sessions := Tbl.set s.hcu.sessions i x1, keySlots := Tbl.upd s.hcu.keySlots x.slot fun k => { k with fails := 0 } } })
    else .ok ({ st := some St.authFail }, proofFails s x i)

def execSessProve (r : Nat) (d : Dma) (s : State) : Host.Outcome State Fault Refusal :=
  .next (commit s (hostCmd 0x0102 [] r d sessProve s))

/-- SESS_CLOSE (02 R47, R54). -/
def sessClose : Meaning := fun c s => do
  let id := c.target % 65536
  need (id == c.sess || c.isOp) St.privilege 0
  c.lenIs 0
  c.tgtRsv 16
  match findSess s id with
  | none => stop St.notFound
  | some _ => .ok (okAns, closeSession s (sessIdx id))

def execSessClose (r : Nat) (d : Dma) (s : State) : Host.Outcome State Fault Refusal :=
  .next (commit s (hostCmd 0x0103 [.operator, .tenant, .maintenance] r d sessClose s))

/-- KEY_SLOT_UNLOCK: the lock time has run. -/
def execKeySlotUnlock (slot : Nat) (s : State) : Host.Outcome State Fault Refusal :=
  .next <| commit s <|
    match Tbl.get s.hcu.keySlots slot with
    | none => s
    | some k =>
      if k.lockedUntil.isSome && !slotLocked s k then
        { s with hcu := { s.hcu with keySlots := Tbl.set s.hcu.keySlots slot { k with lockedUntil := none } } }
      else s

/-! ### Rings (02 R31, R53, R54) -/

/-- Two ranges of ring-region entries meet. -/
def rangesMeet (a n b m : Nat) : Bool := decide (a < b + m) && decide (b < a + n)

/-- The lowest contiguous free range of `n` entries, past the admin rings' 256. -/
def freeRegion (s : State) (n : Nat) : Option Nat :=
  let rs := (s.hcu.rings.filter fun kv => kv.1 < 256).map (·.2)
  let ok (b : Nat) : Bool := decide (256 ≤ b) && decide (b + n ≤ 65536) && rs.all fun R => !rangesMeet b n R.base R.sqEntries
  (sortBy (fun a b => decide (a < b)) (256 :: rs.map fun R => R.base + R.sqEntries)).find? ok

/-- A ring pair as created. -/
def newRing (owner port base sq cq cqBase notify vec time count : Nat) (work : Bool) : Ring where
  owner := owner
  port := port
  base := base
  sqEntries := sq
  cqEntries := cq
  cqBase := cqBase
  notify := notify
  vec := vec
  irqTime := time
  irqCount := count
  head := 0
  tail := 0
  cqTail := 0
  cqHead := 0
  phase := true
  irqPend := 0
  irqFirst := 0
  held := []
  outstanding := []
  waiting := none
  pended := []
  fetching := true
  dying := false
  work := work

/-- The checks on the fields that describe a ring pair at the given port: entry counts, then `low`, the payload's fields below
them, interrupt, `mid`, those below the addresses, and the addresses. -/
def ringFields (s : State) (port sq cq count time vec notify base : Nat) (low mid : List (Bool × Nat × Nat))
    (oSq oCq oCnt oTime oVec oNote oBase : Nat) : Except Ans Unit :=
  needAll <|
    [(decide (16 ≤ sq) && decide (sq ≤ 4096), St.lengthRange, inPay oSq),
     (decide (16 ≤ cq) && decide (cq ≤ 4096), St.lengthRange, inPay oCq),
     (decide (1 ≤ count) && decide (count ≤ 256), St.lengthRange, inPay oCnt)] ++ low ++
    [(isPow2 sq, St.fieldRange, inPay oSq),
     (isPow2 cq, St.fieldRange, inPay oCq),
     (decide (time ≤ 1000), St.fieldRange, inPay oTime),
     (portMode s port != 2 || decide (vec ≤ 511), St.fieldRange, inPay oVec)] ++ mid ++
    [(portMode s port != 1 || notify % 4 == 0, St.fieldRange, inPay oNote),
     (base % 4096 == 0, St.fieldRange, inPay oBase)]

/-- Put a new ring pair in, its SEQ starting at 1 for its session. -/
def addRing (s : State) (r : Nat) (R : Ring) : State :=
  { s with hcu := { s.hcu with
      rings := Tbl.set s.hcu.rings r R, seqs := Tbl.del s.hcu.seqs (seqKey (sessIdx R.owner) r) } }

def ringCreate : Meaning := fun c s => do
  c.lenIs 32
  ringFields s c.port (c.fld 47 32) (c.fld 63 48) (c.fld 79 64) (c.fld 95 80) (c.fld 111 96) (c.fld 191 128) (c.fld 255 192)
    [(c.fld 31 0 == 0, St.fieldRange, inPay 0)] [(c.fld 127 112 == 0, St.fieldRange, inPay 14)] 4 6 8 10 12 16 24
  let r := (Tbl.freeFrom s.hcu.rings 252 4).getD 256
  match freeRegion s (c.fld 47 32) with
  | none => stop St.noCapacity
  | some b =>
    need (decide (r < 256)) St.noCapacity 0
    .ok (okR0 (r ||| (64 * b) <<< 32), addRing s r (newRing c.sess c.port b (c.fld 47 32) (c.fld 63 48) (c.fld 255 192)
      (c.fld 191 128) (c.fld 111 96) (c.fld 95 80) (c.fld 79 64) false))

def execRingCreate (r : Nat) (d : Dma) (s : State) : Host.Outcome State Fault Refusal :=
  .next (commit s (hostCmd 0x0110 [.operator, .tenant, .maintenance] r d ringCreate s))

def ringDestroy : Meaning := fun c s => do
  let r := c.target % 65536
  c.lenIs 0
  c.tgtRsv 16
  need (decide (4 ≤ r) && decide (r ≤ 255)) St.fieldRange 40
  match Tbl.get s.hcu.rings r with
  | none => stop St.notFound
  | some R =>
    need (R.owner == c.sess || c.isOp) St.privilege 0
    need (!R.work) St.state 0
    .ok (okAns, destroyRing s r)

def execRingDestroy (r : Nat) (d : Dma) (s : State) : Host.Outcome State Fault Refusal :=
  .next (commit s (hostCmd 0x0111 [.operator, .tenant, .maintenance] r d ringDestroy s))

/-- NOP accepts any payload and completes with ST_OK. -/
def nopMeaning : Meaning := fun _ s => .ok (okAns, s)

def execNop (r : Nat) (d : Dma) (s : State) : Host.Outcome State Fault Refusal :=
  .next (commit s (hostCmd 0x0130 [.operator, .tenant, .maintenance] r d nopMeaning s))

end Sys2Proof.Machine
end

