-- ==== Sys2Proof/Machine/Keys.lean ====
section
/-! DEFINITION. Remote keys (10 R287) and the new home's side of a home move (06 R155 step 1). -/

namespace Sys2Proof.Machine

def keyOf (i gen : Nat) : Nat := i <<< 8 ||| gen
def keyIdx (k : Nat) : Nat := k >>> 8
def keyGenAt (s : State) (i : Nat) : Nat := Tbl.getD s.fbe.keyGen i 0

/-- The live key a number names. -/
def findKey (s : State) (k : Nat) : Option (Nat × Key) :=
  match Tbl.get s.fbe.keys (keyIdx k) with
  | some x => if x.gen = k % 256 then some (keyIdx k, x) else none
  | none => none

/-- A free index: never-used ones in rising order, then those freed, in the order in which they were freed. -/
def newKey (s : State) (base len tenant rights peer : Nat) (landing : Landing) : Option (Nat × State) :=
  let put (i : Nat) (s : State) : Option (Nat × State) :=
    let g := keyGenAt s i
    some (keyOf i g, { s with fbe := { s.fbe with keys := Tbl.set s.fbe.keys i ⟨g, base, len, tenant, rights, peer, landing⟩ } })
  if s.fbe.keyFresh < 65536 then put s.fbe.keyFresh { s with fbe := { s.fbe with keyFresh := s.fbe.keyFresh + 1 } }
  else match s.fbe.keyFreed with
    | [] => none
    | i :: rest => put i { s with fbe := { s.fbe with keyFreed := rest } }

/-- Retire a key: its generation advances and its index is free. -/
def dropKey (s : State) (i : Nat) : State :=
  if Tbl.has s.fbe.keys i then
    { s with fbe := { s.fbe with
      keys := Tbl.del s.fbe.keys i, keyFreed := s.fbe.keyFreed ++ [i]
      keyGen := Tbl.set s.fbe.keyGen i ((keyGenAt s i + 1) % 256) } }
  else s

/-- Retire the landing keys of a moved list. -/
def dropListKeys (s : State) (gid : Nat) : State :=
  (s.fbe.keys.filter fun kv => kv.2.landing == .list gid).foldl (fun a kv => dropKey a kv.1) s

/-- Step 1 of 06 R155: charge the list's USED_UNITS under steps 4 and 6 of R67, build an empty list, register a landing
key. The answer is status, root and key. -/
def moveCharge (s : State) (m : ResvMsg) : Nat × Nat × Nat × State :=
  if (getList s m.gid).isSome || !capsOk s m.prio m.tenant m.resHbm || !hbmFits s m.resHbm then (St.noCapacity, noId, 0, s)
  else
    match newList (setResv s m.gid ⟨m.prio, m.tenant, m.resHbm, m.resFlash, false, false, m.durable⟩) m.gid m.frm m.tenant
        m.kvPerTok m.pageClass m.codecSlot m.resHbm with
    | none => (St.noCapacity, noId, 0, s)
    | some (root, s1) =>
      match newKey s1 0 (4194304 * psize m.pageClass) m.tenant 2 0xFFFF (.list m.gid) with
      | none => (St.noCapacity, noId, 0, s)
      | some (k, s2) =>
        let l := (getList s2 m.gid).getD ⟨root, m.gid, 0, m.frm, m.tenant, 0, 0, m.kvPerTok, 0, m.codecSlot, m.pageClass, 1,
          m.resHbm, 0, 0, [], [root]⟩
        (St.ok, root, k, { s2 with ppm := { s2.ppm with
          lists := Tbl.set s2.ppm.lists m.gid { l with ctxLen := m.ctxLen, ns := m.ns } } })

/-- Bytes that land in a moved list at stream offset `off` of its pages: pages are appended as they are reached. -/
def landInList (s : State) (gid off : Nat) (bs : Bytes) : Option State :=
  match getList s gid with
  | none => none
  | some l =>
    let p := psize l.cls
    let needed := if bs.isEmpty then 0 else (off + bs.length - 1) / p + 1
    let grown : Option State :=
      if l.pages.length < needed then (appendPages s gid (needed - l.pages.length)).map (·.2) else some s
    match grown with
    | none => none
    | some s1 =>
      let ps := ((getList s1 gid).getD l).pages
      let put (a : State) (i : Nat) : State :=
        let lo := max off (i * p)
        pokeN a (pageAddr (ps.getD i 0) + (lo - i * p)) (sub bs (lo - off) (min (off + bs.length) ((i + 1) * p) - lo))
      some ((granules (off / p) (needed - off / p)).foldl put s1)

/-- Step 2 of 06 R155: write every page of a list, in list order and as stored. -/
def sendPages (s : State) (gid dest key : Nat) : State :=
  match getList s gid with
  | none => s
  | some l =>
    let p := psize l.cls
    (l.pages.zip (List.range l.pages.length)).foldl (fun a ip => emit a (.land dest key (ip.2 * p) (peekN s (pageAddr ip.1) p))) s

end Sys2Proof.Machine
end

