-- ==== Sys2Proof/Machine/Caravan.lean ====
section
/-! DEFINITION. Caravan records and what ends them, at the sender and at the receiver (04 R80 to R100). -/

namespace Sys2Proof.Machine

/-! ### Small things -/

/-- Messages to this node, or to the partner it has taken over (04 R93, 12 R351). -/
def isUs (s : State) (n : Nat) : Bool := n == me s || (n == s.mir.aliasNode && n != 0xFFFF)

/-- Epoch `a` is newer than `b` (04 R101). -/
def newer (a b : Nat) : Bool :=
  let d := (a + 65536 - b % 65536) % 65536
  decide (1 ≤ d) && decide (d ≤ 32767)

def Cv.offer : Nat := 1
def Cv.pull : Nat := 2
def Cv.manifest : Nat := 3
def Cv.receipt : Nat := 4
def Cv.release : Nat := 5
def Cv.decline : Nat := 6
def Cv.withdraw : Nat := 7
def Cv.probe : Nat := 8
def Cv.answer : Nat := 9

def Co.none : Nat := 0
def Co.committed : Nat := 1
def Co.aborted : Nat := 2
def Co.resumed : Nat := 3

def isPages (kind : Nat) : Bool := kind == 1

/-- Whether this end of a record sends the caravan. -/
def CState.sending : CState → Bool
  | .offered => true | .pulled => true | .inDoubt => true | .released => true | .withdrawn => true | .resumed => true
  | _ => false

def getRec (s : State) (k : Nat) : Option Caravan := Tbl.get s.cve.recs k
def setRec (s : State) (k : Nat) (r : Caravan) : State := { s with cve := { s.cve with recs := Tbl.set s.cve.recs k r } }

/-- Open caravan records, both directions (04 R98). -/
def openRecs (s : State) : Nat := (s.cve.recs.filter fun kv => kv.2.cstate.isOpen).length

def cvnEvent (s : State) (cause sev st : Nat) (r : Caravan) : State :=
  post s Un.cve Ek.caravan cause sev st (objCaravan r.src r.cvnId) 0

/-! ### The landing buffer (04 R86) -/

/-- Where the auxiliary block starts. -/
def auxOff (tokens : Nat) : Nat := ceilDiv (128 + 4 * tokens) 64 * 64

/-- Where the pages start. -/
def pagesOff (tokens aux : Nat) : Nat := ceilDiv (auxOff tokens + aux) 65536 * 65536

/-- The landing buffer's length. -/
def landingLen (kind tokens aux units : Nat) : Nat :=
  if isPages kind then pagesOff tokens aux + 65536 * units else auxOff tokens + aux

def Caravan.landing (r : Caravan) : Nat := landingLen r.kind r.histTokens r.auxBytes r.pageUnits

/-- Staging bytes in use: landing buffers of caravans still PULLING, and step staging (04 R89, 09 R252). -/
def stagingUsed (s : State) : Nat :=
  (s.cve.recs.foldl (fun a kv => a + if kv.2.cstate = .pulling then kv.2.landing else 0) 0)
    + s.att.steps.foldl (fun a kv => a + kv.2.stagingUnits * 65536) 0

def stagingFits (s : State) (n : Nat) : Bool := decide (stagingUsed s + n ≤ s.ppm.staging * 65536)

/-- The receipt timeout in µs (04 R92). -/
def receiptUs (s : State) (len : Nat) : Nat := s.cve.timers.receiptBase + s.cve.timers.receiptPerMib * ceilDiv len 1048576

/-! ### Messages (04 R83, R84) -/

/-- A message of a record, from its end here to `to`. -/
def cvnHdr (r : Caravan) (msg : Nat) : CvnMsg where
  frm := if r.cstate.sending then r.src else r.dst
  gid := r.gid
  deadline := r.deadline
  cvnId := r.cvnId
  key := if msg = Cv.pull then r.key else 0
  src := r.src
  dst := r.dst
  epoch := r.epoch
  home := r.home
  tenant := r.tenant
  status := 0
  pageUnits := r.pageUnits
  histTokens := r.histTokens
  auxBytes := r.auxBytes
  rsvA := 0
  check := 0
  offerLife := if msg = Cv.offer then r.offerLife else 0
  codecFp := r.codecFp
  rsvB := 0
  cver := 1
  msg := msg
  kind := r.kind
  prio := r.prio
  durable := b2n r.durable
  outcome := 0

/-- The other end of a record. -/
def Caravan.peer (r : Caravan) : Nat := if r.cstate.sending then r.dst else r.src

def sendCvn (s : State) (r : Caravan) (msg : Nat) : State := emit s (.cvn r.peer (cvnHdr r msg))

/-- The same with an OUTCOME, or with a STATUS. -/
def sendOutcome (s : State) (r : Caravan) (msg dest out : Nat) : State := emit s (.cvn dest { cvnHdr r msg with outcome := out })
def sendDecline (s : State) (r : Caravan) (st : Nat) : State := emit s (.cvn r.src { cvnHdr r Cv.decline with status := st })

/-- An answer to a message that no record stands for: its own header with another MSG. -/
def replyHdr (s : State) (m : CvnMsg) (msg : Nat) : CvnMsg :=
  { m with frm := if isUs s m.dst then m.dst else m.src, key := 0, status := 0, check := 0, offerLife := 0, outcome := 0, msg := msg }

/-- End a record: the last 1,024 ended ones are kept (04 R113). -/
def endCvn (s : State) (k : Nat) (r : Caravan) (st : CState) (status : Nat) : State :=
  let kept := s.cve.ended.filter (· != k) ++ [k]
  let out := kept.take (kept.length - 1024)
  settleEpochs { s with cve := { s.cve with
    recs := out.foldl Tbl.del (Tbl.set s.cve.recs k { r with cstate := st, status := status, lastTime := now s, tok := none })
    ended := kept.drop (kept.length - 1024), landing := Tbl.del s.cve.landing k } }

/-- Open a record. -/
def openCvn (s : State) (k : Nat) (r : Caravan) : State :=
  { s with cve := { s.cve with recs := Tbl.set s.cve.recs k r, ended := s.cve.ended.filter (· != k) } }

/-! ### Ends at the sender (04 R88, R93, R95, R104, R111) -/

/-- A deadline has passed (04 R75). -/
def pastDeadline (s : State) (e : Entry) : Bool := e.deadline != 0 && decide (e.deadline < now s)

/-- A page loss kept for the caravan's end, or the home marked LOST (03 R78). -/
def lossAtEnd (s : State) (n : Nat) (loss : Option KeptLoss) (home : Nat) : State :=
  match loss with
  | some z => applyLoss s n z
  | none => if home != me s && markedLost s home then applyLoss s n ⟨St.peerLost, false, false⟩ else s

/-- The entry as it returns from HANDOFF: to PRIOR_STATE, or to DRAINING when marked (01 R25, 03 R62). -/
def resumed (s : State) (x : Slot) : Slot :=
  let drain : Bool := x.mark && x.e.prior != .draining
  { x with
    mark := false, parkFrom := .free, lossSt := none
    e := { x.e with
      state := if drain then .draining else x.e.prior, drainFrom := if drain then x.e.prior else x.e.drainFrom
      prior := x.parkFrom, cvnId := 0, stateTime := now s } }

/-- The sender resumes the request: R78 and R75 apply in the same update. -/
def resumeEntry (s : State) (n : Nat) : State :=
  match getSlot s n with
  | none => s
  | some x =>
    let s1 := lossAtEnd (setSlot s n (resumed s x)) n x.lossSt x.e.home
    if pastDeadline s x.e then terminate s1 n .expired St.expired else s1

/-- End a caravan at the sender with the request resumed: record state, ending of R111 and status. -/
def cvnResume (s : State) (k : Nat) (r : Caravan) (st : CState) (ending status : Nat) : State :=
  let late : Bool := match getSlot s r.slot with
    | some x => pastDeadline s x.e
    | none => false
  let status1 := if late then St.expired else status
  finishOpt (resumeEntry (endCvn s k r st status1) r.slot) r.tok status1 (ending <<< 16 ||| r.epoch) r.cvnId

def setOwner (s : State) (gid owner : Nat) : State :=
  { s with ppm := { s.ppm with lists := Tbl.upd s.ppm.lists gid fun l =>
      if l.owner = owner then l else { l with owner := owner, gen := (l.gen + 1) % 2 ^ 32 } } }

/-- What the sender was told of a loss while the caravan was open goes on to the new owner, which otherwise would not learn
it (03 R78; DEDUCED, entry 46). -/
def passLoss (was : State) (r : Caravan) (s : State) : State :=
  match (getSlot was r.slot).bind (·.lossSt) with
  | some z => if z.fatal || r.home = r.dst then s else emit s (.pageLoss r.dst r.gid z.st z.charged)
  | none => s

/-- Step 5 of R88: the entry goes to FREE, RELEASE is sent, both completions are written, and a PAGES caravan's pages and
reservation go. -/
def cvnRelease (s : State) (k : Nat) (r : Caravan) : State :=
  let s1 := endCvn s k r .released St.ok
  let s2 := if isPages r.kind then detachList s1 r.gid else if isUs s r.home then setOwner s1 r.gid r.dst else s1
  let s3 := passLoss s r (sendOutcome (freeEntry s2 r.slot) r Cv.release r.dst Co.committed)
  let s4 := if r.home != r.src && r.home != r.dst then sendOutcome s3 r Cv.release r.home Co.committed else s3
  let life : Option Tok := (getSlot s r.slot).bind (·.watchTok)
  finishOpt (finishOpt s4 life St.ok r.gid RState.handoff.code) r.tok St.ok (1 <<< 16 ||| r.epoch) r.cvnId

/-! ### Ends at the receiver (04 R88, R91, R93) -/

/-- Abort: slot, charges, landing buffer and key go, and DECLINE is sent. -/
def cvnAbort (s : State) (k : Nat) (r : Caravan) (st : Nat) : State :=
  let s1 := dropSlot (dropKey (endCvn s k r .aborted st) (keyIdx r.key)) r.slot
  let s2 := if isPages r.kind then dropTags (delResv s1 r.gid) r.cslot r.tags else s1
  sendDecline s2 r st

/-- Step 6 of R88; with `lost` the receiver tells the home itself (04 R95). -/
def cvnClose (s : State) (k : Nat) (r : Caravan) (lost : Bool) : State :=
  let s1 := endCvn s k r .closed St.ok
  let home := (getSlot s r.slot).elim r.home (·.e.home)
  let s2 := if isUs s home then setOwner s1 r.gid r.dst
    else if lost then sendOutcome s1 r Cv.release home Co.committed else s1
  drainIfMarked (releaseLate s2 r.slot true) r.slot

/-- The committed request fails with ST_PEER_LOST: history, auxiliary block and, for PAGES, pages go; the home is told
nothing (04 R93, R95). What the receiver's record becomes the spec does not say; the model ends it ABORTED with
ST_PEER_LOST (DESIGN CHOICE, entry 46). -/
def cvnFail (s : State) (k : Nat) (r : Caravan) : State :=
  let s1 := endCvn s k r .aborted St.peerLost
  match getSlot s1 r.slot with
  | none => s1
  | some x =>
    let s2 := freeInner (freeInner s1 x.e.tokRoot) x.e.auxRoot
    let e1 : Entry := if x.e.state.terminal then x.e
      else { x.e with state := .failed, lastStatus := St.peerLost, stateTime := now s }
    let x1 : Slot := { x with
      hist := [], aux := none, mark := false, lossSt := none, lingerFrom := some (now s)
      e := { emptied e1 with tokRoot := noId, auxRoot := noId } }
    let s3 := setSlot s2 r.slot x1
    let s4 := { s3 with rte := { s3.rte with histUnits := Tbl.del s3.rte.histUnits r.slot } }
    if isPages r.kind then detachList s4 r.gid else s4

/-! ### The sender's data (04 R86) -/

/-- The manifest without padding, over which CHECK is computed. -/
def manifestBytes (x : Slot) : Bytes := entryImage x.e ++ histBytes x.hist ++ auxBytes x.aux

/-- The sender accepts a PULL: the regions are written under the receiver's key, then MANIFEST is sent. -/
def sendLanding (s : State) (k : Nat) (r : Caravan) (key : Nat) (x : Slot) : State :=
  let r1 := { r with cstate := .pulled, key := key, lastTime := now s, stamp := now s, timeout := receiptUs s r.landing }
  let put (a : State) (off : Nat) (bs : Bytes) : State := if bs.isEmpty then a else emit a (.land r.dst key off bs)
  let s1 := put (put (put (setRec s k r1) 0 (entryImage x.e)) 128 (histBytes x.hist)) (auxOff r.histTokens) (auxBytes x.aux)
  let base := pagesOff r.histTokens r.auxBytes
  let s2 := match getList s r.gid with
    | some l =>
      let p := psize l.cls
      if isPages r.kind then
        (l.pages.zip (List.range l.pages.length)).foldl (fun a ip => put a (base + ip.2 * p) (devRead s (pageAddr ip.1) p)) s1
      else s1
    | none => s1
  emit s2 (.cvn r.dst { cvnHdr r1 Cv.manifest with check := crc32c (manifestBytes x) })

/-! ### The commit (04 R90) -/

/-- The landing buffer's bytes. -/
def landed (s : State) (k off n : Nat) : Bytes := memReadN (Tbl.getD s.cve.landing k []) off n

/-- The new entry. -/
def commitEntry (s : State) (r : Caravan) (img : Entry) (gen tok aux root : Nat) : Entry :=
  let pages := isPages r.kind
  let home := if pages then r.dst else img.home
  { img with
    slotGen := gen
    state := if img.prior = .draining then img.drainFrom else img.prior
    prior := .free, drainFrom := .free, cvnId := 0
    prevOwner := r.src
    handoffs := min 255 (img.handoffs + 1)
    roleHist := (img.roleHist * 16 + s.hcu.role) % 2 ^ 20
    epoch := r.epoch
    stateTime := now s
    tokRoot := tok, auxRoot := aux
    plistRoot := if pages then root else img.plistRoot
    home := home
    resHbm := if pages then r.pageUnits else img.resHbm
    resFlash := if pages then resFlashOf r.pageUnits else img.resFlash
    usedHbm := if pages then r.pageUnits else img.usedHbm
    usedFlash := if pages then 0 else img.usedFlash
    remoteHome := !isUs s home
    inStep := false, expirePend := false, cancelPend := false, movePend := false, watch := false }

/-- Put cells at device addresses from `a` up. -/
def pokeCells (s : State) (a : Nat) (cells : List Host.Cell) : State := cells.foldl (fun t c => poke t (a + c.1) c.2) s

/-- The landed pages become the receiver's list: as many as PAGE_UNITS holds, marked with every generation held since the
PULL (04 R90, 07 R194). -/
def landPages (s : State) (k : Nat) (r : Caravan) (img : Entry) : Option (Nat × State) :=
  let n := r.pageUnits * 65536 / psize img.pageClass
  match newList s r.gid r.dst img.tenant img.kvPerTok img.pageClass img.codecSlot r.pageUnits with
  | none => none
  | some (root, s1) =>
    match allocPages s1 img.pageClass 0 false false n with
    | none => none
    | some (ids, s2) =>
      match getList s2 r.gid with
      | none => none
      | some l =>
        match fitBlocks s2 { l with pages := ids, ctxLen := img.ctxLen } with
        | none => none
        | some (l1, s3) =>
          let slot := img.codecSlot
          let base := pagesOff r.histTokens r.auxBytes
          let p := psize img.pageClass
          let fill (a : State) (ii : Nat × Nat) : State :=
            r.tags.foldl (fun b t => markPage b ii.1 slot t)
              (pokeCells a (pageAddr ii.1) (memSlice (Tbl.getD s.cve.landing k []) (base + ii.2 * p) p 0))
          let s4 := (ids.zip (List.range n)).foldl fill (putList s3 l1)
          some (root, dropTags s4 r.cslot r.tags)

/-- A page for a history or a block, where one is needed. -/
def innerPage (s : State) (needed : Bool) : Option (Nat × State) :=
  if needed then allocPage s 4 0 false true else some (noId, s)

/-- The receiver's copies and list: the history's page, the block's page, the list's root. -/
def landAll (s : State) (k : Nat) (r : Caravan) (img : Entry) : Option (Nat × Nat × Nat × State) :=
  match innerPage s true with
  | none => none
  | some (tok, s1) =>
    match innerPage s1 (r.auxBytes != 0) with
    | none => none
    | some (aux, s2) =>
      if isPages r.kind then
        match landPages s2 k r img with
        | none => none
        | some (root, s3) => some (tok, aux, root, s3)
      else some (tok, aux, img.plistRoot, s2)

/-- The history units of the entry that has come: those of its prompt and generation limit (03 R66). The OFFER tells only the
tokens held, by which R89 charged it (DEDUCED, entry 46). -/
def chargeHist (s : State) (n : Nat) (e : Entry) : State :=
  let units := max (Tbl.getD s.rte.histUnits n 0) (histUnitsOf (e.promptLen + e.maxNew))
  { s with rte := { s.rte with histUnits := Tbl.set s.rte.histUnits n units } }

/-- The commit: the entry becomes visible, the record REL_WAIT, and RECEIPT is sent, once a partner has acknowledged
(04 R90, R91; 12 R347). An entry whose deadline has passed expires at once; a loss is applied. -/
def cvnCommit (s : State) (k : Nat) (r : Caravan) : State :=
  let img := entryOfNat (leNat (landed s k 0 128))
  match landAll s k r img with
  | none => cvnAbort s k r St.noCapacity
  | some (tok, aux, root, s1) =>
    let e := commitEntry s r img (slotGenOf s r.slot) tok aux root
    let hist := wordsOf r.histTokens (landed s k 128 (4 * r.histTokens))
    let blk := auxOf (landed s k (auxOff r.histTokens) r.auxBytes)
    let x := { newSlot e with
      hist := hist.map (· % 2 ^ 18), aux := blk, mark := s.hcu.pendingRole != 0, underAlias := r.dst != me s }
    let r1 := { r with cstate := .relWait, lastTime := now s, stamp := now s, probedAt := 0, unans := 0 }
    let s2 := dropKey (chargeHist (showSlot s1 r.slot x) r.slot e) (keyIdx r.key)
    let s3 := setRec { s2 with cve := { s2.cve with landing := Tbl.del s2.cve.landing k } } k r1
    let s4 := lossAtEnd s3 r.slot r.loss e.home
    let s5 := if pastDeadline s e then terminate s4 r.slot .expired St.expired else s4
    report s5 (.send (.cvn r.src (cvnHdr r1 Cv.receipt)))

/-- The commit asks a mirroring partner for its hold first (12 R343). -/
def cvnVerified (s : State) (k : Nat) (r : Caravan) : State :=
  if mirroring s then
    sendCharge s (.commit k) 1 (if isPages r.kind && (r.durable || s.mru.cover == 2) then r.pageUnits else 0)
  else cvnCommit s k r

/-! ### Probes (04 R91, R93) -/

/-- A receiver's RECEIPT that waits for its partner's acknowledgement. -/
def receiptHeld (s : State) (r : Caravan) : Bool :=
  s.mru.held.any fun h => match h.what with
    | .send (.cvn _ m) => m.msg == Cv.receipt && m.src == r.src && m.cvnId == r.cvnId
    | _ => false

/-- Send a PROBE; the eleventh without an answer to the ten before is preceded by the event of R93. -/
def sendProbe (s : State) (k : Nat) (r : Caravan) : State :=
  if receiptHeld s r then s
  else
    let s1 := if r.unans = 10 then cvnEvent s Ec.timeout 1 0 r else s
    let r1 := { r with probes := min 255 (r.probes + 1), unans := r.unans + 1, probedAt := now s }
    sendCvn (setRec s1 k r1) r1 Cv.probe

end Sys2Proof.Machine
end

