-- ==== Sys2Proof/Machine/Queues.lean ====
section
/-! DEFINITION. Outputs, queues, fair queueing, shapers, marking, depth samples (11 R310 to R317). -/

namespace Sys2Proof.Machine

/-! ### Defaults (11 R310) -/

def isFabric (o : Nat) : Bool := o < 18
def queuesOf (o : Nat) : Nat := if isFabric o then 4096 else 8
def bufferOf (o : Nat) : Nat := if isFabric o then 8388608 else 1048576
def queueKey (o q : Nat) : Nat := 4096 * o + q
def queueReserved (o q : Nat) : Bool := if isFabric o then q == 14 || q == 15 else decide (4 ≤ q)

def resetWeight (o q : Nat) : Nat :=
  if isFabric o then
    (if q < 8 then 1024 else if q = 8 then 1 else if q = 9 || q = 10 || q = 12 then 4096 else if q = 11 then 1024
     else if q = 13 then 2048 else 256)
  else 1024

def resetStrict (o q : Nat) : Bool := if isFabric o then q == 8 else q == 1
def resetRate (o q : Nat) : Nat := if resetStrict o q then (if isFabric o then 4000 else 2000) else 0
def resetBurst (o q : Nat) : Nat := if resetStrict o q then (if isFabric o then 64 else 16) else 1

/-- A queue at reset: QLIMIT 512 KiB, MARK_DEPTH 64 KiB, no delay alarm; a shaped bucket full. -/
def resetQueue (k : Nat) : Queue :=
  let o := k / 4096
  let q := k % 4096
  { weight := resetWeight o q, newWeight := resetWeight o q, qlimit := 512, markDepth := 64, delayAlarm := 0
    strict := resetStrict o q, rate := resetRate o q, burst := resetBurst o q, newRate := resetRate o q
    newBurst := resetBurst o q, tokens := if resetRate o q = 0 then 0 else (resetBurst o q * 1024 : Nat), frames := []
    waiting := [], start := 0, last := 0, depthLast := 0, depthMax := 0, depthAvg := 0, delayLast := 0, delayMax := 0
    delayAvg := 0, drops := 0, marked := 0, alarmAt := none }

def resetOutput : Output := ⟨0, 20, 0, 1, 0, 1, 0, 0, 0⟩

def queue (s : State) (k : Nat) : Queue := Tbl.getD s.tsu.queues k (resetQueue k)
def setQueue (s : State) (k : Nat) (x : Queue) : State := { s with tsu := { s.tsu with queues := Tbl.set s.tsu.queues k x } }
def output (s : State) (o : Nat) : Output := Tbl.getD s.tsu.outputs o resetOutput
def setOutput (s : State) (o : Nat) (x : Output) : State := { s with tsu := { s.tsu with outputs := Tbl.set s.tsu.outputs o x } }

/-! ### Arrival (11 R313, R315) -/

/-- Counted bytes in a queue. -/
def depthOf (x : Queue) : Nat := x.frames.foldl (fun a f => a + f.len) 0

/-- Queues of an output that are in the table, lowest first. -/
def queuesAt (s : State) (o : Nat) : Tbl Queue := s.tsu.queues.filter fun kv => kv.1 / 4096 == o

/-- Counted bytes in an output's buffer. -/
def bufferUsed (s : State) (o : Nat) : Nat := (queuesAt s o).foldl (fun a kv => a + depthOf kv.2) 0

/-- Room for a frame in a queue and its output's buffer. -/
def hasRoom (s : State) (k : Nat) (len : Nat) : Bool :=
  decide (depthOf (queue s k) + len ≤ (queue s k).qlimit * 1024) && decide (bufferUsed s (k / 4096) + len ≤ bufferOf (k / 4096))

def mod48 (n : Nat) : Nat := n % 281474976710656

/-- The later of two 48-bit virtual times that wrap. -/
def later48 (a b : Nat) : Nat := if mod48 (a + 281474976710656 - b) < 140737488355328 then a else b

/-- Append a frame; one that arrives at an empty queue sets its start time. -/
def appendFrame (s : State) (k : Nat) (x : QFrame) : State :=
  let q := queue s k
  setQueue s k { q with frames := q.frames ++ [x], start := if q.frames.isEmpty then later48 (output s (k / 4096)).v q.last else q.start }

/-- A frame comes to a queue. `own`: of the controller's own engines, which hold it until there is room; another is
dropped where it finds none. -/
def enqueue (s : State) (o q : Nat) (own : Bool) (len : Nat) (f : Frame) : State :=
  let k := queueKey o q
  let x : QFrame := ⟨len + (output s o).overhead, now s, f⟩
  if own && !(queue s k).waiting.isEmpty then setQueue s k { queue s k with waiting := (queue s k).waiting ++ [x] }
  else if hasRoom s k x.len then appendFrame s k x
  else if own then setQueue s k { queue s k with waiting := (queue s k).waiting ++ [x] }
  else
    let s1 := setQueue s k { queue s k with drops := satBits 32 ((queue s k).drops + 1) }
    { s1 with tsu := { s1.tsu with dropped := (s1.tsu.dropped + 1) % 2 ^ 64 } }

/-- Held frames go in as far as there is room. -/
def admitHeld (k : Nat) : Nat → State → State
  | 0, s => s
  | n + 1, s =>
    match (queue s k).waiting with
    | [] => s
    | x :: rest =>
      if hasRoom s k x.len then admitHeld k n (appendFrame (setQueue s k { queue s k with waiting := rest }) k x) else s

/-! ### The choice of the next frame (11 R311, R312, R314) -/

/-- A shaper lets a frame go. -/
def shaperOpen (rate : Nat) (tokens : Int) : Bool := rate == 0 || decide (0 < tokens)

/-- Queue 8 of a fabric output and queue 1 of a PCIe one pass the output shaper. -/
def passesOutput (k : Nat) : Bool := resetStrict (k / 4096) (k % 4096)

/-- A queue with a frame that may go now. -/
def eligible (s : State) (k : Nat) (x : Queue) : Bool :=
  !x.frames.isEmpty && shaperOpen x.rate x.tokens &&
    (passesOutput k || shaperOpen (output s (k / 4096)).rate (output s (k / 4096)).tokens)

def headLen (x : Queue) : Nat := (x.frames.head?.map (·.len)).getD 0

/-- The virtual finish time of a queue's head. -/
def finishTime (v : Nat) (x : Queue) : Nat :=
  mod48 (later48 x.start (mod48 (v + 281474976710656 - 1099511627776)) + max 1 ((headLen x <<< 16) / x.weight))

/-- The next queue of an output: the lowest eligible strict one, otherwise the eligible one that finishes first. -/
def nextQueue (s : State) (o : Nat) : Option (Nat × Queue) :=
  let qs := (queuesAt s o).filter fun kv => eligible s kv.1 kv.2
  match qs.find? fun kv => kv.2.strict with
  | some kv => some kv
  | none =>
    let v := (output s o).v
    qs.foldl (fun b kv => match b with
      | none => some kv
      | some w =>
        let fw := finishTime v w.2
        let fk := finishTime v kv.2
        if fk != fw && later48 fk fw == fw then some kv else b) none

/-! ### Departure (11 R315) -/

/-- Take the head frame of a queue for sending: its shapers pay, its virtual times move, and a transfer frame that leaves
more than MARK_DEPTH behind is marked. Answers the frame. -/
def depart (s : State) (o k : Nat) (x : Queue) : Option Frame × State :=
  match x.frames with
  | [] => (none, s)
  | f :: rest =>
    let out := output s o
    let fin := finishTime out.v x
    let left := rest.foldl (fun a g => a + g.len) 0
    let mark := !f.f.mem && x.markDepth != 0 && decide (x.markDepth * 1024 < left)
    let x1 : Queue := { x with
      frames := rest, tokens := if x.rate = 0 then x.tokens else x.tokens - (f.len : Int)
      start := if x.strict then x.start else fin, last := if x.strict then x.last else fin
      marked := if mark then satBits 32 (x.marked + 1) else x.marked }
    let out1 : Output := { out with
      v := if x.strict then out.v else later48 out.v fin
      tokens := if out.rate = 0 then out.tokens else out.tokens - (f.len : Int), sent := (out.sent + f.len) % 2 ^ 64 }
    let s1 := setOutput (setQueue s k x1) o out1
    let s2 := if mark then { s1 with tsu := { s1.tsu with marked := (s1.tsu.marked + 1) % 2 ^ 64 } } else s1
    (some (if mark then { f.f with ce := true } else f.f), admitHeld k (queue s2 k).waiting.length s2)

/-! ### Refill and samples (11 R314, R317) -/

/-- Tokens after a refill with the settings that now take effect. -/
def refilled (rate newRate newBurst : Nat) (tokens : Int) : Int :=
  if newRate = 0 then 0
  else if rate = 0 then (newBurst * 1024 : Nat)
  else min (tokens + (newRate : Int)) (newBurst * 1024 : Nat)

/-- SHAPER_REFILL: at each device time divisible by 1,000 ns. -/
def refill (s : State) : State :=
  { s with tsu := { s.tsu with
    refillAt := s.tsu.refillAt + 1000
    queues := Tbl.map s.tsu.queues fun _ x => { x with
      weight := x.newWeight, rate := x.newRate, burst := x.newBurst, tokens := refilled x.rate x.newRate x.newBurst x.tokens }
    outputs := Tbl.map s.tsu.outputs fun _ x => { x with
      rate := x.newRate, burst := x.newBurst, tokens := refilled x.rate x.newRate x.newBurst x.tokens } } }

def execShaperRefill (s : State) : Host.Outcome State Fault Refusal :=
  .next <| commit s <| if now s < s.tsu.refillAt + 1000 then s else refill s

def avg16 (a v : Nat) : Nat := a - a / 16 + v / 16

/-- The sample of one queue; a delay above the alarm posts at most one event a millisecond. -/
def sampleQueue (t : Nat) (s : State) (k : Nat) : State :=
  let x := queue s k
  let depth := depthOf x
  let delay := match x.frames with
    | [] => 0
    | f :: _ => t - f.at'
  let alarm : Bool := x.delayAlarm != 0 && decide (x.delayAlarm * us < delay) && match x.alarmAt with
    | none => true
    | some a => decide (a + ms ≤ t)
  let s1 := setQueue s k { x with
    depthLast := satBits 32 depth, depthMax := max x.depthMax (satBits 32 depth), depthAvg := avg16 x.depthAvg (satBits 32 depth)
    delayLast := satBits 32 delay, delayMax := max x.delayMax (satBits 32 delay), delayAvg := avg16 x.delayAvg (satBits 32 delay)
    alarmAt := if alarm then some t else x.alarmAt }
  if alarm then post s1 Un.tsu Ek.queue Ec.threshold 2 0 ((k / 4096) <<< 16 ||| k % 4096) delay else s1

/-- DEPTH_SAMPLE: at each device time divisible by 4,000 ns. -/
def execDepthSample (s : State) : Host.Outcome State Fault Refusal :=
  .next <| commit s <|
    if now s < s.tsu.sampleAt + 4000 then s
    else (Tbl.keys s.tsu.queues).foldl (sampleQueue (now s)) { s with tsu := { s.tsu with sampleAt := s.tsu.sampleAt + 4000 } }

end Sys2Proof.Machine
end

