-- ==== Sys2Proof/Machine/TsuCmds.lean ====
section
/-! DEFINITION. Queue commands, arbiter freezes, event-queue settings, telemetry (11 R318 to R320, R331 to R338). -/

namespace Sys2Proof.Machine

/-! ### QUEUE_CONFIG (11 R318) -/

/-- The queue-setting record at index `i` of a payload whose records start at `o`: reserved fields for the KIND are zero,
values in range, in field order. -/
def configRec (s : State) (i : Nat) (x : Nat) : Except Ans Unit :=
  let at_ (lo : Nat) : Nat := inPay (8 + 24 * i + lo / 8)
  let kind := bits x 174 171
  let o := bits x 191 187
  let q := bits x 186 175
  let zero (hi lo : Nat) : Bool × Nat × Nat := (bits x hi lo == 0, St.fieldRange, at_ lo)
  do
    need (kind == 1 || kind == 2 || kind == 3) St.fieldRange (at_ 171)
    needAll ([zero 93 0] ++
      (if kind = 3 then [] else [zero 101 94]) ++
      (if kind = 2 then [(decide (4 ≤ bits x 109 102), St.fieldRange, at_ 102)] else [zero 109 102]) ++
      (if kind = 1 then
        [(bits x 110 110 == 0 || (queue s (queueKey o q)).newRate != 0, St.fieldRange, at_ 110),
         (bits x 170 155 != 0, St.fieldRange, at_ 155)]
       else [zero 110 110, zero 126 111, zero 140 127, zero 154 141, zero 170 155]) ++
      (if kind = 1 then [(decide (q < queuesOf o) && !queueReserved o q, St.fieldRange, at_ 175)]
       else if kind = 2 then [(decide (16 ≤ q), St.fieldRange, at_ 175)] else [zero 186 175]) ++
      (if kind = 2 then [zero 191 187] else [(decide (o ≤ 21), St.fieldRange, at_ 187)]))

/-- Sizes of a record, checked at step 9. -/
def configLen (i : Nat) (x : Nat) : Except Ans Unit :=
  let at_ (lo : Nat) : Nat := inPay (8 + 24 * i + lo / 8)
  if bits x 174 171 = 1 then
    needAll [(decide (bits x 140 127 ≤ 8192), St.lengthRange, at_ 127),
      (decide (4 ≤ bits x 154 141) && decide (bits x 154 141 ≤ 8192), St.lengthRange, at_ 141)]
  else .ok ()

def applyConfig (s : State) (x : Nat) : State :=
  let kind := bits x 174 171
  let o := bits x 191 187
  let q := bits x 186 175
  if kind = 1 then
    setQueue s (queueKey o q) { queue s (queueKey o q) with
      newWeight := bits x 170 155, qlimit := bits x 154 141, markDepth := bits x 140 127, delayAlarm := bits x 126 111
      strict := bits x 110 110 == 1 }
  else if kind = 2 then { s with tsu := { s.tsu with binds := Tbl.set s.tsu.binds (bits x 109 102) q } }
  else setOutput s o { output s o with overhead := bits x 101 94 }

/-- A connection has this work-ring number. -/
def hasWorkRing (s : State) (r : Nat) : Bool := s.fbe.conns.any fun kv => kv.2.ring == r && !kv.2.memory

def queueConfig : Meaning := fun c s => do
  let n := c.fld 11 0
  lenF (decide (1 ≤ n) && decide (n ≤ 2048)) 0
  c.lenIs (8 + 24 * n)
  let recs := c.recs 8 24 n
  checkEach configLen 0 recs
  c.tgtRsv 0
  c.rsv 63 12
  checkEach (configRec s) 0 recs
  need (recs.all fun x => bits x 174 171 != 2 || hasWorkRing s (bits x 109 102)) St.notFound 0
  .ok (okAns, recs.foldl applyConfig s)

def execQueueConfig (r : Nat) (d : Dma) (s : State) : Host.Outcome State Fault Refusal :=
  .next (commit s (hostCmd 0x0A01 [.operator] r d queueConfig s))

/-! ### SHAPER_SET (11 R319) -/

def shaperRec (s : State) (i : Nat) (x : Nat) : Except Ans Unit :=
  let at_ (lo : Nat) : Nat := inPay (8 + 16 * i + lo / 8)
  let o := bits x 127 123
  let q := bits x 122 111
  let level := bits x 110 110
  let rate := bits x 109 92
  needAll [(bits x 77 0 == 0, St.fieldRange, at_ 0),
    (decide (1 ≤ bits x 91 78) && decide (bits x 91 78 ≤ 8192), St.fieldRange, at_ 78),
    (decide (rate ≤ if isFabric o then 200000 else 128000), St.fieldRange, at_ 92),
    (level == 1 || rate != 0 || !(queue s (queueKey o q)).strict, St.fieldRange, at_ 92),
    (if level = 1 then q == 0 else decide (q < queuesOf o) && !queueReserved o q, St.fieldRange, at_ 111),
    (decide (o ≤ 21), St.fieldRange, at_ 123)]

def applyShaper (s : State) (x : Nat) : State :=
  let o := bits x 127 123
  if bits x 110 110 = 1 then setOutput s o { output s o with newRate := bits x 109 92, newBurst := bits x 91 78 }
  else
    let k := queueKey o (bits x 122 111)
    setQueue s k { queue s k with newRate := bits x 109 92, newBurst := bits x 91 78 }

def shaperSet : Meaning := fun c s => do
  let n := c.fld 11 0
  lenF (decide (1 ≤ n) && decide (n ≤ 2048)) 0
  c.lenIs (8 + 16 * n)
  c.tgtRsv 0
  c.rsv 63 12
  let recs := c.recs 8 16 n
  checkEach (shaperRec s) 0 recs
  .ok (okAns, recs.foldl applyShaper s)

def execShaperSet (r : Nat) (d : Dma) (s : State) : Host.Outcome State Fault Refusal :=
  .next (commit s (hostCmd 0x0A02 [.operator] r d shaperSet s))

/-! ### QUEUE_SAMPLE (11 R320) -/

def sampleRecord (x : Queue) : Bytes :=
  leBytes 32 (x.marked ||| x.drops <<< 32 ||| x.delayAvg <<< 64 ||| x.delayMax <<< 96 ||| x.delayLast <<< 128
    ||| x.depthAvg <<< 160 ||| x.depthMax <<< 192 ||| x.depthLast <<< 224)

def clearSample (x : Queue) : Queue := { x with depthMax := 0, delayMax := 0, drops := 0, marked := 0 }

def queueSample : Meaning := fun c s => do
  let o := c.fld 63 59
  let first := c.fld 58 47
  let n := c.fld 46 34
  c.lenIs 8
  lenF (decide (1 ≤ n) && decide (n ≤ 4096) && decide (first + n ≤ queuesOf o)) 34
  c.bound (32 * n)
  c.tgtRsv 0
  c.rsv 33 1
  fldF (decide (o ≤ 21)) 59
  let ks := (List.range n).map fun i => queueKey o (first + i)
  let res := ks.flatMap fun k => sampleRecord (queue s k)
  .ok (okRes res, if c.fld 0 0 = 1 then
    { s with tsu := { s.tsu with queues := Tbl.map s.tsu.queues fun k x => if ks.contains k then clearSample x else x } } else s)

def execQueueSample (r : Nat) (d : Dma) (s : State) : Host.Outcome State Fault Refusal :=
  .next (commit s (hostCmd 0x0A03 [.operator, .maintenance] r d queueSample s))

/-! ### Arbiters (11 R331 to R333) -/

/-- Identifiers of freezable arbiters. -/
def freezable (a : Nat) : Bool :=
  decide (a ≤ 3) || (decide (0x10 ≤ a) && decide (a ≤ 0x1B)) || (decide (0x20 ≤ a) && decide (a ≤ 0x31)) ||
    (decide (0x40 ≤ a) && decide (a ≤ 0x43)) || (decide (0x50 ≤ a) && decide (a ≤ 0x5F)) ||
    (decide (0x100 ≤ a) && decide (a ≤ 0x21F))

/-- The fabric egress arbiter of a pair port. -/
def pairEgress (a : Nat) : Bool := a == 0x30 || a == 0x31

/-- Paired: joined with a partner in any state of a pair (12 R340). -/
def inPair (s : State) : Bool := s.mru.st != .solo && s.mru.st != .fenced && s.mru.st != .takenOver

/-- Release a freeze; its command, where it still waits for DRAINED, ends with ST_BUSY. -/
def unfreeze (s : State) (a : Nat) : State :=
  match Tbl.get s.tsu.frozen a with
  | none => s
  | some f =>
    let s1 := { s with tsu := { s.tsu with frozen := Tbl.del s.tsu.frozen a } }
    if f.drained then s1 else finishOpt s1 f.tok St.busy 0 0

def arbFreeze : Meaning := fun c s => do
  let a := c.fld 11 2
  let act := c.fld 1 0
  c.lenIs 8
  c.tgtRsv 0
  fldF (act == 1 || act == 2) 0
  fldF (freezable a) 2
  c.rsv 31 12
  fldF (decide (1 ≤ c.fld 63 32) && decide (c.fld 63 32 ≤ 10000)) 32
  if act = 2 then .ok (okAns, unfreeze s a)
  else
    need (!(pairEgress a && inPair s)) St.busy 0
    need (!Tbl.has s.tsu.frozen a) St.busy 0
    .ok (pendAns, { s with tsu := { s.tsu with frozen := Tbl.set s.tsu.frozen a ⟨now s, c.fld 63 32, some c.tok, false⟩ } })

def execArbFreeze (r : Nat) (d : Dma) (s : State) : Host.Outcome State Fault Refusal :=
  .next (commit s (hostCmd 0x0A20 [.operator, .maintenance] r d arbFreeze s))

/-- Work granted on an arbiter's resource before its freeze is still under way: a DMA at a stack, a frame on a port's line, a read
of a flash channel, a pass on a grid. -/
def arbBusy (s : State) (a : Nat) : Bool :=
  if decide (0x10 ≤ a) && decide (a ≤ 0x1B) then
    s.cax.threads.any fun kv => kv.2.dmas.any fun d => !frozenSince s a d.at' && (stacksOf s (dmaGranules d)).contains (a - 0x10)
  else if decide (0x50 ≤ a) && decide (a ≤ 0x5F) then
    s.tfm.reads.any fun kv => !kv.2.got && !kv.2.redirected && kv.2.die / 16 == a - 0x50 && !frozenSince s a kv.2.at'
  else if decide (0x20 ≤ a) && decide (a ≤ 0x31) then decide (now s < (output s (a - 0x20)).freeAt)
  else if decide (0x100 ≤ a) && a % 3 == 1 then
    s.cax.threads.any fun kv => kv.1 / 128 % 96 == (a - 0x100) / 3 && !kv.2.passes.isEmpty
  else false

/-- DRAINED: the granted work has completed; RESULT0 is core cycles, two to the nanosecond. -/
def execDrained (arb : Nat) (s : State) : Host.Outcome State Fault Refusal :=
  .next <| commit s <|
    match Tbl.get s.tsu.frozen arb with
    | none => s
    | some f =>
      if f.drained || arbBusy s arb then s
      else
        let s1 := { s with tsu := { s.tsu with frozen := Tbl.set s.tsu.frozen arb { f with drained := true, tok := none } } }
        finishOpt s1 f.tok St.ok (2 * (now s - f.since)) 0

/-- HOLD_EXPIRY: the freeze has lasted its HOLD. -/
def execHoldExpiry (arb : Nat) (s : State) : Host.Outcome State Fault Refusal :=
  .next <| commit s <|
    match Tbl.get s.tsu.frozen arb with
    | none => s
    | some f => if now s < f.since + f.hold * ms then s else unfreeze s arb

/-- Every freeze is released (11 R331: at input power failure). -/
def unfreezeAll (s : State) : State := (Tbl.keys s.tsu.frozen).foldl unfreeze s

/-! ### Event queues (11 R337) -/

/-- A queue of host software that is not configured. -/
def emptyEvq : EvQueue where
  entries := []
  enable := false
  notify := 0
  spill := 0
  unitMask := 0
  minSev := 0
  irqSev := 0
  irqGap := 0
  vec := 0
  port := 0
  lost := [0, 0, 0, 0]
  popIgnored := 0
  latch := none
  shown := []
  irqDue := false
  irqAt := none

def evqOf (s : State) (q : Nat) : EvQueue := Tbl.getD s.tsu.evq q (if q = 0 then evq0 else emptyEvq)

/-- Drop the oldest entries down to `n`, each counted as lost. -/
def evShrink (n : Nat) (q : EvQueue) : EvQueue :=
  let k := q.entries.length - n
  let gone := q.entries.take k
  gone.foldl (fun a e => evLose a e.sev) { q with entries := q.entries.drop k }

/-- The event-spill space of the floor holds a queue's SPILL in place of its old one. -/
def spillFits (s : State) (old new : Nat) : Bool := decide (new ≤ old) || serviceFits s (32 * 1024 * (new - old))

def evqConfig : Meaning := fun c s => do
  let k := c.fld 2 0
  let spill := c.fld 191 181
  c.lenIs 32
  lenF (decide (spill ≤ 1024)) 181
  c.tgtRsv 0
  c.rsv 142 3
  let q := evqOf s k
  if k = 0 then
    need c.isFw St.privilege 0
    need (spillFits s q.spill spill) St.noCapacity 0
    let q1 : EvQueue := { q with spill := spill }
    .ok (okAns, { s with tsu := { s.tsu with evq := Tbl.set s.tsu.evq 0 (evShrink (evCap q1) q1) } })
  else
    let enable := c.fld 143 143 == 1
    let p := c.fld 145 144
    fldF (portMode s p == 1 || portMode s p == 2) 144
    fldF (portMode s p != 2 || decide (c.fld 154 146 ≤ 511)) 146
    fldF (decide (c.fld 164 155 ≤ 1000)) 155
    fldF (portMode s p != 1 || c.fld 255 192 % 4 == 0) 192
    need (spillFits s q.spill spill) St.noCapacity 0
    let q1 : EvQueue := { q with
      enable := enable, notify := c.fld 255 192, spill := spill, unitMask := c.fld 180 169, minSev := c.fld 168 167
      irqSev := c.fld 166 165, irqGap := c.fld 164 155, vec := c.fld 154 146, port := p
      irqDue := if enable then q.irqDue else false }
    .ok (okAns, { s with tsu := { s.tsu with evq := Tbl.set s.tsu.evq k (evShrink (if enable then evCap q1 else 0) q1) } })

def execEvqConfig (r : Nat) (d : Dma) (s : State) : Host.Outcome State Fault Refusal :=
  .next (commit s (hostCmd 0x0A30 [.operator] r d evqConfig s))

/-- EVENT_IRQ_GAP: the gap since a queue's last interrupt is over; the due interrupt is sent. -/
def execEventIrqGap (q : Nat) (s : State) : Host.Outcome State Fault Refusal :=
  .next <| commit s <|
    match Tbl.get s.tsu.evq q with
    | none => s
    | some x =>
      let overNow : Bool := match x.irqAt with
        | none => true
        | some t => decide (t + x.irqGap * us ≤ now s)
      if x.irqDue && overNow then evIrq s q x else s

/-! ### Telemetry (11 R338) -/

def lostTotal (s : State) (sev : Nat) : Nat := s.tsu.evq.foldl (fun a kv => a + kv.2.lost.getD sev 0) 0

def telemSnapshot (s : State) : Bytes :=
  leBytes 8 (now s) ++ leBytes 4 s.tsu.evSeq ++ ([0, 1, 2, 3].flatMap fun v => leBytes 4 (lostTotal s v)) ++
    leBytes 4 s.tsu.softErrors ++ leBytes 4 s.tsu.hardErrors ++ leBytes 8 s.tsu.searches ++ leBytes 8 s.tsu.updates ++
    leBytes 8 s.tsu.voidGrants ++ leBytes 4 s.tsu.frozen.length ++
    ((List.range 18).flatMap fun o => leBytes 8 (output s o).sent) ++ leBytes 8 s.tsu.dropped ++ leBytes 8 s.tsu.marked ++ zeros 32

def telemRead : Meaning := fun c s => do
  c.lenIs 0
  c.bound 256
  c.tgtRsv 0
  .ok (okRes (telemSnapshot s), s)

def execTelemRead (r : Nat) (d : Dma) (s : State) : Host.Outcome State Fault Refusal :=
  .next (commit s (hostCmd 0x0E01 [.operator, .maintenance] r d telemRead s))

end Sys2Proof.Machine
end

