-- ==== Sys2Proof/Machine/Fabric.lean ====
section
/-! DEFINITION. What both fabric modes share: ports, the spread table, the erg map, frames and their discard, epochs,
descriptors that complete, connections that end (10 R271 to R282, R292, R298, R305, R306; 11 R316). -/

namespace Sys2Proof.Machine

/-! ### Ports (10 R272, R274, R306; 11 R316) -/

/-- A port's settings at boot. -/
def bootPort (s : State) : FPort where
  st := if me s = 0xFFFE then .disabled else .training
  upperHalf := false
  badLanes := 0
  mac := 0
  gateway := 0
  vlan := 0
  tagged := false
  degradeSym := 4096
  degradeUnc := 4
  modes := 3
  enable := true
  fecCorr := 0
  fecUnc := 0
  drops := 0
  ceMarked := 0
  peerNode := 0xFFFF
  peerPort := 0
  peerMac := 0
  retrainAt := none
  pauses := 0
  loopTok := none
  loopUntil := 0
  loopLanes := 0

def portAt (s : State) (p : Nat) : FPort := Tbl.getD s.fbe.ports p (bootPort s)

/-- A port that carries frames. -/
def linked (s : State) (p : Nat) : Bool := (portAt s p).st == .up || (portAt s p).st == .degraded

/-- Port 16 or 17 while the mirror unit has them. -/
def mirrorPort (s : State) (p : Nat) : Bool := s.mir.portsMirror && (p == 16 || p == 17)

/-- The ports of the transfer set. -/
def transferSet (s : State) : List Nat :=
  (List.range 18).filter fun p => linked s p && bit (portAt s p).modes 1 && (portAt s p).gateway != 0 && !mirrorPort s p

/-- The spread table: each port as often as its weight, to 64 entries. -/
def spreadTable (s : State) : List Nat :=
  let q := (transferSet s).flatMap fun p => if (portAt s p).st = .up then [p, p] else [p]
  if q.isEmpty then [] else (List.range 64).map fun i => q.getD (i % q.length) 0

def respread (s : State) : State := { s with tsu := { s.tsu with spread := spreadTable s } }

/-- Change a port; the spread table follows at once. -/
def setPort (s : State) (p : Nat) (x : FPort) : State :=
  respread { s with fbe := { s.fbe with ports := Tbl.set s.fbe.ports p x } }

def objPort (p : Nat) : Nat := p
def objPcie (p : Nat) : Nat := 0x100 ||| p

/-- A port's state changes; PORT_STATE is set when it leaves UP or enters DEGRADED. -/
def movePort (s : State) (p : Nat) (x : FPort) : State :=
  let old := (portAt s p).st
  let s1 := setPort s p x
  if (old == .up && x.st != .up) || (x.st == .degraded && old != .degraded) then setFlag s1 Fl.portState else s1

/-- A frame discarded under R278 is counted. -/
def dropFrame (s : State) (p : Nat) : State :=
  setPort s p { portAt s p with drops := satBits 32 ((portAt s p).drops + 1) }

/-! ### The erg map (10 R280 to R282) -/

/-- This controller's domain index, where the current map makes it a member. -/
def myDomain (s : State) : Option Nat :=
  match nodeRec s (me s) with
  | some r => if r.inDomain then some r.domain else none
  | none => none

/-- The record of a domain index, ignored once the current map no longer lists its node with that index. -/
def ergFor (s : State) (d : Nat) : Option ErgRec :=
  s.fbe.erg.find? fun r => r.domain == d && match nodeRec s r.node with
    | some n => n.inDomain && n.domain == r.domain
    | none => false

def ergDomain (a : Nat) : Nat := a / 2 ^ 46
def ergAddr (a : Nat) : Nat := a % 2 ^ 46

/-- First address past what memory mode reaches. -/
def ergTop : Nat := 0x278000000000

/-- A request may leave: record, export, tenant, right (0 read, 1 write, 2 atomic). -/
def ergAllows (s : State) (a n tenant right : Nat) : Bool :=
  decide (a < 2 ^ 52) && match ergFor s (ergDomain a) with
    | none => false
    | some r => decide (r.base ≤ ergAddr a) && decide (ergAddr a + n ≤ r.base + r.len) && (r.tenant == 0 || r.tenant == tenant)
        && bit r.rights right

/-- A port that memory mode may use now. -/
def memPort (s : State) (p : Nat) : Bool := decide (p < 18) && linked s p && bit (portAt s p).modes 0 && !mirrorPort s p

/-- The egress port: the route, or its alternate while the route carries no frames. -/
def pickRoute (s : State) (r : Nat × Nat) : Option Nat :=
  if memPort s r.1 then some r.1 else if memPort s r.2 then some r.2 else none

/-! ### Epochs on the fabric (04 R95, R103) -/

/-- A bounce that carries an older epoch is retried until this controller's own previous epoch's drain timeout has run;
another is final (04 R105). -/
def bounceRetried (s : State) (own theirs : Nat) : Bool := newer own theirs && decide (now s < s.cve.drainEnd)

/-! ### Frames (10 R276 to R278) -/

def Fo.mwrite : Nat := 0x01
def Fo.mread : Nat := 0x02
def Fo.madd : Nat := 0x03
def Fo.mmin : Nat := 0x04
def Fo.mmax : Nat := 0x05
def Fo.mcas : Nat := 0x06
def Fo.mresp : Nat := 0x07
def Fo.twrite : Nat := 0x10
def Fo.tread : Nat := 0x11
def Fo.treadResp : Nat := 0x12
def Fo.tsend : Nat := 0x13
def Fo.openMsg : Nat := 0x14
def Fo.openAck : Nat := 0x15
def Fo.close : Nat := 0x16
def Fo.ack : Nat := 0x18
def Fo.nak : Nat := 0x19
def Fo.discover : Nat := 0x1C

def Nr.reasm : Nat := 1
def Nr.seqGap : Nat := 2
def Nr.noContext : Nat := 3
def Nr.final : Nat := 4
def Nr.wait : Nat := 5

/-- A header with nothing in it. -/
def blankFrame : Frame where
  port := 0
  mem := false
  bad := false
  ce := false
  addr := 0
  key := 0
  seq := 0
  epoch := 0
  dst := 0
  src := 0
  conn := 0
  off := 0
  len := 0
  op := 0
  last := false
  ordered := false
  signed := false
  size64 := false
  ver := 1
  tc := 0
  reason := 0
  hops := 0
  status := 0
  pay := []

def isAtomic (op : Nat) : Bool := decide (Fo.madd ≤ op) && decide (op ≤ Fo.mcas)
def isControl (op : Nat) : Bool := decide (Fo.openMsg ≤ op)
def isMemReq (op : Nat) : Bool := decide (Fo.mwrite ≤ op) && decide (op ≤ Fo.mcas)

/-- An operation of the frame's mode. -/
def opOk (f : Frame) : Bool :=
  (if f.mem then decide (Fo.mwrite ≤ f.op) && decide (f.op ≤ Fo.mresp) else decide (Fo.twrite ≤ f.op) && decide (f.op ≤ Fo.tsend))
    || (decide (Fo.openMsg ≤ f.op) && decide (f.op ≤ Fo.close)) || f.op == Fo.ack || f.op == Fo.nak

/-- The payload length fits the operation. -/
def lenOk (f : Frame) : Bool :=
  if f.op = Fo.mwrite then decide (1 ≤ f.len)
  else if f.op = Fo.mread then f.len == 8 && decide (1 ≤ leNat f.pay) && decide (leNat f.pay ≤ 4096)
  else if f.op = Fo.tread then f.len == 8 && decide (1 ≤ leNat f.pay) && decide (leNat f.pay ≤ 1048576)
  else if isAtomic f.op then f.len == 16
  else if f.op = Fo.ack || f.op = Fo.nak then f.len == 0
  else if isControl f.op then f.len == 16
  else true

/-- Fields that the operation does not use are zero. -/
def unusedOk (f : Frame) : Bool :=
  (f.status == 0 || f.op == Fo.mresp || f.op == Fo.treadResp || f.op == Fo.openAck || (f.op == Fo.nak && f.reason == Nr.final)) &&
  (!f.ordered || f.op == Fo.twrite) && (!f.signed || f.op == Fo.mmin || f.op == Fo.mmax) && (!f.size64 || isAtomic f.op) &&
  (!f.last || !isControl f.op) && (f.reason == 0) == (f.op != Fo.nak) && decide (f.reason ≤ 5) &&
  (if f.mem then f.conn == 0 && f.off == 0 && decide (f.dst < 64) && decide (f.src < 64) && decide (f.hops ≤ 7)
    else f.hops == 0) &&
  (if isMemReq f.op then decide (f.addr < 2 ^ 52)
    else f.addr == 0 || f.op == Fo.twrite || f.op == Fo.tread || f.op == Fo.ack || f.op == Fo.nak) &&
  (if isMemReq f.op || f.op == Fo.mresp then decide (f.key < 2 ^ 14)
    else f.key == 0 || f.op == Fo.twrite || f.op == Fo.tread || f.op == Fo.nak) &&
  (f.off == 0 || !(isControl f.op || f.op == Fo.tread))

/-- A frame that R278 does not discard. -/
def frameOk (f : Frame) : Bool :=
  !f.bad && f.ver == 1 && opOk f && decide (f.len ≤ 4096) && decide (f.off * 256 + f.len ≤ 1048576) && f.pay.length == f.len &&
    lenOk f && unusedOk f

/-- Counted length on the wire: Ethernet, and IPv6 and UDP with the tag for transfer mode, the header, the FCS. -/
def wireLen (s : State) (p : Nat) (f : Frame) : Nat :=
  f.pay.length + if f.mem then 50 else if (portAt s p).tagged then 102 else 98

/-- Send a frame on a port through one of its queues. `own`: of this controller's engines. -/
def sendFrame (s : State) (p q : Nat) (own : Bool) (f : Frame) : State :=
  enqueue s p q own (wireLen s p f) { f with port := p }

/-- The queue of a memory-mode frame. -/
def memQueue (f : Frame) : Nat := if isControl f.op then 8 else f.tc

/-- A memory-mode frame toward a domain index by this controller's own route; an answer goes back where no record says. -/
def sendMem (s : State) (back : Option Nat) (f : Frame) : State :=
  let p : Option Nat := match ergFor s f.dst with
    | some r => pickRoute s (r.route, r.altRoute)
    | none => back.bind fun p => if memPort s p then some p else none
  match p with
  | some p => sendFrame s p (memQueue f) true f
  | none => s

/-- Relay a frame of another destination: HOPS rises, at most to 7; neither epoch nor key is looked at. -/
def relay (s : State) (f : Frame) : State :=
  match (ergFor s f.dst).bind fun r => pickRoute s (r.route, r.altRoute) with
  | none => s
  | some p => if 7 ≤ f.hops then dropFrame s f.port else sendFrame s p (memQueue f) false { f with hops := f.hops + 1 }

/-- A frame of ordinary traffic that is taken: R278 does not discard it, and its port is not one of the two that carry only
mirror traffic and heartbeats (01 R19). -/
def ordinary (s : State) (f : Frame) : Bool := frameOk f && !mirrorPort s f.port

/-- Frames are taken once boot is done (14 R397), with power sound, on a port that carries them. -/
def fabricOpen (s : State) (p : Nat) : Bool :=
  portsOpen s && linked s p

/-! ### Connections -/

/-- The ring number of a connection that has none: one the peer opened. -/
def noRing : Nat := 0xFFFF

def getConn (s : State) (i : Nat) : Option Conn := Tbl.get s.fbe.conns i
def setConn (s : State) (i : Nat) (c : Conn) : State := { s with fbe := { s.fbe with conns := Tbl.set s.fbe.conns i c } }
def updConn (s : State) (i : Nat) (f : Conn → Conn) : State := { s with fbe := { s.fbe with conns := Tbl.upd s.fbe.conns i f } }

/-- The connection of a work ring. -/
def connOfRing (s : State) (r : Nat) : Option (Nat × Conn) := s.fbe.conns.find? fun kv => kv.2.ring == r

/-- The egress queue of a connection: bound by its ring number, else 16 + index mod 4,080. -/
def connQueue (s : State) (i : Nat) (c : Conn) : Nat := Tbl.getD s.tsu.binds c.ring (16 + i % 4080)

/-- The port of a connection's path; none while the transfer set is empty. -/
def pathPort (s : State) (i path : Nat) : Option Nat := s.tsu.spread[(i * 8 + path) % 64]?

/-- Nodes this controller answers for (12 R351). -/
def toUs (s : State) (n : Nat) : Bool := isUs s n

/-- A transfer frame of a connection on one of its paths. -/
def sendOn (s : State) (i : Nat) (c : Conn) (path q : Nat) (f : Frame) : State :=
  match pathPort s i path with
  | some p => sendFrame s p q true { f with dst := c.peer, src := me s, conn := c.peerIdx, tc := c.tc }
  | none => s

/-- The setup bytes of OPEN, OPEN_ACK and CLOSE (DESIGN CHOICE, entry 8): the sender's connection index, tenant, window,
MAX_PKT, mode. -/
def setupBytes (i tenant window maxPkt mode : Nat) : Bytes :=
  leBytes 16 (i ||| tenant <<< 16 ||| window <<< 32 ||| maxPkt <<< 48 ||| mode <<< 56)

/-- ECHO_MARK and ECHO_BYTES. -/
def echoOf (c : Conn) : Nat := c.rxBytes % 2 ^ 32 ||| (c.rxMarked % 2 ^ 32) <<< 32

/-- The highest MSN released. -/
def releasedMsn (c : Conn) : Nat := (c.rxBase + 2 ^ 32 - 1) % 2 ^ 32

def controlFrame (s : State) (op : Nat) : Frame := { blankFrame with op := op, epoch := epochNum s }

/-- A link-control frame of a connection, in queue 8 of its first path's port. -/
def sendControl (s : State) (i : Nat) (c : Conn) (f : Frame) : State := sendOn s i c 0 8 f

/-! ### Descriptors and connections that end (10 R291, R292, R298) -/

/-! Work descriptors (10 R290) -/

def wOp (h : Nat) : Nat := bits h 181 178
def wLen (h : Nat) : Nat := bits h 223 203
def wCid (h : Nat) : Nat := bits h 202 187
def wLocal (h : Nat) : Nat := bits h 511 448
def wRemote (h : Nat) : Nat := bits h 447 384

def workTok (r : Nat) (R : Ring) (h : Nat) : Tok := ⟨r, wCid h, (R.head + 1) % R.sqEntries, R.owner, bit h 173, 0⟩

/-- The descriptor that waits to start on a work ring completes unstarted. -/
def endWaiting (s : State) (r st : Nat) : State :=
  match Tbl.get s.hcu.rings r with
  | none => s
  | some R =>
    match R.waiting with
    | none => s
    | some h =>
      finish (setRing s r { R with waiting := none, outstanding := R.outstanding ++ [wCid h] }) (workTok r (unfetched R) h) st 0 0

/-- A fetched descriptor of a ring waits to start. -/
def waitsToStart (s : State) (r : Nat) : Bool := ((Tbl.get s.hcu.rings r).bind fun R => R.waiting).isSome

/-- A closing connection with nothing in flight: CLOSE is sent, the ring goes, the command completes. -/
def settleConn (s : State) (i : Nat) : State :=
  match getConn s i with
  | none => s
  | some c =>
    if c.st != .closing || !c.sent.isEmpty || c.tok.isSome || waitsToStart s c.ring then s
    else
      let s1 := if c.memory then s
        else sendControl s i c { controlFrame s Fo.close with pay := setupBytes i c.tenant c.window c.maxPkt 1, len := 16 }
      let s2 := destroyRing { s1 with
        fbe := { s1.fbe with conns := Tbl.del s1.fbe.conns i }, tsu := { s1.tsu with binds := Tbl.del s1.tsu.binds c.ring } } c.ring
      finishOpt s2 c.closeTok St.ok 0 0

/-- Remove message `num` of a connection and complete its descriptor. -/
def endMsg (s : State) (i num st r0 : Nat) : State :=
  match getConn s i with
  | none => s
  | some c =>
    match c.sent.find? fun m => m.num == num with
    | none => s
    | some m =>
      let s1 := setConn s i { c with sent := c.sent.filter fun x => x.num != num }
      settleEpochs (settleConn (finishOpt s1 m.tok st r0 0) i)

/-- The connection fails: everything on it completes with ST_PEER_LOST, and a severity-1 event is posted. -/
def failConn (s : State) (i : Nat) : State :=
  match getConn s i with
  | none => s
  | some c =>
    let s1 := setConn s i { c with st := if c.st = .closing then .closing else .failed, rx := [] }
    let s2 := endWaiting (c.sent.foldl (fun a m => endMsg a i m.num St.peerLost 0) s1) c.ring St.peerLost
    settleConn (post s2 Un.fbe Ek.key Ec.loss 1 St.peerLost (objKey c.peer i 0) 0) i

/-! ### Completion of memory-mode requests (10 R284, R286, R291) -/

/-- A PCIe completion code for a request's status: data, poisoned, Completer Abort. -/
def tlpCode (st : Nat) : Nat := if st = St.ok then 0 else if st = St.dataCheck then 1 else 2

def aperKey (p tag : Nat) : Nat := p * 2 ^ 20 + tag

/-- Answer a non-posted aperture request, unless its 10 ms have passed. -/
def answerTlp (s : State) (p tag st : Nat) (bs : Bytes) : State :=
  if Tbl.has s.fbe.aper (aperKey p tag) then
    emit { s with fbe := { s.fbe with aper := Tbl.del s.fbe.aper (aperKey p tag) } }
      (.tlp p tag (tlpCode st) (if st = St.ok then bs else []))
  else s

/-- A failed aperture write is counted, with an event naming the port. -/
def aperWriteFails (s : State) (p st addr : Nat) : State :=
  post { s with fbe := { s.fbe with aperBad := Tbl.set s.fbe.aperBad p ((Tbl.getD s.fbe.aperBad p 0 + 1) % 2 ^ 32) } }
    Un.fbe Ek.port Ec.refused 2 st (objPcie p) addr

/-- Data arrives in LOCAL: its status, and the state after it. -/
def storeLocal (s : State) (a : Nat) (bs : Bytes) : Nat × State :=
  let st := rangeWrite s a bs.length
  if writesDead s then (St.ok, s)
  else if st = St.ok then (match devWrite s a bs with
    | some s1 => (St.ok, s1)
    | none => (St.noCapacity, s))
  else (st, s)

/-- A part of a descriptor is answered: its bytes count, its failure is the descriptor's, and the last part completes it
(RESULT0: the bytes moved, or an atomic's old value). -/
def endPart (s : State) (i num st r0 : Nat) : State :=
  match getConn s i with
  | none => s
  | some c =>
    match c.sent.find? fun m => m.num == num with
    | none => s
    | some m =>
      let m1 := { m with
        parts := m.parts - 1, st := if m.st = St.ok then st else m.st
        moved := m.moved + if st = St.ok then r0 else 0 }
      let s1 := setConn s i { c with sent := c.sent.map fun x => if x.num = num then m1 else x }
      if m1.parts = 0 then endMsg s1 i num m1.st m1.moved else s1

/-- A memory-mode request ends: with `bs`, what it read or the old value. -/
def endMemReq (s : State) (m : OutMsg) (st : Nat) (bs : Bytes) : State :=
  match m.aper, m.parent with
  | some (p, tag), _ =>
    if m.op = Fo.mwrite then (if st = St.ok then s else aperWriteFails s p st m.addr) else answerTlp s p tag st bs
  | none, some (i, num) =>
    let (st1, s1) := if st = St.ok && m.op != Fo.mwrite && !(isAtomic m.op && m.loc == 0) then storeLocal s m.loc bs else (st, s)
    endPart s1 i num st1 (if isAtomic m.op then leNat bs else m.len)
  | none, none => s

def getSeqOut (s : State) (d : Nat) : SeqOut := Tbl.getD s.fbe.seqOut d ⟨0, false, [], 0, 0⟩
def setSeqOut (s : State) (d : Nat) (q : SeqOut) : State := { s with fbe := { s.fbe with seqOut := Tbl.set s.fbe.seqOut d q } }

/-- Every request toward a destination ends with a status, and the next opens a new sequence. -/
def failSeq (s : State) (d st : Nat) : State :=
  let q := getSeqOut s d
  let s1 := setSeqOut s d { q with opened := false, reqs := [], rounds := 0 }
  settleEpochs (q.reqs.foldl (fun a m => endMemReq a m st []) s1)

/-- An epoch has become current (04 R95): connections and memory requests toward a node that it marks LOST fail. -/
def failLost (s : State) : State :=
  let s1 := (s.fbe.conns.filter fun kv => !kv.2.memory && kv.2.st != .failed && markedLost s kv.2.peer).foldl
    (fun a kv => failConn a kv.1) s
  (s1.fbe.seqOut.filter fun kv => !kv.2.reqs.isEmpty && s.fbe.erg.any fun r => r.domain == kv.1 && markedLost s r.node).foldl
    (fun a kv => failSeq a kv.1 St.peerLost) s1

/-- Slots of an engine in use: transfer messages, and memory-mode requests, whose tag names it (10 R276, R279). -/
def engineLoad (s : State) (e : Nat) : Nat :=
  (s.fbe.conns.foldl (fun a kv => a + if kv.2.engine = e && !kv.2.memory then kv.2.sent.length else 0) 0)
    + s.fbe.seqOut.foldl (fun a kv => a + (kv.2.reqs.filter fun m => bits m.key 13 9 == e).length) 0
    + (s.fbe.selfWaits.filter fun m => bits m.key 13 9 == e).length

end Sys2Proof.Machine
end

