-- ==== Sys2Proof/Machine/PortEvents.lean ====
section
/-! DEFINITION. What happens to fabric ports and to device time (10 R271 to R275, R303, R304; 16 R435). -/

namespace Sys2Proof.Machine

/-! ### Links (10 R272, R273) -/

/-- A port is up in the boot phases after its rails, and while the controller runs. -/
def portsPowered (s : State) : Bool := clocked s && !linksOff s

/-- The sender's own DISCOVER (DESIGN CHOICE, entry 8: node, port, MAC in this order). -/
def discoverFrame (s : State) (p : Nat) : Frame :=
  { blankFrame with
    op := Fo.discover, src := me s, epoch := epochNum s, len := 9, pay := leBytes 2 (me s) ++ leBytes 1 p ++ leBytes 6 (portAt s p).mac }

/-- Lanes 0 to 3 and 4 to 7 that a link may come up on: with lanes found bad in one half, only the other (10 R273). -/
def halfFits (x : FPort) (four upper : Bool) : Bool :=
  if x.st != .training || x.badLanes = 0 then true
  else four && (if upper then x.badLanes / 16 == 0 else x.badLanes % 16 == 0)

/-- LINK_UP: training ends at eight lanes, or at four, which posts the event of R273; the port sends DISCOVER. -/
def execLinkUp (port : Nat) (four upper : Bool) (s : State) : Host.Outcome State Fault Refusal :=
  .next <| commit s <|
    let x := portAt s port
    if port > 17 || !portsPowered s || !(x.st == .training || (x.st == .down && x.enable)) || !halfFits x four upper then s
    else
      let s1 := movePort s port { x with st := if four then .degraded else .up, upperHalf := four && upper, peerNode := 0xFFFF }
      let s2 := if four then post s1 Un.fbe Ek.port Ec.stateChange 2 0 (objPort port) x.badLanes else s1
      sendFrame s2 port 8 true (discoverFrame s2 port)

/-- Lanes found bad: both halves down the port; one half of an UP port has it train again on the other. -/
def judgeLanes (s : State) (p bad : Nat) : State :=
  let x := { portAt s p with badLanes := bad }
  if bad % 16 != 0 && bad / 16 != 0 then
    post (movePort s p { x with st := .down, peerNode := 0xFFFF }) Un.fbe Ek.port Ec.stateChange 1 0 (objPort p) bad
  else if bad != 0 && x.st = .up then movePort s p { x with st := .training, peerNode := 0xFFFF }
  else setPort s p x

/-- LANE_LOCK_LOSS. -/
def execLaneLockLoss (port lane : Nat) (s : State) : Host.Outcome State Fault Refusal :=
  .next <| commit s <|
    if port > 17 || lane > 7 || !linked s port then s else judgeLanes s port ((portAt s port).badLanes ||| 2 ^ lane)

/-- Corrected symbols that injections add on a lane in a window (12 R363). -/
def injectedSyms (s : State) (p lane : Nat) : Nat :=
  s.mir.inject.foldl (fun a x => a + if x.kind = 3 && x.addr % 32 = p && x.addr / 256 % 8 = lane && (match x.until' with
    | some t => decide (now s ≤ t)
    | none => false) then x.left else 0) 0

/-- FEC_WINDOW: at the end of each 10 ms window lanes past DEGRADE_SYM are bad; too many uncorrectable codewords without a
bad lane have the port train again once, and take it down when they come again within 1 s. -/
def execFecWindow (port : Nat) (corr : List Nat) (unc : Nat) (s : State) : Host.Outcome State Fault Refusal :=
  .next <| commit s <|
    if port > 17 || !linked s port then s
    else
      let x := portAt s port
      let lanes := (List.range 8).map fun l => corr.getD l 0 + injectedSyms s port l
      let x1 := { x with fecCorr := (x.fecCorr + lanes.foldl (· + ·) 0) % 2 ^ 64, fecUnc := satBits 32 (x.fecUnc + unc) }
      let s1 := setPort { s with mir := { s.mir with inject := s.mir.inject.filter fun i => match i.until' with
        | some t => decide (now s ≤ t)
        | none => true } } port x1
      let bad := (List.range 8).foldl (fun b l => if x.degradeSym < lanes.getD l 0 then b ||| 2 ^ l else b) x.badLanes
      if bad != 0 then judgeLanes s1 port bad
      else if unc ≤ x.degradeUnc then s1
      else match x.retrainAt with
        | some t =>
          if now s ≤ t + 1000 * ms then movePort s1 port { x1 with st := .down, peerNode := 0xFFFF, retrainAt := none }
          else movePort s1 port { x1 with st := .training, peerNode := 0xFFFF, retrainAt := some (now s) }
        | none => movePort s1 port { x1 with st := .training, peerNode := 0xFFFF, retrainAt := some (now s) }

/-- DISCOVER: the peer's node, port and MAC are learned. -/
def execDiscover (port node peerPort mac : Nat) (s : State) : Host.Outcome State Fault Refusal :=
  .next <| commit s <|
    if port > 17 || !linked s port then s
    else setPort s port { portAt s port with peerNode := node, peerPort := peerPort, peerMac := mac }

/-- PAUSE and priority flow control frames are discarded and counted. -/
def execPauseFrame (port : Nat) (s : State) : Host.Outcome State Fault Refusal :=
  .next <| commit s <|
    if port > 17 || !linked s port then s else setPort s port { portAt s port with pauses := (portAt s port).pauses + 1 }

/-- Neighbour discovery for this node's address, or for the one it has taken over, is answered on every port that carries
transfer mode (10 R275, R306; 12 R351). -/
def execNeighborDiscovery (port node : Nat) (s : State) : Host.Outcome State Fault Refusal :=
  .next <| commit s <|
    if port ≤ 17 && linked s port && bit (portAt s port).modes 1 && !mirrorPort s port && isUs s node && s.mru.st != .fenced then
      emit s (.advert port node) else s

/-! ### Device time (10 R303, R304; 16 R435) -/

def clockEvent (s : State) (cause sev arg : Nat) : State := post s Un.fbe Ek.device cause sev 0 (me s <<< 48) arg

/-- PTP_SYNC: the first one after a cold start steps device time forward once, never back; after it the offset is slewed
away. -/
def execPtpSync (master : Nat) (s : State) : Host.Outcome State Fault Refusal :=
  .next <| commit s <|
    if !s.clk.synced then
      { s with clk := { s.clk with
        now := max (now s) master, synced := true, bootSync := true, holdover := false
        offset := min 0 ((master : Int) - (now s : Int)), offsetSince := none } }
    else
      let off : Int := (master : Int) - (now s : Int)
      let far : Bool := decide (1000 < off.natAbs)
      { s with clk := { s.clk with
        bootSync := true, offset := off, holdover := false, alarmed := s.clk.alarmed && far
        offsetSince := if far then some (s.clk.offsetSince.getD (now s)) else none } }

/-- PTP_OFFSET_ALARM: an offset above 1 µs has lasted 1 s. -/
def execPtpOffsetAlarm (s : State) : Host.Outcome State Fault Refusal :=
  .next <| commit s <|
    match s.clk.offsetSince with
    | none => s
    | some t =>
      if s.clk.alarmed || now s < t + 1000 * ms then s
      else clockEvent { s with clk := { s.clk with alarmed := true } } Ec.threshold 1 s.clk.offset.natAbs

/-- HOLDOVER: with no master, the reference holds device time over. -/
def execHoldover (s : State) : Host.Outcome State Fault Refusal :=
  .next <| commit s <|
    if s.clk.holdover || !s.sbu.bootDone then s
    else clockEvent { s with clk := { s.clk with holdover := true, holdoverAt := now s } } Ec.loss 2 0

/-- HOLDOVER_REPEAT: every 10 s while unsynchronized. -/
def execHoldoverRepeat (s : State) : Host.Outcome State Fault Refusal :=
  .next <| commit s <|
    if s.clk.synced || !s.sbu.bootDone || now s < s.clk.holdoverAt + 10000 * ms then s
    else clockEvent { s with clk := { s.clk with holdoverAt := now s } } Ec.loss 2 0

/-- PPS_OUT: high for 100 µs at each second of device time, from BOOT_DONE on. -/
def execPpsOut (s : State) : Host.Outcome State Fault Refusal :=
  .next <| commit s <|
    let second := now s / 1000000000 * 1000000000
    if s.sbu.bootDone && !s.pin.extest && decide (now s < second + 100 * us) then
      { s with pin := { s.pin with ppsUntil := some (second + 100 * us) } }
    else s

end Sys2Proof.Machine
end

