-- ==== Sys2Proof/Machine/Admit.lean ====
section
/-! DEFINITION. What an admission does once it has passed the checks its owner makes at once (03 R59, R67 to R69, R71): the
origin sequence, the token history, the partner's hold, the charge at a local home and the message to a remote one. -/

namespace Sys2Proof.Machine

/-- Answer an admission whose entry now stands. -/
def admitted (s : State) (t : Tok) (e : Entry) (n : Nat) : State :=
  complete s t (if e.watch then St.pending else St.ok) e.gid (handleOf n e.slotGen) [] (!e.watch)

/-- Show the entry of an admission: its lifetime completion is kept with WATCH. Where a role change has become pending since
the admission passed its first check, the request is marked and drains at this command's end (01 R25; DEDUCED, entry 44). -/
def showAdmit (s : State) (n : Nat) (e : Entry) (t : Tok) : State :=
  let e1 := { e with stateTime := now s }
  let x := { newSlot e1 with watchTok := if e.watch then some t else none, mark := s.hcu.pendingRole != 0 }
  drainIfMarked (admitted (showSlot s n x) t e1 n) n

/-- Charge a reservation at this home and create its list: in HBM, else in flash where PARK_OK allows (03 R67 steps 6, 7).
The answer tells whether it went to flash. -/
def chargeHome (s : State) (gid owner tenant prio hbm flash kv cls codec : Nat) (parkOk durable : Bool) :
    Option (Nat × Bool × State) :=
  if hbmFits s hbm then
    match newList (setResv s gid ⟨prio, tenant, hbm, flash, false, false, durable⟩) gid owner tenant kv cls codec hbm with
    | some (root, s1) => some (root, false, s1)
    | none => none
  else if parkOk && flashFits s flash then
    match newList (setResv s gid ⟨prio, tenant, hbm, flash, true, false, durable⟩) gid owner tenant kv cls codec hbm with
    | some (root, s1) => some (root, true, s1)
    | none => none
  else none

def parkedAt (e : Entry) (parked : Bool) (root : Nat) : Entry :=
  { e with plistRoot := root, state := if parked then .parked else .admitted, prior := if parked then .admitted else .free }

/-- An admission waits no more for its partner or its home. -/
def dropWait (s : State) (gid : Nat) : State :=
  settleEpochs { s with rte := { s.rte with homeWaits := Tbl.del s.rte.homeWaits gid } }

/-- Give up an admission before its entry stands: slot and token-history page go. -/
def abandon (s : State) (n : Nat) (e : Entry) : State := dropSlot (freeInner s e.tokRoot) n

/-- The reservation message of an admission (03 R69). -/
def resvMsg (s : State) (e : Entry) (parkOk : Bool) : ResvMsg :=
  ⟨me s, e.gid, e.tenant, e.prio, e.resHbm, e.resFlash, parkOk, e.durable, e.kvPerTok, e.pageClass, e.codecSlot,
    false, 0, 0, e.epoch⟩

/-- The last part of an admission: charge at a local home, or ask a remote one. -/
def admitHome (s : State) (n : Nat) (e : Entry) (t : Tok) (parkOk : Bool) : State :=
  if e.remoteHome then
    emit { s with rte := { s.rte with homeWaits := Tbl.set s.rte.homeWaits e.gid ⟨n, e, t, now s, .home, parkOk⟩ } }
      (.resv e.home (resvMsg s e parkOk))
  else
    match chargeHome s e.gid (me s) e.tenant e.prio e.resHbm e.resFlash e.kvPerTok e.pageClass e.codecSlot parkOk e.durable with
    | none => complete (abandon s n e) t St.noCapacity 0 0 [] true
    | some (root, parked, s1) => showAdmit s1 n (parkedAt e parked root) t

/-- An admission that has its identifier goes on: its token-history page, then its partner's hold, then its home. -/
def admitOn (s : State) (w : HomeWait) : State :=
  match allocPage s 4 0 false true with
  | none => complete (dropSlot s w.slot) w.tok St.noCapacity 0 0 [] true
  | some (page, s1) =>
    let e := { w.ent with tokRoot := page }
    if mirroring s1 then
      let units := if !e.remoteHome && (e.durable || s1.mru.cover == 2) then e.resHbm else 0
      let s2 := { s1 with rte := { s1.rte with homeWaits := Tbl.set s1.rte.homeWaits e.gid { w with ent := e, phase := .charge } } }
      sendCharge s2 (.admission e.gid) 1 units
    else admitHome s1 w.slot e w.tok w.parkOk

/-- An admission that supplies no identifier draws its origin sequence and goes on. -/
def admitDraw (s : State) (w : HomeWait) : State :=
  admitOn (drawSeq s).2 { w with ent := { w.ent with gid := me s <<< 48 ||| (drawSeq s).1 } }

/-- The mark of a block has committed: the admissions that waited for it go on in their order, while the block lasts
(03 R59). -/
def markedOn : Nat → State → State
  | 0, s => s
  | n + 1, s =>
    match s.rte.markWaits with
    | [] => s
    | w :: rest => if seqReady s then markedOn n (admitDraw { s with rte := { s.rte with markWaits := rest } } w) else s

end Sys2Proof.Machine
end

