-- ==== Sys2Proof/Machine/Journal.lean ====
section
/-! DEFINITION. The map journal, checkpoints and the durable save (06 R158 to R160, R163, R165). -/

namespace Sys2Proof.Machine

/-! ### Commitment (06 R158) -/

/-- The leaf of the tier map that holds a granule's entry (06 R145). -/
def leafOf (g : Nat) : Nat := g / 512

/-- The map entries of a leaf. -/
def leafEntries (s : State) (leaf : Nat) : Tbl TEntry := s.tfm.map.filter fun kv => leafOf kv.1 == leaf

/-- A record touches a leaf. -/
def touchesLeaf (r : JRec) (leaf : Nat) : Bool :=
  (r.type == .map || r.type == .trim) && decide (leafOf r.granule ≤ leaf) && decide (leaf ≤ leafOf (r.granule + r.count - 1))

/-- Leaves that hold something, now or in their checkpoint. -/
def liveLeaves (s : State) : List Nat := distinct ((Tbl.keys s.tfm.map).map leafOf ++ Tbl.keys s.jnl.ckpt)

/-- Pages that the journal bands hold (06 R156): 24 bands of 24,576, each page standing on two channels. -/
def journalPages : Nat := 24 * journalPagesPerBand

/-- A record may be overwritten: each leaf it touched has a later checkpoint (06 R160). -/
def covered (s : State) (done : List JRec) (r : JRec) : Bool :=
  (liveLeaves s).all fun l => !touchesLeaf r l ||
    done.any fun c => c.type == .checkpoint && decide (r.seq < c.seq) && c.granule == l

/-- Drop the records of the pages that the journal's head passes, where they may be overwritten. -/
def passPages (s : State) : Nat → List Nat → List JRec → List Nat × List JRec
  | 0, ps, l => (ps, l)
  | n + 1, ps, l =>
    match ps with
    | [] => (ps, l)
    | p :: rest => if journalPages < ps.length && (l.take p).all (covered s l) then passPages s n rest (l.drop p) else (ps, l)

/-- Migration, parking and GC programs stall while the journal's head stands at a record no checkpoint covers. -/
def journalStalled (s : State) : Bool :=
  decide (journalPages ≤ s.jnl.pages.length) && !(s.jnl.done.take (s.jnl.pages.headD 0)).all (covered s s.jnl.done)

/-- A leaf's image: 512 entries of 8 bytes, as cells that start at 0. -/
def leafCells (leaf : Nat) (t : Tbl TEntry) : List Host.Cell :=
  t.flatMap fun kv => cellsFrom (8 * (kv.1 - 512 * leaf)) (leBytes 8 (tentryNat kv.2))

/-! ### The committed map (06 R159, R160) -/

/-- SEQ of the newest committed checkpoint of a leaf; 0 where none is. -/
def ckptSeq (s : State) (leaf : Nat) : Nat :=
  s.jnl.done.foldl (fun a r => if r.type = .checkpoint && r.granule = leaf then max a r.seq else a) 0

/-- One committed record over a map: a MAP record where the map still holds OLD_LOC, a TRIM over its range; neither where
the leaf's checkpoint is later. -/
def replayRec (s : State) (m : Tbl TEntry) (r : JRec) : Tbl TEntry :=
  match r.type with
  | .map =>
    if r.seq < ckptSeq s (leafOf r.granule) then m
    else if (Tbl.getD m r.granule zeroEntry).loc = r.oldLoc then
      (if r.new = zeroEntry then Tbl.del m r.granule else Tbl.set m r.granule r.new)
    else m
  | .trim => m.filter fun kv =>
      !(decide (r.granule ≤ kv.1) && decide (kv.1 < r.granule + r.count)) || decide (r.seq < ckptSeq s (leafOf kv.1))
  | _ => m

/-- The map that checkpoints and journal give. -/
def journaledMap (s : State) : Tbl TEntry :=
  let base := s.jnl.ckpt.foldl (fun m kv => kv.2.foldl (fun u e => Tbl.set u e.1 e.2) m) []
  s.jnl.done.foldl (replayRec s) base

/-- The committed map has a valid granule in a band. -/
def committedIn (s : State) (b : Nat) : Bool :=
  (journaledMap s).any fun kv => kv.2.place == .flash && bandOfLoc s kv.2.loc == b

/-! ### Commitment of records -/

/-- One record commits. A MAP record of a move marks it; a GC copy switches at once if the map still holds OLD_LOC
(06 R162), and every other GC copy is garbage. -/
def commitOne (s : State) (r : JRec) : State :=
  match r.type with
  | .map =>
    match Tbl.get s.tfm.moves r.granule with
    | none => s
    | some m =>
      if m.recSeq != r.seq then s
      else if m.kind = .gc then
        if (tmap s r.granule).place = .flash && (tmap s r.granule).loc = r.oldLoc then switchToFlash s r.granule
        else abandonMove s r.granule
      else setMove s r.granule { m with committed := true }
  | .trim =>
    s.tfm.jobs.foldl (fun a kv =>
      if kv.2.waitSeq = r.seq then
        finish { a with tfm := { a.tfm with jobs := Tbl.del a.tfm.jobs kv.1 } } kv.2.tok St.ok 0 0
      else a) s
  | .idMark =>
    markedOn s.rte.markWaits.length { s with rte := { s.rte with markEnd := max s.rte.markEnd (r.granule * 2 ^ 20) } }
  | .checkpoint =>
    match Tbl.get s.jnl.ckptPend r.granule with
    | none => s
    | some t => { s with jnl := { s.jnl with
        ckpt := Tbl.set s.jnl.ckpt r.granule t, ckptPend := Tbl.del s.jnl.ckptPend r.granule } }
  | _ => s

/-- The journal page in flight is programmed on both channels: its records commit, and the head passes what it may. -/
def commitFlight (s : State) : State :=
  match s.jnl.flight.getLast? with
  | none => s
  | some z =>
    let l := s.jnl.flight
    let s0 := putJournal s (l.flatMap jrecBytes)
    let (ps, done) := passPages s s.jnl.pages.length (s.jnl.pages ++ [l.length]) (s.jnl.done ++ l)
    let s1 := { s0 with jnl := { s0.jnl with flight := [], committed := z.seq, pages := ps, done := done } }
    l.foldl commitOne s1

/-- A journal page is written. -/
def writePage (s : State) : State :=
  { s with jnl := { s.jnl with flight := s.jnl.buf.take 512, buf := s.jnl.buf.drop 512, firstAt := now s } }

/-- Commit the whole journal buffer, page by page (06 R163). -/
def commitPages : Nat → State → State
  | 0, s => s
  | n + 1, s =>
    let s1 := commitFlight s
    if s1.jnl.buf.isEmpty then s1 else commitPages n (writePage s1)

def commitJournal (s : State) : State := commitPages (s.jnl.buf.length / 512 + 2) s

/-- JOURNAL_PAGE_WRITE: 512 records, or 1 ms after the first unwritten one. -/
def execJournalPageWrite (s : State) : Host.Outcome State Fault Refusal :=
  .next <| commit s <|
    if s.jnl.flight.isEmpty && (decide (512 ≤ s.jnl.buf.length) || (!s.jnl.buf.isEmpty && decide (s.jnl.firstAt + ms ≤ now s)))
    then writePage s else s

/-- JOURNAL_COMMIT. -/
def execJournalCommit (s : State) : Host.Outcome State Fault Refusal := .next <| commit s <| commitFlight s

/-! ### Checkpoints (06 R160) -/

/-- A record of a leaf is formed and the map has not switched yet. -/
def leafMoving (s : State) (leaf : Nat) : Bool := s.tfm.moves.any fun kv => leafOf kv.1 == leaf && kv.2.recSeq != 0

/-- CHECKPOINT_WRITE: a leaf that changed since its last checkpoint is written, and its record formed. Not after input
power has failed, and not while a record of the leaf waits to take effect: the checkpoint would stand after that record
without showing it (entry 48). -/
def execCheckpointWrite (leaf : Nat) (s : State) : Host.Outcome State Fault Refusal :=
  .next <| commit s <|
    let t := leafEntries s leaf
    if s.plu.phase = .powerFail || Tbl.has s.jnl.ckptPend leaf || Tbl.getD s.jnl.ckpt leaf [] = t || leafMoving s leaf then s
    else
      let s1 := putCheckpoint s (leafCells leaf t)
      journal { s1 with jnl := { s1.jnl with ckptPend := Tbl.set s1.jnl.ckptPend leaf t } } .checkpoint leaf 1 zeroEntry 0

/-! ### The durable save (06 R163, R165) -/

/-- Granules of the durable region that are backed. -/
def durableBacked (s : State) : List Nat := s.tfm.map.filterMap fun kv => if isDurable s kv.1 && kv.2.place == .hbm then some kv.1 else none

/-- The save goes to the copy that does not hold the newest seal: 0 is A, 1 is B. -/
def saveCopy (s : State) : Nat :=
  match s.jnl.saveA, s.jnl.saveB with
  | none, _ => 0
  | some _, none => 1
  | some a, some b => if a.sealSeq < b.sealSeq then 0 else 1

/-- The region's bytes, rebased at its start. -/
def durableCells (s : State) : List Host.Cell :=
  (durableBacked s).foldl (fun m g => memPaste m (g * 4096 - s.jnl.durBase) (cellsOf s (tmap s g))) []

/-- The region is appended to the copy's bands. -/
def putSaves (k : Nat) (s : State) : State :=
  let gs := durableBacked s
  ((List.range gs.length).zip (gs.map fun g => cellsOf s (tmap s g))).foldl (putSave k) s

/-- Write the save, commit its SAVE_SEAL, and answer a DURABLE_FLUSH. -/
def doSave (s0 : State) : State :=
  let k := saveCopy s0
  let s := putSaves k s0
  let s1 := journal s .saveSeal k 1 zeroEntry 0
  let v : Save := ⟨s.jnl.seq, durableCells s, durableBacked s⟩
  let s2 := commitJournal { s1 with jnl := { s1.jnl with
    saveA := if k = 0 then some v else s.jnl.saveA, saveB := if k = 1 then some v else s.jnl.saveB
    saveSeq := s.jnl.seq, saving := false, saveTok := none } }
  finishOpt s2 s.jnl.saveTok St.ok (4096 * v.backed.length) k

/-- SAVE_SEAL: the save under way, of a DURABLE_FLUSH, of a power failure or of a reset, is written and sealed. -/
def execSaveSeal (s : State) : Host.Outcome State Fault Refusal :=
  .next <| commit s <| if s.jnl.saving then doSave s else s

/-- The newest sealed save. -/
def newestSave (s : State) : Option Save :=
  match s.jnl.saveA, s.jnl.saveB with
  | none, b => b
  | some a, none => some a
  | some a, some b => if a.sealSeq < b.sealSeq then some b else some a

/-- Restore one granule of the durable region from a save. -/
def restoreGranule (v : Save) (s : State) (g : Nat) : State :=
  match frameFor s g with
  | none => s
  | some f =>
    let cells := memSlice v.cells (g * 4096 - s.jnl.durBase) 4096 0
    setTmap { s with tfm := { s.tfm with hbm := memPaste (memClear s.tfm.hbm (f * 4096) 4096) (f * 4096) cells } } g
      ⟨.hbm, false, 0, 2, 0, f⟩

end Sys2Proof.Machine
end

