-- ==== Sys2Proof/Machine/FlashEvents.lean ====
section
/-! DEFINITION. What the tier and flash manager does by itself: demotion, switching, rows, garbage collection, erasing, and
the failure of blocks, dies and stacks (06 R150 to R152, R157 to R172). -/

namespace Sys2Proof.Machine

/-- Programs of the migration, park and GC streams may start: no power failure, no journal stall (06 R160, R163). -/
def programsRun (s : State) : Bool := s.plu.phase != .powerFail && !journalStalled s

/-! ### Demotion, idle placement, heat (06 R150, R151) -/

/-- The demoter's order: PREFER_FLASH, NONE, PREFER_HBM, and within each the lowest HEAT first; in a lapse of the heartbeat
heat alone (01 R28). -/
def demoteRank (s : State) (t : TEntry) : Nat := if s.rte.lapsed then t.heat else (if t.hint = 3 then 0 else if t.hint = 0 then 1 else 2) * 16 + t.heat

def demoteCandidates (s : State) : List Nat :=
  (sortBy (fun a b => decide (demoteRank s (tmap s a) < demoteRank s (tmap s b)))
    (s.tfm.map.filterMap fun kv =>
      if kv.2.place == .hbm && !kv.2.moving && kv.2.hint != 2 && kv.2.hint != 4 && movable s kv.1 then some kv.1 else none))

/-- Take whole candidates until `need` granules are on their way or `room` is used up. -/
def demoteSome (s : State) : Nat → Nat → List Nat → State
  | _, _, [] => s
  | need, room, g :: t =>
    if need = 0 then s
    else if Tbl.has s.tfm.moves g then demoteSome s need room t
    else
      let w := wholeOf g
      if room < w.length then s else demoteSome (w.foldl (startMove .demote true) s) (need - w.length) (room - w.length) t

/-- Granules that OBJECT_FLASH_CAP still takes. -/
def flashRoom (s : State) : Nat :=
  s.ppm.objectFlashCap * 512 - objectFlash s - s.tfm.moves.countP fun kv => kv.2.toFlash && kv.2.kind != .gc && paidByObject s kv.1

/-- DEMOTION: below DEMOTE_LOW, until DEMOTE_HIGH per mille are free or on their way. -/
def execDemotion (s : State) : Host.Outcome State Fault Refusal :=
  .next <| commit s <|
    if !belowLow s || readMostly s || !programsRun s then s
    else
      let leaving := s.tfm.moves.countP fun kv => kv.2.toFlash && kv.2.kind != .gc && paidByObject s kv.1
      let want := ceilDiv (s.tfm.ctl.demoteHigh * (s.ppm.objectCap * 16)) 1000
      fillRow 0 (demoteSome s (want - objectFree s - leaving) (flashRoom s) (demoteCandidates s))

/-- IDLE_PLACEMENT: a PREFER_FLASH granule in HBM goes to flash while no other program waits. -/
def execIdlePlacement (g : Nat) (s : State) : Host.Outcome State Fault Refusal :=
  .next <| commit s <|
    let t := tmap s g
    let w := wholeOf g
    if t.place = .hbm && t.hint = 3 && !s.rte.lapsed && !t.moving && movable s g && !readMostly s && programsRun s &&
        s.tfm.moves.isEmpty && decide (w.length ≤ flashRoom s)
    then fillRow 0 (w.foldl (startMove .demote true) s) else s

/-- HEAT_SWEEP: every HEAT_PERIOD, HEAT is halved in every entry. -/
def execHeatSweep (s : State) : Host.Outcome State Fault Refusal :=
  .next <| commit s <|
    if now s < s.tfm.heatAt + s.tfm.ctl.heatPeriod * 10 * ms then s
    else { s with tfm := { s.tfm with heatAt := now s, map := Tbl.map s.tfm.map fun _ t => { t with heat := t.heat / 2 } } }

/-- The collection weights in force: in a lapse of the heartbeat those of the image (01 R28). -/
def gcNow (s : State) : GcCfg := if s.rte.lapsed then s.sbu.set.gc else s.tfm.gc

/-! ### Rows (06 R157, R162) -/

/-- ROW_PROGRAMMED: the stream's open row and its parity page are programmed. Below GC_URGENT, GC goes first. -/
def execRowProgrammed (stream : Nat) (s : State) : Host.Outcome State Fault Refusal :=
  .next <| commit s <|
    let gcFirst := decide (freeBands s < (gcNow s).urgent) && stream != 2 && match openBand s 2 with
      | some b => !(bandAt s b).openRow.isEmpty
      | none => false
    if gcFirst || 2 < stream || !programsRun s then s
    else match openBand s stream with
      | none => s
      | some b => fillRow stream (programRow s b)

/-- OPEN_ROWS_PROGRAMMED: after power failure every open row is padded and programmed (06 R163). -/
def programOpenRows (s : State) : State :=
  (s.tfm.bands.filter fun kv => kv.2.st == .opened).foldl (fun a kv => programRow a kv.1) s

/-! ### Garbage collection (06 R161) -/

/-- The score of a band. -/
def gcScore (s : State) (b : Nat) : Nat :=
  let x := bandAt s b
  let valid := 1024 - (validIn s b).length * 1024 / bandGranules
  let age := min ((now s - x.closedAt) / (1000 * ms)) 65535 * 1024 / 65536
  let wear := (peLimit - eraseMean s b) * 1024 / peLimit
  (gcNow s).wv * valid + (gcNow s).wa * age + (gcNow s).ww * wear

/-- The band GC takes: one marked for relocation, else the highest score, ties to the lowest number. Bands with nothing
left to copy wait for their erase. -/
def gcPick (s : State) : Option Nat :=
  let cs := s.tfm.bands.filter fun kv => kv.2.st == .closed && !(validIn s kv.1).isEmpty
  match cs.find? fun kv => kv.2.first with
  | some kv => some kv.1
  | none =>
    if freeBands s < (gcNow s).low then
      (cs.foldl (fun (b : Option (Nat × Nat)) kv =>
        match b with
        | none => some (kv.1, gcScore s kv.1)
        | some (_, v) => if v < gcScore s kv.1 then some (kv.1, gcScore s kv.1) else b) none).map (·.1)
    else none

/-- GC_COLLECT: the picked band's valid granules start their way to the GC band. -/
def execGcCollect (s : State) : Host.Outcome State Fault Refusal :=
  .next <| commit s <|
    if !programsRun s || s.tfm.moves.any (fun kv => kv.2.kind == .gc) then s
    else match gcPick s with
      | none => s
      | some b => fillRow 2 (((validIn s b).filter fun g => !(tmap s g).moving).foldl (startMove .gc true) s)

/-! ### Erasing (06 R159) -/

/-- Journal-before-erase: nothing valid in the band, in the map or in the committed map, and the last record that took a
granule off it committed; nothing on its way into it. -/
def mayErase (s : State) (b : Nat) : Bool :=
  let x := bandAt s b
  x.st == .closed && (validIn s b).isEmpty && !committedIn s b && decide (x.lastOff ≤ s.jnl.committed) &&
    !(s.tfm.moves.any fun kv => kv.2.placed && bandOfLoc s kv.2.dest == b)

def execBandErase (b : Nat) (s : State) : Host.Outcome State Fault Refusal :=
  .next <| commit s <| if mayErase s b && s.plu.phase != .powerFail then setBand s b { bandAt s b with st := .erasing } else s

/-- BAND_ERASED: the band joins the free pool, spare blocks in place of its retired ones. -/
def execBandErased (b : Nat) (s : State) : Host.Outcome State Fault Refusal :=
  .next <| commit s <|
    if (bandAt s b).st = .erasing then
      let s1 := wipeBand s b
      flashHealthStep s (replaceRetired (setBand s1 b { newBand b with blks := (bandAt s1 b).blks, st := .free }) b)
    else s

/-! ### Block, die and stack failure -/

/-- ERASE_FAIL: the block is retired, the rest of its band returns to the free pool. -/
def execEraseFail (b die : Nat) (s : State) : Host.Outcome State Fault Refusal :=
  .next <| commit s <|
    if (bandAt s b).st = .erasing && die % 16 = b % 16 && die < 256 then
      let s1 := wipeBand s b
      let s2 := retireBlock s1 b die
      flashHealthStep s (replaceBlock (setBand s2 b { newBand b with blks := (bandAt s2 b).blks, st := .free }) b (die / 16))
    else s

/-- A move into a failed band starts again from its source; its record is dropped. -/
def remake (b : Nat) (s : State) (kv : Nat × Move) : State :=
  if kv.2.placed && !kv.2.committed && bandOfLoc s kv.2.dest == b then
    setMove { s with jnl := { s.jnl with
        buf := s.jnl.buf.filter fun r => !(r.seq == kv.2.recSeq && kv.2.recSeq != 0)
        flight := s.jnl.flight.filter fun r => !(r.seq == kv.2.recSeq && kv.2.recSeq != 0) } } kv.1
      { kv.2 with placed := false, recSeq := 0 }
  else s

/-- Granules become LOST, and the pages that hold them. -/
def loseAll (media : Bool) (st : Nat) (gs : List Nat) (s : State) : State :=
  let s1 := gs.foldl (loseGranule media) s
  (distinct ((gs.filter fun g => decide (apGranule ≤ g)).map pageOfGranule)).foldl (losePage st) s1

/-- A band with a block on a die of a group that has another unreadable member: rows with two unreadable members lose their
granules (06 R169). -/
def loseBandIf (two : Bool) (b : Nat) (s : State) : State := if two then loseAll true St.mediaFail (validIn s b) s else s

/-- Another die of a die's group is FAILED. -/
def otherFailed (s : State) (die : Nat) : Bool :=
  (List.range 16).any fun ch => ch * 16 + die % 16 != die && (dieAt s (ch * 16 + die % 16)).st == .failed

/-- Another block of a band than the one on a die's channel is retired. -/
def otherRetired (s : State) (b die : Nat) : Bool :=
  (List.range 16).any fun ch => ch != die / 16 && (blockAt s (bandBlock b (bandAt s b) ch)).retired

/-- The open band of a stream closes at once and is scored first; granules whose records have not committed are copied again
from their source into a fresh band (06 R162). -/
def abandonBand (b : Nat) (s : State) : State := closeBand (s.tfm.moves.foldl (remake b) s) b true

/-- PROGRAM_FAIL: the block is retired, the band closed at once and scored first; granules not committed are copied again
into a fresh band. The streams of checkpoints, journal and saves go on in their next band. -/
def execProgramFail (stream die : Nat) (s : State) : Host.Outcome State Fault Refusal :=
  .next <| commit s <|
    match openBand s stream with
    | none => s
    | some b =>
      if die % 16 != b % 16 || 256 ≤ die then s
      else
        if 2 < stream then flashHealthStep s (nextReserved (retireBlock s b die) stream)
        else
          let two := otherFailed s die || otherRetired s b die
          flashHealthStep s (fillRow stream (loseBandIf two b (abandonBand b (retireBlock s b die))))

/-- READ_RELOCATE: a block of the band has reached 150,000 reads; the band is collected ahead of every scored one. -/
def execReadRelocate (b : Nat) (s : State) : Host.Outcome State Fault Refusal :=
  .next <| commit s <|
    let x := bandAt s b
    if (x.st == .closed || x.st == .opened) && !x.first &&
        (List.range 16).any fun ch => decide (150000 ≤ (blockAt s (bandBlock b x ch)).reads)
    then (if x.st = .opened then closeBand s b true else setBand s b { x with first := true }) else s

/-- A band of a failed die is collected first; an open one closes at once. Its rows are lost where a retired block or another
failed die leaves them two unreadable members. -/
def bandOfFailed (die : Nat) (other : Bool) (s : State) (kv : Nat × Band) : State :=
  if kv.1 % 16 != die % 16 || (kv.2.st != .closed && kv.2.st != .opened) || (kv.2.st == .opened && decide (2 < kv.2.stream)) then s
  else
    let s1 := if kv.2.st = .opened then fillRow kv.2.stream (abandonBand kv.1 s) else setBand s kv.1 { bandAt s kv.1 with first := true }
    loseBandIf (other || otherRetired s kv.1 die) kv.1 s1

/-- DIE_FAILED: the die is FAILED, its reads are rebuilt and its bands are collected first. -/
def execDieFailed (die : Nat) (s : State) : Host.Outcome State Fault Refusal :=
  .next <| commit s <|
    if 256 ≤ die || (dieAt s die).st = .failed then s
    else
      let s1 := flashEvent (setDie s die { dieAt s die with st := .failed }) Ec.stateChange 1 St.mediaFail (diePage die) 2
      s1.tfm.bands.foldl (bandOfFailed die (otherFailed s die)) s1

/-- DIE_RETRY: 60 s after it was marked SLOW the die is tried again. -/
def execDieRetry (die : Nat) (s : State) : Host.Outcome State Fault Refusal :=
  .next <| commit s <|
    let x := dieAt s die
    if x.st = .slow && x.slowAt + 60000 * ms ≤ now s then setDie s die { x with st := .ok, redirects := 0, second := now s } else s

/-- What is lost with an HBM stack: object-region granules, and pages; the durable region comes back from its save, DURABLE
lists of a pair from the partner (06 R171, 12 R357). -/
def stackGranules (s : State) (k : Nat) : List Nat :=
  s.tfm.map.filterMap fun kv => if kv.2.place == .hbm && kv.2.loc / framesPerStack == k then some kv.1 else none

/-- The requests of a DURABLE list wait until the partner's copies are back. -/
def waitRestore (s : State) (gid : Nat) : State :=
  match slotOfGid s gid with
  | none => s
  | some n => match getSlot s n with
    | none => s
    | some x => setSlot s n { x with restoring := true }

/-- Ask the partner for its copy of a page: a PAGE record without a body whose OFFSET has bit 22 set (DESIGN CHOICE,
entry 9). -/
def askPage (s : State) (id : Nat) : State :=
  mirrorSend { s with mir := { s.mir with fetches := s.mir.fetches ++ [id] } } 6 id (2 ^ 22) []

/-- A page on the lost stack: the partner's copy replaces it where its list is DURABLE and the pair stands. -/
def loseStackPage (s : State) (id : Nat) : State :=
  let ds := (holders s id).filter fun gid => match Tbl.get s.rte.resv gid with
    | some r => r.durable && s.mru.st == .paired
    | none => false
  if ds.isEmpty then losePage St.dataCheck s id else askPage (ds.foldl waitRestore s) id

/-- STACK_RETIRE. -/
def execStackRetire (k : Nat) (s : State) : Host.Outcome State Fault Refusal :=
  .next <| commit s <|
    if 12 ≤ k || s.tfm.stacksLost.contains k then s
    else
      let gs := stackGranules s k
      let obj := gs.filter fun g => decide (g < apGranule)
      let dur := obj.filter (isDurable s)
      let ids := distinct ((gs.filter fun g => decide (apGranule ≤ g)).map pageOfGranule)
      let inner := ids.filter fun id => match getPage s id with
        | some p => p.inner
        | none => false
      let s0 := { s with tfm := { s.tfm with stacksLost := s.tfm.stacksLost ++ [k], rebuilding := true } }
      let s1 := post s0 Un.tfm Ek.device Ec.loss 1 0 (me s <<< 48) k
      let s2 := (obj.filter fun g => !isDurable s g).foldl (loseGranule false) s1
      let s3 := match newestSave s2 with
        | some v => dur.foldl (fun a g => if v.backed.contains g then restoreGranule v a g else dropGranule a g) s2
        | none => dur.foldl (loseGranule false) s2
      let s4 := if dur.isEmpty then s3 else post s3 Un.tfm Ek.device Ec.loss 0 0 (me s <<< 48) k
      let s5 := inner.foldl (fun a id => moveInner a id) s4
      (ids.filter fun id => !inner.contains id).foldl loseStackPage
        ((gs.filter fun g => decide (apGranule ≤ g) && !inner.contains (pageOfGranule g)).foldl (loseUnlessKept s) s5)
where
  /-- A granule's frame on the lost stack is replaced by one of its page's new stack. -/
  otherFrame (s : State) (g : Nat) : Option State :=
    (frameFor s g).map fun f => placed (setTmap s g { tmap s g with loc := f }) g
  /-- Pages of the controller's own are rebuilt from cross-stack parity, on other frames. -/
  moveInner (s : State) (id : Nat) : State := (pageGs id).foldl (fun a g => (otherFrame a g).getD a) s
  /-- The region has no such granule in its newest save: it is ZERO again, which the journal records. -/
  dropGranule (s : State) (g : Nat) : State := freeGranule (journal s .trim g 1 zeroEntry 0) g
  /-- A granule of a page that the partner keeps is refilled in place of being lost. -/
  loseUnlessKept (s0 : State) (s : State) (g : Nat) : State :=
    if (holders s0 (pageOfGranule g)).any fun gid => match Tbl.get s0.rte.resv gid with
      | some r => r.durable && s0.mru.st == .paired
      | none => false
    then (otherFrame s g).getD (loseGranule false s g)
    else loseGranule false s g

end Sys2Proof.Machine
end

