-- ==== Sys2Proof/Machine/Image.lean ====
section
/-! DEFINITION. Images, firmware images and settings: their checks and the overlay (14 R390 to R393, R399; 01 R17, R18). -/

namespace Sys2Proof.Machine

/-! ### Firmware images (14 R391, R399) -/

/-- The verification slot may sign for a use (bit 0 KERNEL, 1 FIRMWARE, 2 IMAGE); slot 0 has every use. -/
def signerFor (s : State) (slot use : Nat) : Bool :=
  match Tbl.get s.sbu.verKeys slot with
  | some k => slot == 0 || bit k.use use
  | none => false

/-- The first of some bytes of a list from an offset up that is not zero, as a DETAIL offset. -/
def nonZeroAt (bs : Bytes) (o n : Nat) : Option Nat := ((sub bs o n).findIdx? (· != 0)).map (o + ·)

/-- A firmware image's steps 1 to 4: none where it passes, else step, status and DETAIL. -/
def fwFault (s : State) (img : Bytes) : Option (Nat × Nat × Nat) :=
  let len := subNat img 8 4
  let rsvd := ((nonZeroAt img 13 3).orElse fun _ => (nonZeroAt img 56 104).map fun _ => 56)
  if img.length < 256 then some (1, St.lengthRange, 24)
  else if len < 256 || 1048320 < len || len % 8 != 0 then some (1, St.lengthRange, inPay 8)
  else if img.length != 256 + len then some (1, St.lengthRange, 24)
  else if img.take 4 != ascii "TFFW" then some (2, St.fieldRange, inPay 0)
  else if subNat img 4 2 != 1 then some (2, St.fieldRange, inPay 4)
  else if rsvd.isSome then some (2, St.fieldRange, inPay (if (nonZeroAt img 13 3).isSome then 13 else 56))
  else if len ≤ subNat img 16 8 || subNat img 16 8 % 4 != 0 then some (2, St.fieldRange, inPay 16)
  else if !signerFor s (subNat img 12 1) 1 then some (3, St.authFail, 0)
  else if !ecdsaOk (verKey s (subNat img 12 1)) (img.take 160 ++ img.drop 256) (sub img 160 96) then
    some (3, St.authFail, 0)
  else if subNat img 6 2 < s.sbu.minSvn then some (4, St.state, 0)
  else none

/-! ### Images (14 R390, R392) -/

/-- The start of a slot in the NOR: 1 A, 2 B (14 R387). -/
def slotBase (which : Nat) : Nat := 0x1000000 * which

def norBytes (s : State) (a n : Nat) : Bytes := memReadN s.sbu.nor a n

/-- Offset and length of section i of a header: 0 SETTINGS, 1 FIRMWARE, 2 KERNELS. -/
def sectOff (h : Bytes) (i : Nat) : Nat := subNat h (16 + 8 * i) 4
def sectLen (h : Bytes) (i : Nat) : Nat := subNat h (20 + 8 * i) 4

def imgHeader (s : State) (which : Nat) : Bytes := norBytes s (slotBase which) 4096
def imgSection (s : State) (which i : Nat) : Bytes :=
  let h := imgHeader s which
  norBytes s (slotBase which + sectOff h i) (sectLen h i)

/-- A section starts on a 4 KiB boundary after the header and lies in its region. -/
def sectOk (h : Bytes) (i : Nat) : Bool :=
  sectLen h i == 0 ||
    (sectOff h i % 4096 == 0 && decide (4096 ≤ sectOff h i) && decide (sectOff h i + sectLen h i ≤ 0x1000000))

/-- Step 1: magic, IVER, KIND, FLAGS, reserved bytes, lengths and offsets of a USER image. -/
def headerOk (h : Bytes) : Bool :=
  h.take 4 == ascii "TFIM" && subNat h 4 2 == 1 && subNat h 6 2 == 2 && subNat h 11 1 / 2 == 0 && allZero (sub h 12 4) &&
    allZero (sub h 216 40) && allZero (h.drop 352) && decide (sectLen h 0 ≤ 65536) &&
    (sectLen h 1 == 0 || (decide (512 ≤ sectLen h 1) && decide (sectLen h 1 ≤ 1048576))) && sectLen h 2 == 0 &&
    sectOk h 0 && sectOk h 1 && sectOk h 2

/-- A section's digest: its SHA-384, zero for an empty section. -/
def digestOk (s : State) (which i : Nat) : Bool :=
  let h := imgHeader s which
  sub h (40 + 48 * i) 48 == (if sectLen h i = 0 then zeros 48 else sha384 (imgSection s which i))

/-- The records of a settings section: tag and value. None where one does not lie within the section. -/
def settingsRecs : Nat → Bytes → Option (List (Nat × Bytes))
  | 0, _ => some []
  | k + 1, bs =>
    if bs.isEmpty then some []
    else if bs.length < 4 then none
    else
      let n := subNat bs 0 2
      let tag := subNat bs 2 2
      if tag = 0 then some []
      else if bs.length < 4 + ceilDiv n 4 * 4 then none
      else (settingsRecs k (bs.drop (4 + ceilDiv n 4 * 4))).map fun t => (tag, sub bs 4 n) :: t

def recordsOf (s : State) (which : Nat) : Option (List (Nat × Bytes)) :=
  settingsRecs (sectLen (imgHeader s which) 0 / 4 + 1) (imgSection s which 0)

/-- No element of a list appears twice. -/
def allOnce : List Nat → Bool
  | [] => true
  | x :: t => !t.contains x && allOnce t

/-- Step 7. -/
def framingOk (s : State) (which : Nat) : Bool :=
  match recordsOf s which with
  | none => false
  | some rs => allOnce (rs.map (·.1))

/-- The check of a user slot: ST_OK and 0, or the status and the first failing step. -/
def imgCheck (s : State) (which : Nat) : Nat × Nat :=
  let h := imgHeader s which
  let fw := if sectLen h 1 = 0 then none else fwFault s (imgSection s which 1)
  if !headerOk h then (St.dataCheck, 1)
  else if !signerFor s (subNat h 10 1) 2 then (St.authFail, 2)
  else if !ecdsaOk (verKey s (subNat h 10 1)) (h.take 256) (sub h 256 96) then (St.authFail, 3)
  else if subNat h 8 2 < s.sbu.minSvn then (St.state, 4)
  else if !(digestOk s which 0 && digestOk s which 1 && digestOk s which 2) then (St.dataCheck, 5)
  else match fw with
    | some f => (f.2.1, 6)
    | none => if framingOk s which then (St.ok, 0) else (St.dataCheck, 7)

/-- The status of a factory check that fails at a step (14 R392). -/
def factoryStatus (step : Nat) : Nat :=
  if step = 0 then St.ok else if step = 2 || step = 3 then St.authFail else if step = 4 then St.state else St.dataCheck

/-! ### Settings (14 R393) -/

/-- Little-endian fields of a value. -/
def le2 (v : Bytes) (o : Nat) : Nat := subNat v o 2
def le8 (v : Bytes) (o : Nat) : Nat := subNat v o 8

/-- A built-in context's share is within 08 R224. -/
def shareOk (v : Bytes) (k : Nat) : Bool :=
  let b := sub v (16 * k) 16
  decide (1 ≤ subNat b 12 1) && decide (subNat b 12 1 ≤ 128) && decide (1 ≤ subNat b 13 1) && decide (subNat b 13 1 ≤ 32) &&
    decide (subNat b 14 1 ≤ 32) && decide (subNat b 15 1 ≤ 7)

def gib : Nat := 0x40000000

/-- One record over the settings: none where it is ignored (unknown tag, wrong LEN, value out of range). -/
def applySetting (x : Settings) (tag : Nat) (v : Bytes) : Option Settings :=
  let n := v.length
  match tag with
  | 1 => if n = 2 && 1 ≤ le2 v 0 && le2 v 0 ≤ 0xFFFE then some { x with nodeId := le2 v 0 } else none
  | 2 => if n = 1 && 1 ≤ subNat v 0 1 && subNat v 0 1 ≤ 3 then some { x with role := subNat v 0 1 } else none
  | 3 => if n = 4 && v.all (fun b => decide (b.toNat ≤ 2)) then some { x with portMode := v.map (·.toNat) } else none
  | 4 => if n = 64 then some { x with memWindow := (List.range 4).map fun p => (le8 v (16 * p), le8 v (16 * p + 8)) } else none
  | 5 =>
    let ps := (List.range 4).map fun p => (le8 v (16 * p), le8 v (16 * p + 8))
    if n = 64 && ps.all (fun p => p.1 % 0x400000 == 0 && p.2 % 2 ^ 52 == 0) then some { x with rootInbound := ps } else none
  | 6 => if n = 8 then some { x with apertureTenant := (List.range 4).map fun p => le2 v (2 * p) } else none
  | 7 => if n = 2 && 1 ≤ le2 v 0 then some { x with partner := le2 v 0 } else none
  | 8 =>
    let e := le2 v 8
    if n = 12 && 0x0600 ≤ e && e != 0x86DD && e != 0x88F7 && 1024 ≤ le2 v 10 then
      some { x with fabricPrefix := le8 v 0, memEtherType := e, udpPort := le2 v 10 } else none
  | 9 =>
    let b := le8 v 0
    let l := le8 v 8
    if n = 16 && b % gib = 0 && l % gib = 0 && l ≤ 64 * gib && b + l ≤ 32768 * gib then
      some { x with durBase := b, durLen := l } else none
  | 10 =>
    let l := subNat v 0 4
    let b := subNat v 4 4
    if n = 8 && 1048576 ≤ l && l ≤ 31457280 && 262144 ≤ b && b ≤ 4194304 then some { x with leafPool := l, listBlocks := b }
    else none
  | 11 => if n = 48 && (List.range 3).all (shareOk v) then some { x with builtin := v } else none
  | 12 =>
    let f (i : Nat) : Nat := subNat v i 1
    if n = 6 && 25 ≤ f 0 && f 0 ≤ 55 && 60 ≤ f 1 && f 1 ≤ 100 && 85 ≤ f 2 && f 2 ≤ 105 && f 1 < f 2 && 1 ≤ f 3 && f 3 ≤ 2 &&
        1 ≤ f 4 && f 4 ≤ 4 && 20 ≤ f 5 && f 5 ≤ 100 then
      some { x with tOutTarget := f 0, tDieTarget := f 1, tClamp := f 2, pumpCount := f 3, tachPpr := f 4, pumpFloor := f 5 }
    else none
  | 13 =>
    if n = 8 && 100 ≤ le2 v 0 && 8 ≤ subNat v 2 1 && subNat v 2 1 ≤ 32 && 44 ≤ subNat v 3 1 && subNat v 3 1 ≤ 58 &&
        le2 v 4 ≤ 1000 && le2 v 6 = 0 then
      some { x with cNominal := le2 v 0, margin := subNat v 2 1, storeVmax := subNat v 3 1, chgMax := le2 v 4 }
    else none
  | 14 =>
    let w := le8 v 0
    let low := bits w 39 28
    let urgent := bits w 27 16
    if n = 8 && 64 ≤ low && low ≤ 2048 && 32 ≤ urgent && urgent < low && bits w 15 0 = 0 then
      some { x with gc := ⟨bits w 63 56, bits w 55 48, bits w 47 40, low, urgent⟩ } else none
  | _ => none

/-- Overlay records one by one; the tags of those ignored are told. -/
def overlayRecs : List (Nat × Bytes) → Settings → Settings × List Nat
  | [], x => (x, [])
  | (tag, v) :: t, x =>
    match applySetting x tag v with
    | some y => overlayRecs t y
    | none =>
      let r := overlayRecs t x
      (r.1, tag :: r.2)

/-- ROLE and PORT_MODE revert together where CACHE would be left without an ENDPOINT port (01 R17); LEAF_POOL and
LIST_BLOCKS where the floor, with the policy parts at their reset values, would exceed 704 GiB. -/
def overlayTogether (fac x : Settings) : Settings :=
  let y := if x.role = 3 && !x.portMode.contains 2 then { x with role := fac.role, portMode := fac.portMode } else x
  if 11534336 < floorUnits y.leafPool y.listBlocks 262144 1048576 131072 then
    { y with leafPool := fac.leafPool, listBlocks := fac.listBlocks }
  else y

/-- A .mem window may stand: whole GiB, 1 to 512 of them, inside the device range (01 R18). -/
def windowOk (w : Nat × Nat) : Bool :=
  w.1 % gib == 0 && w.2 % gib == 0 && decide (w.2 ≤ 512 * gib) && decide (w.1 + w.2 ≤ 0x500000000000)

end Sys2Proof.Machine
end

