-- ==== Sys2Proof/Machine/Restart.lean ====
section
/-! DEFINITION. A restart: the choice of the image, what survives, the map's rebuild and the durable restore, and the end of
boot (06 R160, R164, R165; 13 R370, R383; 14 R388, R395, R397, R398; 15 R418). -/

namespace Sys2Proof.Machine

/-! ### The choice of the image (14 R395) -/

def imgSlot (s : State) (which : Nat) : ImgSlot := if which = 1 then s.sbu.slotA else s.sbu.slotB

def setImgSlot (s : State) (which : Nat) (x : ImgSlot) : State :=
  { s with sbu := if which = 1 then { s.sbu with slotA := x } else { s.sbu with slotB := x } }

/-- Slots that may boot, the highest SEQ first. -/
def bootOrder (s : State) : List Nat :=
  let ok (k : Nat) : Bool := (imgSlot s k).st == .verified || (imgSlot s k).st == .confirmed
  sortBy (fun a b => decide ((imgSlot s b).seq < (imgSlot s a).seq)) ([1, 2].filter ok)

/-- Restart causes (15 R418). -/
def Rc.cold : Nat := 1
def Rc.power : Nat := 2
def Rc.thermal : Nat := 3
def Rc.deviceReset : Nat := 4
def Rc.trial : Nat := 5
def Rc.wake : Nat := 6
def Rc.i3c : Nat := 7
def Rc.overVoltage : Nat := 8
def Rc.factory : Nat := 15

/-- The last cause was power or heat: a trial is not counted. -/
def causeSpares (cause : Nat) : Bool := cause == Rc.power || cause == Rc.thermal || cause == Rc.overVoltage

/-- Try slots in order: the slot to boot, 0 for the factory image alone, and the slots gone BAD with their steps. -/
def tryImages (cause : Nat) : List Nat → State → List (Nat × Nat) → State × Nat × List (Nat × Nat)
  | [], s, bad => (s, 0, bad)
  | k :: t, s, bad =>
    let x := imgSlot s k
    if x.st = .verified && x.tries = 3 then tryImages cause t (setImgSlot s k { x with st := .bad }) (bad ++ [(k, 0)])
    else
      let r := imgCheck s k
      if r.1 != St.ok then tryImages cause t (setImgSlot s k { x with st := .bad }) (bad ++ [(k, r.2)])
      else if x.st = .verified && !causeSpares cause then (setImgSlot s k { x with tries := x.tries + 1 }, k, bad)
      else (s, k, bad)

def chooseImage (s : State) (cause : Nat) : State × Nat × List (Nat × Nat) :=
  if s.sbu.factoryOnce then ({ s with sbu := { s.sbu with factoryOnce := false } }, 0, [])
  else tryImages cause (bootOrder s) s []

/-- The settings that boot takes, and the tags of the records ignored. -/
def bootSettings (s : State) (which : Nat) : Settings × List Nat :=
  if which = 0 then (s.sbu.factorySet, [])
  else
    let r := overlayRecs ((recordsOf s which).getD []) s.sbu.factorySet
    (overlayTogether s.sbu.factorySet r.1, r.2)

/-! ### What a restart leaves -/

/-- Rings after reset: the admin ring of each port in ROOT or ENDPOINT mode, and the internal ones. -/
def bootRings (x : Settings) : Tbl Ring :=
  (([0, 1, 2, 3].filter fun p => x.portMode.getD p 0 != 0).map fun p => (p, adminRing p)) ++
    (List.range 16).map fun k => (256 + k, internalRing k)

/-- The windows that stand. -/
def bootWindows (x : Settings) : Tbl MemWin :=
  ([0, 1, 2, 3].filter fun p => (x.memWindow.getD p (0, 0)).2 != 0 && windowOk (x.memWindow.getD p (0, 0)) &&
    x.portMode.getD p 0 != 0).map fun p => (p, ⟨(x.memWindow.getD p (0, 0)).1, (x.memWindow.getD p (0, 0)).2, 0, none⟩)

/-- Map entries kept by a wake: those of the object region (13 R383). -/
def wakeMap (s : State) : Tbl TEntry :=
  (s.tfm.map.filter fun kv => decide (kv.1 < apGranule)).map fun kv => (kv.1, { kv.2 with moving := false, restarts := 0 })

/-- The cells of the frames that a map holds. -/
def keepFrames (m : Tbl TEntry) (hbm : List Host.Cell) : List Host.Cell :=
  let fs := m.filterMap fun kv => if kv.2.place == .hbm then some kv.2.loc else none
  hbm.filter fun c => fs.contains (c.1 / 4096)

/-- Tables of the tier and flash manager after a restart: flash, bands and media stand; the map is empty until it is rebuilt,
except after a wake. -/
def bootTfm (s : State) (x : Settings) (wake : Bool) : Tfm :=
  let m := if wake then wakeMap s else []
  { State.reset.tfm with
    hbm := keepFrames m s.tfm.hbm
    flash := s.tfm.flash
    mediaLost := s.tfm.mediaLost.filter fun g => decide (g < apGranule)
    poison := if wake then s.tfm.poison else []
    map := m
    bands := Tbl.map s.tfm.bands fun _ b => { b with openRow := [], lastOff := min b.lastOff s.jnl.committed }
    blocks := s.tfm.blocks
    dies := s.tfm.dies
    stacksLost := s.tfm.stacksLost
    writesOff := s.tfm.writesOff
    gc := x.gc
    leafPool := x.leafPool
    listBlocks := x.listBlocks
    memWin := bootWindows x }

/-- The journal after a restart: what was committed, and the saves. Records not committed are gone; a save that was under
way is marked by `saving` still set. -/
def bootJnl (s : State) (x : Settings) (wake : Bool) : Jnl :=
  { s.jnl with
    buf := [], flight := [], ckptPend := [], firstAt := now s, durBase := x.durBase, durLen := x.durLen, saveTok := none
    durRestored := wake }

/-- The security and boot unit after a restart. -/
def bootSbu (s : State) (x : Settings) (which : Nat) : Sbu :=
  { s.sbu with
    set := x, stage := 6, bootDone := false, bootedSlot := which, bootAt := now s, mapRebuiltAt := 0, doneAt := 0
    trial := which != 0 && (imgSlot s which).st == .verified, trialBeat := false
    userSvn := if which = 0 then 0 else subNat (imgHeader s which) 8 2 }

/-- The firmware in force after a restart. -/
def bootSec (s : State) (which : Nat) : Sbu2 :=
  let own := which != 0 && sectLen (imgHeader s which) 1 != 0
  let img := if own then imgSection s which 1 else s.sec.factoryFw
  { s.sec with
    verUser := if which = 0 then zeros 32 else sub (imgHeader s which) 184 32
    verFw := (sub img 24 32 ++ zeros 32).take 32
    fwImage := img, fwPrev := [], fwLoad := none, imgJobs := [], keyJobs := [], resetting := false }

/-- The pins and the plant cause register. A cold start clears the register (15 R418). -/
def bootPins (s : State) (x : Settings) (cause : Nat) : Pins :=
  let cold := cause == Rc.cold
  let bad := s.sbu.factoryBad != 0
  { State.reset.pin with
    cause := if bad then Rc.factory else cause
    nextCause := Rc.cold
    tripSensor := if cold then 0xFF else s.pin.tripSensor
    trips := if cold then [] else s.pin.trips
    factoryStep := s.sbu.factoryBad
    restarts := if cold then 0 else (s.pin.restarts + 1) % 2 ^ 32
    perst := [0, 1, 2, 3].filter fun p => x.portMode.getD p 0 == 1
    extest := s.pin.extest }

/-- Device time runs on; a cold start begins it at zero, unsynchronized (14 R397, 10 R304). -/
def bootClk (s : State) (cold : Bool) : Clk :=
  if cold then State.reset.clk
  else { s.clk with bootSync := false, holdover := false, offsetSince := none, alarmed := false, ptp := State.reset.clk.ptp }

/-- Session generations after a restart: the sessions that it closes advance theirs (02 R42, R47); a cold start begins anew. -/
def bootSessGen (s : State) (cold : Bool) : Tbl Nat :=
  if cold then []
  else s.hcu.sessions.foldl (fun g kv => Tbl.set g kv.1 ((kv.2.gen + 1) % 1023)) s.hcu.sessGen

/-- Everything after a restart, before any event is posted. -/
def bootState (s : State) (cause which : Nat) (x : Settings) : State :=
  let r := State.reset
  let wake := cause == Rc.wake
  let s0 := { s with clk := bootClk s (cause == Rc.cold) }
  { r with
    clk := s0.clk
    hcu := { r.hcu with
      keySlots := Tbl.map s.hcu.keySlots fun _ k => { k with fails := 0, lockedUntil := none }
      sessGen := bootSessGen s (cause == Rc.cold), rings := bootRings x, fwMemLen := s.hcu.fwMemLen, role := x.role }
    rte := { r.rte with originSeq := s.rte.markEnd, markEnd := s.rte.markEnd, markAsked := s.rte.markEnd }
    tfm := bootTfm s0 x wake
    jnl := bootJnl s0 x wake
    fbe := { r.fbe with fabricPrefix := x.fabricPrefix, memEtherType := x.memEtherType, udpPort := x.udpPort }
    plu := { r.plu with cEst := x.cNominal }
    plc := { r.plc with tOutTarget := x.tOutTarget, tDieTarget := x.tDieTarget, tClamp := x.tClamp }
    pin := bootPins s x cause
    sbu := bootSbu s0 x which
    sec := bootSec s which
    draws := s.draws
    out := s.out
    pending := s.pending }

def sbuEvent (s : State) (cause sev st arg : Nat) : State := post s Un.sbu Ek.device cause sev st (me s <<< 48) arg

/-- A slot that went BAD: the event names the slot in ARG[15:8] and the failing step in ARG[7:0]. -/
def badEvent (s : State) (kv : Nat × Nat) : State := sbuEvent s Ec.stateChange 1 0 (kv.1 <<< 8 ||| kv.2)

/-- Boot begins: the cause is latched, the image chosen, the overlay applied; what is ignored on the way is told. -/
def beginBoot (s : State) (cause : Nat) : State :=
  let (s1, which, bad) := if s.sbu.factoryBad = 0 then chooseImage s cause else (s, 0, [])
  let (x, tags) := bootSettings s1 which
  let s2 := bootState s1 cause which x
  if s.sbu.factoryBad != 0 then { s2 with sbu := { s2.sbu with stage := 0xF0 } }
  else
    let s3 := bad.foldl badEvent s2
    let s4 := tags.foldl (fun a t => sbuEvent a Ec.config 2 St.fieldRange t)
      (if s.sbu.norQuad then s3 else sbuEvent s3 Ec.config 2 0 0)
    ([0, 1, 2, 3].filter fun p => !windowOk (x.memWindow.getD p (0, 0))).foldl
      (fun a p => post a Un.tfm Ek.port Ec.config 2 St.lengthRange (0x100 ||| p) (x.memWindow.getD p (0, 0)).1) s4

/-- RESTART: the sequence that ended service is over, and its input stands. -/
def execRestart (s : State) : Host.Outcome State Fault Refusal :=
  .next <| if s.plu.phase = .stopped then settle s (beginBoot s s.pin.nextCause) else s

/-! ### The map's rebuild (06 R160, R164) -/

/-- The map after the rebuild: aperture granules trimmed, object granules found in HBM LOST, the durable region empty until
it is restored. Granules lost with their flash stay LOST. -/
def rebuiltMap (s : State) : Tbl TEntry :=
  ((journaledMap s).filter fun kv => decide (kv.1 < apGranule) && !isDurable s kv.1).map fun kv =>
    (kv.1, if kv.2.place = .hbm then { kv.2 with place := .lost, loc := 0, moving := false, restarts := 0 }
      else { kv.2 with moving := false, restarts := 0 })

/-- The rebuild's trim of the aperture is recorded where flash holds some of it, so that its bands can be erased. -/
def trimAperture (old s : State) : State :=
  let m := (journaledMap old).filter fun kv => decide (apGranule ≤ kv.1) && kv.2.place == .flash
  if m.isEmpty then s
  else m.foldl (fun a kv => tookOff a kv.2) (journal s .trim apGranule (10 * classSpan) zeroEntry 0)

/-- The durable region comes back from the newest sealed save; a save whose seal is missing is told (06 R164 point 10). -/
def restoreDurable (s : State) : State :=
  let s1 := match newestSave s with
    | none => s
    | some v => (v.backed.filter (isDurable s)).foldl (restoreGranule v) s
  let s2 := if s.jnl.saving then post s1 Un.tfm Ek.device Ec.loss 0 0 (me s <<< 48) s.jnl.saveSeq else s1
  { s2 with jnl := { s2.jnl with saving := false, durRestored := true } }

/-- The next block of origin sequences is marked (03 R59). -/
def askMark (s : State) : State :=
  let next := s.rte.markEnd + 2 ^ 20
  if s.rte.markAsked < next then
    journal { s with rte := { s.rte with markAsked := next } } .idMark (next / 2 ^ 20) 1 zeroEntry 0
  else s

/-! ### The boot sequence (14 R397) -/

/-- Island cycles of the 8 MHz RC in ns. -/
def cyc (n : Nat) : Nat := 125 * n

/-- Cycles by which boot comes later where the NOR offers no quad read: the steps that read it, of 171,400, 4,000 and 192,000
cycles, take sixteen times as long (14 R387; DEDUCED, entry 19). -/
def norDelay (s : State) : Nat := if s.sbu.norQuad then 0 else 15 * (171400 + 4000 + 192000)

/-- HBM ready: firmware and built-in contexts start; ROOT ports have trained. -/
def hbmReady (s : State) : State :=
  let s1 := { s with sbu := { s.sbu with stage := 7 }, pin := { s.pin with perst := [] } }
  if s1.hcu.role = 1 then s1 else createBuiltins s1

/-- The map is rebuilt and the durable region restored; after a wake both stand already. -/
def mapReady (s : State) : State :=
  let s1 := if s.jnl.durRestored then s
    else restoreDurable (trimAperture s { s with tfm := { s.tfm with map := rebuiltMap s } })
  askMark { s1 with sbu := { s1.sbu with stage := 8, mapRebuiltAt := now s } }

/-- Boot advances with time. -/
def bootTick (s : State) : State :=
  if s.plu.phase != .booting then s
  else if !s.pin.pwrGood && decide (s.sbu.bootAt + cyc 8000 ≤ now s) then { s with pin := { s.pin with pwrGood := true } }
  else if s.sbu.stage = 6 && decide (s.sbu.bootAt + cyc (2000000 + norDelay s) ≤ now s) then hbmReady s
  else if s.sbu.stage = 7 && decide (s.sbu.bootAt + cyc (24400000 + norDelay s) ≤ now s) then mapReady s
  else s

/-- PTP_WAIT_TIMEOUT: 1 s after the map's rebuild no synchronization has come; boot goes on, on the island counter. -/
def execPtpWaitTimeout (s : State) : Host.Outcome State Fault Refusal :=
  .next <| commit s <|
    if s.plu.phase = .booting && s.sbu.stage = 8 && !s.clk.bootSync && !s.clk.holdover &&
        decide (s.sbu.mapRebuiltAt + 1000 * ms ≤ now s) then
      post { s with clk := { s.clk with holdover := true, holdoverAt := now s } } Un.fbe Ek.device Ec.loss 2 0 (me s <<< 48) 0
    else s

/-- BOOT_DONE: admin rings fetch, ports accept traffic; a controller whose image names a partner begins its heartbeats
(12 R341). -/
def execBootDone (s : State) : Host.Outcome State Fault Refusal :=
  .next <| commit s <|
    if s.plu.phase = .booting && s.sbu.stage = 8 && (s.clk.bootSync || s.clk.holdover) then
      let pair := s.sbu.set.partner != 0xFFFF && s.sbu.set.partner != me s
      let s1 := { s with
        sbu := { s.sbu with stage := 9, bootDone := true, doneAt := now s }
        plu := { s.plu with phase := .run }
        mru := { s.mru with partner := if pair then s.sbu.set.partner else 0xFFFF, joinAt := now s }
        mir := { s.mir with portsMirror := pair } }
      setFlag (respread s1) Fl.bootDone
    else s

end Sys2Proof.Machine
end

