-- ==== Sys2Proof/Machine/Plant.lean ====
section
/-! DEFINITION. The plant unit: power, the hold-up store, cooling, the thermal limits, standby (13; 06 R163, R165; 16 R434,
R435, R438). -/

namespace Sys2Proof.Machine

/-- Plant sensors (11 R450). -/
def Sn.stack : Nat := 0x10
def Sn.inlet : Nat := 0x20
def Sn.outlet : Nat := 0x21
def Sn.pump : Nat := 0x30
def Sn.input : Nat := 0x40
def Sn.store : Nat := 0x41

def pluEvent (s : State) (cause sev sensor arg : Nat) : State := post s Un.plu Ek.sensor cause sev 0 sensor arg

/-! ### The hold-up store's energy (13 R372, R373) -/

/-- A non-negative FP32 value as a whole number, rounded down or up. -/
def fFloor (x : F32) : Nat :=
  match toVal x with
  | .fin false m e => if 0 ≤ e then m * 2 ^ e.toNat else m / 2 ^ (-e).toNat
  | _ => 0
def fCeil (x : F32) : Nat :=
  match toVal x with
  | .fin false m e => if 0 ≤ e then m * 2 ^ e.toNat else ceilDiv m (2 ^ (-e).toNat)
  | _ => 0

/-- A decimal quotient in FP32. -/
def fQuot (a b : Nat) : F32 := fdiv (fofNat a) (fofNat b)

/-- e_usable at a capacitance in mF and a voltage in mV. -/
def eUsable (cMf mv : Nat) : F32 :=
  let v := fQuot mv 1000
  if mv < 40000 then 0 else fmul (fmul (fQuot 1 2) (fQuot cMf 1000)) (fsub (fmul v v) (fmul (fofNat 40) (fofNat 40)))

/-- e_need and e_req of the durable region. -/
def eNeed (s : State) : F32 := fadd (fofNat 3) (fmul (fQuot 146 10) (fofNat (s.jnl.durLen / gib)))
def eReq (s : State) : F32 := fdiv (fmul (eNeed s) (fofNat s.sbu.set.margin)) (fofNat 8)

def storeShortNow (s : State) : Bool := flt (eUsable s.plu.cEst s.plu.vstore) (eReq s)

/-! ### The charger (13 R374) -/

/-- CHG_EN in force: 1 under the defaults of 01 R28. -/
def chgWanted (s : State) : Bool := s.rte.lapsed || s.plc.chgEn

/-- CHG_SET in force, clipped to CHG_MAX. -/
def chgLevel (s : State) : Nat := if s.rte.lapsed then s.sbu.set.chgMax else min s.plc.chgSet s.sbu.set.chgMax

/-- The charger's enable after a change: off while full, during power failure and during HOLDUP_TEST. -/
def setCharger (s : State) : State :=
  { s with plc := { s.plc with
    chgOn := chgWanted s && !s.plc.chgFull && s.plu.phase != .powerFail && s.plc.test.isNone } }

/-- A durable save of R165 begins before writes are held back. -/
def startSave (s : State) : State :=
  if s.jnl.durRestored && s.jnl.durLen != 0 && !s.jnl.saving then { s with jnl := { s.jnl with saving := true } } else s

/-- The report of a short store, set at once and cleared by 100 good samples in a row. -/
def judgeStore (s : State) : State :=
  if storeShortNow s then
    let s1 := { s with plu := { s.plu with goodRun := 0, short := true } }
    if s.plu.short then s1 else startSave (setFlag (pluEvent s1 Ec.threshold 0 Sn.store s.plu.vstore) Fl.storeShort)
  else if s.plu.short then
    if 100 ≤ s.plu.goodRun + 1 then
      pluEvent { s with plu := { s.plu with short := false, goodRun := 0 } } Ec.threshold 2 Sn.store s.plu.vstore
    else { s with plu := { s.plu with goodRun := s.plu.goodRun + 1 } }
  else s

/-- STORE_SAMPLE: voltage in mV, current in 10 mA, positive while charging. -/
def execStoreSample (mv : Nat) (ca : Int) (s : State) : Host.Outcome State Fault Refusal :=
  .next <| commit s <|
    let vmax := s.sbu.set.storeVmax * 1000
    let high := decide (vmax + 2000 < mv)
    let s1 := { s with
      plu := { s.plu with vstore := mv, istore := ca }
      plc := { s.plc with
        chgFull := decide (vmax ≤ mv) || (s.plc.chgFull && decide (vmax - 500 < mv)), overVmax := high } }
    let s2 := if high && !s.plc.overVmax then pluEvent s1 Ec.threshold 0 Sn.store mv else s1
    judgeStore (setCharger s2)

/-! ### PLANT_STATUS (13 R384) -/

def maxInt (xs : List Int) : Int := xs.foldl (fun a x => if a < x then x else a) (xs.headD 0)

/-- The lowest array clock ceiling in force. -/
def arrayCeil (s : State) : Nat := s.plc.clampCeil.foldl (fun a kv => min a kv.2) s.plc.capCeil

/-- The curve of R378 is in force: FW_COOLING clear, or a lapse of the heartbeat. -/
def curveRules (s : State) : Bool := s.rte.lapsed || !s.plc.fwCooling

def plantRecord (s : State) : Bytes :=
  leBytes 64 (now s <<< 448 ||| (satBits 16 s.plu.vin) <<< 432 ||| (satBits 16 s.plu.iin) <<< 416 ||| (satBits 16 s.plu.pin) <<< 400
    ||| (satBits 16 s.plu.vstore) <<< 384 ||| (unsigned 16 s.plu.istore) <<< 368
    ||| (satBits 16 (fFloor (eUsable s.plu.cEst s.plu.vstore))) <<< 352 ||| (satBits 16 (fCeil (eReq s))) <<< 336
    ||| s.plu.cEst <<< 320 ||| s.plu.esrEst <<< 304 ||| (unsigned 16 s.plu.tIn) <<< 288 ||| (unsigned 16 s.plu.tOut) <<< 272
    ||| (unsigned 16 (maxInt s.plu.tDie)) <<< 256 ||| (unsigned 16 (maxInt s.plu.tHbm)) <<< 240 ||| s.plu.tach0 <<< 224
    ||| s.plu.tach1 <<< 208 ||| s.plc.dutyNow0 <<< 200 ||| s.plc.dutyNow1 <<< 192 ||| s.plc.cap <<< 176
    ||| (arrayCeil s) <<< 164 ||| b2n s.plu.short <<< 15 ||| b2n s.plc.chgOn <<< 14 ||| b2n s.plc.capActive <<< 13
    ||| b2n (!s.plc.clampCeil.isEmpty || !s.plc.hbmThrottle.isEmpty) <<< 12 ||| b2n s.plc.pumpFault0 <<< 11
    ||| b2n s.plc.pumpFault1 <<< 10 ||| b2n s.plc.thermFault <<< 9 ||| b2n (curveRules s) <<< 8
    ||| (if s.plc.test.isSome then 2 else 1))

def plantStatus : Meaning := fun c s => do
  c.lenIs 0
  c.bound 64
  c.tgtRsv 0
  .ok (okRes (plantRecord s), s)

def execPlantStatus (r : Nat) (d : Dma) (s : State) : Host.Outcome State Fault Refusal :=
  .next (commit s (hostCmd 0x0C01 [.operator, .maintenance] r d plantStatus s))

/-! ### Cooling (13 R376 to R379) -/

/-- The outlet target in force: the image's under the defaults. -/
def outTarget (s : State) : Nat := if s.rte.lapsed then s.sbu.set.tOutTarget else s.plc.tOutTarget

/-- The default curve, in whole degrees. -/
def curveDuty (s : State) : Nat :=
  min 100 (s.sbu.set.pumpFloor + (8 * max 0 (s.plu.tOut / 16 - outTarget s + 5)).toNat)

/-- Duties in force: 100 % while a fault lasts, the curve, or what firmware wrote, never below the floor. -/
def setDuty (s : State) : State :=
  let bad := s.plc.thermFault || s.plc.pumpFault0 || s.plc.pumpFault1
  let f (w : Nat) : Nat := if bad then 100 else if curveRules s then curveDuty s else max s.sbu.set.pumpFloor w
  { s with plc := { s.plc with
    dutyNow0 := f s.plc.pumpDuty0, dutyNow1 := if s.sbu.set.pumpCount = 2 then f s.plc.pumpDuty1 else 0 } }

/-- A thermistor reading counts as open below −30 °C, as short above 125 °C (16 R434). -/
def thermBad (t : Int) : Bool := decide (t < -480) || decide (2000 < t)

/-- What a temperature reading's effect passes through: the sensors are read while the fast clocks run, and after a thermal
trip, whose restart waits on them (13 R381). -/
def sensed (s0 s1 : State) : State := if clocked s0 || s0.plu.phase == .trip then settle s0 s1 else s0

/-- COOLANT_SAMPLE: inlet and outlet in 1/16 °C, every 100 ms. -/
def execCoolantSample (tIn tOut : Int) (s : State) : Host.Outcome State Fault Refusal :=
  .next <| sensed s <|
    let bad := thermBad tIn || thermBad tOut
    let s1 := { s with plu := { s.plu with tIn := tIn, tOut := tOut }, plc := { s.plc with thermFault := bad } }
    let s2 := if bad && !s.plc.thermFault then
        pluEvent s1 Ec.threshold 0 (if thermBad tIn then Sn.inlet else Sn.outlet) (unsigned 16 (if thermBad tIn then tIn else tOut))
      else s1
    setDuty s2

/-- PUMP_FAULT: a pump below 10 % of its expected speed for 2 s. -/
def execPumpFault (n : Nat) (s : State) : Host.Outcome State Fault Refusal :=
  .next <| commit s <|
    if s.sbu.set.pumpCount ≤ n || (if n = 0 then s.plc.pumpFault0 else s.plc.pumpFault1) then s
    else
      let s1 := { s with plc := if n = 0 then { s.plc with pumpFault0 := true } else { s.plc with pumpFault1 := true } }
      setFlag (pluEvent (setDuty s1) Ec.threshold 0 (Sn.pump + n) n) Fl.pumpFault

def coolTargetSet : Meaning := fun c s => do
  let tout := c.fld 63 56
  let tdie := c.fld 55 48
  let clamp := c.fld 47 40
  c.lenIs 8
  c.tgtRsv 0
  c.rsv 39 0
  fldF (decide (85 ≤ clamp) && decide (clamp ≤ 105) && decide (tdie < clamp)) 40
  fldF (decide (60 ≤ tdie) && decide (tdie ≤ 100)) 48
  fldF (decide (25 ≤ tout) && decide (tout ≤ 55)) 56
  .ok (okAns, setDuty { s with plc := { s.plc with tOutTarget := tout, tDieTarget := tdie, tClamp := clamp } })

def execCoolTargetSet (r : Nat) (d : Dma) (s : State) : Host.Outcome State Fault Refusal :=
  .next (commit s (hostCmd 0x0C02 [.operator] r d coolTargetSet s))

/-! ### HOLDUP_TEST (13 R375) -/

def holdupTest : Meaning := fun c s => do
  let t := c.fld 63 56
  c.lenIs 8
  c.tgtRsv 0
  c.rsv 55 0
  fldF (decide (20 ≤ t) && decide (t ≤ 200)) 56
  need (s.plc.test.isNone && !s.jnl.saving) St.busy 0
  need (decide (40000 ≤ s.plu.vin) && decide (s.plu.vin ≤ 60000) && decide (s.sbu.set.storeVmax * 1000 - 500 ≤ s.plu.vstore))
    St.state 0
  .ok (pendAns, setCharger { s with
    plc := { s.plc with test := some (now s, t, c.tok) }
    plu := { s.plu with phase := .test }
    pin := { s.pin with inputSwitch := false, storeSwitch := true } })

def execHoldupTest (r : Nat) (d : Dma) (s : State) : Host.Outcome State Fault Refusal :=
  .next (commit s (hostCmd 0x0C03 [.maintenance] r d holdupTest s))

/-- A quotient rounded to nearest; where its divisor is 0 no result is stated. -/
def measured (n a b : Nat) : Nat := satBits 16 (if b = 0 then Config.holdupOpen n else (2 * a + b) / (2 * b))

/-- HOLDUP_TEST_END: at TEST_MS, or at once at 42 V. Step of voltage in mV at a current in 10 mA, charge in mC, fall in mV. -/
def execHoldupTestEnd (stepMv stepCa chargeMc fallMv : Nat) (s : State) : Host.Outcome State Fault Refusal :=
  .next <| commit s <|
    match s.plc.test with
    | none => s
    | some (t, n, tok) =>
      let low := decide (s.plu.vstore ≤ 42000)
      if !low && now s < t + n * ms then s
      else
        let esr := measured s.draws (1000 * stepMv) stepCa
        let cap := measured (s.draws + 1) (1000 * chargeMc) fallMv
        let s1 := setCharger { s with
          plc := { s.plc with test := none }
          plu := { s.plu with phase := .run }
          pin := { s.pin with inputSwitch := true, storeSwitch := false } }
        if low then finish s1 tok St.noCapacity 0 0
        else
          let e := satBits 16 (fFloor (eUsable cap (s.sbu.set.storeVmax * 1000)))
          let s2 := drawn (drawn { s1 with plu := { s1.plu with cEst := cap, esrEst := esr, tested := true } })
          finish s2 tok St.ok (cap <<< 48 ||| esr <<< 32 ||| e <<< 16) 0

/-! ### Input power (13 R366, R367) -/

def powerCapSet : Meaning := fun c s => do
  let w := c.fld 63 48
  c.lenIs 8
  c.tgtRsv 0
  c.rsv 47 0
  fldF (decide (420 ≤ w) && decide (w ≤ 1650)) 48
  .ok (okAns, { s with plc := { s.plc with cap := w } })

def execPowerCapSet (r : Nat) (d : Dma) (s : State) : Host.Outcome State Fault Refusal :=
  .next (commit s (hostCmd 0x0C04 [.operator] r d powerCapSet s))

/-- The ceilings have changed: each array takes its clock (08 R206). -/
def reclock (s : State) : State := (List.range 96).foldl wantClock s

/-- The samples' unit is mV × 10 mA, 10 µW. -/
def watts (n : Nat) : Nat := n * 100000

/-- A draw above 1,650 W for 10 ms or a sample above 2,000 W. -/
def burstStep (s : State) (p : Nat) (below : Bool) : State :=
  let overNow := if watts 1650 < p then some (s.plu.overSince.getD (now s)) else none
  let long : Bool := match overNow with
    | some t => decide (t + 10 * ms ≤ now s)
    | none => false
  let s1 := { s with plu := { s.plu with overSince := overNow } }
  if long || decide (watts 2000 < p) then
    { s1 with plc := { s1.plc with burst := true, capHalf := true, capCeil := 1200, capActive := true, calmSince := none, capAt := now s } }
  else if !s.plc.burst then s1
  else if !below then { s1 with plc := { s1.plc with calmSince := none } }
  else
    let t := s.plc.calmSince.getD (now s)
    if t + ms ≤ now s then { s1 with plc := { s1.plc with burst := false, calmSince := none, capAt := now s } }
    else { s1 with plc := { s1.plc with calmSince := some t } }

/-- The cap: down 50 MHz every 100 µs from a mean above CAP until it is below, then half the grid's cycles; up 50 MHz every
1 ms while the mean is 5 % below. `sum` is the mean times `n`. -/
def capStep (s : State) (sum n : Nat) : State :=
  let cap := watts s.plc.cap * n
  if s.plc.burst then s
  else if cap < sum || (s.plc.capActive && decide (cap ≤ sum) && decide (s.plc.capCeil < 1600)) then
    if now s < s.plc.capAt + 100 * us then s
    else if s.plc.capCeil ≤ 1200 then { s with plc := { s.plc with capHalf := true, capActive := true, capAt := now s } }
    else { s with plc := { s.plc with capCeil := s.plc.capCeil - 50, capActive := true, capAt := now s } }
  else if sum * 100 < cap * 95 && (s.plc.capHalf || s.plc.capCeil < 1800) then
    if now s < s.plc.capAt + ms then s
    else if s.plc.capHalf then { s with plc := { s.plc with capHalf := false, capAt := now s } }
    else
      let up := s.plc.capCeil + 50
      { s with plc := { s.plc with capCeil := up, capAt := now s, capActive := s.plc.capActive && decide (up < 1600) } }
  else s

/-- POWER_SAMPLE: input voltage in mV, current in 10 mA, every 10 µs. The mean is that of the last 100 samples, 1 ms. -/
def execPowerSample (mv ca : Nat) (s : State) : Host.Outcome State Fault Refusal :=
  .next <| commit s <|
    let p := mv * ca
    let hist := (s.plu.pinHist ++ [p]).drop (s.plu.pinHist.length + 1 - 100)
    let sum := hist.foldl (· + ·) 0
    let s1 := { s with plu := { s.plu with vin := mv, iin := ca, pinHist := hist, pin := sum / (watts 1 * hist.length) } }
    reclock (capStep (burstStep s1 p (decide (sum < watts s.plc.cap * hist.length))) sum hist.length)

/-! ### Temperatures (13 R380) -/

/-- The clamp temperature in force: the factory's during a heartbeat lapse (01 R28). -/
def clampTarget (s : State) : Nat := if s.rte.lapsed then s.sbu.set.tClamp else s.plc.tClamp

/-- The clamp on one array group. -/
def clampGroup (s : State) (g : Nat) (t : Int) : State :=
  let hot : Int := 16 * clampTarget s
  let c := Tbl.getD s.plc.clampCeil g 1800
  let at0 := Tbl.getD s.plc.clampAt g 0
  let put (c : Nat) : State := { s with plc := { s.plc with
    clampCeil := if 1800 ≤ c then Tbl.del s.plc.clampCeil g else Tbl.set s.plc.clampCeil g c
    clampAt := Tbl.set s.plc.clampAt g (now s) } }
  let s1 :=
    if hot < t then
      let first := !Tbl.has s.plc.clampCeil g
      if first || (1200 < c && at0 + 100 * us ≤ now s) then
        let u := put (c - 50)
        if first then setFlag u Fl.thermal else u
      else s
    else if t < hot - 32 && c < 1800 && at0 + ms ≤ now s then put (c + 50)
    else s
  let half := Tbl.getD s1.plc.clampCeil g 1800 == 1200 && decide (hot + 80 ≤ t)
  let rest := s1.plc.clampHalf.filter (· != g)
  { s1 with plc := { s1.plc with clampHalf := if half then rest ++ [g] else rest } }

/-- DIE_TEMP_SAMPLE: twelve sensors in 1/16 °C every 100 µs, the array groups' first; after a trip they are still read. -/
def execDieTempSample (ts : List Int) (s : State) : Host.Outcome State Fault Refusal :=
  .next <| sensed s <|
    if ts.length != 12 then s
    else
      let s1 := { s with plu := { s.plu with tDie := ts } }
      reclock ([0, 1, 2, 3, 4, 5, 6, 7].foldl (fun u g => clampGroup u g (ts.getD g 0)) s1)

/-- One stack: its arbiter grants every other cycle above 95 °C, until it reads below 92 °C. -/
def throttleStack (s : State) (k : Nat) (t : Int) : State :=
  let on := s.plc.hbmThrottle.contains k
  if !on && decide (1520 < t) then
    setFlag { s with plc := { s.plc with hbmThrottle := s.plc.hbmThrottle ++ [k] } } Fl.thermal
  else if on && decide (t < 1472) then { s with plc := { s.plc with hbmThrottle := s.plc.hbmThrottle.filter (· != k) } }
  else s

/-- HBM_TEMP_SAMPLE: twelve stacks in 1/16 °C every 1 ms. -/
def execHbmTempSample (ts : List Int) (s : State) : Host.Outcome State Fault Refusal :=
  .next <| commit s <|
    if ts.length != 12 then s
    else (List.range 12).foldl (fun u k => throttleStack u k (ts.getD k 0)) { s with plu := { s.plu with tHbm := ts } }

/-! ### Power failure, over-voltage, thermal trip (13 R365, R368 to R370, R381) -/

/-- The signal: one sequence begins. A test under way writes no result, a flush under way is abandoned and the save written
afresh, freezes are released, the charger is off. Before the durable region is restored no save is made (14 R398). -/
def startSequence (s : State) (cause : Nat) : State :=
  let s1 := unfreezeAll { s with
    plu := { s.plu with phase := .powerFail, pfAt := now s, pfStep := 1 }
    plc := { s.plc with test := none, standby := none }
    jnl := { s.jnl with saving := s.jnl.durRestored && s.jnl.durLen != 0, saveTok := none }
    pin := { s.pin with
      nextCause := cause, pwrGood := false, pwrFail := cause != Rc.thermal, thermTrip := cause == Rc.thermal, storeSwitch := true
      inputSwitch := s.pin.inputSwitch && cause != Rc.overVoltage, perst := [0, 1, 2, 3].filter fun p => portMode s p == 1 }
    sec := { s.sec with resetting := false } }
  setCharger s1

/-- Power fails: from a running module or from deep standby; during a thermal trip's sequence the one sequence goes on, now
from the store. -/
def powerLost (s : State) (cause : Nat) : State :=
  if s.plu.phase = .powerFail then
    if s.pin.nextCause = Rc.thermal then { s with pin := { s.pin with pwrFail := true, inputSwitch := cause != Rc.overVoltage } } else s
  else if clocked s || s.plu.phase = .standby then startSequence s cause
  else if s.plu.phase = .stopped then { s with plu := { s.plu with phase := .off }, pin := { s.pin with pwrFail := true } }
  else s

/-- POWER_FAIL: PB1 below 38.0 V for 1 µs. -/
def execPowerFail (s : State) : Host.Outcome State Fault Refusal := .next (settle s (powerLost s Rc.power))

/-- OVER_VOLTAGE: PB1 above 62.0 V for 1 µs opens the input switch too. -/
def execOverVoltage (s : State) : Host.Outcome State Fault Refusal := .next (settle s (powerLost s Rc.overVoltage))

/-- POWER_UP: PB1 at or above 42.0 V for 100 ms: the island starts if it had lost power, a cold start, and the module may
restart. -/
def execPowerUp (s : State) : Host.Outcome State Fault Refusal :=
  .next <| settle s <|
    if s.plu.phase = .off then
      { s with
        plu := { s.plu with island := true, phase := .stopped }
        pin := { s.pin with inputSwitch := true, storeSwitch := false, nextCause := if s.plu.island then s.pin.nextCause else Rc.cold } }
    else s

/-- Every launch halts, as a trap would halt it, but writes no completion; queued launches do not start. -/
def haltLaunches (s : State) : State :=
  s.cax.ctxs.foldl (fun t kv => match getCtx t kv.1 with
    | none => t
    | some x => match x.running with
      | none => setCtx t kv.1 { x with queue := [] }
      | some l => endLaunch (setCtx t kv.1 { x with queue := [], running := some { l with tok := none } }) kv.1 none false) s

/-- Every fabric port goes down. -/
def downLinks (s : State) : State :=
  (List.range 18).foldl (fun t p =>
    if (portAt t p).st = .disabled then t else movePort t p { portAt t p with st := .down, peerNode := 0xFFFF }) s

/-- The sequence of R369 advances with time: writes discarded and launches halted at 2 µs, arrays gated at 20 µs, links down
at 100 µs. -/
def shedTick (s : State) : State :=
  let e := now s - s.plu.pfAt
  let put (n : Nat) (t : State) : State := { t with plu := { t.plu with pfStep := n } }
  if s.plu.phase != .powerFail then s
  else if s.plu.pfStep = 1 && 2000 ≤ e then haltLaunches (put 2 s)
  else if s.plu.pfStep = 2 && 20000 ≤ e then
    (List.range 96).foldl (fun t a => setArr t a { arr t a with gated := true, wakeAt := none }) (put 3 s)
  else if s.plu.pfStep = 3 && 100000 ≤ e then downLinks (put 4 s)
  else s

/-- A sequence of 06 R163 runs: after power failure, or before a reset. -/
def closingDown (s : State) : Bool := s.plu.phase == .powerFail || s.sec.resetting

/-- OPEN_ROWS_PROGRAMMED: every open row is padded and programmed with its parity. -/
def execOpenRowsProgrammed (s : State) : Host.Outcome State Fault Refusal :=
  .next <| commit s <| if closingDown s then programOpenRows s else s

/-- Open rows programmed, journal committed, durable save sealed. -/
def sequenceDone (s : State) : Bool :=
  s.tfm.bands.all (fun kv => kv.2.st != .opened || kv.2.openRow.isEmpty) && s.jnl.buf.isEmpty && s.jnl.flight.isEmpty && !s.jnl.saving

/-- SEQUENCE_END: every rail but the island's is off; the module waits for PB1, for the trip's heat to pass, or restarts at
once after a reset. -/
def execSequenceEnd (s : State) : Host.Outcome State Fault Refusal :=
  .next <| settle s <|
    if !sequenceDone s then s
    else if s.plu.phase = .powerFail then
      if s.plu.pfStep < 4 then s
      else { s with plu := { s.plu with phase := if s.pin.nextCause = Rc.thermal then .trip else .off } }
    else if s.sec.resetting then
      { s with plu := { s.plu with phase := .stopped }, sec := { s.sec with resetting := false }, pin := { s.pin with pwrGood := false } }
    else s

/-- ISLAND_OFF: the store is below 40 V without input. A sequence still running ends there: a save not sealed has lost its
copy's old seal. -/
def execIslandOff (s : State) : Host.Outcome State Fault Refusal :=
  .next <| settle s <|
    if s.plu.phase != .powerFail && s.plu.phase != .off && s.plu.phase != .trip then s
    else
      let lost := s.plu.phase == .powerFail && s.jnl.saving
      let k := saveCopy s
      { s with
        plu := { s.plu with island := false, phase := .off }
        jnl := { s.jnl with
          saveA := if lost && k = 0 then none else s.jnl.saveA, saveB := if lost && k = 1 then none else s.jnl.saveB } }

/-- The sensor reads at its trip limit: 115 °C on a die, 105 °C on a stack. -/
def tripReads (s : State) (sensor : Nat) : Bool :=
  (decide (sensor < 12) && decide (1840 ≤ s.plu.tDie.getD sensor 0)) ||
    (decide (Sn.stack ≤ sensor) && decide (sensor < Sn.stack + 12) && decide (1680 ≤ s.plu.tHbm.getD (sensor - Sn.stack) 0))

/-- Trips within the last hour. -/
def tripsHour (s : State) : List Nat := s.pin.trips.filter fun t => decide (now s < t + 3600000 * ms)

/-- THERMAL_TRIP: the sequence runs with the input switch left closed. -/
def execThermalTrip (sensor : Nat) (s : State) : Host.Outcome State Fault Refusal :=
  .next <| commit s <|
    if !tripReads s sensor || s.plu.phase = .powerFail then s
    else
      let ts := tripsHour s ++ [now s]
      let s1 := startSequence s Rc.thermal
      { s1 with pin := { s1.pin with tripSensor := sensor, trips := ts, tripLock := decide (3 ≤ ts.length) } }

/-- Every die sensor reads below 80 °C. -/
def diesCool (s : State) : Bool := s.plu.tDie.all fun t => decide (t < 1280)

/-- TRIP_RESTART: the dies below 80 °C, the outlet below T_OUT_TARGET + 5 °C, and no lock. -/
def execTripRestart (s : State) : Host.Outcome State Fault Refusal :=
  .next <|
    if s.plu.phase = .trip && !s.pin.tripLock && diesCool s && decide (s.plu.tOut < 16 * (s.plc.tOutTarget + 5)) then
      settle s (beginBoot s Rc.thermal)
    else s

/-! ### Deep standby (13 R383) -/

/-- No entry other than FREE, no caravan record open (the ended ones are kept), SOLO. -/
def idleForReset (s : State) : Bool :=
  s.rte.slots.all (fun kv => kv.2.e.state == .free) && (s.cve.recs.all fun kv => s.cve.ended.contains kv.1) && s.mru.st == .solo

def standbyEnter : Meaning := fun c s => do
  c.lenIs 16
  c.tgtRsv 0
  c.rsv 63 0
  need (idleForReset s && s.cax.ctxs.all fun kv => decide (61 ≤ kv.1)) St.state 0
  .ok (okAns, commitJournal { s with plc := { s.plc with standby := some (now s, c.fld 127 64) } })

def execStandbyEnter (r : Nat) (d : Dma) (s : State) : Host.Outcome State Fault Refusal :=
  .next (commit s (hostCmd 0x0C05 [.operator] r d standbyEnter s))

/-- STANDBY_ENTRY: 1 ms after acceptance. Links are down, HBM refreshes itself, only the island is clocked. -/
def execStandbyEntry (s : State) : Host.Outcome State Fault Refusal :=
  .next <| commit s <|
    match s.plc.standby with
    | none => s
    | some (t, _) =>
      if now s < t + ms || s.plu.phase != .run then s
      else
        let s1 := downLinks s
        { s1 with plu := { s1.plu with phase := .standby }, pin := { s1.pin with pwrGood := false } }

/-- STANDBY_WAKE: WAKE_AT, or PERST# deasserted on an ENDPOINT port; a restart that keeps HBM. -/
def execStandbyWake (s : State) : Host.Outcome State Fault Refusal :=
  .next <| if s.plu.phase = .standby then settle s (beginBoot s Rc.wake) else s

/-! ### JTAG (16 R438) -/

/-- EXTEST: the low-speed pins leave their functions. -/
def execExtest (s : State) : Host.Outcome State Fault Refusal := .next (settle s { s with pin := { s.pin with extest := true } })

/-- TAP_RESET: they return. -/
def execTapReset (s : State) : Host.Outcome State Fault Refusal := .next (settle s { s with pin := { s.pin with extest := false } })

end Sys2Proof.Machine
end

