-- ==== Sys2Proof/Machine/Boot.lean ====
section
/-! DEFINITION. The security and boot unit's commands, roles, and policy firmware's heartbeat (01 R22 to R28; 14 R396, R399,
R401, R402; 15 R419; 16 R437). -/

namespace Sys2Proof.Machine

/-! ### IMAGE_WRITE, IMAGE_VERIFY, IMAGE_SELECT (14 R402, R403) -/

/-- A write, verify or select of a slot is under way. -/
def slotBusy (s : State) (which : Nat) : Bool := s.sec.imgJobs.any fun j => j.which == which && j.which != 0

def addJob (s : State) (j : ImgJob) : State := { s with sec := { s.sec with imgJobs := s.sec.imgJobs ++ [j] } }

def imageWrite : Meaning := fun c s => do
  let which := c.fld 0 0 + 1
  let erase := c.fld 1 1 == 1
  let len := c.fld 47 24
  let off := c.fld 71 48
  need (decide (16 ≤ c.payLen)) St.lengthRange 24
  lenF (decide (len ≤ 1048560)) 24
  need (c.payLen == 16 + len) St.lengthRange 24
  lenF (decide (off + len ≤ 0x1000000)) 24
  c.tgtRsv 0
  c.rsv 23 2
  c.rsv 127 72
  let x := imgSlot s which
  let ptr := if erase then 0 else x.wptr
  need (off == ptr) St.fieldRange ptr
  need (s.sbu.bootedSlot != which && !slotBusy s which) St.busy 0
  let y : ImgSlot := if erase then ⟨0, .empty, x.tries, 0⟩ else x
  let z : ImgSlot := if len = 0 then y else { y with st := .written, wptr := off + len }
  .ok (pendAns, addJob (setImgSlot s which z) ⟨which, false, off, c.pay.drop 16, erase, c.tok⟩)

def execImageWrite (r : Nat) (d : Dma) (s : State) : Host.Outcome State Fault Refusal :=
  .next (commit s (hostCmd 0x0D01 [.maintenance] r d imageWrite s))

/-- The first job that passes a test, and the jobs without it. -/
def takeJob (f : ImgJob → Bool) : List ImgJob → Option (ImgJob × List ImgJob)
  | [] => none
  | j :: t => if f j then some (j, t) else (takeJob f t).map fun r => (r.1, j :: r.2)

/-- IMAGE_PROGRAMMED: the erase and the data of a slot's write are in the NOR. -/
def execImageProgrammed (slot : Nat) (s : State) : Host.Outcome State Fault Refusal :=
  .next <| commit s <|
    match takeJob (fun j => !j.verify && j.which == slot + 1) s.sec.imgJobs with
    | none => s
    | some (j, rest) =>
      let base := slotBase j.which
      let n0 := if j.erase then memClear s.sbu.nor base 0x1000000 else s.sbu.nor
      finish { s with sec := { s.sec with imgJobs := rest }, sbu := { s.sbu with nor := memWriteN n0 (base + j.off) j.data } }
        j.tok St.ok 0 0

def imageVerify : Meaning := fun c s => do
  let which := c.fld 1 0
  c.lenIs 8
  c.tgtRsv 0
  fldF (which != 3) 0
  c.rsv 63 2
  need (!slotBusy s which) St.busy 0
  .ok (pendAns, addJob s ⟨which, true, 0, [], false, c.tok⟩)

def execImageVerify (r : Nat) (d : Dma) (s : State) : Host.Outcome State Fault Refusal :=
  .next (commit s (hostCmd 0x0D02 [.operator, .maintenance] r d imageVerify s))

/-- A check's outcome on a user slot: VERIFIED from WRITTEN, or BAD, which is told. -/
def markChecked (s : State) (which : Nat) (r : Nat × Nat) : State :=
  let x := imgSlot s which
  if which = 0 then s
  else if r.1 = St.ok then setImgSlot s which (if x.st = .written then { x with st := .verified } else x)
  else badEvent (setImgSlot s which { x with st := .bad }) (which, r.2)

/-- IMAGE_VERIFY_DONE. -/
def execImageVerifyDone (which : Nat) (s : State) : Host.Outcome State Fault Refusal :=
  .next <| commit s <|
    match takeJob (fun j => j.verify && j.which == which) s.sec.imgJobs with
    | none => s
    | some (j, rest) =>
      let r := if which = 0 then (factoryStatus s.sbu.factoryBad, s.sbu.factoryBad) else imgCheck s which
      let svn := if which = 0 then s.sbu.factorySvn else subNat (imgHeader s which) 8 2
      let s1 := markChecked { s with sec := { s.sec with imgJobs := rest } } which r
      finish s1 j.tok r.1 (if r.1 = St.ok then svn <<< 48 else 0) r.2

def imageSelect : Meaning := fun c s => do
  let which := c.fld 1 0
  c.lenIs 8
  c.tgtRsv 0
  fldF (which != 0) 0
  c.rsv 63 2
  if which = 3 then .ok (okAns, { s with sbu := { s.sbu with factoryOnce := true } })
  else
    let x := imgSlot s which
    need (!slotBusy s which) St.busy 0
    need (x.st == .verified || x.st == .confirmed) St.state 0
    .ok (okAns, setImgSlot s which { x with seq := ((imgSlot s (3 - which)).seq + 1) % 2 ^ 32, tries := 0 })

def execImageSelect (r : Nat) (d : Dma) (s : State) : Host.Outcome State Fault Refusal :=
  .next (commit s (hostCmd 0x0D03 [.maintenance] r d imageSelect s))

/-! ### FW_LOAD (14 R399) -/

/-- The management cores start another firmware: the defaults of 01 R28 apply, and commands not yet started on the internal
rings are gone. -/
def startFirmware (s : State) (img prev : Bytes) : State :=
  let s1 := { s with
    hcu := { s.hcu with rings := Tbl.map s.hcu.rings fun r R => if 256 ≤ r then { R with head := R.tail, waiting := none } else R }
    rte := { s.rte with lapsed := true }
    sec := { s.sec with fwImage := img, fwPrev := prev, verFw := (sub img 24 32 ++ zeros 32).take 32 } }
  setCharger (setDuty s1)

def fwLoad : Meaning := fun c s => do
  c.tgtRsv 0
  match fwFault s c.pay with
  | some f => stop f.2.1 f.2.2
  | none =>
    need (s.sec.fwLoad.isNone && !s.sec.resetting && s.sec.imgJobs.all (·.verify)) St.busy 0
    let s1 := startFirmware s c.pay s.sec.fwImage
    .ok (pendAns, { s1 with sec := { s1.sec with fwLoad := some (now s, c.tok) } })

def execFwLoad (r : Nat) (d : Dma) (s : State) : Host.Outcome State Fault Refusal :=
  .next (commit s (hostCmd 0x0D10 [.maintenance] r d fwLoad s))

/-- FW_LOAD_TIMEOUT: no heartbeat within 1 s; the previous firmware starts again. -/
def execFwLoadTimeout (s : State) : Host.Outcome State Fault Refusal :=
  .next <| commit s <|
    match s.sec.fwLoad with
    | none => s
    | some (t, tok) =>
      if now s < t + 1000 * ms then s
      else
        let s1 := startFirmware s s.sec.fwPrev []
        finish { s1 with sec := { s1.sec with fwLoad := none } } tok St.state 0 0

/-! ### The heartbeat (01 R28, 15 R419) -/

/-- FIRMWARE_HEARTBEAT: a write of any value. It ends a lapse, a FW_LOAD, and a trial's closed admission. -/
def heartbeat (s : State) : State :=
  let s1 := { s with
    rte := { s.rte with
      beatAt := now s, lapsed := false, beats := (s.rte.beats + 1) % 2 ^ 32
      beatsSince := if s.rte.lapsed then now s else s.rte.beatsSince, lapseTold := false }
    sbu := { s.sbu with trialBeat := true } }
  let s2 := setCharger (setDuty s1)
  match s.sec.fwLoad with
  | none => s2
  | some (_, tok) => finish { s2 with sec := { s2.sec with fwLoad := none, fwPrev := [] } } tok St.ok 0 0

def execFirmwareHeartbeat (_v : Nat) (s : State) : Host.Outcome State Fault Refusal :=
  .next <| commit s <| if 7 ≤ s.sbu.stage && s.sbu.stage != 0xF0 then heartbeat s else s

/-- When the present 100 ms without a heartbeat run out: after the last write, or after the boot's end where none has come
yet. -/
def lapseDue (s : State) : Bool :=
  if s.rte.beats = 0 then s.sbu.bootDone && decide (s.sbu.doneAt + 100 * ms ≤ now s) else decide (s.rte.beatAt + 100 * ms ≤ now s)

/-- HEARTBEAT_LAPSE: 100 ms without a write. -/
def execHeartbeatLapse (s : State) : Host.Outcome State Fault Refusal :=
  .next <| commit s <|
    if s.rte.lapseTold || s.sec.fwLoad.isSome || !lapseDue s then s
    else
      let s1 := setCharger (setDuty { s with rte := { s.rte with lapsed := true, lapseTold := true } })
      setFlag (post s1 Un.sbu Ek.device Ec.timeout 0 0 (me s <<< 48) s.rte.beatAt) Fl.fwLapse

/-! ### Trials and resets (14 R396, R402; 16 R437) -/

/-- A reset: open rows, the journal and the durable save are completed as in 06 R163, then the controller restarts. -/
def startReset (s : State) (cause : Nat) : State :=
  { s with
    sec := { s.sec with resetting := true }
    jnl := { s.jnl with saving := s.jnl.saving || (s.jnl.durRestored && s.jnl.durLen != 0) }
    pin := { s.pin with nextCause := cause } }

/-- TRIAL_TIMEOUT: no heartbeat within 10 s of the end of a trial's boot. -/
def execTrialTimeout (s : State) : Host.Outcome State Fault Refusal :=
  .next <| commit s <|
    if s.sbu.bootDone && s.sbu.trial && !s.sbu.trialBeat && !closingDown s && decide (s.sbu.doneAt + 10000 * ms ≤ now s) then
      startReset s Rc.trial
    else s

/-- RAISE_SVN: MIN_SVN rises to the image's SVN, and the other slot goes BAD where its SVN is below. -/
def raiseSvn (s : State) (which : Nat) : State :=
  let h := imgHeader s which
  if !bit (subNat h 11 1) 0 then s
  else
    let s1 := { s with sbu := { s.sbu with minSvn := subNat h 8 2 } }
    let o := 3 - which
    let x := imgSlot s1 o
    if x.st != .empty && x.st != .bad && subNat (imgHeader s1 o) 8 2 < s1.sbu.minSvn then
      badEvent (setImgSlot s1 o { x with st := .bad }) (o, 4)
    else s1

/-- SLOT_CONFIRM: the heartbeat has held for 60 s. -/
def execSlotConfirm (s : State) : Host.Outcome State Fault Refusal :=
  .next <| commit s <|
    if s.sbu.bootDone && s.sbu.trial && s.sbu.trialBeat && !s.rte.lapsed && decide (s.rte.beatsSince + 60000 * ms ≤ now s) then
      let k := s.sbu.bootedSlot
      let s1 := setImgSlot { s with sbu := { s.sbu with trial := false } } k { imgSlot s k with st := .confirmed, tries := 0 }
      raiseSvn s1 k
    else s

/-- DEVICE_RESET. It completes on an internal ring only (02 R56): a host session reads the outcome in BOOT_STAGE and in the plant
cause register (15 R410). -/
def deviceReset : Meaning := fun c s => do
  c.lenIs 8
  c.tgtRsv 0
  c.rsv 63 1
  need s.sec.fwLoad.isNone St.busy 0
  need (c.fld 0 0 == 1 || idleForReset s) St.state 0
  .ok (if c.ring < 256 then laterAns else okAns, startReset s Rc.deviceReset)

def execDeviceReset (r : Nat) (d : Dma) (s : State) : Host.Outcome State Fault Refusal :=
  .next (commit s (hostCmd 0x0D30 [.operator, .maintenance] r d deviceReset s))

/-- I3C_RESTART: as DEVICE_RESET with FORCE. Ignored during the power-fail sequence and without input; after a locked trip
only once the dies are cool. From deep standby the clocks run again for the reset's save. -/
def execI3cRestart (key : Nat) (s : State) : Host.Outcome State Fault Refusal :=
  .next <|
    if key != 0xA5 then s
    else if s.plu.phase = .trip then (if s.pin.tripLock && !diesCool s then s else settle s (beginBoot s Rc.i3c))
    else if s.plu.phase = .standby then settle s (startReset { s with plu := { s.plu with phase := .run } } Rc.i3c)
    else if s.plu.phase = .booting || s.plu.phase = .run || s.plu.phase = .test then settle s (startReset s Rc.i3c)
    else s

/-- I3C_WAKE ends deep standby; at any other time it is ignored. -/
def execI3cWake (key : Nat) (s : State) : Host.Outcome State Fault Refusal :=
  .next <| if key = 0xA5 && s.plu.phase = .standby then settle s (beginBoot s Rc.wake) else s

/-! ### Keys (14 R401) -/

/-- The key slots once the changes under way are written. -/
def applyKey (ks : Tbl KeySlot) (k : KeyChange) : Tbl KeySlot :=
  match k with
  | .setSession n x => Tbl.set ks n x
  | .eraseSession n => Tbl.del ks n
  | _ => ks

def keysAfter (s : State) : Tbl KeySlot := s.sec.keyJobs.foldl (fun ks j => applyKey ks j.1) s.hcu.keySlots

/-- The wrapping mask of a session key: HMAC-SHA-256 under K_s over the label, SLOT and the command's SEQ. -/
def wrapMask (s : State) (c : Cmd) (slot : Nat) : Bytes :=
  let k := match findSess s c.sess with
    | some x => if c.ring < 256 then x.key else leBytes 32 Config.firmwareWrapKey.toNat
    | none => leBytes 32 Config.firmwareWrapKey.toNat
  hmac256 k (ascii "TF768A-KWRAP" ++ leBytes 1 slot ++ leBytes 4 (hSeq c.hdr))

def privOf (n : Nat) : Priv := if n = 1 then .operator else if n = 2 then .tenant else .maintenance

/-- The fields of a KEY_PROVISION, in order. -/
def keyFields (c : Cmd) : Except Ans Unit := do
  let b (o n : Nat) : Nat := subNat c.pay o n
  let kind := b 0 1
  let slot := b 1 1
  c.lenIs 144
  c.tgtRsv 0
  fldF (decide (1 ≤ kind) && decide (kind ≤ 4)) 0
  fldF (if kind = 1 || kind = 3 then decide (slot ≤ 15) else decide (1 ≤ slot) && decide (slot ≤ 7)) 8
  fldF (kind != 1 || (decide (1 ≤ b 2 1) && decide (b 2 1 ≤ 3))) 16
  fldF (kind != 1 || b 2 1 != 2 || b 4 2 != 0) 16
  fldF (kind != 2 || (decide (1 ≤ b 3 1) && decide (b 3 1 ≤ 7))) 24
  fldF (allZero (sub c.pay 6 10)) 48
  fldF (kind == 1 || allZero (sub c.pay 16 32)) 128
  fldF (if kind = 2 then onP384 (beNat (sub c.pay 48 48)) (beNat (sub c.pay 96 48)) else allZero (sub c.pay 48 96)) 384

/-- The change that a KEY_PROVISION asks. -/
def keyChangeOf (s : State) (c : Cmd) : KeyChange :=
  let b (o n : Nat) : Nat := subNat c.pay o n
  let kind := b 0 1
  let slot := b 1 1
  if kind = 1 then .setSession slot
    ⟨List.zipWith (· ^^^ ·) (sub c.pay 16 32) (wrapMask s c slot), privOf (b 2 1), b 4 2, 0, none⟩
  else if kind = 2 then .setVerify slot ⟨sub c.pay 48 96, b 3 1⟩
  else if kind = 3 then .eraseSession slot
  else .eraseVerify slot

def keyProvision : Meaning := fun c s => do
  keyFields c
  let ch := keyChangeOf s c
  need ((applyKey (keysAfter s) ch).any fun kv => kv.2.priv == .maintenance) St.state 0
  .ok (pendAns, { s with sec := { s.sec with keyJobs := s.sec.keyJobs ++ [(ch, c.tok)] } })

def execKeyProvision (r : Nat) (d : Dma) (s : State) : Host.Outcome State Fault Refusal :=
  .next (commit s (hostCmd 0x0D11 [.maintenance] r d keyProvision s))

/-- Close every session opened with a key slot. -/
def closeBySlot (s : State) (slot : Nat) : State :=
  (s.hcu.sessions.filter fun kv => kv.2.slot == slot).foldl (fun a kv => closeSession a kv.1) s

/-- KEY_AREA_WRITTEN: the oldest change stands. -/
def execKeyAreaWritten (s : State) : Host.Outcome State Fault Refusal :=
  .next <| commit s <|
    match s.sec.keyJobs with
    | [] => s
    | (ch, tok) :: rest =>
      let s1 := { s with
        sec := { s.sec with keyJobs := rest }
        hcu := { s.hcu with keySlots := applyKey s.hcu.keySlots ch }
        sbu := { s.sbu with
          keyAreaSeq := (s.sbu.keyAreaSeq + 1) % 2 ^ 32
          verKeys := match ch with
            | .setVerify n k => Tbl.set s.sbu.verKeys n k
            | .eraseVerify n => Tbl.del s.sbu.verKeys n
            | _ => s.sbu.verKeys } }
      let s2 := finish s1 tok St.ok 0 0
      match ch with
      | .setSession n _ => closeBySlot s2 n
      | .eraseSession n => closeBySlot s2 n
      | _ => s2

/-! ### DEVICE_ATTEST (14 R402) -/

/-- What the attestation record holds, in the order the rule names it. -/
def attestParts (s : State) (nonce : Bytes) : List Bytes :=
  [ascii "TFAT", leBytes 8 s.sec.serial, sha384 (norBytes s 0 4096),
   if s.sbu.bootedSlot = 0 then zeros 48 else sha384 (imgHeader s s.sbu.bootedSlot), sha384 s.sec.fwImage,
   leBytes 2 s.sbu.factorySvn, leBytes 2 s.sbu.userSvn, leBytes 2 s.sbu.minSvn, leBytes 1 s.sbu.bootedSlot,
   leBytes 1 s.hcu.role, leBytes 2 (me s), leBytes 8 (now s), nonce]

def deviceAttest : Meaning := fun c s => do
  let chain := c.fld 256 256 == 1
  c.lenIs 40
  c.bound (if chain then 16384 else 352)
  c.tgtRsv 0
  c.rsv 319 257
  if chain then .ok (okRes (s.sec.certChain.take 16384), s)
  else
    let r := leBytes 256 (Config.attestRecord (attestParts s (c.pay.take 32))).toNat
    .ok (okRes (r ++ beBytes 96 (Config.attest s.draws r).toNat), drawn s)

def execDeviceAttest (r : Nat) (d : Dma) (s : State) : Host.Outcome State Fault Refusal :=
  .next (commit s (hostCmd 0x0D12 [.operator, .tenant, .maintenance] r d deviceAttest s))

/-! ### ROLE_SET (01 R23 to R26) -/

/-- No entry is other than FREE. -/
def noneLive (s : State) : Bool := s.rte.slots.all fun kv => kv.2.e.state == .free

/-- The final status of a ROLE_SET that reached the outcomes of R24 (15 R410, R411). -/
def roleEnds (s : State) (st : Nat) : State := setFlag { s with hcu := { s.hcu with roleStatus := st } } Fl.roleChange

/-- The switch: the old role's built-in kernels go, those of the new one come. -/
def switchRole (s : State) (role : Nat) : State :=
  let s1 := dropBuiltins { s with hcu := { s.hcu with role := role, pendingRole := 0, roleTok := none } }
  if role = 1 then s1 else createBuiltins s1

/-- A live request is marked, and moves to DRAINING at once where it rests. -/
def markEntry (s : State) (n : Nat) : State :=
  match getSlot s n with
  | none => s
  | some x => if drainable x.e.state || x.e.state == .handoff then drainIfMarked (setSlot s n { x with mark := true }) n else s

/-- A cancel clears every mark, and a DRAINING entry returns to its DRAIN_FROM. -/
def unmarkEntry (s : State) (n : Nat) : State :=
  match getSlot s n with
  | none => s
  | some x =>
    if x.e.state = .draining then
      setSlot s n { x with mark := false, e := { x.e with state := x.e.drainFrom, drainFrom := .free, stateTime := now s } }
    else setSlot s n { x with mark := false }

def roleSet : Meaning := fun c s => do
  let role := c.fld 3 0
  c.lenIs 8
  c.tgtRsv 0
  fldF (decide (1 ≤ role) && decide (role ≤ 3)) 0
  fldF (role != 3 || s.sbu.set.portMode.contains 2) 0
  c.rsv 7 4
  c.rsv 63 9
  if inPair s then .ok ({ st := some St.busy }, roleEnds s St.busy)
  else if role = s.hcu.role then
    if s.hcu.pendingRole = 0 then .ok (okAns, roleEnds s St.ok)
    else
      let s1 := finishOpt (roleEnds s St.busy) s.hcu.roleTok St.busy 0 0
      let s2 := (Tbl.keys s.rte.slots).foldl unmarkEntry { s1 with hcu := { s1.hcu with pendingRole := 0, roleTok := none } }
      .ok (okAns, roleEnds s2 St.ok)
  else if s.hcu.pendingRole != 0 then .ok ({ st := some St.busy }, roleEnds s St.busy)
  else if c.fld 8 8 = 0 then
    if noneLive s then .ok (okAns, roleEnds (switchRole s role) St.ok) else .ok ({ st := some St.busy }, roleEnds s St.busy)
  else
    let s1 := { s with hcu := { s.hcu with pendingRole := role, roleTok := some c.tok, roleStatus := St.pending } }
    .ok (pendAns, (Tbl.keys s.rte.slots).foldl markEntry s1)

def execRoleSet (r : Nat) (d : Dma) (s : State) : Host.Outcome State Fault Refusal :=
  .next (commit s (hostCmd 0x0D20 [.operator] r d roleSet s))

/-- ROLE_SWITCH: every entry is FREE. Where a pair has formed since the change became pending, the spec does not say what
becomes of it; the model switches then too, so that the members' roles may come to differ (DESIGN CHOICE, entry 44). -/
def execRoleSwitch (s : State) : Host.Outcome State Fault Refusal :=
  .next <| commit s <|
    if s.hcu.pendingRole != 0 && noneLive s then
      finishOpt (roleEnds (switchRole s s.hcu.pendingRole) St.ok) s.hcu.roleTok St.ok 0 0
    else s

end Sys2Proof.Machine
end

