-- ==== Sys2Proof/Machine/MemMode.lean ====
section
/-! DEFINITION. Memory mode: requests at their source and destination, sequences, atomics, the erg aperture (10 R280 to
R286). -/

namespace Sys2Proof.Machine

/-! ### Flash reads (06 R148, R168) -/

/-- Read a FLASH granule, at once as a parity rebuild where its page cannot be read; the blocks read count it. -/
def startRead (s : State) (g : Nat) (who : Reader) : State :=
  let loc := (tmap s g).loc
  let s1 := readLoc s loc
  { s1 with tfm := { s1.tfm with
    nextId := s1.tfm.nextId + 1, reads := Tbl.set s1.tfm.reads s1.tfm.nextId ⟨g, who, now s, unreadable s loc, locDie loc, false, 1⟩ } }

/-- FLASH granules of a range. -/
def flashIn (s : State) (a n : Nat) : List Nat := (granulesOf a n).filter fun g => gkind s g == .flash

/-! ### The access itself (10 R283, R285) -/

/-- Bytes that a request touches. -/
def memSpan (op len : Nat) (size64 : Bool) : Nat := if isAtomic op then (if size64 then 8 else 4) else len

/-- Steps 3 to 7 of R283. -/
def memCheck (s : State) (op a n : Nat) : Nat :=
  let gs := granulesOf a n
  let w := op != Fo.mread
  if decide (ergTop < a + n) || gs.any (fun g => gkind s g == .outside || gkind s g == .reserved) then St.accessViolation
  else if w && gs.any (readOnly s) then St.accessViolation
  else if gs.any (fun g => gkind s g == .lost) || (op != Fo.mwrite && poisonedIn s a n) then St.dataCheck
  else if w && gs.any (fun g => isDurable s g) && durableShut s then St.busy
  else if isAtomic op && a % n != 0 then St.fieldRange
  else if w && !leavesFit s (gs.filter fun g => gkind s g == .zero) then St.noCapacity
  else St.ok

/-- The word an atomic leaves: from the old one, the operand and the compare value. -/
def atomicWord (op n old x cmp : Nat) (isSigned : Bool) : Nat :=
  let m := 2 ^ (8 * n)
  let less (a b : Nat) : Bool := if isSigned then decide (Machine.signed (8 * n) a < Machine.signed (8 * n) b) else decide (a < b)
  if op = Fo.madd then (old + x) % m
  else if op = Fo.mmin then (if less (x % m) old then x % m else old)
  else if op = Fo.mmax then (if less old (x % m) then x % m else old)
  else if old = cmp % m then x % m else old

/-- Perform a request that has passed its checks: what it answers, and the state; none where a write waits for a frame. -/
def memDo (s : State) (op a n : Nat) (isSigned : Bool) (data : Bytes) : Option (Bytes × State) :=
  if op = Fo.mwrite then (if writesDead s then some s else devPut s a data).map fun s1 => ([], s1)
  else if op = Fo.mread then some (devRead s a n, touchAll s a n)
  else
    let old := leNat (devRead s a n)
    (if writesDead s then some s else devPut s a (leBytes n (atomicWord op n old (subNat data 0 8) (subNat data 8 8) isSigned))).map fun s1 => (leBytes n old, s1)

/-! ### The destination (10 R283, R284) -/

/-- A page of a list homed here lies in a range. -/
def inList (s : State) (a n : Nat) : Bool :=
  (granulesOf a n).any fun g => decide (apGranule ≤ g) && !(holders s (pageOfGranule g)).isEmpty

/-- MRESP. `hold`: it reports a write into a list homed here, and waits for a mirroring partner (12 R347). -/
def answerMem (s : State) (f : Frame) (st : Nat) (bs : Bytes) (hold : Bool := false) : State :=
  let r : Frame := { blankFrame with
    mem := true, op := Fo.mresp, dst := f.src, src := f.dst, key := f.key, seq := f.seq, tc := f.tc, status := st
    epoch := epochNum s, pay := bs, len := bs.length, port := f.port }
  if hold && mirroring s then report s (.send (.frame r)) else sendMem s (some f.port) r

/-- A NAK to a source: SEQ the highest performed, KEY the message concerned. -/
def nakMem (s : State) (f : Frame) (reason performed concerned : Nat) : State :=
  sendMem s (some f.port) { blankFrame with
    mem := true, op := Fo.nak, dst := f.src, src := f.dst, key := concerned, seq := performed, reason := reason
    epoch := epochNum s }

def frameSpan (f : Frame) : Nat := memSpan f.op (if f.op = Fo.mread then leNat f.pay else f.len) f.size64

/-- The severity-1 event of a violation at the receiver. -/
def memTold (s : State) (f : Frame) (st : Nat) : State :=
  if st = St.accessViolation then post s Un.fbe Ek.address Ec.refused 1 st f.addr f.src else s

/-- Perform and answer a request in its turn; none while it waits for a frame. An atomic's result is kept. -/
def serveMem (s : State) (f : Frame) : Option State :=
  let a := ergAddr f.addr
  let n := frameSpan f
  let st := memCheck s f.op a n
  let keep (s : State) (v : Nat) : State :=
    if isAtomic f.op then { s with fbe := { s.fbe with seqIn := Tbl.upd s.fbe.seqIn f.src fun q =>
      let l := q.atomics ++ [(f.seq, v)]
      { q with atomics := l.drop (l.length - 64) } } }
    else s
  if st != St.ok then some (answerMem (keep (injectActs (memTold s f st) 2 a n) (st <<< 64)) f st [])
  else match memDo s f.op a n f.signed f.pay with
    | none => none
    | some (bs, s1) => some (answerMem (keep s1 (leNat bs)) f St.ok bs (f.op != Fo.mread && inList s a n))

/-- A flash read of a source's first held request is under way. -/
def memReading (s : State) (src : Nat) : Bool := s.tfm.reads.any fun kv => kv.2.who == .fabric src

/-- Serve the held requests of a source in order; none while the tier map is rebuilt (06 R171). `ready`: the first one's flash
data is in. -/
def drainMem (src : Nat) : Nat → Bool → State → State
  | 0, _, s => s
  | k + 1, ready, s =>
    if s.tfm.rebuilding then s else
    match Tbl.get s.fbe.seqIn src with
    | none => s
    | some q =>
      match q.queue with
      | [] => s
      | f :: rest =>
        let a := ergAddr f.addr
        let gs := if memCheck s f.op a (frameSpan f) = St.ok && !ready then flashIn s a (frameSpan f) else []
        if !gs.isEmpty then
          gs.foldl (fun b g => startRead b g (.fabric src))
            { s with fbe := { s.fbe with seqIn := Tbl.set s.fbe.seqIn src { q with waitAt := now s } } }
        else match serveMem s f with
          | none => s
          | some s1 =>
            drainMem src k false { s1 with fbe := { s1.fbe with
              seqIn := Tbl.upd s1.fbe.seqIn src fun q => { q with queue := rest, expect := (q.expect + 1) % 2 ^ 32 } } }

/-- The first held request of a source goes on, once its flash reads are done. -/
def resumeMem (s : State) (src : Nat) : State :=
  match Tbl.get s.fbe.seqIn src with
  | none => s
  | some q => if memReading s src then s else drainMem src q.queue.length true s

/-- A request that was performed already: a store is answered, a load performed again, an atomic answered from the cache. -/
def againMem (s : State) (q : SeqIn) (f : Frame) : State :=
  if f.op = Fo.mwrite then answerMem s f St.ok []
  else if f.op = Fo.mread then (serveMem s f).getD s
  else match q.atomics.find? fun r => r.1 == f.seq with
    | none => s
    | some r =>
      let st := r.2 >>> 64
      answerMem s f st (if st = St.ok then leBytes (frameSpan f) r.2 else [])

/-- A memory-mode request arrives. -/
def memRequest (op : Nat) (f : Frame) (s : State) : State :=
  if f.op != op || !fabricOpen s f.port then s
  else if !ordinary s f then dropFrame s f.port
  else if some f.dst != myDomain s then relay s f
  else if !epochPasses s f.epoch then answerMem s f St.epochStale []
  else match Tbl.get s.fbe.seqIn f.src with
    | none => s
    | some q =>
      let next := (q.expect + q.queue.length) % 2 ^ 32
      let d := (f.seq + 2 ^ 32 - next) % 2 ^ 32
      if !q.opened then s
      else if d = 0 then
        let s1 := { s with fbe := { s.fbe with seqIn := Tbl.set s.fbe.seqIn f.src { q with queue := q.queue ++ [f] } } }
        if q.queue.isEmpty then drainMem f.src 1 false s1 else s1
      else if d < 2 ^ 31 then nakMem s f Nr.seqGap ((q.expect + 2 ^ 32 - 1) % 2 ^ 32) next
      else if 2 ^ 32 - d ≤ q.queue.length then s
      else againMem s q f

def execMwrite (f : Frame) (s : State) : Host.Outcome State Fault Refusal := .next (commit s (memRequest Fo.mwrite f s))
def execMread (f : Frame) (s : State) : Host.Outcome State Fault Refusal := .next (commit s (memRequest Fo.mread f s))
def execMadd (f : Frame) (s : State) : Host.Outcome State Fault Refusal := .next (commit s (memRequest Fo.madd f s))
def execMmin (f : Frame) (s : State) : Host.Outcome State Fault Refusal := .next (commit s (memRequest Fo.mmin f s))
def execMmax (f : Frame) (s : State) : Host.Outcome State Fault Refusal := .next (commit s (memRequest Fo.mmax f s))
def execMcas (f : Frame) (s : State) : Host.Outcome State Fault Refusal := .next (commit s (memRequest Fo.mcas f s))

/-- NAK_WAIT_TIMER: every 10 µs while a source's request waits, NAK WAIT is sent; one that waits for a frame is tried
again. -/
def execNakWaitTimer (src : Nat) (s : State) : Host.Outcome State Fault Refusal :=
  .next <| commit s <|
    match Tbl.get s.fbe.seqIn src with
    | none => s
    | some q =>
      match q.queue with
      | [] => s
      | f :: _ =>
        if now s < q.waitAt + 10 * us then s
        else
          let s1 := nakMem s f Nr.wait ((q.expect + 2 ^ 32 - 1) % 2 ^ 32) f.seq
          resumeMem { s1 with fbe := { s1.fbe with seqIn := Tbl.set s1.fbe.seqIn src { q with waitAt := now s } } } src

/-! ### The source (10 R279, R282, R284) -/

/-- The lowest free slot of an engine, as a tag. -/
def freeTag (s : State) (e : Nat) : Nat :=
  let used := s.fbe.seqOut.flatMap fun kv => kv.2.reqs.filterMap fun m => if bits m.key 13 9 == e then some (bits m.key 8 0) else none
  e <<< 9 ||| lowestNot used used.length 0

def memFrame (s : State) (d : Nat) (m : OutMsg) : Frame :=
  { blankFrame with
    mem := true, op := m.op, addr := m.addr, key := m.key, seq := m.num, epoch := m.epoch, dst := d
    src := (myDomain s).getD 0, signed := m.signed, size64 := m.size64, tc := m.tc
    pay := if m.op = Fo.mread then leBytes 8 m.len else m.data
    len := if m.op = Fo.mread then 8 else m.data.length }

/-- Send a request by its route, or its alternate; with neither usable it waits for its resend. -/
def sendReq (s : State) (d : Nat) (m : OutMsg) : State :=
  match pickRoute s m.routes with
  | some p => sendFrame s p m.tc true (memFrame s d m)
  | none => s

def sendSeqOpen (s : State) (d seq : Nat) (routes : Nat × Nat) : State :=
  match pickRoute s routes with
  | some p => sendFrame s p 8 true { blankFrame with
      mem := true, op := Fo.openMsg, seq := seq, epoch := epochNum s, dst := d, src := (myDomain s).getD 0
      pay := setupBytes 0 0 0 0 2, len := 16 }
  | none => s

/-- Put a request in the sequence toward its destination; the first one opens it, 2^30 beyond any SEQ used. -/
def queueReq (s : State) (d : Nat) (m : OutMsg) : State :=
  let q := getSeqOut s d
  let fresh : Bool := !q.opened && q.reqs.isEmpty
  let n := if fresh then (q.next + 2 ^ 30) % 2 ^ 32 else q.next
  let m1 := { m with num := n }
  let s1 := setSeqOut s d { q with
    next := (n + 1) % 2 ^ 32, reqs := q.reqs ++ [m1], sentAt := if q.reqs.isEmpty then now s else q.sentAt }
  if fresh then sendSeqOpen s1 d n m.routes else if q.opened then sendReq s1 d m1 else s1

/-- Perform a request for the own domain index; none while it waits for a frame, or for the tier map's rebuild. -/
def serveOwn (s : State) (m : OutMsg) : Option State :=
  let a := ergAddr m.addr
  let n := memSpan m.op m.len m.size64
  let st := memCheck s m.op a n
  if s.tfm.rebuilding then none
  else if st != St.ok then some (endMemReq s m st [])
  else (memDo (countReads s a n) m.op a n m.signed m.data).map fun r => endMemReq r.2 m St.ok r.1

/-- Requests for the own domain index that wait are tried again, in order. -/
def drainOwn : Nat → State → State
  | 0, s => s
  | k + 1, s =>
    match s.fbe.selfWaits with
    | [] => s
    | m :: rest =>
      match serveOwn { s with fbe := { s.fbe with selfWaits := rest } } m with
      | none => s
      | some s1 => drainOwn k s1

/-- Issue a request that R282 allows: served here, in order, for the own domain index; ST_PEER_LOST over a port whose peer sent
no DISCOVER. -/
def issueMem (s : State) (e : Nat) (m : OutMsg) : State :=
  let d := ergDomain m.addr
  if some d = myDomain s then
    let held := { s with fbe := { s.fbe with selfWaits := s.fbe.selfWaits ++ [{ m with key := e <<< 9 }] } }
    if s.fbe.selfWaits.isEmpty then (serveOwn s m).getD held else held
  else match ergFor s d with
    | none => endMemReq s m St.accessViolation []
    | some r =>
      let silent : Bool := match pickRoute s (r.route, r.altRoute) with
        | some p => (portAt s p).peerNode == 0xFFFF
        | none => false
      if silent then endMemReq s m St.peerLost []
      else queueReq s d { m with key := freeTag s e, routes := (r.route, r.altRoute), epoch := epochNum s }

/-- Resend everything toward a destination from its oldest unanswered request; the OPEN while that is unanswered. -/
def resendSeq (s : State) (d : Nat) : State :=
  let q := getSeqOut s d
  match q.reqs with
  | [] => s
  | m :: _ => if q.opened then q.reqs.foldl (fun a m => sendReq a d m) s else sendSeqOpen s d m.num m.routes

/-- A bounce toward a destination: retried after 50 µs, or final for everything outstanding (04 R105). -/
def seqBounced (s : State) (d own theirs : Nat) : State :=
  if bounceRetried s own theirs then
    let q := getSeqOut s d
    setSeqOut s d { q with reqs := q.reqs.map fun m => { m with why := 2, dueAt := now s + 50 * us } }
  else
    let s1 := if newer theirs own then post s Un.fbe Ek.epoch Ec.peerReport 1 St.epochStale theirs d else s
    failSeq s1 d St.epochStale

/-- MRESP at the source. -/
def execMresp (f : Frame) (s : State) : Host.Outcome State Fault Refusal :=
  .next <| commit s <|
    if f.op != Fo.mresp || !fabricOpen s f.port then s
    else if !ordinary s f then dropFrame s f.port
    else if some f.dst != myDomain s then relay s f
    else
      let q := getSeqOut s f.src
      match q.reqs.find? fun m => m.num == f.seq && m.key == f.key with
      | none => s
      | some m =>
        if f.status = St.epochStale then seqBounced s f.src m.epoch f.epoch
        else
          let s1 := setSeqOut s f.src { q with reqs := q.reqs.filter fun x => x.num != m.num, rounds := 0, sentAt := now s }
          let s2 := if f.status = St.accessViolation then post s1 Un.fbe Ek.address Ec.refused 2 f.status m.addr f.src else s1
          settleEpochs (endMemReq s2 m f.status f.pay)

/-- MEM_TIMEOUT: the source resends; after RETRY_LIMIT rounds everything toward that destination is lost. A bounced request
waits its 50 µs, which counts as no round. -/
def execMemTimeout (dst : Nat) (s : State) : Host.Outcome State Fault Refusal :=
  .next <| commit s <|
    let q := getSeqOut s dst
    match q.reqs with
    | [] => s
    | m :: _ =>
      if m.why = 2 then
        if now s < m.dueAt then s
        else resendSeq (setSeqOut s dst { q with reqs := q.reqs.map fun x => { x with why := 0 }, sentAt := now s }) dst
      else if now s < q.sentAt + s.fbe.ctl.memTimeout * us then s
      else if s.fbe.ctl.retryLimit ≤ q.rounds then
        post (failSeq s dst St.peerLost) Un.fbe Ek.address Ec.loss 1 St.peerLost m.addr dst
      else resendSeq (setSeqOut s dst { q with rounds := q.rounds + 1, sentAt := now s }) dst

/-! ### OPEN, OPEN_ACK, NAK of a sequence -/

/-- OPEN at the destination: its SEQ is the next expected, unless it is a copy of the one that the open sequence began
with. -/
def seqOpenIn (s : State) (f : Frame) : State :=
  let ans (s : State) (st : Nat) : State :=
    sendMem s (some f.port) { blankFrame with
      mem := true, op := Fo.openAck, seq := f.seq, epoch := epochNum s, dst := f.src, src := f.dst, status := st, pay := f.pay
      len := 16 }
  if !epochPasses s f.epoch then ans s St.epochStale
  else
    let q : SeqIn := Tbl.getD s.fbe.seqIn f.src ⟨0, false, [], [], 0⟩
    if q.opened && decide ((q.expect + 2 ^ 32 - f.seq) % 2 ^ 32 < 2 ^ 30) then ans s St.ok
    else ans { s with
      fbe := { s.fbe with seqIn := Tbl.set s.fbe.seqIn f.src ⟨f.seq, true, [], [], 0⟩ }
      tfm := { s.tfm with reads := s.tfm.reads.filter fun kv => kv.2.who != .fabric f.src } } St.ok

/-- OPEN_ACK at the source: the held requests leave. -/
def seqOpenAck (s : State) (f : Frame) : State :=
  let q := getSeqOut s f.src
  match q.reqs with
  | [] => s
  | m :: _ =>
    if q.opened || m.num != f.seq then s
    else if f.status = St.epochStale then seqBounced s f.src m.epoch f.epoch
    else if f.status != St.ok then failSeq s f.src f.status
    else resendSeq (setSeqOut s f.src { q with opened := true, rounds := 0, sentAt := now s }) f.src

/-- NAK at the source: SEQ_GAP has everything from the expected SEQ sent again, WAIT restarts the timer. -/
def seqNak (s : State) (f : Frame) : State :=
  let q := getSeqOut s f.src
  if f.reason = Nr.wait then setSeqOut s f.src { q with sentAt := now s }
  else if f.reason = Nr.seqGap && q.opened then
    (q.reqs.filter fun m => decide ((m.num + 2 ^ 32 - f.key) % 2 ^ 32 < 2 ^ 31)).foldl (fun a m => sendReq a f.src m) s
  else s

/-! ### The erg aperture (10 R279, R286) -/

/-- Commands and ports are served: boot done, power sound. -/
def hostOpen (s : State) (p : Nat) : Bool :=
  portsOpen s && (portMode s p == 1 || portMode s p == 2)

/-- The engine of an aperture request. -/
def aperEngine (a : Nat) : Nat := 4 + ergDomain a % 28

/-- Atomics unanswered toward a destination. -/
def atomicsOut (s : State) (d : Nat) : Nat := ((getSeqOut s d).reqs.filter fun m => isAtomic m.op).length

/-- A request made at the aperture; PCIe flow control holds it while its engine is full, or 64 atomics are unanswered. -/
def aperReq (s : State) (p tag op a n right : Nat) (size64 : Bool) (data : Bytes) : State :=
  let posted := op == Fo.mwrite
  if !hostOpen s p || decide (384 ≤ engineLoad s (aperEngine a)) || (right == 2 && decide (64 ≤ atomicsOut s (ergDomain a))) ||
      (!posted && Tbl.has s.fbe.aper (aperKey p tag)) then s
  else
    let s1 := if posted then s else { s with fbe := { s.fbe with aper := Tbl.set s.fbe.aper (aperKey p tag) (now s) } }
    let m : OutMsg := {
      num := 0, op := op, key := 0, addr := a, len := n, loc := 0, data := data, epoch := epochNum s, ordered := false
      size64 := size64, signed := false, tc := 0, tok := none, aper := some (p, tag), parent := none, routes := (0x1F, 0x1F)
      parts := 0, moved := 0, st := 0, dueAt := 0, why := 0, resends := 0, timer := 0, acked := false, units := [], total := none }
    if ergAllows s a n (s.sbu.set.apertureTenant.getD p 0) right then issueMem s1 (aperEngine a) m
    else endMemReq s1 m St.accessViolation []

/-- APERTURE_READ: a memory read TLP becomes an MREAD. -/
def execApertureRead (p tag addr len : Nat) (s : State) : Host.Outcome State Fault Refusal :=
  .next <| commit s <| if 1 ≤ len && len ≤ 4096 then aperReq s p tag Fo.mread addr len 0 false [] else s

/-- APERTURE_WRITE: a memory write TLP becomes an MWRITE. -/
def execApertureWrite (p addr : Nat) (bs : Bytes) (s : State) : Host.Outcome State Fault Refusal :=
  .next <| commit s <| if bs.isEmpty || 4096 < bs.length then s else aperReq s p 0 Fo.mwrite addr bs.length 1 false bs

/-- APERTURE_FETCH_ADD: a FetchAdd becomes an MADD. -/
def execApertureFetchAdd (p tag addr : Nat) (size64 : Bool) (v : Nat) (s : State) : Host.Outcome State Fault Refusal :=
  .next (commit s (aperReq s p tag Fo.madd addr (if size64 then 8 else 4) 2 size64 (leBytes 8 v ++ zeros 8)))

/-- APERTURE_CAS: a CAS becomes an MCAS. -/
def execApertureCas (p tag addr : Nat) (size64 : Bool) (cmp v : Nat) (s : State) : Host.Outcome State Fault Refusal :=
  .next (commit s (aperReq s p tag Fo.mcas addr (if size64 then 8 else 4) 2 size64 (leBytes 8 v ++ leBytes 8 cmp)))

/-- APERTURE_UNSUPPORTED: Swap and 128-bit CAS are answered Unsupported Request. -/
def execApertureUnsupported (p tag : Nat) (s : State) : Host.Outcome State Fault Refusal :=
  .next <| commit s <| if hostOpen s p then emit s (.tlp p tag 3 []) else s

/-- APERTURE_TIMEOUT: a non-posted request without an answer for 10 ms completes with Completer Abort. -/
def execApertureTimeout (p tag : Nat) (s : State) : Host.Outcome State Fault Refusal :=
  .next <| commit s <|
    match Tbl.get s.fbe.aper (aperKey p tag) with
    | none => s
    | some t =>
      if now s < t + 10 * ms then s
      else emit { s with fbe := { s.fbe with aper := Tbl.del s.fbe.aper (aperKey p tag) } } (.tlp p tag 2 [])

end Sys2Proof.Machine
end

