-- ==== Sys2Proof/Machine/FlashRead.lean ====
section
/-! DEFINITION. The .mem windows and flash reads (01 R18; 05 R117; 06 R140, R145 to R148, R151, R165, R168). -/

namespace Sys2Proof.Machine

/-! ### Windows (01 R18) -/

def memWin (s : State) (p : Nat) : MemWin := Tbl.getD s.tfm.memWin p ⟨0, 0, 0, none⟩

def inWin (w : MemWin) (a n : Nat) : Bool := decide (w.base ≤ a) && decide (a + n ≤ w.base + w.len)

/-- An access outside every window of its port is counted, and reported at most once per port per millisecond. -/
def outsideWin (s : State) (p addr : Nat) : State :=
  let w := memWin s p
  let due : Bool := match w.lastEvent with
    | none => true
    | some t => decide (t + ms ≤ now s)
  let w1 := { w with outside := w.outside + 1, lastEvent := if due then some (now s) else w.lastEvent }
  let s1 := { s with tfm := { s.tfm with memWin := Tbl.set s.tfm.memWin p w1 } }
  if due then post s1 Un.tfm Ek.port Ec.refused 2 0 (objPcie p) addr else s1

/-! ### Reads -/

/-- What a window read returns: zeros outside every page, the rest as stored. -/
def winRead (s : State) (a n : Nat) : Bytes :=
  (spans (n / 4096 + 2) a n).flatMap fun p => if gkind s (p.1 / 4096) = .outside then zeros p.2 else devRead s p.1 p.2

/-- A read that meets a LOST granule, a reserved address or an uncorrectable word. -/
def winBad (s : State) (a n : Nat) : Bool :=
  (granulesOf a n).any (fun g => gkind s g == .lost || gkind s g == .reserved || gkind s g == .beyond) || poisonedIn s a n

/-- Slots of the flash aperture that a range reads (06 R141, R167). -/
def viewReads (s : State) (a n : Nat) : State :=
  ((granulesOf a n).filter fun g => gkind s g == .flashView).foldl readMedia s

/-- Answer a .mem read: its data, or a poisoned completion. -/
def deliverRead (s : State) (p a n : Nat) : State :=
  if winBad s a n then emit (injectActs s 2 a n) (.readAns (.pcie p) false [])
  else emit (touchAll (viewReads s a n) a n) (.readAns (.pcie p) true (winRead s a n))

/-- The first FLASH granule of a range past a granule. -/
def nextFlash (s : State) (after a n : Nat) : Option Nat := (flashIn s a n).find? fun g => decide (after < g)

/-- An access that waits for a frame, or for the rebuild of the tier map. -/
def holdAccess (s : State) (g : Nat) (who : Reader) : State :=
  { s with tfm := { s.tfm with
    nextId := s.tfm.nextId + 1, reads := Tbl.set s.tfm.reads s.tfm.nextId ⟨g, who, now s, false, 0, true, 0⟩ } }

/-- A window read: FLASH granules are read one after the other, then the data is delivered. -/
def windowRead (s : State) (p addr len : Nat) : State :=
  if s.tfm.rebuilding then holdAccess s (addr / 4096) (.memRead p addr len)
  else if winBad s addr len then deliverRead s p addr len
  else match (flashIn s addr len).head? with
    | some g => startRead s g (.memRead p addr len)
    | none => deliverRead s p addr len

/-- MEM_WINDOW_READ. -/
def execMemWindowRead (p addr len : Nat) (s : State) : Host.Outcome State Fault Refusal :=
  .next <| commit s <|
    if !hostOpen s p || len = 0 || 4096 < len then s
    else if !inWin (memWin s p) addr len then emit (outsideWin s p addr) (.readAns (.pcie p) false [])
    else windowRead s p addr len

/-! ### Writes -/

/-- Writes to a granule that wait. -/
def writesWaiting (s : State) (g : Nat) : Bool :=
  s.tfm.reads.any fun kv => kv.2.granule == g && match kv.2.who with
    | .memWrite _ _ _ => true
    | _ => false

/-- One granule's piece of a .mem write: stored, waiting, or discarded with the event of its cause. -/
def winWrite (p : Nat) (s : State) (ab : Nat × Bytes) : State :=
  let a := ab.1
  let g := a / 4096
  let wait : State := holdAccess s g (.memWrite p a ab.2)
  if s.tfm.rebuilding then wait
  else match gkind s g with
  | .reserved => s
  | .beyond => s
  | .flashView => addrEvent s Ec.refused 1 St.accessViolation a 0
  | .outside => addrEvent s Ec.refused 2 St.accessViolation a 0
  | .lost => emit s (.readAns (.pcie p) false [])
  | .flash =>
    if readOnly s g then addrEvent s Ec.refused 1 St.accessViolation (pageAddr (pageOfGranule g)) 0
    else startRead s g (.memWrite p a ab.2)
  | .hbm =>
    if readOnly s g then addrEvent s Ec.refused 1 St.accessViolation (pageAddr (pageOfGranule g)) 0
    else if isDurable s g && durableShut s then addrEvent s Ec.refused 0 St.busy a 0
    else (storePiece s a ab.2).getD s
  | .zero =>
    if isDurable s g && durableShut s then addrEvent s Ec.refused 0 St.busy a 0
    else if !leavesFit s [g] then addrEvent s Ec.refused 0 St.noCapacity a 0
    else if writesWaiting s g then wait
    else (storePiece s a ab.2).getD wait

/-- MEM_WINDOW_WRITE. -/
def execMemWindowWrite (p addr : Nat) (bs : Bytes) (s : State) : Host.Outcome State Fault Refusal :=
  .next <| commit s <|
    if !hostOpen s p || bs.isEmpty || 4096 < bs.length then s
    else if !inWin (memWin s p) addr bs.length then outsideWin s p addr
    else if writesDead s then s
    else (piecesOf addr bs).foldl (winWrite p) s

/-! ### The end of a flash read (06 R146, R148, R151, R168, R169) -/

def dropRead (s : State) (id : Nat) : State := { s with tfm := { s.tfm with reads := Tbl.del s.tfm.reads id } }

/-- One waiter goes on, its granule's data being in. -/
def serveRead (s : State) (kv : Nat × FRead) : State :=
  match kv.2.who with
  | .memRead p a n =>
    match nextFlash s kv.2.granule a n with
    | some g => startRead (dropRead s kv.1) g kv.2.who
    | none => deliverRead (dropRead s kv.1) p a n
  | .memWrite _ a bs =>
    if writesDead s then dropRead s kv.1
    else match storePiece s a bs with
    | some s1 => dropRead s1 kv.1
    | none => { s with tfm := { s.tfm with reads := Tbl.set s.tfm.reads kv.1 { kv.2 with got := true } } }
  | .fabric src => resumeMem (dropRead s kv.1) src

/-- The mapped granules of a flash row. -/
def rowMates (s : State) (loc : Nat) : List Nat :=
  s.tfm.map.filterMap fun kv =>
    if kv.2.place == .flash && bandOfLoc s kv.2.loc == bandOfLoc s loc && locRow kv.2.loc == locRow loc then some kv.1 else none

def setRead (s : State) (id : Nat) (r : FRead) : State := { s with tfm := { s.tfm with reads := Tbl.set s.tfm.reads id r } }

/-- FLASH_READ_DONE: a read that its channel's arbiter granted (11 R331) ends. Data that passes its check goes to
everything that waits for the granule, in order, and what is still outstanding for it is discarded; a read that fails is
rebuilt from the row, unless another is outstanding; where the rebuild fails too the row has two unreadable members and
its granules are lost. -/
def execFlashReadDone (id : Nat) (ok : Bool) (s : State) : Host.Outcome State Fault Refusal :=
  .next <| commit s <|
    match Tbl.get s.tfm.reads id with
    | none => s
    | some r =>
      let t := tmap s r.granule
      if r.got || (!r.redirected && frozenSince s (0x50 + r.die / 16) r.at') then s
      else if !ok && 1 < r.left then setRead s id { r with left := r.left - 1 }
      else if !ok && !r.redirected then setRead (readOthers s t.loc) id { r with redirected := true, at' := now s, left := 1 }
      else
        let all := s.tfm.reads.filter fun kv => kv.2.granule == r.granule && !kv.2.got
        let s1 := if !ok && t.place = .flash then loseAll true St.mediaFail (rowMates s t.loc) s else s
        all.foldl serveRead s1

/-- Another die of a die's group is SLOW or FAILED. -/
def otherDown (s : State) (die : Nat) : Bool :=
  (List.range 16).any fun ch => ch * 16 + die % 16 != die && (dieAt s (ch * 16 + die % 16)).st != .ok

/-- READ_REDIRECT: a read outstanding that long is rebuilt from its row; more than 64 in a second mark the die SLOW, and all
its reads are rebuilt. -/
def execReadRedirect (id : Nat) (s : State) : Host.Outcome State Fault Refusal :=
  .next <| commit s <|
    match Tbl.get s.tfm.reads id with
    | none => s
    | some r =>
      if r.got || r.redirected || now s < r.at' + s.tfm.ctl.readRedirect * us || otherDown s r.die then s
      else
        let x := dieAt s r.die
        let fresh : Bool := decide (x.second + 1000 * ms ≤ now s)
        let n := if fresh then 1 else x.redirects + 1
        let slow : Bool := decide (64 < n) && x.st == .ok
        let x1 : Die := { x with
          redirects := n, total := x.total + 1, second := if fresh then now s else x.second
          st := if slow then .slow else x.st, slowAt := if slow then now s else x.slowAt }
        let redone (k : Nat) (y : FRead) : Bool := k == id || (slow && y.die == r.die && !y.got && !y.redirected)
        let s0 := (s.tfm.reads.filter fun kv => redone kv.1 kv.2).foldl (fun a kv => readOthers a (tmap s kv.2.granule).loc) s
        let redo (k : Nat) (y : FRead) : FRead :=
          if redone k y then { y with redirected := true, at' := now s, left := y.left + 1 } else y
        let s1 := setDie { s0 with tfm := { s0.tfm with reads := Tbl.map s0.tfm.reads redo } } r.die x1
        if slow then flashEvent s1 Ec.stateChange 2 0 (diePage r.die) 1 else s1

/-! ### Accesses that wait (06 R146, R151, R152, R171) -/

/-- One access that waits is tried again, unless the tier map is still rebuilt. A window write that finds neither leaf nor frame
meets R145 and R146 anew. -/
def retryOne (s : State) (kv : Nat × FRead) : State :=
  if !kv.2.got then s
  else match kv.2.who with
    | .memRead p a n => windowRead (dropRead s kv.1) p a n
    | .fabric src => resumeMem (dropRead s kv.1) src
    | .memWrite p a bs =>
      if kv.2.left = 0 && gkind s (a / 4096) != .zero then winWrite p (dropRead s kv.1) (a, bs)
      else if gkind s (a / 4096) = .zero && !leavesFit s [a / 4096] then
        addrEvent (dropRead s kv.1) Ec.refused 0 St.noCapacity a 0
      else ((storePiece s a bs).map fun s1 => dropRead s1 kv.1).getD s

/-- Everything that waits for a frame is tried again, in order: writes at the windows, and requests of the own aperture. -/
def retryWrites (s : State) : State :=
  if s.tfm.rebuilding then s
  else
    let s1 := s.tfm.reads.foldl retryOne s
    drainOwn s1.fbe.selfWaits.length s1

/-- MIGRATION_SWITCH: a demotion switches once its row is programmed and its record committed; a promotion once its copy is
made. Parked and collected granules switch with their own commitment. -/
def execMigrationSwitch (g : Nat) (s : State) : Host.Outcome State Fault Refusal :=
  .next <| commit s <|
    match Tbl.get s.tfm.moves g with
    | none => s
    | some m =>
      match m.kind with
      | .park _ => s
      | .unpark _ => s
      | .gc => s
      | _ =>
        if m.toFlash then (if m.committed then retryWrites (settleJobs (switchToFlash s g)) else s)
        else match promote (readMedia s g) g with
          | none => s
          | some s1 => settleJobs s1

/-- PARITY_REBUILD_DONE: the hardware parts stand again, and what waited for them goes on. -/
def execParityRebuildDone (s : State) : Host.Outcome State Fault Refusal :=
  .next <| commit s <|
    let s1 := retryWrites { s with tfm := { s.tfm with rebuilding := false } }
    s1.fbe.seqIn.foldl (fun a kv => resumeMem a kv.1) s1

end Sys2Proof.Machine
end

