-- ==== Sys2Proof/Machine/TierCmds.lean ====
section
/-! DEFINITION. The 0x05xx commands, DIAG_MEM_SCRUB, parking and the move of a home (06 R154, R155, R166, R173). -/

namespace Sys2Proof.Machine

/-- Bytes of the object region. -/
def objectBytes : Nat := 0x200000000000

/-- A LENGTH field: whole granules, 4 KiB to 32 TiB, not past the object region. -/
def rangeLen (base len : Nat) : Bool :=
  len % 4096 == 0 && decide (4096 ≤ len) && decide (base + len ≤ max objectBytes base) && decide (len ≤ objectBytes)

/-- A BASE field: on a granule of the object region. -/
def rangeBase (base : Nat) : Bool := base % 4096 == 0 && decide (base < objectBytes)

/-- Extents of 1 GiB that a range touches. -/
def extentsOf (base len : Nat) : List Nat := granules (base / 2 ^ 30) ((base + len - 1) / 2 ^ 30 - base / 2 ^ 30 + 1)

/-- No extent of the range carries another tenant than a TENANT session's (06 R142). -/
def Cmd.extentsOk (c : Cmd) (s : State) (base len : Nat) : Bool :=
  c.priv != .tenant || (extentsOf base len).all fun e => Tbl.getD s.tfm.extTenant e 0 == c.tenant

/-- Backed granules of a range in a place. -/
def rangeAt (s : State) (base len : Nat) (p : Place) : List Nat :=
  s.tfm.map.filterMap fun kv =>
    if decide (base / 4096 ≤ kv.1) && decide (kv.1 < (base + len) / 4096) && kv.2.place == p then some kv.1 else none

/-- Set the hint of a range, the durable region left out. -/
def setHints (s : State) (base len h : Nat) : State :=
  let hs := (rangeAt s base len .hbm ++ rangeAt s base len .flash).filter fun g => !isDurable s g
  hs.foldl (fun a g => setTmap a g { tmap a g with hint := h })
    { s with tfm := { s.tfm with hints := (base / 4096, len / 4096, h) :: s.tfm.hints } }

/-- A later TIER_HINT wins, granule by granule: the moves of a range's granules that go the other way from a pin, or that an
earlier pin had started, are abandoned (06 R149, R174). -/
def hintWins (s : State) (base len h : Nat) : State :=
  let other (k : Move) : Bool := match k.kind with
    | .gc => false
    | .hint _ => (h != 2 && h != 4) || k.toFlash != (h == 4)
    | _ => (h == 2 && k.toFlash) || (h == 4 && !k.toFlash)
  settleJobs ((s.tfm.moves.filter fun kv => decide (base / 4096 ≤ kv.1) && decide (kv.1 < (base + len) / 4096) && other kv.2).foldl
    (fun a kv => abandonMove a kv.1) s)

/-- OBJECT_FLASH_CAP holds `n` more granules, moves under way counted, and the tier takes writes (06 R144, R170). -/
def objectFlashFits (s : State) (n : Nat) : Bool :=
  let moving := s.tfm.moves.countP fun kv => kv.2.toFlash && paidByObject s kv.1 && kv.2.kind != .gc
  !readMostly s && decide (objectFlash s + moving + n ≤ s.ppm.objectFlashCap * 512)

/-- Start a tier command's moves; it is answered ST_PENDING and finishes after the last of them. -/
def startJob (s : State) (t : Tok) (mk : Nat → MoveKind) (toFlash : Bool) (gs : List Nat) : State :=
  let id := s.tfm.nextId
  let s1 := { s with tfm := { s.tfm with nextId := id + 1, jobs := Tbl.set s.tfm.jobs id ⟨t, 0, 0⟩ } }
  settleJobs (fillRow 0 (gs.foldl (startMove (mk id) toFlash) (complete s1 t St.pending 0 0 [] false)))

/-! ### TIER_HINT -/

def tierHint : Meaning := fun c s => do
  let base := c.fld 191 128
  let len := c.fld 127 64
  let h := c.fld 2 0
  let own := bit (c.fld 4 4) 0
  need (!(own && decide (1 ≤ c.payLen)) || c.isOp) St.privilege 0
  c.lenIs 24
  lenF (rangeLen base len) 64
  c.tgtRsv 0
  fldF (decide (h ≤ 4)) 0
  c.rsv 3 3
  c.rsv 47 5
  fldF (!own || len % 2 ^ 30 == 0) 64
  fldF (rangeBase base && (!own || base % 2 ^ 30 == 0)) 128
  need (c.extentsOk s base len) St.accessViolation 0
  let gs := (if h = 2 then rangeAt s base len .flash else if h = 4 then rangeAt s base len .hbm else []).filter fun g => !isDurable s g
  need (h != 2 || decide (gs.length ≤ objectFree s)) St.noCapacity 0
  need (h != 4 || objectFlashFits s gs.length) St.noCapacity 0
  let s1 := if own then { s with tfm := { s.tfm with
    extTenant := (extentsOf base len).foldl (fun t e => Tbl.set t e (c.fld 63 48)) s.tfm.extTenant } } else s
  let s2 := setHints (hintWins s1 base len h) base len h
  if gs.isEmpty then .ok (okAns, s2) else .ok (laterAns, startJob s2 c.tok .hint (h == 4) gs)

def execTierHint (r : Nat) (d : Dma) (s : State) : Host.Outcome State Fault Refusal :=
  .next (commit s (hostCmd 0x0501 [.operator, .tenant] r d tierHint s))

/-! ### TIER_MIGRATE -/

/-- Start a home move: MOVE_PEND, and the reservation to the new home (06 R155). -/
def startHomeMove (s : State) (t : Tok) (n dest : Nat) : State :=
  match getSlot s n with
  | none => s
  | some x =>
    let s1 := complete (setSlot s n { x with
      e := { x.e with movePend := true, inStep := true }, moveTok := some t, moveDest := dest, moveReady := false, moveAt := now s
      moveEpoch := epochNum s }) t
      St.pending 0 0 [] false
    let ns := ((getList s x.e.gid).map (·.ns)).getD 0
    emit s1 (.resv dest ⟨me s, x.e.gid, x.e.tenant, x.e.prio, x.e.usedHbm, resFlashOf x.e.usedHbm, false, x.e.durable,
      x.e.kvPerTok, x.e.pageClass, x.e.codecSlot, true, x.e.ctxLen, ns, epochNum s⟩)

def tierMigrate : Meaning := fun c s => do
  let base := c.fld 255 192
  let len := c.fld 191 128
  let mode := c.fld 3 0
  c.lenIs 32
  lenF (if mode = 3 then len == 0 else rangeLen base len) 128
  if mode = 3 then c.tgtRsv 32 else c.tgtRsv 0
  fldF (decide (1 ≤ mode) && decide (mode ≤ 3)) 0
  c.rsv 111 4
  fldF (if mode = 3 then base == 0 else rangeBase base) 192
  if mode = 3 then
    let (n, x) ← c.entry s c.target
    openEntry s n x
    stateErr (stepState x.e) x.e
    notBusyMove x
    need (c.fld 127 112 != x.e.home) St.noCapacity 0
    .ok (laterAns, startHomeMove s c.tok n (c.fld 127 112))
  else
    let toFlash := mode == 2
    let gs := (rangeAt s base len (if toFlash then .hbm else .flash)).filter fun g => !isDurable s g
    need (toFlash || decide (gs.length ≤ objectFree s)) St.noCapacity 0
    need (!toFlash || objectFlashFits s gs.length) St.noCapacity 0
    .ok (laterAns, startJob (setHints s base len (if toFlash then 3 else 1)) c.tok .migrate toFlash gs)
where
  notBusyMove (x : Slot) : Except Ans Unit := need (!x.e.inStep && !x.e.movePend) St.busy 0

def execTierMigrate (r : Nat) (d : Dma) (s : State) : Host.Outcome State Fault Refusal :=
  .next (commit s (hostCmd 0x0502 [.operator] r d tierMigrate s))

/-- HOME_MOVE_COMMIT: HOME_NODE and PLIST_ROOT in one update, then the release to the old home (06 R155 steps 3, 4). -/
def execHomeMoveCommit (slot newRoot : Nat) (s : State) : Host.Outcome State Fault Refusal :=
  .next <| commit s <|
    match getSlot s slot with
    | none => s
    | some x =>
      if !(x.e.movePend && x.moveReady) then s
      else
        let moved := pagesFor x.e.kvPerTok x.e.pageClass x.e.ctxLen * 2 ^ x.e.pageClass
        let e := { x.e with home := x.moveDest, plistRoot := newRoot, remoteHome := x.moveDest != me s }
        let s1 := setSlot s slot { x with e := e }
        let s2 := if x.e.remoteHome then emit s1 (.homeRelease x.e.home x.e.gid) else detachList s1 x.e.gid
        endMove s2 slot St.ok moved

/-! ### RANGE_TRIM (06 R166) -/

/-- TRIM records of at most 2^31 granules each. -/
def trimRecords : Nat → Nat → Nat → State → State
  | 0, _, _, s => s
  | k + 1, g, n, s =>
    if n = 0 then s else trimRecords k (g + min n (2 ^ 31)) (n - min n (2 ^ 31)) (journal s .trim g (min n (2 ^ 31)) zeroEntry 0)

def rangeTrim : Meaning := fun c s => do
  let base := c.fld 127 64
  let len := c.fld 63 0
  c.lenIs 16
  lenF (rangeLen base len) 0
  c.tgtRsv 0
  fldF (rangeBase base) 64
  need (c.extentsOk s base len) St.accessViolation 0
  need (!(durableShut s && s.tfm.map.any fun kv => decide (base / 4096 ≤ kv.1) && decide (kv.1 < (base + len) / 4096) && isDurable s kv.1))
    St.busy 0
  let s1 := trimRecords 4 (base / 4096) (len / 4096) s
  let gs := (Tbl.keys s.tfm.map).filter fun g => decide (base / 4096 ≤ g) && decide (g < (base + len) / 4096)
  let s2 := retryWrites (gs.foldl freeGranule s1)
  let id := s2.tfm.nextId
  .ok (laterAns, settleJobs { s2 with tfm := { s2.tfm with nextId := id + 1, jobs := Tbl.set s2.tfm.jobs id ⟨c.tok, 0, s1.jnl.seq - 1⟩ } })

def execRangeTrim (r : Nat) (d : Dma) (s : State) : Host.Outcome State Fault Refusal :=
  .next (commit s (hostCmd 0x0503 [.operator, .tenant] r d rangeTrim s))

/-! ### TIER_STATS, GC_SET_WEIGHTS, FLASH_HEALTH, DURABLE_FLUSH -/

def tierWords (s : State) : Bytes :=
  let w (n : Nat) : Bytes := leBytes 4 (satBits 32 n)
  ((List.range 12).flatMap fun k => w (stackFree s k)) ++ w (ceilDiv (objectFrames s) 16) ++ w (ceilDiv (objectFlash s) 512)
    ++ w (freeBands s) ++ leBytes 4 s.jnl.committed ++ w (leavesUsed s).length
    ++ w (s.tfm.map.countP fun kv => kv.2.place == .lost) ++ zeros 56

def tierStats : Meaning := fun c s => do
  c.lenIs 0
  c.bound 128
  c.tgtRsv 0
  .ok (okRes (tierWords s), s)

def execTierStats (r : Nat) (d : Dma) (s : State) : Host.Outcome State Fault Refusal :=
  .next (commit s (hostCmd 0x0504 [.operator, .maintenance] r d tierStats s))

def gcSetWeights : Meaning := fun c s => do
  let low := c.fld 39 28
  let urgent := c.fld 27 16
  c.lenIs 8
  c.tgtRsv 0
  c.rsv 15 0
  fldF (decide (32 ≤ urgent) && decide (urgent < low)) 16
  fldF (decide (64 ≤ low) && decide (low ≤ 2048)) 28
  .ok (okAns, { s with tfm := { s.tfm with gc := ⟨c.fld 63 56, c.fld 55 48, c.fld 47 40, low, urgent⟩ } })

def execGcSetWeights (r : Nat) (d : Dma) (s : State) : Host.Outcome State Fault Refusal :=
  .next (commit s (hostCmd 0x0510 [.operator] r d gcSetWeights s))

def DieSt.code : DieSt → Nat
  | .ok => 0 | .slow => 1 | .failed => 2

/-- Blocks of a die that are not as new. -/
def dieBlocks (s : State) (die : Nat) : List Block :=
  (s.tfm.blocks.filter fun kv => kv.1 / blocksPerDie == die).map (·.2)

def dieBytes (s : State) (die : Nat) : Bytes :=
  let bs := dieBlocks s die
  let x := dieAt s die
  leBytes 16 (Config.dieRecord [(bs.foldl (fun a b => a + b.erases) 0) / blocksPerDie,
    bs.foldl (fun a b => max a b.erases) 0, bs.countP (·.retired), x.total, x.st.code]).toNat

def flashHealth : Meaning := fun c s => do
  c.lenIs 0
  c.bound 4160
  c.tgtRsv 0
  let head := leBytes 64 (Config.healthSummary [spareBands s, freeBands s, wearNow s, s.tfm.blocks.countP fun kv => kv.2.retired]).toNat
  .ok (okRes (head ++ (List.range 256).flatMap (dieBytes s)), s)

def execFlashHealth (r : Nat) (d : Dma) (s : State) : Host.Outcome State Fault Refusal :=
  .next (commit s (hostCmd 0x0511 [.operator, .maintenance] r d flashHealth s))

def durableFlush : Meaning := fun c s => do
  c.lenIs 0
  c.tgtRsv 0
  need (!s.jnl.saving) St.busy 0
  .ok (pendAns, { s with jnl := { s.jnl with saving := true, saveTok := some c.tok } })

def execDurableFlush (r : Nat) (d : Dma) (s : State) : Host.Outcome State Fault Refusal :=
  .next (commit s (hostCmd 0x0512 [.operator] r d durableFlush s))

/-! ### DIAG_MEM_SCRUB -/

def diagMemScrub : Meaning := fun c s => do
  c.lenIs 8
  c.tgtRsv 0
  fldF (c.fld 1 0 != 0) 0
  c.rsv 63 2
  need s.tfm.scrub.isNone St.busy 0
  .ok (pendAns, { s with tfm := { s.tfm with scrub := some ⟨c.tok, c.fld 1 0, 0, 0⟩ } })

def execDiagMemScrub (r : Nat) (d : Dma) (s : State) : Host.Outcome State Fault Refusal :=
  .next (commit s (hostCmd 0x0E11 [.maintenance] r d diagMemScrub s))

/-- DIAG_SCRUB_DONE: the full pass ends. -/
def execDiagScrubDone (s : State) : Host.Outcome State Fault Refusal :=
  .next <| commit s <|
    match s.tfm.scrub with
    | none => s
    | some j => finish { s with tfm := { s.tfm with scrub := none } } j.tok St.ok j.corrected j.bad

/-! ### Parking (06 R154) -/

/-- The pages of a list that park: REFS 1, PREFIX clear. -/
def parkPages (s : State) (l : PList) : List Nat :=
  l.pages.filter fun id => match getPage s id with
    | some p => p.refs == 1 && !p.inPrefix
    | none => false

def startPark (kind : MoveKind) (toFlash : Bool) (hint : Nat) (s : State) (g : Nat) : State :=
  startMove kind toFlash (setTmap s g { tmap s g with hint := hint }) g

def setPark (s : State) (gid : Nat) (p : ParkJob) : State := { s with tfm := { s.tfm with parks := Tbl.set s.tfm.parks gid p } }

/-- REQ_PARK at the home: RES_FLASH is charged, and every private page starts its way to flash. -/
def homePark : HomeAct := fun m s => do
  let l ← m.list s
  m.check 0
  match Tbl.get s.rte.resv l.gid with
  | none => stop St.notFound
  | some r =>
    need (!Tbl.has s.tfm.parks l.gid) St.busy 0
    need (flashFits s r.flash) St.noCapacity 0
    let s1 := setPark (setResv s l.gid { r with both := true }) l.gid ⟨true, m.frm, m.id⟩
    let gs := ((parkPages s l).flatMap pageGs).filter fun g => (tmap s g).place == .hbm
    .ok (pendAns, fillRow 1 (gs.foldl (startPark (.park l.gid) true 4) s1))

/-- REQ_UNPARK at the home: RES_HBM is charged under steps 4 and 6 of R67, and the pages start back. -/
def homeUnpark : HomeAct := fun m s => do
  let l ← m.list s
  m.check 0
  match Tbl.get s.rte.resv l.gid with
  | none => stop St.notFound
  | some r =>
    need (!Tbl.has s.tfm.parks l.gid) St.busy 0
    need (capsOk (delResv s l.gid) r.cls r.tenant r.hbm && hbmFits s r.hbm) St.noCapacity 0
    let s1 := setPark (setResv s l.gid { r with both := true }) l.gid ⟨false, m.frm, m.id⟩
    let gs := (l.pages.flatMap pageGs).filter fun g => (tmap s g).place == .flash
    .ok (pendAns, gs.foldl (startPark (.unpark l.gid) false 1) s1)

/-- The owner's side: MOVE_PEND and IN_STEP (a page move runs), and the command waits for its final completion. -/
def ownMove (n : Nat) (t : Tok) (s : State) : State :=
  match getSlot s n with
  | none => s
  | some x => setSlot s n { x with e := { x.e with movePend := true, inStep := true }, moveTok := some t, moveDest := 0 }

def parkBusy (x : Slot) : Except Ans Unit := need (!x.e.inStep && !x.e.movePend && !x.restoring) St.busy 0

def parkCmd (op : Nat) (states : List RState) (act : HomeAct) : Meaning := fun c s => do
  c.lenIs 0
  c.tgtRsv 32
  let (n, x) ← c.entry s c.target
  let se : Except Ans Unit := do
    openEntry s n x
    parkBusy x
    stateIn x.e states
  if x.e.remoteHome || x.e.state.terminal then se
  if x.e.remoteHome then
    .ok (laterAns, sendForward (ownMove n c.tok s) c op x.e.home 0 [n])
  else atHome op c [n] x.e [se] act (ownMove n c.tok) s

def reqPark : Meaning := parkCmd 0x0208 [.admitted, .generate] homePark
def reqUnpark : Meaning := parkCmd 0x0209 [.parked] homeUnpark

def execReqPark (r : Nat) (d : Dma) (s : State) : Host.Outcome State Fault Refusal :=
  .next (commit s (hostCmd 0x0208 [.operator, .tenant] r d reqPark s))

def execReqUnpark (r : Nat) (d : Dma) (s : State) : Host.Outcome State Fault Refusal :=
  .next (commit s (hostCmd 0x0209 [.operator, .tenant] r d reqUnpark s))

/-- The units that a list pays for and that stay in HBM when it parks: its pages that are shared (06 R154). -/
def stayUnits (s : State) (l : PList) : Nat :=
  let parked := l.pages.filter fun id => (pageGs id).all fun g => (tmap s g).place == .flash
  ceilDiv ((l.pages.length - l.shared - parked.length) * psize l.cls) 65536

/-- The owner's update at a park's end: PARKED, with PRIOR_STATE; of USED_HBM what `stay`s in HBM remains, and the rest moves
to USED_FLASH. -/
def ownParked (s : State) (n stay : Nat) : State :=
  endMove (updEntry s n fun e => { e with
    prior := e.state, state := .parked, stateTime := now s, usedFlash := ceilDiv (e.usedHbm - stay) 32
    usedHbm := min stay e.usedHbm }) n St.ok 0

/-- The state an unpark returns to: PRIOR_STATE; where a caravan's commit has cleared it, the state the lengths show. -/
def unparkState (e : Entry) : RState :=
  if e.prior = .free then (if e.genLen = 0 then .admitted else .generate) else e.prior

/-- The owner's update at an unpark's end: PRIOR_STATE again. What PRIOR_STATE holds once the request has left PARKED the
spec does not say; the model clears it (DESIGN CHOICE, entry 44). -/
def ownUnparked (s : State) (n used : Nat) : State :=
  endMove (updEntry s n fun e => { e with
    state := unparkState e, prior := .free, stateTime := now s, usedFlash := 0, usedHbm := used }) n St.ok 0

/-- The owner hears of a park's or an unpark's end, with the units now used in HBM: at once where the request is owned here, else by the forward's final
answer. -/
def tellOwner (s : State) (gid : Nat) (p : ParkJob) (used : Nat) (own : State → Nat → State) : State :=
  if p.owner = me s then (match slotOfGid s gid with
    | some n => own s n
    | none => s)
  else
    let l := getList s gid
    report s (.send (.fwdAns p.owner ⟨me s, p.fwdId, St.ok, 0, 0, [], (l.map (·.ctxLen)).getD 0, used,
      (l.map (·.resUnits)).getD 0, none⟩))

def dropPark (s : State) (gid : Nat) : State := { s with tfm := { s.tfm with parks := Tbl.del s.tfm.parks gid } }

/-- PARK_COMMIT: the last MAP record of the pages is committed. In one update the entry is PARKED, the reservation is
exchanged, and the frames are freed. -/
def execParkCommit (gid : Nat) (s : State) : Host.Outcome State Fault Refusal :=
  .next <| commit s <|
    match Tbl.get s.tfm.parks gid, Tbl.get s.rte.resv gid with
    | some p, some r =>
      let gs := s.tfm.moves.filter fun kv => kv.2.kind == .park gid
      if !p.parking || gs.any fun kv => !kv.2.committed then s
      else
        let s1 := gs.foldl (fun a kv => switchToFlash a kv.1) (dropPark s gid)
        let s2 := setResv s1 gid { r with onFlash := true, both := false }
        let stay := ((getList s2 gid).map (stayUnits s2)).getD 0
        tellOwner s2 gid p stay fun a n => ownParked a n stay
    | _, _ => s

/-- UNPARK_DONE: the pages are back in HBM; the entry returns to PRIOR_STATE, the reservations are exchanged back and the
flash copies freed. -/
def execUnparkDone (gid : Nat) (s : State) : Host.Outcome State Fault Refusal :=
  .next <| commit s <|
    match Tbl.get s.tfm.parks gid, Tbl.get s.rte.resv gid, getList s gid with
    | some p, some r, some l =>
      let gs := (s.tfm.moves.filter fun kv => kv.2.kind == .unpark gid).map (·.1)
      let moved : Option State := gs.foldl (fun o g => o.bind fun a => promote (readMedia a g) g) (some s)
      if p.parking then s
      else match moved with
        | none => s
        | some s1 =>
          let s2 := setResv (dropPark s1 gid) gid { r with onFlash := false, both := false }
          tellOwner s2 gid p l.usedUnits fun a n => ownUnparked a n l.usedUnits
    | _, _, _ => s

end Sys2Proof.Machine
end

