-- ==== Sys2Proof/Machine/CodecCmds.lean ====
section
/-! DEFINITION. The 0x06xx commands (07 R176, R177, R201 to R204, R448, R449). -/

namespace Sys2Proof.Machine

/-! ### Slots -/

/-- A TENANT session may name a slot of its own tenant, or an EMPTY one (07 R177 step 1). -/
def slotMine (isTenant : Bool) (tenant : Nat) (x : CSlot) : Bool := !isTenant || x.gens.isEmpty || x.tenant == tenant

/-- The generation an encoding uses: none while the newest is cleared, or there is none. -/
def encGen (x : CSlot) : Option Gen := if x.cleared then none else x.newest

/-! ### CODEC_TABLE_LOAD -/

/-- Fields of the header, and whether R448 makes each zero: those of QUANT, those of LOSSLESS. -/
def quantFields (h : Nat) : List (Nat × Nat) :=
  [(385, bits h 385 385), (386, bits h 394 386), (395, bits h 396 395), (397, bits h 397 397), (398, bits h 401 398),
   (402, bits h 409 402), (410, bits h 414 410), (415, bits h 422 415), (423, bits h 429 423), (430, bits h 431 430),
   (432, bits h 433 432), (434, bits h 447 434)]

def losslessFields (h : Nat) : List (Nat × Nat) := [(381, bits h 384 381), (448, bits h 471 448)]

def zeroFields : List (Nat × Nat) → List (Bool × Nat × Nat)
  | [] => []
  | (lo, v) :: t => (v == 0, St.fieldRange, inPay (lo / 8)) :: zeroFields t

/-- Body bytes of a header's KIND. -/
def bodyLen (h : Nat) : Nat :=
  if bits h 3 0 = 2 then (if bit h 385 then 256 else 16) else if bits h 3 0 = 1 then bits h 471 448 else 0

/-- Step 9 of R50 for a table header. -/
def loadLens (c : Cmd) (h : Nat) : Except Ans Unit := do
  let k := bits h 3 0
  needAll [(k != 2 || decide (bits h 401 398 ≤ 8), St.lengthRange, inPay 49),
    (k != 2 || (decide (1 ≤ bits h 414 410) && decide (bits h 414 410 ≤ 16)), St.lengthRange, inPay 51),
    (k != 2 || decide (bits h 429 423 ≤ 64), St.lengthRange, inPay 52),
    (k != 1 || decide (bits h 471 448 ≤ 262144), St.lengthRange, inPay 56)]
  need (decide (64 ≤ c.payLen) && c.payLen == 64 + bodyLen h) St.lengthRange 24

/-- Step 10 of R50 for a table header, in field order. -/
def loadFields (h : Nat) : Except Ans Unit :=
  let k := bits h 3 0
  let tag := bits h 15 12
  let codes := if bit h 385 then 256 else 16
  needAll <|
    [(decide (k ≤ 2), St.fieldRange, inPay 0), (bits h 11 10 == 0, St.fieldRange, inPay 1),
     (if k = 0 then tag == 0 else decide (tag ≤ 8), St.fieldRange, inPay 1),
     (bits h 380 16 == 0, St.fieldRange, inPay 2)] ++
    (if k = 1 then [(decide (1 ≤ bits h 384 381) && decide (bits h 384 381 ≤ 9), St.fieldRange, inPay 47)]
     else zeroFields [(381, bits h 384 381)]) ++
    (if k = 2 then
      [(bits h 394 386 == 0x1FF || decide (bits h 394 386 < codes), St.fieldRange, inPay 48),
       (bits h 396 395 != 3, St.fieldRange, inPay 49),
       (bits h 409 402 == 0 || decide (16 ≤ bits h 409 402), St.fieldRange, inPay 50),
       ((bits h 422 415 == 0) == (bits h 429 423 == 0), St.fieldRange, inPay 51),
       (bits h 431 430 != 3, St.fieldRange, inPay 53)]
     else zeroFields (quantFields h)) ++
    (if k = 1 then [] else zeroFields [(448, bits h 471 448)]) ++ [(bits h 511 472 == 0, St.fieldRange, inPay 59)]

/-- The QUANT table a header and body make. -/
def loadTab (h : Nat) (body : Bytes) : QTab := qtab ⟨0, h, body, 0, 0, 0⟩

/-- Step 2 of R177. -/
def loadStep2 (q : QTab) (body : Bytes) : Except Ans Unit := do
  match body.findIdx? fun b => b == 0x80 with
  | some i => stop St.fieldRange (inPay (64 + i))
  | none => .ok ()
  match q.esc with
  | some e => need (q.levels.getD e 0 == 0) St.fieldRange (inPay (64 + e))
  | none => .ok ()
  need (q.lmax != 0) St.fieldRange (inPay 64)
  need (decide (q.group ≤ q.headDim)) St.fieldRange (inPay 49)
  if q.hasLayout then
    need (decide (64 ≤ q.recLen) && decide (q.recLen ≤ 524288)) St.lengthRange (inPay 48)
  else .ok ()

/-- Step 3 of R177: one layout to a slot. -/
def loadStep3 (x : CSlot) (k : Nat) (q : QTab) : Except Ans Unit := do
  match x.gens with
  | [] => .ok ()
  | g :: _ =>
    need (if k = 1 then x.cond == .lossless else x.cond == .quant) St.fieldRange (inPay 0)
    if k = 2 && q.hasLayout then
      let p := qtab g
      needAll [(p.layers == q.layers, St.fieldRange, inPay 51), (p.kvHeads == q.kvHeads, St.fieldRange, inPay 52),
        (p.headDim == q.headDim, St.fieldRange, inPay 53), (p.group == q.group, St.fieldRange, inPay 49),
        (p.w == q.w, St.fieldRange, inPay 48), (p.sideInline == q.sideInline, St.fieldRange, inPay 54),
        (p.sidePool == q.sidePool, St.fieldRange, inPay 54)]
    else .ok ()

/-- RESULT0 of a load: TABLE_ID and tag. -/
def loadR0 (tableId tag : Nat) : Nat := tableId <<< 32 ||| tag

/-- CLEAR: the newest generation may retire. -/
def clearSlot (k : Nat) (x : CSlot) (s : State) : Except Ans (Ans × State) :=
  match x.newest with
  | none => stop St.state
  | some g => .ok (okR0 (loadR0 g.tableId g.tag), retireGens (setCSlot s k { x with cleared := true }) k)

def codecTableLoad : Meaning := fun c s => do
  let h := leNat (c.pay.take 64)
  let k := bits h 3 0
  let body := c.pay.drop 64
  loadLens c h
  c.tgtRsv 0
  loadFields h
  let slot := bits h 9 4
  let x := cslot s slot
  need (slotMine (c.priv == .tenant) c.tenant x) St.accessViolation 0
  if k = 0 then clearSlot slot x s
  else
    let q := loadTab h body
    if k = 2 then loadStep2 q body else .ok ()
    loadStep3 x k q
    let id := crc32c (tableBytes h body)
    need (x.gens.all fun g => g.tableId != id) St.fieldRange (inPay 0)
    let want := bits h 15 12
    let used := x.gens.map (·.tag)
    need (decide (x.gens.length < 8) && !used.contains want) St.busy 0
    let tag := if want < 8 then want else lowestNot used 8 0
    let seq := s.cdu.loadSeq + 1
    let x1 : CSlot := { x with
      cond := if k = 1 then .lossless else .quant, tenant := if x.gens.isEmpty then c.tenant else x.tenant
      gens := x.gens ++ [⟨tag, h, body, id, seq, 0⟩], cleared := false }
    let s1 := setCSlot { s with cdu := { s.cdu with loadSeq := seq } } slot x1
    .ok (okR0 (loadR0 id tag), retireGens s1 slot)

def execCodecTableLoad (r : Nat) (d : Dma) (s : State) : Host.Outcome State Fault Refusal :=
  .next (commit s (hostCmd 0x0601 [.operator, .tenant] r d codecTableLoad s))

/-! ### CODEC_TABLE_QUERY (07 R449) -/

def SlotCond.code : SlotCond → Nat
  | .empty => 0 | .lossless => 1 | .quant => 2

def slotRecord (x : CSlot) : Bytes :=
  leBytes 32 (x.cond.code ||| x.gens.length <<< 4 ||| ((x.newest.map (·.tag)).getD 0xF) <<< 8 ||| x.tenant <<< 80
    ||| fingerprint x <<< 96 ||| x.nonfinite <<< 128 ||| x.saturated <<< 192)

def genRecord (x : CSlot) (tag : Nat) : Bytes :=
  match x.byTag tag with
  | none => zeros 32
  | some g =>
    let newest := (x.newest.map (·.tag)) == some tag
    leBytes 32 ((if newest then (if x.cleared then 3 else 2) else 1) ||| g.tableId <<< 96 ||| g.loadSeq <<< 128 ||| g.refs <<< 216)

def codecTableQuery : Meaning := fun c s => do
  c.lenIs 8
  c.bound 288
  c.tgtRsv 0
  c.rsv 63 6
  let x := cslot s (c.fld 5 0)
  need (slotMine (c.priv == .tenant) c.tenant x) St.accessViolation 0
  .ok (okRes (slotRecord x ++ (List.range 8).flatMap (genRecord x)), s)

def execCodecTableQuery (r : Nat) (d : Dma) (s : State) : Host.Outcome State Fault Refusal :=
  .next (commit s (hostCmd 0x0602 [.operator, .tenant, .maintenance] r d codecTableQuery s))

/-! ### Jobs: commands answered ST_PENDING first -/

/-- Generations (slot, tag) as a job holds them: slot and load sequence number. -/
def heldAs (s : State) (gs : List (Nat × Nat)) : List (Nat × Nat) :=
  gs.filterMap fun kt => ((cslot s kt.1).byTag kt.2).map fun g => (kt.1, g.loadSeq)

/-- One reference to each of some generations (slot, tag). -/
def holdGens (s : State) (gs : List (Nat × Nat)) : State := gs.foldl (fun a kt => holdRef a kt.1 kt.2) s

/-- Let go of a held generation. -/
def letGo (s : State) (h : Nat × Nat) : State :=
  match (cslot s h.1).gens.find? fun g => g.loadSeq == h.2 with
  | none => s
  | some g => dropRef s h.1 g.tag

/-- Keep a command's final completion for CODEC_COMMAND_DONE, and what it holds until then. -/
def startCodecJob (s : State) (t : Tok) (held : List (Nat × Nat)) (a : Ans) : State :=
  let j : CodecJob := ⟨t, held, a.r0, a.detail, a.st.getD St.ok⟩
  { s with cdu := { s.cdu with jobs := Tbl.set s.cdu.jobs s.cdu.nextJob j, nextJob := s.cdu.nextJob + 1 } }

/-- CODEC_COMMAND_DONE: the final completion of a codec command is formed; its generations are let go. -/
def execCodecCommandDone (id : Nat) (s : State) : Host.Outcome State Fault Refusal :=
  .next <| commit s <|
    match Tbl.get s.cdu.jobs id with
    | none => s
    | some j =>
      finish (j.held.foldl letGo { s with cdu := { s.cdu with jobs := Tbl.del s.cdu.jobs id } }) j.tok j.st j.r0 j.detail

/-- Answer a command ST_PENDING and keep its end as a job. It holds the generations that it encodes and decodes with from its
start, that is before `work` is done, to its final completion (07 R178). -/
def pendJob (c : Cmd) (gens : List (Nat × Nat)) (r0 detail st : Nat) (work : State → State) (s : State) :
    Except Ans (Ans × State) :=
  .ok (pendAns, startCodecJob (work (holdGens s gens)) c.tok (heldAs s gens) { st := some st, r0 := r0, detail := detail })

/-! ### Ranges of the object region -/

def objAddr (a : Nat) : Bool := a % 8 == 0 && decide (a < objectBytes)

/-- Extents of a range suit the sender's tenant (06 R142). -/
def rangeMine (s : State) (isTenant : Bool) (tenant base len : Nat) : Bool :=
  !isTenant || len == 0 || (extentsOf base len).all fun e => Tbl.getD s.tfm.extTenant e 0 == tenant

/-- An object's whole index table and its data area suit the sender's tenant. -/
def objectMine (s : State) (isTenant : Bool) (tenant idx : Nat) (i : Index) : Bool :=
  rangeMine s isTenant tenant idx (64 + 8 * i.count) && rangeMine s isTenant tenant i.base i.coded

def blocksOf (total : Nat) : Nat := ceilDiv total 65536

/-- Bytes of an index table. -/
def indexLen (blocks : Nat) : Nat := 64 + 8 * blocks

/-- A range may be read, and may be written; the status says why not. -/
def canRead (s : State) (a n : Nat) : Except Ans Unit := need (rangeRead s a n == St.ok) (rangeRead s a n) 0
def canWrite (s : State) (a n : Nat) : Except Ans Unit := need (rangeWrite s a n == St.ok) (rangeWrite s a n) 0

/-! ### CODEC_COMPRESS -/

def codecCompress : Meaning := fun c s => do
  let src := c.fld 319 256
  let base := c.fld 255 192
  let idx := c.fld 191 128
  let total := c.fld 127 88
  let limit := c.fld 87 48
  let n := blocksOf total
  c.lenIs 40
  lenF (decide (n * 65552 ≤ limit) && decide (base + limit ≤ max objectBytes base)) 48
  lenF (decide (1 ≤ total) && decide (total ≤ 1099511562240) && decide (src + total ≤ max objectBytes src) &&
    decide (idx + indexLen n ≤ max objectBytes idx)) 88
  c.tgtRsv 0
  c.rsv 47 6
  fldF (objAddr idx) 128
  fldF (objAddr base) 192
  fldF (objAddr src) 256
  let slot := c.fld 5 0
  let x := cslot s slot
  need (rangeMine s (c.priv == .tenant) c.tenant src total && rangeMine s (c.priv == .tenant) c.tenant base limit &&
    rangeMine s (c.priv == .tenant) c.tenant idx (indexLen n) && slotMine (c.priv == .tenant) c.tenant x) St.accessViolation 0
  fldF (x.cond == .lossless) 0
  match encGen x with
  | none => stop St.state
  | some g =>
    canRead s src total
    canWrite s base limit
    canWrite s idx (indexLen n)
    let blocks := (chunks 65536 n (devRead s src total)).map fun b => some (losslessBlock slot g b)
    let (coded, s1) ← orFull (writeObject (readAll s src total) base idx total 0 slot 1 blocks)
    let named := blocks.countP fun b => !(b.map fun bs => (blkHdr (leNat (bs.take 16))).raw).getD true
    pendJob c [(slot, g.tag)] coded 0 St.ok (fun t => holdN t slot g.tag named) s1

def execCodecCompress (r : Nat) (d : Dma) (s : State) : Host.Outcome State Fault Refusal :=
  .next (commit s (hostCmd 0x0603 [.operator, .tenant] r d codecCompress s))

/-! ### CODEC_DECOMPRESS -/

/-- The bytes of a decoded block's raw range: elements of a QUANT block as BF16, the raw form they had. -/
def decodedBytes (n : Nat) (r : Except (Nat × Bytes) Decoded) : Bytes :=
  match r with
  | .error e => (e.2 ++ zeros n).take n
  | .ok (.raw bs) => bs
  | .ok (.elems xs _) => xs.flatMap fun x => leBytes 2 (toBf16 x).toNat

/-- Write decoded pieces one after another from an address, then poison those that failed (07 R184, R185). -/
def writePieces (s : State) (dest : Nat) (ps : List (Bytes × Bool)) : Option State :=
  (devWrite s dest (ps.flatMap (·.1))).map fun s1 =>
    (ps.foldl (fun (a : State × Nat) p => (if p.2 then a.1 else poisonRange a.1 a.2 p.1.length, a.2 + p.1.length)) (s1, dest)).1

def isOk {ε α : Type} : Except ε α → Bool
  | .ok _ => true
  | .error _ => false

/-- The answer of a command that decodes several pieces (07 R186). -/
def decodeAns {α : Type} (rs : List (Except Nat α)) : Ans :=
  { st := some ((failures rs).headD St.ok), detail := (failures rs).length, result := statusBytes rs }

def codecDecompress : Meaning := fun c s => do
  let idx := c.fld 255 192
  let dest := c.fld 191 128
  let dlen := c.fld 127 88
  let first := c.fld 87 64
  let count := c.fld 63 40
  c.lenIs 32
  lenF (decide (1 ≤ count) && decide (count ≤ 65536)) 40
  lenF (decide (dest + dlen ≤ max objectBytes dest)) 88
  c.bound (2 * count)
  c.tgtRsv 0
  c.rsv 39 0
  fldF (objAddr dest) 128
  fldF (objAddr idx) 192
  need (rangeMine s (c.priv == .tenant) c.tenant idx 64 && rangeMine s (c.priv == .tenant) c.tenant dest dlen) St.accessViolation 0
  match readIndex s idx with
  | .error st => stop st
  | .ok i =>
    need (objectMine s (c.priv == .tenant) c.tenant idx i) St.accessViolation 0
    lenF (decide (first + count ≤ i.count)) 40
    let ks := granules first count
    let bytes := ks.foldl (fun a k => a + impliedRaw i k) 0
    lenF (decide (bytes ≤ dlen)) 88
    canWrite s dest bytes
    let rs := ks.map (decodeBlkOut s idx i)
    let ps := (ks.zip rs).map fun kr => (decodedBytes (impliedRaw i kr.1) kr.2, isOk kr.2)
    let s1 ← orFull (writePieces (readAll s i.base i.coded) dest ps)
    .ok (decodeAns (rs.map statusOf), s1)

def execCodecDecompress (r : Nat) (d : Dma) (s : State) : Host.Outcome State Fault Refusal :=
  .next (commit s (hostCmd 0x0604 [.operator, .tenant] r d codecDecompress s))

/-! ### The 64-byte payload of R202 -/

structure QPay where
  scaleAddr : Nat
  src : Nat
  base : Nat
  idx : Nat
  total : Nat
  limit : Nat
  first : Nat
  toks : Nat
  row : Nat
  kv : Bool
  given : Bool
  slot : Nat
  bf16Out : Bool
  deriving DecidableEq, Repr

def qpay (n : Nat) : QPay where
  scaleAddr := bits n 447 384
  src := bits n 383 320
  base := bits n 319 256
  idx := bits n 255 192
  total := bits n 191 152
  limit := bits n 151 112
  first := bits n 111 91
  toks := bits n 90 70
  row := bits n 69 49
  kv := bit n 7
  given := bit n 6
  slot := bits n 5 0
  bf16Out := bit n 8

/-- Which of the three commands with this payload. -/
inductive QOp where
  | quantize | dequantize | scaleFind
  deriving DecidableEq, Repr

/-- Steps 9 and 10 of R50. -/
def qpayChecks (c : Cmd) (op : QOp) (p : QPay) : Except Ans Unit := do
  c.lenIs 64
  if p.kv then
    lenF (p.row == 0) 49
    lenF (decide (1 ≤ p.toks) && decide (p.toks ≤ 65536)) 70
    lenF (op == .dequantize || p.limit == 0) 112
    lenF (p.total == 0) 152
    if op = .dequantize then
      lenF (decide (p.base + p.limit ≤ max objectBytes p.base)) 112
      c.bound (2 * p.toks)
    c.tgtRsv 32
  else
    lenF (p.toks == 0) 70
    if op = .quantize then lenF (decide (blocksOf p.total * 65552 ≤ p.limit) && decide (p.base + p.limit ≤ max objectBytes p.base)) 112
    if op = .dequantize then lenF (decide (p.base + p.limit ≤ max objectBytes p.base)) 112
    lenF (decide (64 ≤ p.total) && decide (p.total ≤ 1099511562240) && decide (p.src + p.total ≤ max objectBytes p.src)) 152
    if op = .dequantize then c.bound (2 * blocksOf p.total)
    c.tgtRsv 0
  if op = .dequantize then c.rsv 48 9 else c.rsv 48 8
  fldF (!p.kv || decide (p.first ≤ 1048575)) 91
  if op != .scaleFind then fldF (objAddr p.idx && (!p.kv || p.idx == 0)) 192
  if op = .quantize then fldF (objAddr p.base && (!p.kv || p.base == 0)) 256
  if op = .dequantize then fldF (objAddr p.base) 256
  if op != .dequantize then fldF (objAddr p.src) 320
  fldF (objAddr p.scaleAddr && (p.given || op == .scaleFind || p.scaleAddr == 0)) 384
  c.rsv 511 448

/-! ### Quantizing an object (07 R202) -/

def bf16sAt (s : State) (a n : Nat) : List (BitVec 16) := bf16sOf (devRead s a (2 * n)) n

/-- Units of an object: rows, or groups. -/
def objUnits (q : QTab) (row : Nat) (xs : List (BitVec 16)) : List (List (BitVec 16)) :=
  let n := if q.grouped then q.group else row
  chunks n (ceilDiv xs.length n) xs

/-- The scale of each unit: given, or from the first pass. -/
def unitScales (s : State) (q : QTab) (p : QPay) (units : List (List (BitVec 16))) : List (BitVec 16) :=
  if p.given then bf16sAt s p.scaleAddr units.length else units.map fun u => scaleOf q (clipPoint q u)

/-- The scale of each group of an object. -/
def groupScales (q : QTab) (row n : Nat) (units : List (BitVec 16)) : List (BitVec 16) :=
  (List.range (n / q.group)).map fun g => units.getD (if q.grouped then g else g * q.group / row) 0

/-- The lengths of an object that depend on the slot's GROUP. -/
def objShape (q : QTab) (p : QPay) : Except Ans Unit := do
  lenF (decide (q.group ≤ p.row) && decide (p.row ≤ 1048576) && p.row % q.group == 0) 49
  lenF (p.total % (2 * q.group) == 0) 152

/-- The slot is QUANT, and a generation encodes. -/
def quantSlot (x : CSlot) : Except Ans Unit := fldF (x.cond == .quant) 0

/-- The table whose GROUP the lengths of an object answer to: the newest. -/
def newTab (x : CSlot) : Except Ans QTab :=
  match x.newest with
  | none => stop St.state
  | some g => .ok (qtab g)

def encTab (x : CSlot) : Except Ans QTab :=
  match encGen x with
  | none => stop St.state
  | some g => .ok (qtab g)

/-- The blocks of an object: each block's bytes, and what found no room. -/
def objBlocks (q : QTab) (slot : Nat) (xs : List (BitVec 16)) (scales : List (BitVec 16)) : List (Bytes × Lost3) :=
  let n := ceilDiv xs.length 32768
  ((chunks 32768 n xs).zip (chunks (32768 / q.group) n scales)).map fun b =>
    let e := encodeBlock q (b.1.map ofBf16) b.2
    (quantBlock slot q e.1 (2 * b.1.length), e.2)

/-- Scales of an object end within the object region. -/
def scaleRoom (q : QTab) (p : QPay) : Except Ans Unit :=
  lenF (decide (p.scaleAddr + 2 * ceilDiv (p.total / 2) (if q.grouped then q.group else p.row) ≤ objectBytes)) 152

def quantObject (c : Cmd) (p : QPay) (s : State) : Except Ans (Ans × State) := do
  let ten := c.priv == .tenant
  let x := cslot s p.slot
  let n := blocksOf p.total
  need (rangeMine s ten c.tenant p.src p.total && rangeMine s ten c.tenant p.base p.limit &&
    rangeMine s ten c.tenant p.idx (indexLen n) && slotMine ten c.tenant x) St.accessViolation 0
  quantSlot x
  objShape (← newTab x) p
  if p.given then scaleRoom (← newTab x) p
  let q ← encTab x
  canRead s p.src p.total
  canWrite s p.base p.limit
  canWrite s p.idx (indexLen n)
  let xs := bf16sAt s p.src (p.total / 2)
  let units := objUnits q p.row xs
  if p.given then
    need (rangeMine s ten c.tenant p.scaleAddr (2 * units.length)) St.accessViolation 0
    canRead s p.scaleAddr (2 * units.length)
  let blocks := objBlocks q p.slot xs (groupScales q p.row xs.length (unitScales s q p units))
  let (coded, s1) ← orFull (writeObject (readAll s p.src p.total) p.base p.idx p.total p.row p.slot 2 (blocks.map fun b => some b.1))
  let lost := blocks.foldl (fun a b => a.add b.2) ⟨0, 0⟩
  pendJob c [(p.slot, q.tag)] coded 0 St.ok (fun t => countLost (holdN t p.slot q.tag blocks.length) p.slot lost) s1

/-! ### Quantizing key-value records (07 R203) -/

/-- Elements of one token's record. -/
def QTab.recElems (q : QTab) : Nat := q.groups * q.group

/-- The unit of a group. -/
def QTab.unitOf (q : QTab) (g : Nat) : Nat := if q.grouped then g else g / q.headGroups

def QTab.units (q : QTab) : Nat := if q.grouped then q.groups else q.groups / q.headGroups

/-- Elements of each unit across tokens. -/
def kvUnits (q : QTab) (toks : List (List (BitVec 16))) : List (List (BitVec 16)) :=
  let n := q.recElems / q.units
  (List.range q.units).map fun u => toks.flatMap fun t => (t.drop (u * n)).take n

/-- The slot of a request's list suits it: the entry's, with its record length (07 R203). -/
def kvSlotOk (s : State) (slot : Nat) (l : PList) : Bool :=
  slot == l.codecSlot && match (cslot s slot).newest with
    | none => false
    | some g => (qtab g).hasLayout && (qtab g).recLen == l.kvPerTok

/-- The records of a bulk command: groups with their scales and clip points. -/
def bulkRecord (q : QTab) (scales amaxs : List (BitVec 16)) (xs : List (BitVec 16)) : List RecGroup :=
  (List.range q.groups).map fun g =>
    ⟨scales.getD (q.unitOf g) 0, amaxs.getD (q.unitOf g) 0, ((xs.drop (g * q.group)).take q.group).map ofBf16⟩

/-- Write records from a token up, one after another; the losses are counted. -/
def writeRecords (q : QTab) (l : PList) (slot first : Nat) (recs : List (List RecGroup)) (s : State) : Option State :=
  (indexed recs).foldl (fun o ir => andThen o fun t =>
    let (esc, lost) := recEscapes q ir.2
    (listWrite t l ((first + ir.1) * l.kvPerTok) (recordBytes q (ir.1 == 0) ir.2 esc (ir.2.map (·.amax))) slot q.tag).map
      fun u => countLost u slot lost) (some s)

/-- CODEC_QUANTIZE with KV at the home. -/
def homeQuantize : HomeAct := fun m s => do
  let p := qpay (leNat m.pay)
  let l ← m.list s
  let x := cslot s p.slot
  need (slotMine m.isTenant m.tenant x) St.accessViolation 0
  quantSlot x
  fldF (kvSlotOk s p.slot l) 0
  lenF (decide ((p.first + p.toks) * l.kvPerTok ≤ l.pages.length * psize l.cls)) 70
  fldF (decide (l.shared * psize l.cls ≤ p.first * l.kvPerTok)) 91
  m.check 0
  let q ← encTab x
  let n := q.recElems
  lenF (decide (p.src + 2 * n * p.toks ≤ objectBytes) && (!p.given || decide (p.scaleAddr + 2 * q.units ≤ objectBytes))) 70
  need (rangeMine s m.isTenant m.tenant p.src (2 * n * p.toks) &&
    (!p.given || rangeMine s m.isTenant m.tenant p.scaleAddr (2 * q.units))) St.accessViolation 0
  canRead s p.src (2 * n * p.toks)
  if p.given then canRead s p.scaleAddr (2 * q.units)
  let toks := chunks n p.toks (bf16sAt s p.src (n * p.toks))
  let units := kvUnits q toks
  let scales := unitScales s q p units
  let amaxs := if p.given then scales.map (givenAmax q) else units.map fun u => toBf16 (clipPoint q u)
  let s1 ← orFull (privRun s l.gid (p.first * l.kvPerTok) (p.toks * l.kvPerTok))
  let s2 ← orFull (writeRecords q ((getList s1 l.gid).getD l) p.slot p.first (toks.map (bulkRecord q scales amaxs)) s1)
  .ok (okR0 (p.toks * l.kvPerTok), s2)

/-- A codec command on a request's list: at a local home a job keeps its end, a remote home's answer is its end. -/
def kvPending (op : Nat) (act : HomeAct) (gens : State → List (Nat × Nat)) : Meaning := fun c s => do
  let (n, x) ← c.entry s c.target
  let se : Except Ans Unit := do
    openEntry s n x
    stateErr (stepState x.e) x.e
    need (!x.e.inStep && !x.e.movePend && !x.restoring) St.busy 0
  if x.e.state.terminal then se
  if x.e.remoteHome then
    let s1 := if (verdict se).1 = St.ok then complete s c.tok St.pending 0 0 [] false else s
    .ok (laterAns, sendForward s1 c op x.e.home 0 [n] [se])
  else
    match act (homeMsg s c op 0 [n] [se]) (holdGens s (gens s)) with
    | .error a => .error a
    | .ok (a, s1) => .ok (pendAns, startCodecJob s1 c.tok (heldAs s (gens s)) { a with st := some St.ok })

/-- The generation that an encoding with a slot uses. -/
def encGens (slot : Nat) (s : State) : List (Nat × Nat) := ((encGen (cslot s slot)).map fun g => (slot, g.tag)).toList

def codecQuantize : Meaning := fun c s => do
  let p := qpay (leNat c.pay)
  qpayChecks c .quantize p
  if p.kv then kvPending 0x0605 homeQuantize (encGens p.slot) c s else quantObject c p s

def execCodecQuantize (r : Nat) (d : Dma) (s : State) : Host.Outcome State Fault Refusal :=
  .next (commit s (hostCmd 0x0605 [.operator, .tenant] r d codecQuantize s))

/-! ### CODEC_DEQUANTIZE -/

def outBytes (bf : Bool) (x : F32) : Bytes := if bf then leBytes 2 (toBf16 x).toNat else leBytes 4 x.toNat
def outSize (bf : Bool) : Nat := if bf then 2 else 4

/-- A block's elements; a LOSSLESS block has none. -/
def elemsOf (r : Except Nat Decoded) : Except Nat (List F32) :=
  match r with
  | .error st => .error st
  | .ok (.elems xs _) => .ok xs
  | .ok (.raw _) => .error St.dataCheck

def elemPiece (bf : Bool) (n : Nat) (r : Except Nat (List F32)) : Bytes × Bool :=
  match r with
  | .error _ => (zeros (n * outSize bf), false)
  | .ok xs => (xs.flatMap (outBytes bf), true)

def dequantObject (c : Cmd) (p : QPay) (s : State) : Except Ans (Ans × State) := do
  let ten := c.priv == .tenant
  let n := blocksOf p.total
  let x := cslot s p.slot
  need (rangeMine s ten c.tenant p.idx 64 && rangeMine s ten c.tenant p.base p.limit && slotMine ten c.tenant x)
    St.accessViolation 0
  quantSlot x
  objShape (← newTab x) p
  match readIndex s p.idx with
  | .error st => stop st
  | .ok i =>
    need (objectMine s ten c.tenant p.idx i) St.accessViolation 0
    lenF (decide (n ≤ i.count)) 152
    let ks := List.range n
    let elems := ks.foldl (fun a k => a + impliedRaw i k / 2) 0
    lenF (decide (elems * outSize p.bf16Out ≤ p.limit)) 112
    canWrite s p.base (elems * outSize p.bf16Out)
    let rs := ks.map fun k => elemsOf (decodeBlk s p.idx i k)
    let ps := (ks.zip rs).map fun kr => elemPiece p.bf16Out (impliedRaw i kr.1 / 2) kr.2
    let s1 ← orFull (writePieces (readAll s i.base i.coded) p.base ps)
    .ok (decodeAns rs, s1)

/-- A record's elements. -/
def recordElems (r : Except Nat (Nat × List RecGroup)) : Except Nat (List F32) :=
  match r with
  | .error st => .error st
  | .ok (_, gs) => .ok (gs.flatMap (·.xs))

/-- CODEC_DEQUANTIZE with KV at the home. -/
def homeDequantize : HomeAct := fun m s => do
  let p := qpay (leNat m.pay)
  let l ← m.list s
  let x := cslot s p.slot
  let n := ((x.newest.map qtab).map (·.recElems)).getD 0
  need (slotMine m.isTenant m.tenant x) St.accessViolation 0
  lenF (decide ((p.first + p.toks) * l.kvPerTok ≤ l.pages.length * psize l.cls)) 70
  lenF (decide (p.toks * n * outSize p.bf16Out ≤ p.limit)) 112
  quantSlot x
  fldF (kvSlotOk s p.slot l) 0
  m.check 0
  need (rangeMine s m.isTenant m.tenant p.base p.limit) St.accessViolation 0
  canWrite s p.base (p.toks * n * outSize p.bf16Out)
  let rs := (granules p.first p.toks).map fun t => recordElems (decodeRec s l t)
  let s1 ← orFull (writePieces s p.base (rs.map (elemPiece p.bf16Out n)))
  .ok (decodeAns rs, s1)

def codecDequantize : Meaning := fun c s => do
  let p := qpay (leNat c.pay)
  qpayChecks c .dequantize p
  if p.kv then
    let (n, x) ← c.entry s c.target
    let se : Except Ans Unit := do
      openEntry s n x
      stateErr (!x.e.state.terminal) x.e
    if x.e.state.terminal then se
    if x.e.remoteHome then
      .ok (laterAns, sendForward s c 0x0606 x.e.home 0 [n] [se])
    else homeDequantize (homeMsg s c 0x0606 0 [n] [se]) s
  else dequantObject c p s

def execCodecDequantize (r : Nat) (d : Dma) (s : State) : Host.Outcome State Fault Refusal :=
  .next (commit s (hostCmd 0x0606 [.operator, .tenant] r d codecDequantize s))

/-! ### CODEC_SCALE_FIND: the first pass alone -/

/-- Write one scale per unit. -/
def writeScales (s : State) (a : Nat) (q : QTab) (units : List (List (BitVec 16))) : Except Ans (Ans × State) := do
  canWrite s a (2 * units.length)
  let s1 ← orFull (devWrite s a (units.flatMap fun u => leBytes 2 (scaleOf q (clipPoint q u)).toNat))
  .ok (okR0 units.length, s1)

def scaleObject (c : Cmd) (p : QPay) (s : State) : Except Ans (Ans × State) := do
  let ten := c.priv == .tenant
  let x := cslot s p.slot
  need (rangeMine s ten c.tenant p.src p.total && slotMine ten c.tenant x) St.accessViolation 0
  quantSlot x
  objShape (← newTab x) p
  scaleRoom (← newTab x) p
  let q ← encTab x
  let units := objUnits q p.row (bf16sAt s p.src (p.total / 2))
  need (rangeMine s ten c.tenant p.scaleAddr (2 * units.length)) St.accessViolation 0
  canRead s p.src p.total
  writeScales (readAll s p.src p.total) p.scaleAddr q units

/-- The elements and the scales of a CODEC_SCALE_FIND with KV end within the object region. -/
def scaleFindFits (x : CSlot) (p : QPay) : Bool :=
  match x.newest.map qtab with
  | none => true
  | some q => decide (p.src + 2 * q.recElems * p.toks ≤ objectBytes) && decide (p.scaleAddr + 2 * q.units ≤ objectBytes)

/-- CODEC_SCALE_FIND with KV at the home. -/
def homeScaleFind : HomeAct := fun m s => do
  let p := qpay (leNat m.pay)
  let l ← m.list s
  let x := cslot s p.slot
  need (slotMine m.isTenant m.tenant x) St.accessViolation 0
  lenF (scaleFindFits x p) 70
  quantSlot x
  fldF (kvSlotOk s p.slot l) 0
  m.check 0
  let q ← encTab x
  let n := q.recElems
  need (rangeMine s m.isTenant m.tenant p.src (2 * n * p.toks) && rangeMine s m.isTenant m.tenant p.scaleAddr (2 * q.units))
    St.accessViolation 0
  canRead s p.src (2 * n * p.toks)
  writeScales s p.scaleAddr q (kvUnits q (chunks n p.toks (bf16sAt s p.src (n * p.toks))))

def codecScaleFind : Meaning := fun c s => do
  let p := qpay (leNat c.pay)
  qpayChecks c .scaleFind p
  if p.kv then
    let (n, x) ← c.entry s c.target
    let se : Except Ans Unit := do
      openEntry s n x
      stateErr (!x.e.state.terminal) x.e
    if x.e.state.terminal then se
    if x.e.remoteHome then
      .ok (laterAns, sendForward s c 0x0607 x.e.home 0 [n] [se])
    else homeScaleFind (homeMsg s c 0x0607 0 [n] [se]) s
  else scaleObject c p s

def execCodecScaleFind (r : Nat) (d : Dma) (s : State) : Host.Outcome State Fault Refusal :=
  .next (commit s (hostCmd 0x0607 [.operator, .tenant] r d codecScaleFind s))

/-! ### CODEC_RECODE (07 R204) -/

/-- The generation a block's header names, its header readable and the block not RAW: slot and tag; none where it names no
live one. -/
def namedGen (s : State) (a : Nat) (i : Index) (k : Nat) : Option (Option (Nat × Nat)) :=
  match blockHdrAt s (i.base + blockOff s a k) with
  | none => some none
  | some h => if h.raw then none else some ((blockGen s h).map fun g => (h.slot, g.tag))

def namedGens (s : State) (a : Nat) (i : Index) : List (Option (Nat × Nat)) := (List.range i.count).filterMap (namedGen s a i)

/-- A block's scales as a table of another GROUP takes them: each new group has the scale of its first element. -/
def regroup (q : QTab) (n : Nat) (scales : List (BitVec 16)) : List (BitVec 16) :=
  (List.range (n / q.group)).map fun j => scales.getD (j * q.group * scales.length / n) 0

/-- Re-code one decoded block with the newest generation. -/
def recodeBlock (slot : Nat) (g : Gen) (r : Except Nat Decoded) : Option Bytes × Lost3 :=
  let quant := bits g.header 3 0 == 2
  match r with
  | .error _ => (none, ⟨0, 0⟩)
  | .ok (.raw bs) => if quant then (none, ⟨0, 0⟩) else (some (losslessBlock slot g bs), ⟨0, 0⟩)
  | .ok (.elems xs scales) =>
    if quant then
      let e := encodeBlock (qtab g) xs (regroup (qtab g) xs.length scales)
      (some (quantBlock slot (qtab g) e.1 (2 * xs.length)), e.2)
    else (none, ⟨0, 0⟩)

def recodeObject (c : Cmd) (idx base nidx limit : Nat) (i : Index) (s : State) : Except Ans (Ans × State) := do
  let ten := c.priv == .tenant
  let x := cslot s i.slot
  need (rangeMine s ten c.tenant base limit && rangeMine s ten c.tenant nidx (indexLen i.count) && slotMine ten c.tenant x)
    St.accessViolation 0
  lenF (decide (i.count * 65552 ≤ limit) && decide (base + limit ≤ max objectBytes base)) 24
  match encGen x with
  | none => stop St.state
  | some g =>
    canWrite s base limit
    canWrite s nidx (indexLen i.count)
    let rs := (List.range i.count).map (decodeBlk s idx i)
    let out := rs.map (recodeBlock i.slot g)
    let old := (namedGens s idx i).filterMap id
    let used := ((i.slot, g.tag) :: old).eraseDups
    let (_, s1) ← orFull (writeObject (readAll s i.base i.coded) base nidx i.total i.rowLen i.slot i.kind (out.map (·.1)))
    let named := out.countP fun b => !((b.1.map fun bs => (blkHdr (leNat (bs.take 16))).raw).getD true)
    let bad := out.countP fun b => b.1.isNone
    let work (t : State) : State := old.foldl (fun a st => dropN a st.1 st.2 1)
      (countLost (holdN t i.slot g.tag named) i.slot (out.foldl (fun a b => a.add b.2) ⟨0, 0⟩))
    pendJob c used (i.count - bad) bad St.ok work s1

/-- Re-code one record in place, where it lies wholly in private pages and is of an older generation: the state, records
re-coded, records left in shared pages. -/
def recodeOne (q : QTab) (l : PList) (a : Option (State × Nat × Nat)) (t : Nat) : Option (State × Nat × Nat) :=
  match a with
  | none => none
  | some (s, n, left) =>
    match decodeRec s l t with
    | .error _ => some (s, n, left)
    | .ok (tag, gs) =>
      if tag = q.tag then some (s, n, left)
      else if (spansOf l (t * l.kvPerTok) l.kvPerTok).any fun sp => match getPage s (l.pages.getD sp.1 0) with
        | some p => decide (1 < p.refs)
        | none => true then some (s, n, left + 1)
      else
        let (esc, lost) := recEscapes q gs
        let bs := recordBytes q (stepFirstAt s l t) gs esc (gs.map (·.amax))
        (listWrite s l (t * l.kvPerTok) bs l.codecSlot q.tag).map fun u => (countLost u l.codecSlot lost, n + 1, left)

/-- The generations that CODEC_RECODE KV uses: the newest, and those of the records it decodes. -/
def recodeGens (l : PList) (s : State) : List (Nat × Nat) :=
  (encGens l.codecSlot s ++ (List.range l.ctxLen).filterMap fun t => match decodeRec s l t with
    | .error _ => none
    | .ok (tag, _) => some (l.codecSlot, tag)).eraseDups

/-- A private page's mask becomes the newest generation alone. -/
def soloMask (slot tag : Nat) (s : State) (id : Nat) : State :=
  match getPage s id with
  | none => s
  | some p =>
    if 1 < p.refs || !bit p.mask tag then s
    else dropTags (setPage s id { p with mask := 2 ^ tag, maskSlot := slot }) slot ((maskTags p.mask).filter (· != tag))

/-- CODEC_RECODE KV at the home. -/
def homeRecode : HomeAct := fun m s => do
  let l ← m.list s
  let x := cslot s l.codecSlot
  need (slotMine m.isTenant m.tenant x) St.accessViolation 0
  fldF (kvSlotOk s l.codecSlot l) 0
  m.check 0
  let q ← encTab x
  let (s1, n, left) ← orFull ((List.range l.ctxLen).foldl (recodeOne q l) (some (s, 0, 0)))
  .ok ({ st := some St.ok, r0 := n, detail := left }, l.pages.foldl (soloMask l.codecSlot q.tag) s1)

def codecRecode : Meaning := fun c s => do
  let idx := c.fld 255 192
  let base := c.fld 191 128
  let nidx := c.fld 127 64
  let limit := c.fld 63 24
  let mode := c.fld 3 0
  c.lenIs 32
  if mode = 4 then c.tgtRsv 32 else c.tgtRsv 0
  fldF (decide (1 ≤ mode) && decide (mode ≤ 4)) 0
  c.rsv 23 4
  if mode = 1 then
    fldF (objAddr nidx) 64
    fldF (objAddr base) 128
  fldF (objAddr idx && (mode != 4 || idx == 0)) 192
  if mode = 4 then
    let gens := match findEntry s c.target with
      | some (_, x) => ((getList s x.e.gid).map recodeGens).getD fun _ => []
      | none => fun _ => []
    kvPending 0x0608 homeRecode gens c s
  else
    need (rangeMine s (c.priv == .tenant) c.tenant idx 64) St.accessViolation 0
    match readIndex s idx with
    | .error st => stop st
    | .ok i =>
      let ten := c.priv == .tenant
      need (objectMine s ten c.tenant idx i && slotMine ten c.tenant (cslot s i.slot)) St.accessViolation 0
      if mode = 1 then recodeObject c idx base nidx limit i s
      else
        let named := namedGens s idx i
        let live := named.filterMap id
        need (live.all fun kt => slotMine ten c.tenant (cslot s kt.1)) St.accessViolation 0
        let bump (b : State → Nat → Nat → Nat → State) (t : State) : State := live.foldl (fun a kt => b a kt.1 kt.2 1) t
        if mode = 2 then pendJob c [] live.length 0 St.ok (bump dropN) s
        else pendJob c [] live.length (named.length - live.length) St.ok (bump holdN) s

def execCodecRecode (r : Nat) (d : Dma) (s : State) : Host.Outcome State Fault Refusal :=
  .next (commit s (hostCmd 0x0608 [.operator, .tenant] r d codecRecode s))

end Sys2Proof.Machine
end

