-- ==== Sys2Proof/Machine/CvnCmds.lean ====
section
/-! DEFINITION. CVN_OFFER, CVN_WITHDRAW, CVN_STATUS, the caravan messages and the caravan timers (04 R80 to R113). -/

namespace Sys2Proof.Machine

/-! ### Commands -/

/-- CVN_ID values run from 1 to 0xFFFF_FFFE (04 R82). -/
def nextCvn (id : Nat) : Nat := if 0xFFFFFFFE ≤ id then 1 else id + 1

/-- A list's length in 64 KiB units. -/
def listUnits (l : PList) : Nat := ceilDiv (l.pages.length * psize l.cls) 65536

/-- The node an entry is owned under here: this one's, or that of the member it was taken over from (12 R353). -/
def nodeOfSlot (s : State) (x : Slot) : Nat := if x.underAlias && s.mir.aliasNode != 0xFFFF then s.mir.aliasNode else me s

/-- The CVN_ID its next offer takes: the taken-over member's sequence is continued. -/
def cvnIdFor (s : State) (x : Slot) : Nat := if nodeOfSlot s x = me s then s.cve.nextId else s.mir.aliasCvn

def bumpCvn (s : State) (x : Slot) : State :=
  if nodeOfSlot s x = me s then { s with cve := { s.cve with nextId := nextCvn s.cve.nextId } }
  else { s with mir := { s.mir with aliasCvn := nextCvn s.mir.aliasCvn } }

/-- The record of an accepted offer. -/
def offerRec (s : State) (n : Nat) (x : Slot) (dest kind life : Nat) (t : Tok) : Caravan where
  gid := x.e.gid
  startTime := now s
  lastTime := now s
  cvnId := cvnIdFor s x
  src := nodeOfSlot s x
  dst := dest
  epoch := epochNum s
  status := 0
  pageUnits := if isPages kind then ((getList s x.e.gid).map listUnits).getD 0 else 0
  probes := 0
  cstate := .offered
  kind := kind
  slot := n
  tok := some t
  stamp := now s
  timeout := 0
  probedAt := 0
  home := x.e.home
  tenant := x.e.tenant
  prio := x.e.prio
  durable := x.e.durable
  deadline := x.e.deadline
  histTokens := x.hist.length
  auxBytes := auxLen x.aux
  codecFp := if isPages kind then slotFp s x.e.codecSlot else 0
  key := 0
  offerLife := life
  probeUs := s.cve.timers.probe
  relUs := s.cve.timers.release
  unans := 0
  cslot := 0
  tags := []
  bounceUntil := none
  bounceAt := 0
  loss := none

/-- CVN_OFFER (04 R109 to R111): the entry goes to HANDOFF, the record is OFFERED, and OFFER is sent. -/
def cvnOffer : Meaning := fun c s => do
  let kind := c.fld 1 0
  let dest := c.fld 127 112
  let life := c.fld 95 80
  c.lenIs 16
  lenF (life == 0 || (decide (10 ≤ life) && decide (life ≤ 10000))) 80
  c.tgtRsv 32
  fldF (decide (kind ≤ 1)) 0
  c.rsv 79 2
  c.rsv 111 96
  let (n, x) ← c.entry s c.target
  need (!s.cve.selfLost) St.epochStale 0
  fldF ((nodeRec s dest).isSome && !markedLost s dest && !isUs s dest) 112
  fldF (!isPages kind || isUs s x.e.home) 0
  openEntry s n x
  stateErr ([RState.admitted, .prefill, .generate, .parked, .draining].contains x.e.state && x.e.promptComplete &&
    !(isPages kind && x.e.state == .parked)) x.e
  need (!x.e.inStep && !x.e.movePend && !x.restoring && decide (openRecs s < 4096)) St.busy 0
  let r := offerRec s n x dest kind (if life = 0 then s.cve.timers.offer else life) c.tok
  let e : Entry := { x.e with state := .handoff, prior := x.e.state, cvnId := r.cvnId, epoch := r.epoch, stateTime := now s }
  let s1 := setSlot s n { x with e := e, parkFrom := x.e.prior }
  let s2 := openCvn (bumpCvn s1 x) (cvnKey r.src r.cvnId) r
  .ok ({ st := some St.pending, r0 := r.epoch, detail := r.cvnId }, sendCvn s2 r Cv.offer)

def execCvnOffer (r : Nat) (d : Dma) (s : State) : Host.Outcome State Fault Refusal :=
  .next (commit s (hostCmd 0x0301 [.operator] r d cvnOffer s))

/-- The open record of the caravan an entry is offered by. -/
def entryCvn (s : State) (n : Nat) : Option (Nat × Caravan) :=
  s.cve.recs.find? fun kv => kv.2.slot == n && (kv.2.cstate == .offered || kv.2.cstate == .pulled || kv.2.cstate == .inDoubt)

/-- CVN_WITHDRAW (04 R112). -/
def cvnWithdraw : Meaning := fun c s => do
  c.lenIs 0
  c.tgtRsv 32
  let (n, x) ← c.entry s c.target
  openEntry s n x
  stateErr (x.e.state == .handoff) x.e
  match entryCvn s n with
  | none => .error (wrongState x.e)
  | some (k, r) =>
    if r.cstate = .offered then .ok (okAns, cvnResume (sendCvn s r Cv.withdraw) k r .withdrawn 2 St.ok)
    else .error (wrongState x.e)

def execCvnWithdraw (r : Nat) (d : Dma) (s : State) : Host.Outcome State Fault Refusal :=
  .next (commit s (hostCmd 0x0302 [.operator] r d cvnWithdraw s))

/-- CVN_STATUS (04 R113). -/
def cvnStatus : Meaning := fun c s => do
  c.lenIs 8
  c.bound 64
  c.tgtRsv 32
  c.rsv 47 0
  match getRec s (cvnKey (c.fld 63 48) c.target) with
  | none => stop St.notFound
  | some r => .ok (okRes (caravanImage r), s)

def execCvnStatus (r : Nat) (d : Dma) (s : State) : Host.Outcome State Fault Refusal :=
  .next (commit s (hostCmd 0x0303 [.operator, .maintenance] r d cvnStatus s))

/-! ### The header checks (04 R85) -/

/-- Row 1: version, type, kind, reserved fields and fields of other messages. -/
def hdrFieldsOk (msg : Nat) (m : CvnMsg) : Bool :=
  m.cver == 1 && m.msg == msg && decide (m.kind ≤ 1) && m.rsvA == 0 && m.rsvB == 0 &&
    (msg == Cv.offer || m.offerLife == 0) && (msg == Cv.pull || m.key == 0) && (msg == Cv.manifest || m.check == 0) &&
    (msg == Cv.decline || m.status == 0) && (msg == Cv.answer || msg == Cv.release || m.outcome == 0)

/-- Row 2: the ranges. -/
def hdrRangesOk (msg : Nat) (m : CvnMsg) : Bool :=
  decide (1 ≤ m.histTokens) && decide (m.histTokens ≤ 1048576) && decide (m.auxBytes ≤ 1048576) &&
    (if isPages m.kind then decide (1 ≤ m.pageUnits) && decide (m.pageUnits ≤ 12582912) else m.pageUnits == 0) &&
    (msg != Cv.offer || (decide (10 ≤ m.offerLife) && decide (m.offerLife ≤ 10000)))

/-- A header that fails is discarded and counted, and an event posted. -/
def badHeader (s : State) (m : CvnMsg) : State :=
  post { s with cve := { s.cve with badHeaders := s.cve.badHeaders + 1 } } Un.cve Ek.caravan Ec.refused 2 0 (objCaravan m.src m.cvnId) 0

/-- What every message meets first: a controller marked LOST answers ST_EPOCH_STALE under its epoch (04 R95), a FENCED
one under every epoch (12 R351); a message
other than an OFFER fails the header checks or is handled. -/
def cvnIn (msg : Nat) (m : CvnMsg) (s : State) (handle : State → State) : State :=
  if (s.cve.selfLost && m.epoch == epochNum s) || s.mru.st == .fenced then
    emit s (.cvn m.frm { replyHdr s m Cv.decline with status := St.epochStale })
  else if msg != Cv.offer && !(hdrFieldsOk msg m && hdrRangesOk msg m) then badHeader s m
  else handle s

/-! ### OFFER at the receiver (04 R85, R88 step 2, R89) -/

/-- Rows 1 to 4 of R85. The header does not name the entry's codec slot, so row 4 is made in two parts: here some slot must
have the header's fingerprint (the lowest is taken), and at the commit the entry's own (DEDUCED, entry 46). -/
def offerHdr (s : State) (m : CvnMsg) : Except Nat Nat :=
  let slot := (List.range 64).find? fun k => slotFp s k == m.codecFp
  if !hdrFieldsOk Cv.offer m then .error St.fieldRange
  else if !hdrRangesOk Cv.offer m then .error St.lengthRange
  else if !epochLive s m.epoch then .error St.epochStale
  else if !isPages m.kind then .ok 0
  else match slot with
    | none => .error St.tableGone
    | some k => .ok k

/-- What step 4 of R89 adds: PAGE_UNITS, or the RES_HBM of a request homed here, which its class's sum holds already under
its old charge. Of one homed elsewhere the header tells nothing (DEDUCED, entry 46). -/
def offerCaps (s : State) (m : CvnMsg) : Bool :=
  if isPages m.kind then capsOk s m.prio m.tenant m.pageUnits
  else capsOk (delResv s m.gid) m.prio m.tenant ((Tbl.get s.rte.resv m.gid).elim 0 (·.hbm))

/-- The checks of R89, in order. -/
def offerFits (s : State) (m : CvnMsg) : Nat :=
  let hist := histUnitsOf m.histTokens
  if !(admissionOpen s && decide (openRecs s < 4096)) then St.noCapacity
  else if gidHeld s m.gid then St.busy
  else if freeSlots s = 0 then St.noCapacity
  else if !offerCaps s m then St.noCapacity
  else if !hbmFits s hist then St.noCapacity
  else if isPages m.kind && !hbmFits s (hist + m.pageUnits) then St.noCapacity
  else if !stagingFits s (landingLen m.kind m.histTokens m.auxBytes m.pageUnits) then St.noCapacity
  else St.ok

/-- The receiver's record of an offer. -/
def pullRec (s : State) (m : CvnMsg) (n key cslot : Nat) : Caravan where
  gid := m.gid
  startTime := now s
  lastTime := now s
  cvnId := m.cvnId
  src := m.src
  dst := m.dst
  epoch := m.epoch
  status := 0
  pageUnits := m.pageUnits
  probes := 0
  cstate := .pulling
  kind := m.kind
  slot := n
  tok := none
  stamp := now s
  timeout := receiptUs s (landingLen m.kind m.histTokens m.auxBytes m.pageUnits)
  probedAt := 0
  home := m.home
  tenant := m.tenant
  prio := m.prio
  durable := m.durable != 0
  deadline := m.deadline
  histTokens := m.histTokens
  auxBytes := m.auxBytes
  codecFp := m.codecFp
  key := key
  offerLife := m.offerLife
  probeUs := s.cve.timers.probe
  relUs := s.cve.timers.release
  unans := 0
  cslot := cslot
  tags := if isPages m.kind then liveTags s cslot else []
  bounceUntil := none
  bounceAt := 0
  loss := none

def declineOffer (s : State) (m : CvnMsg) (st : Nat) : State :=
  let h := replyHdr s m Cv.decline
  emit s (.cvn m.src { h with status := st, epoch := if st = St.epochStale then epochNum s else m.epoch })

/-- Accept: slot held, units charged, generations held, key registered, PULL sent. -/
def acceptOffer (s : State) (m : CvnMsg) (cslot : Nat) : State :=
  let (n, s1) := takeSlot s
  let len := landingLen m.kind m.histTokens m.auxBytes m.pageUnits
  let k := cvnKey m.src m.cvnId
  match newKey s1 0 len m.tenant 2 m.src (.caravan k) with
  | none => declineOffer s m St.noCapacity
  | some (key, s2) =>
    let r := pullRec s m n key cslot
    let s3 := { s2 with rte := { s2.rte with histUnits := Tbl.set s2.rte.histUnits n (histUnitsOf m.histTokens) } }
    let s4 := if isPages m.kind then
        holdTags (setResv s3 m.gid ⟨m.prio, m.tenant, m.pageUnits, resFlashOf m.pageUnits, false, false, m.durable != 0⟩) cslot r.tags
      else s3
    sendCvn (openCvn s4 k r) r Cv.pull

def execCvnMsgOffer (m : CvnMsg) (s : State) : Host.Outcome State Fault Refusal :=
  .next <| commit s <| cvnIn Cv.offer m s fun s =>
    match offerHdr s m with
    | .error st => declineOffer s m st
    | .ok cslot => if offerFits s m = St.ok then acceptOffer s m cslot else declineOffer s m (offerFits s m)

/-! ### Bounces (04 R103, R105) -/

/-- A bounce of a record's OFFER or PULL carrying the bouncer's epoch: an older one is retried until the drain timeout has
run, otherwise the bounce is final; a newer one posts an event. -/
def bounced (s : State) (k : Nat) (r : Caravan) (epoch : Nat) (final : State → State) : State :=
  if newer r.epoch epoch && decide (now s < s.cve.drainEnd) then
    setRec s k { r with bounceUntil := some s.cve.drainEnd, bounceAt := now s }
  else if newer epoch r.epoch then final (cvnEvent s Ec.peerReport 1 St.epochStale r)
  else final s

/-- BOUNCE_RETRY: 50 µs have passed since the bounce, or since the retry before. -/
def execBounceRetry (src cvn : Nat) (s : State) : Host.Outcome State Fault Refusal :=
  .next <| commit s <|
    let k := cvnKey src cvn
    match getRec s k with
    | none => s
    | some r =>
      match r.bounceUntil with
      | none => s
      | some _ =>
        if now s < r.bounceAt + 50 * us then s
        else if r.cstate = .offered then sendCvn (setRec s k { r with bounceUntil := none }) r Cv.offer
        else if r.cstate = .pulling then sendCvn (setRec s k { r with bounceUntil := none }) r Cv.pull
        else s

/-! ### PULL (04 R88 step 3) -/

/-- A PULL under an epoch that is not live here goes back with this node's own (04 R103). -/
def bouncePull (s : State) (m : CvnMsg) : State := emit s (.cvn m.dst { m with frm := m.src, epoch := epochNum s })

/-- PULL at the sender; or the receiver's own PULL bounced by the sender. -/
def execCvnMsgPull (m : CvnMsg) (s : State) : Host.Outcome State Fault Refusal :=
  .next <| commit s <| cvnIn Cv.pull m s fun s =>
    let k := cvnKey m.src m.cvnId
    match getRec s k with
    | none =>
      if !isUs s m.src then s
      else if !epochLive s m.epoch then bouncePull s m
      else emit s (.cvn m.dst (replyHdr s m Cv.withdraw))
    | some r =>
      if r.cstate = .pulling then bounced s k r m.epoch fun a => cvnAbort a k r St.epochStale
      else if !r.cstate.sending then s
      else if !epochLive s m.epoch then bouncePull s m
      else if r.cstate = .offered then
        match getSlot s r.slot with
        | none => s
        | some x => sendLanding s k r m.key x
      else emit s (.cvn m.dst (replyHdr s m Cv.withdraw))

/-! ### MANIFEST (04 R88 step 4) -/

/-- CHECK and sizes agree: over entry image, history and block, and the image is of this request. -/
def manifestOk (s : State) (k : Nat) (r : Caravan) (m : CvnMsg) : Bool :=
  let img := landed s k 0 128
  let blk := landed s k (auxOff r.histTokens) r.auxBytes
  crc32c (img ++ landed s k 128 (4 * r.histTokens) ++ blk) == m.check && (entryOfNat (leNat img)).gid == r.gid &&
    m.histTokens == r.histTokens && m.auxBytes == r.auxBytes && m.pageUnits == r.pageUnits && auxLen (auxOf blk) == r.auxBytes

/-- Row 4 of R85 for the entry's own codec slot: the slot whose generations the caravan holds, or one with the header's
fingerprint. -/
def codecOk (s : State) (k : Nat) (r : Caravan) : Bool :=
  let slot := (entryOfNat (leNat (landed s k 0 128))).codecSlot
  !isPages r.kind || slot == r.cslot || slotFp s slot == r.codecFp

def execCvnMsgManifest (m : CvnMsg) (s : State) : Host.Outcome State Fault Refusal :=
  .next <| commit s <| cvnIn Cv.manifest m s fun s =>
    let k := cvnKey m.src m.cvnId
    match getRec s k with
    | none => s
    | some r =>
      if r.cstate != .pulling then s
      else if !epochLive s m.epoch then cvnAbort s k r St.epochStale
      else if !manifestOk s k r m then cvnAbort s k r St.dataCheck
      else if !codecOk s k r then cvnAbort s k r St.tableGone
      else cvnVerified s k r

/-! ### RECEIPT, RELEASE, DECLINE, WITHDRAW (04 R88) -/

def execCvnMsgReceipt (m : CvnMsg) (s : State) : Host.Outcome State Fault Refusal :=
  .next <| commit s <| cvnIn Cv.receipt m s fun s =>
    let k := cvnKey m.src m.cvnId
    match getRec s k with
    | none => s
    | some r => if r.cstate = .pulled || r.cstate = .inDoubt then cvnRelease s k r else s

/-- RELEASE at the receiver ends REL_WAIT; at the home the receiver becomes the list's owner. -/
def execCvnMsgRelease (m : CvnMsg) (s : State) : Host.Outcome State Fault Refusal :=
  .next <| commit s <| cvnIn Cv.release m s fun s =>
    let k := cvnKey m.src m.cvnId
    if !isUs s m.dst then setOwner s m.gid m.dst
    else match getRec s k with
      | none => s
      | some r => if r.cstate = .relWait then cvnClose s k r false else s

/-- DECLINE at the sender: the request resumes. One of ST_EPOCH_STALE that carries another epoch than the offer's is a
bounce. -/
def execCvnMsgDecline (m : CvnMsg) (s : State) : Host.Outcome State Fault Refusal :=
  .next <| commit s <| cvnIn Cv.decline m s fun s =>
    let k := cvnKey m.src m.cvnId
    match getRec s k with
    | none => s
    | some r =>
      if r.cstate = .offered && m.status == St.epochStale && m.epoch != r.epoch then
        bounced s k r m.epoch fun a => cvnResume a k r .withdrawn 3 St.epochStale
      else if r.cstate = .offered || r.cstate = .pulled || r.cstate = .inDoubt then cvnResume s k r .withdrawn 3 m.status
      else s

def execCvnMsgWithdraw (m : CvnMsg) (s : State) : Host.Outcome State Fault Refusal :=
  .next <| commit s <| cvnIn Cv.withdraw m s fun s =>
    let k := cvnKey m.src m.cvnId
    match getRec s k with
    | none => s
    | some r => if r.cstate = .pulling then cvnAbort s k r St.peerLost else s

/-! ### PROBE, PROBE_ANSWER (04 R93) -/

/-- The receiver's answer to the sender's probe. -/
def answerSender (r : Option Caravan) : Nat :=
  match r with
  | some r => if r.cstate = .relWait || r.cstate = .closed then Co.committed
    else if r.cstate = .pulling then Co.none else Co.aborted
  | none => Co.aborted

def answerWith (s : State) (m : CvnMsg) (out : Nat) : State :=
  emit s (.cvn m.frm { replyHdr s m Cv.answer with outcome := out })

/-- A probe from the caravan's sender, or from its receiver: a sender in PULLED or IN_DOUBT takes step 5 first. -/
def execCvnMsgProbe (m : CvnMsg) (s : State) : Host.Outcome State Fault Refusal :=
  .next <| commit s <| cvnIn Cv.probe m s fun s =>
    let k := cvnKey m.src m.cvnId
    if m.frm = m.src then answerWith s m (answerSender (getRec s k))
    else match getRec s k with
      | none => answerWith s m Co.committed
      | some r =>
        if r.cstate = .pulled || r.cstate = .inDoubt then answerWith (cvnRelease s k r) m Co.committed
        else answerWith s m (if r.cstate = .resumed then Co.resumed else Co.committed)

def execCvnMsgProbeAnswer (m : CvnMsg) (s : State) : Host.Outcome State Fault Refusal :=
  .next <| commit s <| cvnIn Cv.answer m s fun s =>
    let k := cvnKey m.src m.cvnId
    match getRec s k with
    | none => s
    | some r =>
      if r.cstate = .inDoubt then
        if m.outcome = Co.committed then cvnRelease s k r
        else if m.outcome = Co.aborted then cvnResume s k r .resumed 4 St.peerLost
        else setRec s k { r with unans := 0 }
      else if r.cstate = .relWait then
        if m.outcome = Co.committed then cvnClose s k r false
        else if m.outcome = Co.resumed then cvnFail s k r
        else setRec s k { r with unans := 0 }
      else s

/-! ### Timers (04 R92, R93) -/

/-- A CVN_ID of this controller, or of the member it answers for, whose record is in a state. -/
def ownCvn (s : State) (cvn : Nat) (st : CState) : Nat :=
  let k := cvnKey s.mir.aliasNode cvn
  if (getRec s (cvnKey (me s) cvn)).any (fun r => r.cstate == st) || !(getRec s k).any (fun r => r.cstate == st) then cvnKey (me s) cvn
  else k

/-- OFFER_TIMEOUT: an offer still OFFERED is withdrawn. -/
def execOfferTimeout (cvn : Nat) (s : State) : Host.Outcome State Fault Refusal :=
  .next <| commit s <|
    let k := ownCvn s cvn .offered
    match getRec s k with
    | none => s
    | some r =>
      if r.cstate = .offered && decide (r.startTime + r.offerLife * us ≤ now s) then
        cvnResume (sendCvn s r Cv.withdraw) k r .resumed 4 St.peerLost
      else s

/-- RECEIPT_TIMEOUT: a receiver still PULLING aborts. -/
def execReceiptTimeout (src cvn : Nat) (s : State) : Host.Outcome State Fault Refusal :=
  .next <| commit s <|
    let k := cvnKey src cvn
    match getRec s k with
    | none => s
    | some r =>
      if r.cstate = .pulling && decide (r.stamp + r.timeout * us ≤ now s) then cvnAbort s k r St.peerLost else s

/-- PULLED_TIMEOUT: a sender still PULLED goes to IN_DOUBT and probes. -/
def execPulledTimeout (cvn : Nat) (s : State) : Host.Outcome State Fault Refusal :=
  .next <| commit s <|
    let k := ownCvn s cvn .pulled
    match getRec s k with
    | none => s
    | some r =>
      if r.cstate = .pulled && decide (r.stamp + r.timeout * us ≤ now s) then
        let r1 := { r with cstate := .inDoubt, lastTime := now s }
        sendProbe (setRec s k r1) k r1
      else s

/-- PROBE_INTERVAL: an IN_DOUBT sender, or a receiver past RELEASE_TIMEOUT, probes again. -/
def execProbeInterval (src cvn : Nat) (s : State) : Host.Outcome State Fault Refusal :=
  .next <| commit s <|
    let k := cvnKey src cvn
    match getRec s k with
    | none => s
    | some r =>
      if (r.cstate = .inDoubt || (r.cstate = .relWait && decide (0 < r.probes))) &&
          decide (r.probedAt + r.probeUs * us ≤ now s) then sendProbe s k r
      else s

/-- RELEASE_TIMEOUT: a receiver still in REL_WAIT probes. -/
def execReleaseTimeout (src cvn : Nat) (s : State) : Host.Outcome State Fault Refusal :=
  .next <| commit s <|
    let k := cvnKey src cvn
    match getRec s k with
    | none => s
    | some r =>
      if r.cstate = .relWait && r.probes = 0 && decide (r.stamp + r.relUs * us ≤ now s) then sendProbe s k r else s

end Sys2Proof.Machine
end

