-- ==== Sys2Proof/Machine/Search.lean ====
section
/-! DEFINITION. The content-search memory (11 R321 to R328): spaces, placing and deleting entries, queries, the scrubber. -/

namespace Sys2Proof.Machine

/-- The banks of a mask. -/
def maskBanks (m : Nat) : List Nat := bitList 4 m

/-- Free entries of a bank. -/
def bankFree (s : State) (b : Nat) : Nat := 16384 - s.tsu.search.countP fun kv => kv.1 / 16384 == b

/-- Entries of a space, lowest index first. -/
def spaceEntries (s : State) (space : Nat) : Tbl SEntry := s.tsu.search.filter fun kv => kv.2.row.space == space

/-- The banks of a space: all for space 0, those of its first write otherwise. -/
def spaceBanks (s : State) (space : Nat) : Nat := if space = 0 then 0xF else Tbl.getD s.tsu.spaces space 0

/-- Free entries of the banks of a mask. -/
def banksFree (s : State) (m : Nat) : Nat := (maskBanks m).foldl (fun a b => a + bankFree s b) 0

/-- The bank of a mask with the most free entries, the lowest of several. -/
def fullestFree (s : State) (m : Nat) : Nat :=
  ((maskBanks m).foldl (fun (o : Nat × Nat) b => if o.2 < bankFree s b then (b, bankFree s b) else o) (0, 0)).1

def searchGenOf (s : State) (i : Nat) : Nat := Tbl.getD s.tsu.searchGen i 0

/-- Handle of an entry (11 R326). -/
def searchHandle (s : State) (i : Nat) : Nat := i ||| searchGenOf s i <<< 16

/-- The valid entry a handle names. -/
def findSearch (s : State) (h : Nat) : Option SEntry :=
  match Tbl.get s.tsu.search (h % 65536) with
  | some e => if searchGenOf s (h % 65536) = h >>> 16 then some e else none
  | none => none

def countUpdate (s : State) : State := { s with tsu := { s.tsu with updates := (s.tsu.updates + 1) % 2 ^ 64 } }

/-- Write one entry where R321 puts it; its index. -/
def placeEntry (s : State) (banks : Nat) (r : SRow) : Nat × State :=
  let b := fullestFree s banks
  let i := (Tbl.freeFrom s.tsu.search 16384 (16384 * b)).getD (16384 * b)
  (i, countUpdate { s with tsu := { s.tsu with search := Tbl.set s.tsu.search i ⟨r, some r, false⟩ } })

/-- An entry becomes invalid and its generation advances. -/
def dropEntry (s : State) (i : Nat) : State :=
  { s with tsu := { s.tsu with
    search := Tbl.del s.tsu.search i, searchGen := Tbl.set s.tsu.searchGen i ((searchGenOf s i + 1) % 255) } }

def deleteEntry (s : State) (i : Nat) : State := countUpdate (dropEntry s i)

/-- A space that has no entry left is empty: its banks are open again. -/
def settleSpace (s : State) (space : Nat) : State :=
  if (spaceEntries s space).isEmpty then { s with tsu := { s.tsu with spaces := Tbl.del s.tsu.spaces space } } else s

/-! ### Queries (11 R322, R323) -/

/-- A row matches a query. -/
def rowHits (r : SRow) (space k : Nat) : Bool := r.space == space && ((k ^^^ r.key) &&& r.mask) == 0

/-- The winner among the entries that match, those of `out` excluded: highest PRIO, then lowest index. -/
def winner (s : State) (space k : Nat) (out : List Nat) : Option (Nat × SEntry) :=
  s.tsu.search.foldl (fun o kv =>
    if rowHits kv.2.row space k && !out.contains kv.1 then
      match o with
      | none => some kv
      | some w => if w.2.row.prio < kv.2.row.prio then some kv else o
    else o) none

def searchEvent (s : State) (cause sev i : Nat) : State := post s Un.tsu Ek.search cause sev 0 (searchHandle s i) 0

/-- What a query returns: a hit with its index and row, a miss, or an uncorrectable copy. -/
inductive Hit where
  | hit (i : Nat) (r : SRow) | miss | check
  deriving DecidableEq, Repr

/-- A query, replayed after each soft error with that row excluded; `n` bounds the replays. -/
def searchOnce (space k : Nat) : Nat → List Nat → State → Hit × State
  | 0, _, s => (.miss, s)
  | n + 1, out, s =>
    let s1 := { s with tsu := { s.tsu with searches := (s.tsu.searches + 1) % 2 ^ 64 } }
    match winner s1 space k out with
    | none => (.miss, s1)
    | some (i, e) =>
      match e.copy with
      | none =>
        let s2 := searchEvent { s1 with tsu := { s1.tsu with hardErrors := (s1.tsu.hardErrors + 1) % 2 ^ 32 } } Ec.uncorrected 1 i
        (.check, dropEntry s2 i)
      | some r =>
        if rowHits r space k then (.hit i r, s1)
        else
          let s2 := { s1 with tsu := { s1.tsu with
            softErrors := (s1.tsu.softErrors + 1) % 2 ^ 32, search := Tbl.set s1.tsu.search i { e with rewrite := true } } }
          searchOnce space k n (i :: out) (searchEvent s2 Ec.corrected 3 i)

def search (s : State) (space k : Nat) : Hit × State := searchOnce space k (s.tsu.search.length + 1) [] s

/-! ### Commands (11 R326 to R328) -/

def rowOf (space n : Nat) : SRow := ⟨bits n 383 224, bits n 223 64, bits n 63 48, bits n 47 16, space⟩

def searchWrite : Meaning := fun c s => do
  let n := c.fld 14 0
  let space := c.fld 27 22
  let banks := c.fld 31 28
  lenF (decide (1 ≤ n) && decide (n ≤ 16384)) 0
  c.lenIs (16 + 48 * n)
  c.bound (4 * n)
  c.tgtRsv 0
  c.rsv 21 15
  fldF (space != 0) 22
  let empty := (spaceEntries s space).isEmpty
  fldF (if empty then banks != 0 else banks == 0 || banks == spaceBanks s space) 28
  c.rsv 127 32
  let recs := c.recs 16 48 n
  checkEach (fun i x => do
    need (bits x 15 0 == 0) St.fieldRange (inPay (16 + 48 * i))
    need (bits x 383 224 &&& (2 ^ 160 - 1 - bits x 223 64) == 0) St.fieldRange (inPay (16 + 48 * i + 28))) 0 recs
  let m := if empty then banks else spaceBanks s space
  need (decide (n ≤ banksFree s m)) St.noCapacity 0
  let s0 := { s with tsu := { s.tsu with spaces := Tbl.set s.tsu.spaces space m } }
  let (hs, s1) := recs.foldl (fun (a : List Nat × State) x =>
    let (i, t) := placeEntry a.2 m (rowOf space x)
    (a.1 ++ [searchHandle t i], t)) ([], s0)
  .ok (okRes (hs.flatMap (leBytes 4)), s1)

def execSearchWrite (r : Nat) (d : Dma) (s : State) : Host.Outcome State Fault Refusal :=
  .next (commit s (hostCmd 0x0A10 [.operator] r d searchWrite s))

def searchDelete : Meaning := fun c s => do
  let n := c.fld 14 0
  let clear := c.fld 15 15 == 1
  let space := c.fld 21 16
  lenF ((clear || decide (1 ≤ n)) && decide (n ≤ 16384)) 0
  c.lenIs (8 + 4 * n)
  c.tgtRsv 0
  fldF (!clear || space != 0) 16
  c.rsv 63 22
  let hs := c.recs 8 4 n
  checkEach (fun i h => need (h >>> 24 == 0) St.fieldRange (inPay (8 + 4 * i + 3))) 0 hs
  checkEach (fun _ h => need (findSearch s h).isSome St.notFound 0) 0 hs
  checkEach (fun i h => need (((findSearch s h).map (·.row.space)).getD 0 != 0) St.fieldRange (inPay (8 + 4 * i))) 0 hs
  let spaces := distinct (hs.map fun h => ((findSearch s h).map (·.row.space)).getD 0)
  let s1 := (distinct hs).foldl (fun t h => deleteEntry t (h % 65536)) s
  let s2 := if clear then (Tbl.keys (spaceEntries s1 space)).foldl deleteEntry s1 else s1
  .ok (okAns, (if clear then space :: spaces else spaces).foldl settleSpace s2)

def execSearchDelete (r : Nat) (d : Dma) (s : State) : Host.Outcome State Fault Refusal :=
  .next (commit s (hostCmd 0x0A11 [.operator] r d searchDelete s))

/-- One result record; the handle is the winner's. -/
def hitRecord (s : State) (h : Hit) : Bytes :=
  match h with
  | .hit i r => leBytes 16 (r.result ||| r.prio <<< 32 ||| St.ok <<< 48 ||| searchHandle s i <<< 64)
  | .miss => leBytes 16 (St.notFound <<< 48 ||| 0xFFFFFFFF <<< 64)
  | .check => leBytes 16 (St.dataCheck <<< 48 ||| 0xFFFFFFFF <<< 64)

def searchQuery : Meaning := fun c s => do
  let n := c.fld 12 0
  let space := c.fld 21 16
  lenF (decide (1 ≤ n) && decide (n ≤ 4096)) 0
  c.lenIs (8 + 24 * n)
  c.bound (16 * n)
  c.tgtRsv 0
  c.rsv 15 13
  c.rsv 63 22
  let recs := c.recs 8 24 n
  checkEach (fun i x => need (bits x 31 0 == 0) St.fieldRange (inPay (8 + 24 * i))) 0 recs
  let (bs, bad, s1) := recs.foldl (fun (a : Bytes × Nat × State) x =>
    let (h, t) := search a.2.2 space (bits x 191 32)
    (a.1 ++ hitRecord t h, a.2.1 + b2n (h == .check), t)) ([], 0, s)
  .ok ({ st := some (if bad = 0 then St.ok else St.dataCheck), detail := bad, result := bs }, s1)

def execSearchQuery (r : Nat) (d : Dma) (s : State) : Host.Outcome State Fault Refusal :=
  .next (commit s (hostCmd 0x0A12 [.operator, .maintenance] r d searchQuery s))

/-- SEARCH_SCRUB of one entry: its row is rewritten from its copy; a row whose copy is uncorrectable becomes invalid. -/
def scrubRow (s : State) (kv : Nat × SEntry) : State :=
  match kv.2.copy with
  | some r => countUpdate { s with tsu := { s.tsu with search := Tbl.set s.tsu.search kv.1 ⟨r, some r, false⟩ } }
  | none => dropEntry (searchEvent { s with tsu := { s.tsu with
      hardErrors := (s.tsu.hardErrors + 1) % 2 ^ 32 } } Ec.uncorrected 1 kv.1) kv.1

/-- SEARCH_SCRUB of a bank. -/
def execSearchScrub (bank : Nat) (s : State) : Host.Outcome State Fault Refusal :=
  .next <| commit s <| (s.tsu.search.filter fun kv => kv.1 / 16384 == bank).foldl scrubRow s

end Sys2Proof.Machine
end

