-- ==== Sys2Proof/Machine/Sampler.lean ====
section
/-! DEFINITION. Sampling: parameters, draws, the row pipeline, banned sequences (09 R258 to R262), and the commands that set
up steps: SAMPLE_SET, BAN_LOAD, ATTN_BIAS_LOAD, LSE_MERGE, BULLETIN_SET (09 R254, R257, R268). -/

namespace Sys2Proof.Machine

/-! ### Parameters (09 R258) -/

def Aux.fld (a : Aux) (hi lo : Nat) : Nat := bits (leNat a.params) hi lo
def Aux.seed (a : Aux) : Nat := a.fld 383 320
def Aux.temp (a : Aux) : F32 := BitVec.ofNat 32 (a.fld 319 288)
def Aux.topP (a : Aux) : F32 := BitVec.ofNat 32 (a.fld 287 256)
def Aux.rep (a : Aux) : F32 := BitVec.ofNat 32 (a.fld 255 224)
def Aux.freq (a : Aux) : F32 := BitVec.ofNat 32 (a.fld 223 192)
def Aux.pres (a : Aux) : F32 := BitVec.ofNat 32 (a.fld 191 160)
def Aux.endTok (a : Aux) : Option Nat := if a.fld 141 141 = 1 then some (a.fld 159 142) else none
def Aux.repPrompt (a : Aux) : Bool := a.fld 140 140 == 1
def Aux.topK (a : Aux) : Nat := a.fld 139 129
def Aux.banSet (a : Aux) : Nat := a.fld 128 117
def Aux.vocab (a : Aux) : Nat := a.fld 116 98

/-- TEMP 0: greedy. -/
def Aux.greedy (a : Aux) : Bool := a.temp &&& 0x7FFFFFFF == 0

/-! ### Draws (09 R260) -/

/-- One round of Philox4x32. -/
def philoxRound (c : Nat × Nat × Nat × Nat) (k : Nat × Nat) : Nat × Nat × Nat × Nat :=
  let p0 := 0xD2511F53 * c.1
  let p1 := 0xCD9E8D57 * c.2.2.1
  ((p1 / 2 ^ 32) ^^^ c.2.1 ^^^ k.1, p1 % 2 ^ 32, (p0 / 2 ^ 32) ^^^ c.2.2.2 ^^^ k.2, p0 % 2 ^ 32)

/-- Rounds with the key raised between them. -/
def philox : Nat → Nat × Nat × Nat × Nat → Nat × Nat → Nat × Nat × Nat × Nat
  | 0, c, _ => c
  | n + 1, c, k => philox n (philoxRound c k) ((k.1 + 0x9E3779B9) % 2 ^ 32, (k.2 + 0xBB67AE85) % 2 ^ 32)

/-- u of a history position and a kind: 0 acceptance, 1 token, 2 draft. -/
def drawU (seed gid pos kind : Nat) : F32 :=
  let k := if seed = 0 then gid else seed
  let w := philox 10 (pos % 2 ^ 32, kind, gid % 2 ^ 32, gid / 2 ^ 32 % 2 ^ 32) (k % 2 ^ 32, k / 2 ^ 32 % 2 ^ 32)
  fmul (fofNat (w.1 / 256)) 0x33800000

/-! ### The row pipeline (09 R259) -/

def negInf : F32 := 0xFF800000

/-- exp in FP32, as exp2 of the argument times log2(e) (09 R253). -/
def fexp (x : F32) : F32 :=
  if x &&& 0x7FFFFFFF == 0 then fone else if x == negInf then 0 else if isNan x then nanBits else fexp2 (fmul x 0x3FB8AA3B)

/-- Stage 1. -/
def tame (x : F32) : F32 := if isNan x then negInf else if x == 0x7F800000 then 0x7F7FFFFF else x

/-- Stages 2 and 3 for a token's count entry. -/
def penalize (a : Aux) (c : Option Count) (x : F32) : F32 :=
  let n := (c.map (·.genCount)).getD 0
  let seen := (c.map (·.promptSeen)).getD false
  let x1 := if decide (0 < n) || (seen && a.repPrompt) then (if flt 0 x then fdiv x a.rep else fmul x a.rep) else x
  fsub (fsub x1 (fmul a.freq (fofNat n))) (if 0 < n then a.pres else 0)

/-- A larger logit first, then the lower identifier. -/
def logitBefore (p q : Nat × F32) : Bool := flt q.2 p.2 || (!flt p.2 q.2 && decide (p.1 < q.1))

/-- The first `k` in an order. -/
def topBy {α : Type} (lt : α → α → Bool) (k : Nat) (l : List α) : List α := l.foldl (fun acc x => (insertBy lt x acc).take k) []

/-- The shortest leading run whose running sum reaches TOP_P, and its sum. -/
def leadingRun (topP : F32) : F32 → List (Nat × F32) → List (Nat × F32) × F32
  | acc, [] => ([], acc)
  | acc, p :: ps =>
    let acc1 := fadd acc p.2
    if fle topP acc1 then ([p], acc1)
    else
      let r := leadingRun topP acc1 ps
      (p :: r.1, r.2)

/-- Stages 6 to 8 on logits already divided by TEMP: the kept tokens with their probabilities, highest first. -/
def keepTokens (a : Aux) (xs : List (Nat × F32)) : List (Nat × F32) :=
  let kept := topBy logitBefore a.topK xs
  let m := (kept.head?.map (·.2)).getD 0
  let es := kept.map fun p => (p.1, fexp (fsub p.2 m))
  let total := fsumOpen (es.map (·.2))
  let ps := sortBy logitBefore (es.map fun p => (p.1, fdiv p.2 total))
  let (run, sum) := leadingRun a.topP 0 ps
  run.map fun p => (p.1, fdiv p.2 sum)

/-- Stage 9: the first token whose running sum exceeds u × total; the last where rounding leaves none. -/
def pick (th : F32) : F32 → List (Nat × F32) → Nat
  | _, [] => 0
  | acc, [p] => if flt th (fadd acc p.2) then p.1 else p.1
  | acc, p :: q :: ps => if flt th (fadd acc p.2) then p.1 else pick th (fadd acc p.2) (q :: ps)

def drawFrom (u : F32) (ps : List (Nat × F32)) : Nat := pick (fmul u (fsum (ps.map (·.2)))) 0 ps

/-! ### Banned sequences (09 R261) -/

/-- The search key of a set and the tokens that precede, nearest first. -/
def banKey (set : Nat) (prev : List Nat) : Nat :=
  set <<< 148 ||| prev.length <<< 145 ||| (indexed prev).foldl (fun a kt => a ||| kt.2 <<< (18 * kt.1)) 0

/-- The tokens a result bans: one, or a list of the ban-list memory. -/
def banTokens (s : State) (result : Nat) : List Nat :=
  if bit result 31 then
    match (s.att.bans.flatMap (·.2.items)).find? fun x => x.addr == some (result % 2 ^ 31) with
    | some x => x.toks
    | none => []
  else [result % 2 ^ 31]

/-- The eight searches of a row: tokens banned, none after an uncorrectable copy. `prev` is the history, nearest first. -/
def banSearch (set : Nat) (prev : List Nat) (s : State) : Option (List Nat) × State :=
  ((List.range 8).filter fun n => decide (n ≤ prev.length)).foldl (fun a n =>
    match search a.2 0 (banKey set (prev.take n)) with
    | (.hit _ r, t) => (a.1.map (· ++ banTokens t r.result), t)
    | (.miss, t) => (a.1, t)
    | (.check, t) => (none, t)) (some [], s)

/-- What a row gives: kept tokens with probabilities (one, certain, when greedy), or a cause and whether it names FAILED. -/
abbrev RowOut := Except (Nat × Bool) (List (Nat × F32))

/-- A logits row through R259's stages 1 to 8. `hist` is the token history before the predicted position. -/
def rowDist (a : Aux) (hist : List Nat) (row : List F32) (s : State) : RowOut × State :=
  let (bans, s1) := if a.banSet = 0 then (some [], s) else banSearch a.banSet (hist.reverse.take 7) s
  match bans with
  | none => (.error (St.dataCheck, false), s1)
  | some bs =>
    let xs := (indexed row).map fun tx =>
      (tx.1, if bs.contains tx.1 then negInf else penalize a (a.counts.find? fun c => c.token == tx.1) (tame tx.2))
    let fin := xs.filter fun tx => isFinite tx.2
    match fin with
    | [] => (.error (St.fieldRange, true), s1)
    | x :: rest =>
      if a.greedy then (.ok [((rest.foldl (fun b y => if logitBefore y b then y else b) x).1, fone)], s1)
      else (.ok (keepTokens a (fin.map fun tx => (tx.1, fdiv tx.2 a.temp))), s1)

/-- A token from a row's distribution. -/
def sampleTok (a : Aux) (gid pos kind : Nat) (ps : List (Nat × F32)) : Nat :=
  if a.greedy then (ps.head?.map (·.1)).getD 0 else drawFrom (drawU a.seed gid pos kind) ps

/-- The block after one more accepted token in the same step. -/
def seeTok (a : Aux) (t : Nat) : Aux := (auxCount a [t]).getD a

/-! ### SAMPLE_SET (09 R243, R258) -/

def fpOk (x : Nat) (p : F32 → Bool) : Bool := isFinite (BitVec.ofNat 32 x) && p (BitVec.ofNat 32 x)

def sampleFields (c : Cmd) : Except Ans Unit := do
  c.lenIs 48
  lenF (decide (2 ≤ c.fld 116 98) && decide (c.fld 116 98 ≤ 262144)) 98
  lenF (decide (1 ≤ c.fld 139 129) && decide (c.fld 139 129 ≤ 1024)) 129
  c.tgtRsv 32
  c.rsv 97 0
  fldF (decide (c.fld 159 142 < c.fld 116 98)) 98
  fldF (fpOk (c.fld 191 160) fun _ => true) 160
  fldF (fpOk (c.fld 223 192) fun _ => true) 192
  fldF (fpOk (c.fld 255 224) fun x => fle fone x) 224
  fldF (fpOk (c.fld 287 256) fun x => flt 0 x && fle x fone) 256
  fldF (fpOk (c.fld 319 288) fun x => fle 0 x) 288

/-- The count entries a SAMPLE_SET leaves: at the first one those of the generated tokens, and with REP_PROMPT the prompt's. -/
def sampleCounts (x : Slot) (repPrompt : Bool) : List Count :=
  let gen := x.hist.length - x.e.genLen
  let base := match x.aux with
    | some a => a.counts
    | none => countAll true (x.hist.drop gen) []
  if repPrompt then
    (x.hist.take gen).foldl (fun cs t => countOne false t cs) base
  else base

def sampleSet : Meaning := fun c s => do
  sampleFields c
  let (n, x) ← c.entry s c.target
  let rep := c.fld 140 140 == 1
  let cs := sampleCounts x rep
  fldF (cs.all fun k => decide (k.token < c.fld 116 98)) 98
  openEntry s n x
  stateErr (!x.e.state.terminal && x.e.state != .handoff) x.e
  need (!x.e.inStep) St.busy 0
  stateErr (!rep || x.e.promptComplete) x.e
  need (decide (cs.length ≤ 131008)) St.noCapacity 0
  let old := x.aux
  let a : Aux := ⟨c.pay, max (capFor cs.length) ((old.map (·.cap)).getD 64), (old.map (·.draftPage)).getD noId, cs⟩
  need (decide (auxLen (some a) ≤ auxLen old) || serviceFits s (auxLen (some a) - auxLen old)) St.noCapacity 0
  match innerPage s old.isNone with
  | none => stop St.noCapacity
  | some (id, s1) =>
    .ok (okAns, setSlot s1 n { x with aux := some a, e := { x.e with auxRoot := if old.isNone then id else x.e.auxRoot } })

def execSampleSet (r : Nat) (d : Dma) (s : State) : Host.Outcome State Fault Refusal :=
  .next (commit s (hostCmd 0x0810 [.operator, .tenant] r d sampleSet s))

/-! ### BAN_LOAD (09 R262) -/

/-- One record: length, then its tokens, the banned one last. -/
def banRec (n : Nat) : Nat × List Nat := (bits n 31 28, (List.range 8).map fun k => bits n (32 * k + 17) (32 * k))

/-- A record's remaining bits are zero and its length is 1 to 8. -/
def banRecOk (i n : Nat) : Except Ans Unit := do
  let (len, toks) := banRec n
  let at_ (k : Nat) : Nat := inPay (16 + 32 * i + 4 * k)
  need (decide (1 ≤ len) && decide (len ≤ 8)) St.lengthRange (at_ 0 + 3)
  needAll ((List.range 8).map fun k =>
    ((if k = 0 then bits n 27 18 == 0 else bits n (32 * k + 31) (32 * k + 18) == 0) && (decide (k < len) || toks.getD k 0 == 0),
      St.fieldRange, at_ k))

/-- Put a sequence into a set's items: a token more for a key that is there, or an item more. -/
def banAdd (set : Nat) (items : List BanItem) (n : Nat) : List BanItem :=
  let (len, toks) := banRec n
  let key := banKey set ((toks.take (len - 1)).reverse)
  let t := toks.getD (len - 1) 0
  if items.any fun x => x.key == key then
    items.map fun x => if x.key = key && !x.toks.contains t then { x with toks := x.toks ++ [t] } else x
  else items ++ [⟨key, 65536, [t], none⟩]

/-- Ban-list bytes in use, other sets' and these. -/
def banBytes (s : State) (set : Nat) (items : List BanItem) : Nat :=
  (s.att.bans.foldl (fun a kv => if kv.1 = set then a else a + kv.2.items.foldl (fun b x => b + banListLen x) 0) 0)
    + items.foldl (fun b x => b + banListLen x) 0

/-- The lowest place from `o` up with `n` free bytes among lists sorted by address. -/
def banPlace (n : Nat) : Nat → List (Nat × Nat) → Nat
  | o, [] => o
  | o, (a, l) :: t => if o + n ≤ a then o else banPlace n (max o (a + l)) t

/-- Lists that stand in the ban-list memory, by address. -/
def banLists (s : State) : List (Nat × Nat) :=
  sortBy (fun a b => decide (a.1 < b.1)) ((s.att.bans.flatMap (·.2.items)).filterMap fun x => x.addr.map fun a => (a, banListLen x))

/-- Store one item: its list, and its search entry, new or changed. -/
def banStore (set tenant : Nat) (s : State) (x : BanItem) : State :=
  let b : BanSet := Tbl.getD s.att.bans set ⟨tenant, []⟩
  let addr := if x.toks.length ≤ 1 then none else some (banPlace (banListLen x) 0 (banLists s))
  let result := match addr with
    | none => x.toks.headD 0
    | some a => 2 ^ 31 + a
  let row : SRow := ⟨x.key, 2 ^ 160 - 1, 0, result, 0⟩
  let (i, s1) := if x.idx < 65536 then
      (x.idx, countUpdate { s with tsu := { s.tsu with search := Tbl.set s.tsu.search x.idx ⟨row, some row, false⟩ } })
    else placeEntry s 0xF row
  { s1 with att := { s1.att with bans := Tbl.set s1.att.bans set { b with items := b.items ++ [{ x with idx := i, addr := addr }] } } }

/-- A set some open step's requests use. -/
def banInUse (s : State) (set : Nat) : Bool :=
  s.att.steps.any fun kv => kv.2.reqs.any fun q => match q.aux with
    | some a => a.banSet == set
    | none => false

def banLoad : Meaning := fun c s => do
  let set := c.fld 127 116
  let n := c.fld 115 101
  let clear := c.fld 100 100 == 1
  lenF (decide (n ≤ 16384) && (clear || decide (1 ≤ n))) 101
  c.lenIs (16 + 32 * n)
  let recs := c.recs 16 32 n
  checkEach (fun i x => need (decide (1 ≤ (banRec x).1) && decide ((banRec x).1 ≤ 8)) St.lengthRange (inPay (16 + 32 * i + 3))) 0 recs
  c.tgtRsv 0
  c.rsv 99 0
  fldF (set != 0) 116
  checkEach banRecOk 0 recs
  let old : BanSet := Tbl.getD s.att.bans set ⟨c.tenant, []⟩
  c.own old.tenant
  need (!banInUse s set) St.busy 0
  let base := if clear then [] else old.items
  let items := recs.foldl (banAdd set) base
  let gone := if clear then old.items else []
  need (decide (items.length - base.length ≤ banksFree s 0xF + gone.length)) St.noCapacity 0
  need (decide (banBytes s set items ≤ 4194304)) St.noCapacity 0
  let s1 := gone.foldl (fun t x => deleteEntry t x.idx) s
  let s2 := { s1 with att := { s1.att with bans := Tbl.del s1.att.bans set } }
  .ok (okAns, items.foldl (banStore set old.tenant) s2)

def execBanLoad (r : Nat) (d : Dma) (s : State) : Host.Outcome State Fault Refusal :=
  .next (commit s (hostCmd 0x0812 [.operator, .tenant] r d banLoad s))

/-! ### ATTN_BIAS_LOAD (09 R254) -/

def biasInUse (s : State) (k : Nat) : Bool := s.att.steps.any fun kv => kv.2.biasSlots.contains k

def attnBiasLoad : Meaning := fun c s => do
  let g := c.fld 12 6
  let k := c.fld 5 0
  lenF (decide (1 ≤ g) && decide (g ≤ 64)) 6
  c.lenIs (16 + 8192 * g)
  c.tgtRsv 0
  c.rsv 127 13
  let vals := bf16sOf (c.pay.drop 16) (4096 * g)
  checkEach (fun i v => need (isFinite (ofBf16 v) || v == 0xFF80) St.fieldRange (inPay (16 + 2 * i))) 0 vals
  match Tbl.get s.att.bias k with
  | some b => c.own b.tenant
  | none => .ok ()
  need (!biasInUse s k) St.busy 0
  .ok (okAns, { s with att := { s.att with bias := Tbl.set s.att.bias k ⟨c.tenant, g, vals⟩ } })

def execAttnBiasLoad (r : Nat) (d : Dma) (s : State) : Host.Outcome State Fault Refusal :=
  .next (commit s (hostCmd 0x0802 [.operator, .tenant] r d attnBiasLoad s))

/-! ### LSE_MERGE (09 R257) -/

/-- One merged row: inputs in record order. -/
def mergeRow (dim : Nat) (ins : List (List F32 × F32)) : List F32 × F32 :=
  let mx := ins.foldl (fun m i => fmax m i.2) negInf
  if mx == negInf then (List.replicate dim 0, negInf)
  else
    let ws := ins.map fun i => fexp (fsub i.2 mx)
    let tot := fsum ws
    ((List.range dim).map fun d => fdiv (fsum ((ins.zip ws).map fun iw => fmul iw.2 (iw.1.1.getD d 0))) tot, fadd mx (Config.ln tot))

def lseMerge : Meaning := fun c s => do
  let n := c.fld 108 104
  let rows := c.fld 127 111
  let dim := 64 <<< c.fld 110 109
  let outA := c.fld 255 192
  let lseA := c.fld 191 128
  let bf := c.fld 103 103 == 0
  lenF (decide (2 ≤ n) && decide (n ≤ 16)) 104
  lenF (decide (1 ≤ rows) && decide (rows ≤ 65536)) 111
  c.lenIs (32 + 16 * n)
  c.tgtRsv 0
  c.rsv 102 0
  fldF (c.fld 110 109 != 3) 109
  fldF (decide (lseA < objectBytes)) 128
  fldF (decide (outA < objectBytes)) 192
  let recs := c.recs 32 16 n
  checkEach (fun i x => do
    need (decide (bits x 63 0 < objectBytes)) St.fieldRange (inPay (32 + 16 * i))
    need (decide (bits x 127 64 < objectBytes)) St.fieldRange (inPay (32 + 16 * i + 8))) 0 recs
  let ten := c.priv == .tenant
  let size := rows * dim
  need (rangeMine s ten c.tenant outA (size * outSize bf) && (lseA == 0 || rangeMine s ten c.tenant lseA (4 * rows)) &&
    recs.all fun x => rangeMine s ten c.tenant (bits x 127 64) (4 * size) && rangeMine s ten c.tenant (bits x 63 0) (4 * rows))
    St.accessViolation 0
  checkEach (fun _ x => do
    canRead s (bits x 127 64) (4 * size)
    canRead s (bits x 63 0) (4 * rows)) 0 recs
  canWrite s outA (size * outSize bf)
  if lseA != 0 then canWrite s lseA (4 * rows)
  let ins := recs.map fun x => (f32sOf (devRead s (bits x 127 64) (4 * size)) size, f32sOf (devRead s (bits x 63 0) (4 * rows)) rows)
  let out := (List.range rows).map fun r => mergeRow dim (ins.map fun i => ((i.1.drop (r * dim)).take dim, i.2.getD r 0))
  let s1 ← orFull (devWrite s outA ((out.flatMap (·.1)).flatMap (outBytes bf)))
  let s2 ← if lseA = 0 then .ok s1 else orFull (devWrite s1 lseA (f32Bytes (out.map (·.2))))
  .ok (okAns, s2)

def execLseMerge (r : Nat) (d : Dma) (s : State) : Host.Outcome State Fault Refusal :=
  .next (commit s (hostCmd 0x0803 [.operator, .tenant] r d lseMerge s))

/-! ### BULLETIN_SET (09 R268) -/

/-- An open step names a bulletin ring. -/
def ringInStep (s : State) (k : Nat) : Bool := s.att.owned.any fun kv => kv.2.bulletin == k && !kv.2.segment

def bulletinSet : Meaning := fun c s => do
  let k := c.fld 167 164
  let p := c.fld 163 162
  let slots := c.fld 180 168
  c.lenIs 32
  lenF (decide (2 ≤ slots) && decide (slots ≤ 4096)) 168
  lenF (decide (1 ≤ c.fld 191 181) && decide (c.fld 191 181 ≤ 1024)) 181
  c.tgtRsv 0
  c.rsv 160 0
  fldF (portMode s p == 1 || portMode s p == 2) 162
  fldF (isPow2 slots) 168
  fldF (c.fld 255 192 % 64 == 0) 192
  match Tbl.get s.att.bulletins k with
  | some b =>
    c.own b.tenant
    need (!ringInStep s k) St.busy 0
  | none => .ok ()
  let bs := if c.fld 161 161 = 0 then Tbl.del s.att.bulletins k
    else Tbl.set s.att.bulletins k ⟨c.fld 255 192, c.fld 191 181, slots, p, c.tenant, 0, 0, true, 0, []⟩
  .ok (okAns, { s with att := { s.att with bulletins := bs } })

def execBulletinSet (r : Nat) (d : Dma) (s : State) : Host.Outcome State Fault Refusal :=
  .next (commit s (hostCmd 0x0830 [.operator, .tenant] r d bulletinSet s))

end Sys2Proof.Machine
end

