-- ==== Sys2Proof/Machine/Attention.lean ====
section
/-! DEFINITION. Attention over stored records and staged entries (09 R250 to R253, 07 R196, R197), the scales of appended
records (07 R190), and the append at a step's last layer (09 R252). -/

namespace Sys2Proof.Machine

/-! ### Reading stored records as the arrays do (07 R194 to R197) -/

/-- A record's group as the arrays read it: its scale, and each element's level, or its side value where it is escaped. -/
def groupElems (q : QTab) (bs : Bytes) (g : Nat) : BitVec 16 × List (Int × Option F32) :=
  let part := sub bs (8 + g * q.groupLen) q.groupLen
  let cw := q.group * q.w / 8
  let codes := unpackCodes q.w (part.take cw)
  let pool := (recsOf 4 q.sidePool (bs.drop (8 + q.groups * q.groupLen))).take (subNat bs 0 2)
  let mine := pool.filterMap fun e => if e % 65536 = g then some (BitVec.ofNat 16 (e / 65536)) else none
  let side : List (BitVec 16) := bf16sOf (part.drop (cw + 4)) (min (escCount q codes) q.sideInline) ++ mine
  let go := codes.foldl (fun (a : List (Int × Option F32) × List (BitVec 16)) c =>
    if some c = q.esc then (a.1 ++ [(0, some (ofBf16 (a.2.headD 0)))], a.2.drop 1)
    else (a.1 ++ [(q.levels.getD c 0, none)], a.2)) ([], side)
  (BitVec.ofNat 16 (subNat part cw 2), go.1)

/-- The INT8 form of a query head vector and its scale s_a = amax ÷ 127 (09 R253). -/
def quantQuery (xs : List F32) : List Int × F32 :=
  let sa := fdiv (xs.foldl (fun a x => fmax a (fabs x)) 0) (fofNat 127)
  (xs.map fun x => toIntSat 8 (fdiv x sa), sa)

/-- The integer sum of one group's levels with activations. -/
def groupDot (es : List (Int × Option F32)) (a : List Int) : Int := (es.zip a).foldl (fun t ea => t + ea.1.1 * ea.2) 0

/-- A stored key against a converted query: the NATIVE path, or the GROUP path (07 R196). -/
def storedDot (q : QTab) (gs : List (BitVec 16 × List (Int × Option F32))) (a : List Int) (sa : F32) : F32 :=
  let parts := gs.zip (chunks q.group gs.length a)
  let side := fsum (parts.flatMap fun p => (p.1.2.zip p.2).filterMap fun ea =>
    ea.1.2.map fun v => fmul (fmul v (fofInt ea.2)) sa)
  let main :=
    if q.grouped then parts.foldl (fun t p => ffma (fofInt (groupDot p.1.2 p.2)) (fmul (ofBf16 p.1.1) sa) t) 0
    else fmul (fofInt (parts.foldl (fun t p => t + groupDot p.1.2 p.2) 0)) (fmul (ofBf16 ((gs.head?.map (·.1)).getD 0)) sa)
  fadd main side

/-- An element of a value vector in the sum over tokens: a level with its record's scale, or a value kept exactly (an escaped
or a staged one). -/
abbrev ValElem := (Int × F32) ⊕ F32

/-- The elements of a stored value vector. -/
def storedVals (gs : List (BitVec 16 × List (Int × Option F32))) : List ValElem :=
  gs.flatMap fun g => g.2.map fun e => match e.2 with
    | some v => .inr v
    | none => .inl (e.1, ofBf16 g.1)

/-- One output's sum over tokens: the record's scale multiplies the weight in FP32 before the integer product with the level
(07 R197); exact values enter as products in FP32. -/
def weightedSum (ws : List F32) (es : List ValElem) : F32 :=
  let ops := (ws.zip es).filterMap fun we => match we.2 with
    | .inl ls => some (fmul we.1 ls.2, ls.1)
    | .inr _ => none
  let exact := (ws.zip es).filterMap fun we => match we.2 with
    | .inl _ => none
    | .inr v => some (fmul we.1 v)
  if ops.isEmpty then fsumOpen exact
  else fadd (Config.weighted (ops.map (·.1)) (ops.map (·.2))) (fsumOpen exact)

/-- The groups of one head vector of a record: layer, K or V, head. -/
def headParts (q : QTab) (bs : Bytes) (layer kv head : Nat) : List (BitVec 16 × List (Int × Option F32)) :=
  (List.range q.headGroups).map fun j => groupElems q bs (((layer * 2 + kv) * q.kvHeads + head) * q.headGroups + j)

/-! ### One layer of one request (09 R253) -/

/-- What a layer's command says beside its addresses. -/
structure LayerArgs where
  layer : Nat
  scale : F32
  qpk : Nat
  bias : List (BitVec 16)
  deriving DecidableEq, Repr

/-- One query head: output and log-sum-exp from scores and values of its keys. -/
def softHead (dim : Nat) (scored : List (F32 × List ValElem)) : List F32 × F32 :=
  let xs := scored.map fun p => (if isFinite p.1 then p.1 else negInf, p.2)
  let m := xs.foldl (fun a p => fmax a p.1) negInf
  if m == negInf then (List.replicate dim 0, negInf)
  else
    let ws := xs.map fun p => fexp (fsub p.1 m)
    let l := fsumOpen ws
    ((List.range dim).map fun d => fdiv (weightedSum ws (xs.map fun p => p.2.getD d (.inr 0))) l, fadd m (Config.ln l))

/-- The score of a key at position kp for a query at qp, and none for a later key. -/
def scoreOf (a : LayerArgs) (head qp kp : Nat) (dot : F32) : Option F32 :=
  if qp < kp then none
  else some (fadd (fmul a.scale dot) (ofBf16 (a.bias.getD (head * 4096 + min (qp - kp) 4095) 0)))

/-- Width of a token's staged entries of one layer: K of each head, then V of each. -/
def QTab.rowLen (q : QTab) : Nat := 2 * q.kvHeads * q.headDim

/-- Staged vector of a layer: token, K or V, head. -/
def stagedVec (q : QTab) (nq : Nat) (staged : List (BitVec 16)) (layer tok kv head : Nat) : List F32 :=
  ((staged.drop ((layer * nq + tok) * q.rowLen + (kv * q.kvHeads + head) * q.headDim)).take q.headDim).map ofBf16

/-- Outputs and log-sum-exps of one request: heads of each query token in order. `recs` are the stored records' tables and
bytes. -/
def layerOf (q : QTab) (a : LayerArgs) (r : StepReq) (seg : Bool) (recs : List (QTab × Bytes)) (qs : List (BitVec 16)) :
    List (List F32 × F32) :=
  (List.range r.qToks).flatMap fun j =>
    (List.range (q.kvHeads * a.qpk)).map fun h =>
      let head := h / a.qpk
      let qp := if seg then r.qPos + j else r.posBase + r.ctx0 + j
      let qv := ((qs.drop ((j * q.kvHeads * a.qpk + h) * q.headDim)).take q.headDim).map ofBf16
      let (qi, sa) := quantQuery qv
      let old := (indexed recs).filterMap fun tr =>
        (scoreOf a head qp (r.posBase + tr.1) (storedDot tr.2.1 (headParts tr.2.1 tr.2.2 a.layer 0 head) qi sa)).map fun x =>
          (x, storedVals (headParts tr.2.1 tr.2.2 a.layer 1 head))
      let new := (List.range (if seg then 0 else r.qToks)).filterMap fun t =>
        (scoreOf a head qp (r.posBase + r.ctx0 + t) (fsumOpen ((qv.zip (stagedVec q r.qToks r.staged a.layer t 0 head)).map fun ab => fmul ab.1 ab.2))).map
          fun x => (x, (stagedVec q r.qToks r.staged a.layer t 1 head).map .inr)
      softHead q.headDim (old ++ new)

/-- The records of a request's stored tokens, each with its table; the first status of one that cannot be decoded. -/
def storedRecs (s : State) (l : PList) (n : Nat) : Except Nat (List (QTab × Bytes)) :=
  (List.range n).mapM fun t => match decodeRec s l t with
    | .error st => .error st
    | .ok (tag, _) => match (cslot s l.codecSlot).byTag tag with
      | none => .error St.tableGone
      | some g => .ok (qtab g, listRead s l (t * l.kvPerTok) l.kvPerTok)

/-! ### Scales of appended records (07 R190) -/

/-- AMAX of a group of a stored record. -/
def amaxAt (s : State) (l : PList) (q : QTab) (t g : Nat) : BitVec 16 :=
  BitVec.ofNat 16 (leNat (listRead s l (t * l.kvPerTok + 8 + g * q.groupLen + q.group * q.w / 8 + 2) 2))

/-- The first record of the window: the earliest of the last SCALE_WINDOW step groups' starts. -/
def windowStart (s : State) (l : PList) (q : QTab) (ctx : Nat) : Option Nat :=
  let starts := (List.range ctx).filter (stepFirstAt s l)
  starts[starts.length - min q.window starts.length]?

/-- Clip points of the units of a step. -/
def stepClips (s : State) (l : PList) (q : QTab) (ctx : Nat) (toks : List (List (BitVec 16))) : List F32 :=
  match windowStart s l q ctx with
  | none => (kvUnits q toks).map (clipPoint q)
  | some t0 =>
    let per := q.groups / q.units
    (List.range q.units).map fun u =>
      (granules t0 (ctx - t0)).foldl (fun a t =>
        (granules (u * per) per).foldl (fun b g => fmax b (ofBf16 (amaxAt s l q t g))) a) 0

/-! ### The append (09 R252) -/

/-- A token's entries over every layer, in record order. -/
def tokenEntries (q : QTab) (nq : Nat) (staged : List (BitVec 16)) (j : Nat) : List (BitVec 16) :=
  (List.range q.layers).flatMap fun y => (staged.drop ((y * nq + j) * q.rowLen)).take q.rowLen

/-- Code and write one record per query token. -/
def appendRecords (q : QTab) (l : PList) (clips : List F32) (toks : List (List (BitVec 16))) (s : State) : Option State :=
  (indexed toks).foldl (fun o jt => andThen o fun u =>
    let gs := bulkRecord q (clips.map (scaleOf q)) [] jt.2
    let (esc, lost) := recEscapes q gs
    (listWrite u l ((l.ctxLen + jt.1) * l.kvPerTok) (recordBytes q (jt.1 == 0) gs esc (keptAmaxs q gs esc)) l.codecSlot q.tag).map
      fun v => countLost v l.codecSlot lost) (some s)

/-- Append a request's staged entries to its list; a cause where that fails. -/
def appendStep (q : QTab) (r : StepReq) (s : State) : Except Nat State :=
  match getList s r.gid with
  | none => .error St.notFound
  | some l =>
    let toks := (List.range r.qToks).map (tokenEntries q r.qToks r.staged)
    let need' := pagesFor l.kvPerTok l.cls (l.ctxLen + r.qToks)
    if 4194304 < need' then .error St.lengthRange
    else
      let clips := stepClips s l q l.ctxLen toks
      let s1 := if need' ≤ l.pages.length then some s else (appendPages s r.gid (need' - l.pages.length)).map (·.2)
      let s2 := andThen s1 fun t => privRun t r.gid (l.ctxLen * l.kvPerTok) (r.qToks * l.kvPerTok)
      match andThen s2 fun t => appendRecords q ((getList t r.gid).getD l) clips toks t with
      | none => .error St.noCapacity
      | some t => match getList t r.gid with
        | none => .error St.notFound
        | some l1 => .ok (oneChange l (putList t { l1 with ctxLen := l.ctxLen + r.qToks }))

end Sys2Proof.Machine
end

