-- ==== Sys2Proof/Machine/Steps.lean ====
section
/-! DEFINITION. Batch steps at the home (09 R242 to R252, R259, R263 to R266): opening, drafting, layers, the close and its
final lengths. -/

namespace Sys2Proof.Machine

/-- What the home of a step answers: an answer, the outcomes where the step closes, and the next state. -/
abbrev StepAct := FwdMsg → State → Except Ans (Ans × Option (List StepOut) × State)

/-! ### Payloads (09 R245, R250, R263, R265) -/

/-- The fields that every step command has, whichever header carries them. -/
structure StepHdr where
  tag : Nat
  count : Nat
  ring : Nat
  isOpen : Bool
  len : Nat
  deriving DecidableEq, Repr

def Op.draft : Nat := 0x0820
def Op.attn : Nat := 0x0801
def Op.sample : Nat := 0x0811
def Op.verify : Nat := 0x0821
/-- The final lengths of step 4 of R266, as a forward: no opcode of the index. -/
def Op.final : Nat := 0x08FF

/-- Field [hi:lo] of a step command's header. -/
def hf (pay : Bytes) (hi lo : Nat) : Nat := bits (leNat (pay.take 64)) hi lo

def stepHdr (op : Nat) (pay : Bytes) : StepHdr :=
  if op = Op.attn then ⟨hf pay 255 224, hf pay 191 181, hf pay 161 158, hf pay 155 155 == 1, 64⟩
  else if op = Op.draft then ⟨hf pay 79 48, hf pay 47 37, hf pay 36 33, true, 32⟩
  else ⟨hf pay 191 160, hf pay 159 149, hf pay 148 145, hf pay 144 144 == 1, 32⟩

/-- A length-table entry. -/
structure LenEnt where
  handle : Nat
  posBase : Nat
  qPos : Nat
  qToks : Nat
  drafts : Nat
  seg : Bool
  deriving DecidableEq, Repr

def lenEnt (n : Nat) : LenEnt := ⟨bits n 127 96, bits n 95 75, bits n 74 54, bits n 53 50, bits n 49 46, bit n 45⟩

/-- The length table of an opening command. -/
def lenTable (h : StepHdr) (pay : Bytes) : List LenEnt := if h.isOpen then (recsOf 16 h.count (pay.drop h.len)).map lenEnt else []

/-- A GIVEN record: T, then its tokens. -/
def givenToks (bs : Bytes) : List Nat := ((wordsOf 10 bs).drop 1).take (subNat bs 0 4 % 16) |>.map (· % 2 ^ 18)

/-- The GIVEN record of each table entry. -/
def givenRecs (h : StepHdr) (k : Nat) (pay : Bytes) : List (List Nat) :=
  (chunks 40 k (pay.drop (h.len + if h.isOpen then 16 * h.count else 0))).map givenToks

def isGiven (pay : Bytes) : Bool := hf pay 143 143 == 1

/-! ### Opening (09 R245, R247, R252) -/

def getStep (s : State) (tag : Nat) : Option Step := Tbl.get s.att.steps tag
def setStep (s : State) (tag : Nat) (st : Step) : State := { s with att := { s.att with steps := Tbl.set s.att.steps tag st } }

/-- A request as the home takes it in. -/
def takeIn (s : State) (tab : List LenEnt) (q : FwdReq) : Except Ans (LenEnt × PList × StepReq) :=
  match getList s q.gid with
  | none => stop St.notFound
  | some l =>
    let e := (tab.find? fun e => e.handle == q.handle).getD (lenEnt 0)
    .ok (e, l, ⟨q.gid, q.handle, e.posBase, e.qPos,
      if e.seg then e.qToks else q.promptLen + q.genLen - l.ctxLen, l.ctxLen, q.genLen, q.promptLen, q.maxNew, q.hist,
      auxOf q.aux, 0, false, [], [], []⟩)

/-- A command's own checks of steps 11 and 12 that the open step decides: its table, its requests, whether it is a segment
step. -/
abbrev StepFit := Option QTab → List StepReq → Bool → Except Ans Unit

/-- Open a step: its checks at the home in the order of 02 R447, and the step with nothing proposed, its staging and its
generation held. The owner's checks of its own state come in their turn. -/
def openStep (op : Nat) (opener : Opener) (fit : StepFit) (m : FwdMsg) (s : State) : Except Ans (List LenEnt × Step × State) := do
  let h := stepHdr op m.pay
  need s.cax.builtins St.badOpcode 0
  let tagAt := if op = Op.attn then 28 else if op = Op.draft then 6 else 20
  let tab := lenTable h m.pay
  let ins ← m.reqs.mapM (takeIn s tab)
  let handleAt := inPay (h.len + 12)
  let slot := m.codecSlot
  let named := ins.map (·.2.1) ++ m.left.filterMap (getList s)
  let seg := tab.any (·.seg)
  let newest := if opener = .sample then none else (cslot s slot).newest.map qtab
  fit newest (ins.map (·.2.2)) seg
  need (getStep s h.tag).isNone St.fieldRange (inPay tagAt)
  need (named.all fun l => l.codecSlot == slot && some l.ns == named.head?.map (·.ns)) St.fieldRange handleAt
  need ((newest.map QTab.hasLayout).getD true) St.fieldRange handleAt
  m.check 0
  m.check 1
  let toks := ins.foldl (fun a x => a + x.2.2.qToks + x.1.drafts) 0
  let q ← if opener = .sample then .ok none else (encTab (cslot s slot)).map some
  let units := match q with
    | some q => if seg then 0 else ceilDiv (toks * q.layers * q.rowLen * 2) 65536
    | none => 0
  need (decide (s.att.steps.length < 64)) St.busy 0
  need (stagingFits s (units * 65536)) St.busy 0
  let st : Step := ⟨m.frm, opener, seg, slot, q.map (·.tag), (q.map (·.layers)).getD 0, 0, now s, units, [], false, ins.map (·.2.2)⟩
  .ok (ins.map (·.1), st, match q with
    | some q => holdRef s slot q.tag
    | none => s)

/-- A step leaves the home: its hold on the generation ends. -/
def dropStep (s : State) (tag : Nat) : State :=
  match getStep s tag with
  | none => s
  | some st =>
    let s1 := { s with att := { s.att with steps := Tbl.del s.att.steps tag } }
    match st.genTag with
    | some g => dropRef s1 st.codecSlot g
    | none => s1

/-! ### Drafting (09 R263) -/

/-- The draft model descriptor is in range for requests of one VOCAB each. -/
def descOk (d : Bytes) (vocabs : List Nat) : Bool :=
  let w (o n : Nat) : Nat := subNat d o n
  let layers := w 4 2
  let dm := w 6 2
  let heads := w 8 2
  d.take 4 == ascii "TFDR" && decide (1 ≤ layers ∧ layers ≤ 32) && decide (256 ≤ dm ∧ dm ≤ 4096) && dm % 128 == 0 &&
    decide (1 ≤ heads ∧ heads ≤ 32) && (dm == 64 * heads || dm == 128 * heads) &&
    decide (512 ≤ w 10 2 ∧ w 10 2 ≤ 16384) && w 10 2 % 128 == 0 && vocabs.all (· == w 12 4) &&
    decide (16 ≤ w 16 2 ∧ w 16 2 ≤ 2048) && decide (w 18 1 < 64) && allZero (sub d 19 5) &&
    allZero (sub d 40 24)

/-- Draft tokens of one request: at most `n`, each with its distribution; the draft stops after END_TOKEN. -/
def draftToks (a : Aux) (gid base : Nat) (hist : List Nat) : Nat → State → List (Nat × List (Nat × F32)) × State
  | 0, s => ([], s)
  | n + 1, s =>
    let row := (List.range a.vocab).map fun t => Config.draftLogit s.draws hist t
    match rowDist a hist row (drawn s) with
    | (.error _, s1) => ([], s1)
    | (.ok ps, s1) =>
      let t := sampleTok a gid base 2 ps
      if a.endTok = some t then ([(t, ps)], s1)
      else
        let r := draftToks (seeTok a t) gid (base + 1) (hist ++ [t]) n s1
        ((t, ps) :: r.1, r.2)

/-- The draft page is live, loose, of the request's tenant and large enough: it keeps the draft's state. -/
def keepDraft (tenant : Nat) (d : Bytes) (a : Aux) (s : State) : State :=
  match getPage s a.draftPage with
  | none => s
  | some p =>
    let size := subNat d 4 2 * 2 * subNat d 16 2 * subNat d 6 2 * 2
    if p.st = .live && p.loose && p.tenant == tenant && decide (size ≤ psize (pageClassOf a.draftPage)) then
      let at_ := pageAddr a.draftPage
      if rangeWrite s at_ size = St.ok then
        match devWrite s at_ ((List.range size).map fun i => Config.draftByte s.draws i) with
        | some t => drawn t
        | none => s
      else s
    else s

/-- Draft for each request of an opening step, in table order. -/
def draftAll (d : Bytes) (ents : List LenEnt) (reqs : List StepReq) (s : State) : List StepReq × State :=
  (ents.zip reqs).foldl (fun acc er =>
    let r := er.2
    match r.aux with
    | none => (acc.1 ++ [r], acc.2)
    | some a =>
      if er.1.drafts = 0 then (acc.1 ++ [r], acc.2)
      else
        let ts := draftToks a r.gid (r.promptLen + r.genLen) r.hist er.1.drafts acc.2
        let tenant := ((getList ts.2 r.gid).map (·.tenant)).getD 0
        (acc.1 ++ [{ r with proposed := ts.1.map (·.1), dist := ts.1.map (·.2), qToks := r.qToks + ts.1.length }],
          keepDraft tenant d a ts.2)) ([], s)

/-- The 48-byte record of one table entry. -/
def draftRec (toks : List Nat) : Bytes := histBytes (toks.length :: (toks ++ List.replicate (11 - toks.length) 0xFFFFFFFF))

/-- Write bytes at a device address here, or under a remote key. -/
def putOut (key node a : Nat) (bs : Bytes) (s : State) : Except Ans State :=
  if key = 0 then orFull (devWrite s a bs) else .ok (emit s (.remoteWrite node key a bs))

/-- A device range that a step command names: its address, its length, the address's place in the payload, whether it is
written. -/
structure StepRange where
  base : Nat
  len : Nat
  lo : Nat
  out : Bool
  deriving DecidableEq, Repr

/-- The ranges are the session's tenant's. -/
def rangesMine (m : FwdMsg) (s : State) (rs : List StepRange) : Except Ans Unit :=
  need (rs.all fun r => rangeMine s m.isTenant m.tenant r.base r.len) St.accessViolation 0

/-- The ranges lie in the object region. -/
def rangesIn (rs : List StepRange) : Except Ans Unit :=
  needAll (rs.map fun r => (decide (r.base + r.len ≤ objectBytes), St.fieldRange, inPay (r.lo / 8)))

/-- The ranges can be read, and written where they are outputs. -/
def rangesOpen (s : State) (rs : List StepRange) : Except Ans Unit :=
  rs.forM fun r => if r.out then canWrite s r.base r.len else canRead s r.base r.len

/-- An output range, where it is this home's. -/
def outRange (key base len lo : Nat) : List StepRange := if key = 0 then [⟨base, len, lo, true⟩] else []

/-- The ranges of SPEC_DRAFT: output and descriptor. -/
def draftRanges (m : FwdMsg) : List StepRange :=
  outRange (hf m.pay 127 96) (hf m.pay 191 128) (48 * (stepHdr Op.draft m.pay).count) 128 ++ [⟨hf m.pay 255 192, 64, 192, false⟩]

/-- A readable draft model descriptor is in range. -/
def draftFit (m : FwdMsg) (s : State) : StepFit := fun _ reqs _ => do
  let rs := draftRanges m
  rangesMine m s rs
  rangesIn rs
  let desc := hf m.pay 255 192
  need (rangeRead s desc 64 != St.ok || descOk (devRead s desc 64) (reqs.filterMap fun r => r.aux.map Aux.vocab)) St.fieldRange
    (inPay 24)

/-- SPEC_DRAFT at the home: its kernel runs as a launch of context 63 (08 R228). -/
def homeDraft : StepAct := fun m s => do
  let h := stepHdr Op.draft m.pay
  let (ents, st, s1) ← openStep Op.draft .spec (draftFit m s) m s
  rangesOpen s (draftRanges m)
  let (reqs, s2) := draftAll (devRead s (hf m.pay 255 192) 64) ents st.reqs s1
  let tab := lenTable h m.pay
  let recs := tab.flatMap fun e => draftRec (((reqs.find? fun r => r.handle == e.handle).map (·.proposed)).getD [])
  let s3 ← putOut (hf m.pay 127 96) (hf m.pay 95 80) (hf m.pay 191 128) recs (builtinRun 63 s2)
  .ok (okAns, none, setStep s3 h.tag { st with reqs := reqs })

/-! ### A layer (09 R248, R250 to R253) -/

/-- The byte shares of a packed buffer: one for each request, `per` bytes to a query token. -/
def shares (per : Nat) (reqs : List StepReq) (bs : Bytes) : List Bytes :=
  (reqs.foldl (fun (a : List Bytes × Bytes) r => (a.1 ++ [a.2.take (per * r.qToks)], a.2.drop (per * r.qToks))) ([], bs)).1

def tokSum (reqs : List StepReq) : Nat := reqs.foldl (fun a r => a + r.qToks) 0

/-- End a request's part in a step with a cause, the first cause kept. -/
def endReq (r : StepReq) (st : Nat) : StepReq := if r.st = St.ok then { r with st := st } else r

/-- One request of a layer: its outputs, or a cause. -/
def layerReq (s : State) (q : QTab) (a : LayerArgs) (seg : Bool) (r : StepReq) (qs : Bytes) :
    Except Nat (List (List F32 × F32)) :=
  match getList s r.gid with
  | none => .error St.peerLost
  | some l => (storedRecs s l r.ctx0).map fun recs =>
    layerOf q a r seg recs (bf16sOf qs (r.qToks * q.kvHeads * a.qpk * q.headDim))

/-- Write a layer's outputs, request after request; those of an ended request are left unwritten. -/
def writeLayer (bf : Bool) (key node a per : Nat) (outs : List (Nat × Option (List (List F32)))) (s : State) : Except Ans State :=
  (outs.foldl (fun (acc : Except Ans State × Nat) o =>
    ((match acc.1, o.2 with
      | .ok t, some xs => if xs.isEmpty then .ok t else putOut key node (a + acc.2) (xs.flatMap fun x => x.flatMap (outBytes bf)) t
      | e, _ => e), acc.2 + per * o.1)) (.ok s, 0)).1

/-- Key tiles of 64 keys that a layer processes. -/
def tilesOf (seg : Bool) (r : StepReq) : Nat := if r.qToks = 0 then 0 else ceilDiv (r.ctx0 + if seg then 0 else r.qToks) 64

/-- Append every request's records after the last layer. -/
def appendAll (q : QTab) (reqs : List StepReq) (s : State) : List StepReq × State :=
  reqs.foldl (fun acc r =>
    if r.st != St.ok || r.qToks = 0 then (acc.1 ++ [r], acc.2)
    else match appendStep q r acc.2 with
      | .ok t => (acc.1 ++ [r], t)
      | .error e => (acc.1 ++ [endReq r e], acc.2)) ([], s)

/-- The outcome of a request that has none of its own: its step closes without tokens. -/
def bareOut (r : StepReq) : StepOut := ⟨r.gid, r.st, [], 0, 0, 0⟩

/-- Bytes of a layer's buffers for `n` query tokens: queries, new entries, outputs, log-sum-exps. -/
structure LayerLens where
  query : Nat
  entry : Nat
  out : Nat
  lse : Nat
  deriving DecidableEq, Repr

def layerLens (m : FwdMsg) (q : QTab) : LayerLens :=
  let heads := q.kvHeads * hf m.pay 166 162
  ⟨heads * q.headDim * 2, 2 * q.rowLen, heads * q.headDim * outSize (hf m.pay 157 157 == 0),
    if hf m.pay 156 156 == 1 then 4 * heads else 0⟩

/-- A layer's ranges, in payload order: outputs, new entries, queries. -/
def layerRanges (m : FwdMsg) (q : QTab) (seg : Bool) (n : Nat) : List StepRange :=
  let z := layerLens m q
  outRange (hf m.pay 319 288) (hf m.pay 383 320) ((z.out + z.lse) * n) 320 ++
    (if seg then [] else [⟨hf m.pay 447 384, z.entry * n, 384, false⟩]) ++ [⟨hf m.pay 511 448, z.query * n, 448, false⟩]

/-- Steps 11 and 12 of a layer, before the step's state. -/
def layerFit (m : FwdMsg) (s : State) : StepFit := fun tab reqs seg =>
  match tab with
  | none => .ok ()
  | some q => do
    let b := Tbl.get s.att.bias (hf m.pay 172 167)
    let rs := layerRanges m q seg (tokSum reqs)
    need ((b.map fun x => !m.isTenant || x.tenant == m.tenant).getD true) St.accessViolation 0
    rangesMine m s rs
    lenF (decide (q.kvHeads * hf m.pay 166 162 ≤ 64)) 162
    fldF ((b.map (·.groups)) == some q.kvHeads) 167
    fldF (decide (hf m.pay 180 173 < q.layers)) 173
    fldF (!seg || hf m.pay 447 384 == 0) 384
    rangesIn rs

/-- One layer of an open step: its kernel runs as a launch of context 61 (08 R228). -/
def layerStep (m : FwdMsg) (tag : Nat) (st : Step) (s : State) : Except Ans (Ans × Option (List StepOut) × State) := do
  let f (hi lo : Nat) : Nat := hf m.pay hi lo
  let layer := f 180 173
  let tab := (st.genTag.bind (cslot s st.codecSlot).byTag).map qtab
  layerFit m s tab st.reqs st.segment
  m.check 0
  need (layer == st.nextLayer && !st.closing) St.state 0
  let q ← match tab with
    | some q => .ok q
    | none => stop St.state
  let n := tokSum st.reqs
  rangesOpen s (layerRanges m q st.segment n)
  let z := layerLens m q
  let kvs := if st.segment then st.reqs.map fun _ => [] else shares (2 * q.rowLen) st.reqs (devRead s (f 447 384) (z.entry * n))
  let reqs := (st.reqs.zip kvs).map fun rk => { rk.1 with staged := rk.1.staged ++ bf16sOf rk.2 (rk.2.length / 2) }
  let a : LayerArgs := ⟨layer, BitVec.ofNat 32 (f 223 192), f 166 162, ((Tbl.get s.att.bias (f 172 167)).map (·.vals)).getD []⟩
  let outs := (reqs.zip (shares z.query reqs (devRead s (f 511 448) (z.query * n)))).map fun rq =>
    if rq.1.st != St.ok then .error rq.1.st else layerReq s q a st.segment rq.1 rq.2
  let reqs1 := (reqs.zip outs).map fun ro => match ro.2 with
    | .error e => endReq ro.1 e
    | .ok _ => ro.1
  let vals := (reqs1.map (·.qToks)).zip (outs.map Except.toOption)
  let s0 := builtinRun 61 s
  let s1 ← writeLayer (f 157 157 == 0) (f 319 288) (f 287 272) (f 383 320) z.out
    (vals.map fun no => (no.1, no.2.map fun xs => xs.map (·.1))) s0
  let lses := vals.map fun no => (no.1, no.2.map fun xs => [xs.map (·.2)])
  let s2 ← if f 156 156 == 1 then writeLayer false (f 319 288) (f 287 272) (f 383 320 + z.out * n) z.lse lses s1 else .ok s1
  let last := layer + 1 == st.layers
  let (reqs2, s3) := if last && !st.segment then appendAll q reqs1 s2 else (reqs1, s2)
  let st1 := { st with
    nextLayer := layer + 1, reqs := reqs2
    biasSlots := if st.biasSlots.contains (f 172 167) then st.biasSlots else st.biasSlots ++ [f 172 167] }
  let ans := okR0 ((st.reqs.map (tilesOf st.segment)).foldl (· + ·) 0)
  if last && st.segment then .ok (ans, some (reqs2.map bareOut), dropStep s3 tag) else .ok (ans, none, setStep s3 tag st1)

/-- ATTN_STEP at the home. -/
def homeAttn : StepAct := fun m s => do
  let h := stepHdr Op.attn m.pay
  if h.isOpen then
    let (_, st, s1) ← openStep Op.attn .attn (layerFit m s) m s
    layerStep { m with checks := [] } h.tag st s1
  else
    match getStep s h.tag with
    | none => stop St.notFound
    | some st =>
      need (st.owner == m.frm) St.notFound 0
      layerStep m h.tag st s

/-! ### Tokens of a closing request (09 R259, R264) -/

/-- The residual max(0, p − q), normalized, in p's order; p itself where it is zero everywhere. -/
def residual (p q : List (Nat × F32)) : List (Nat × F32) :=
  let r := p.map fun x => (x.1, fmax 0 (fsub x.2 (((q.find? fun y => y.1 == x.1).map (·.2)).getD 0)))
  let t := fsum (r.map (·.2))
  if t == 0 then p else r.map fun x => (x.1, fdiv x.2 t)

/-- Probability of a token in a distribution. -/
def probOf (p : List (Nat × F32)) (t : Nat) : F32 := ((p.find? fun x => x.1 == t).map (·.2)).getD 0

/-- What ends the output after a token: END_TOKEN, or MAX_NEW reached by the tokens output so far. -/
def endsWith (a : Option Aux) (r : StepReq) (k t : Nat) : Option Nat :=
  if (a.bind Aux.endTok) = some t then some 1 else if r.maxNew ≤ r.genLen + k then some 2 else none

/-- What a row's decision leaves: tokens output with what each is, the finish, and a cause. -/
structure RowsOut where
  toks : List Nat
  accepted : Nat
  finish : Nat
  st : Nat
  failed : Bool
  deriving DecidableEq, Repr

/-- Verification and sampling over the rows left: row i with draft d[i] and its distribution; the last row has none. -/
def closeRows (r : StepReq) (gid : Nat) : List (List F32) → List (Nat × List (Nat × F32)) → Aux → RowsOut → State → RowsOut × State
  | [], _, _, o, s => (o, s)
  | row :: rows, ds, a, o, s =>
    let k := o.toks.length
    let pos := r.promptLen + r.genLen + k
    match rowDist a (r.hist ++ o.toks) row s with
    | (.error (st, failed), s1) => ({ o with st := st, failed := failed }, s1)
    | (.ok p, s1) =>
      let put (t : Nat) (acc : Bool) : RowsOut :=
        { o with toks := o.toks ++ [t], accepted := o.accepted + b2n acc, finish := (endsWith (some a) r (k + 1) t).getD 0 }
      match ds with
      | [] => (put (sampleTok a gid pos 1 p) false, s1)
      | (d, q) :: ds' =>
        let accept : Bool :=
          if a.greedy then (p.head?.map (·.1)).getD 0 == d
          else flt (fmul (drawU a.seed gid pos 0) (probOf q d)) (probOf p d)
        if accept then
          let o1 := put d true
          if o1.finish != 0 then (o1, s1) else closeRows r gid rows ds' (seeTok a d) o1 s1
        else if a.greedy then (put ((p.head?.map (·.1)).getD 0) false, s1)
        else (put (drawFrom (drawU a.seed gid pos 1) (residual p q)) false, s1)

/-- GIVEN tokens: as many as the output's end allows. -/
def givenRows (r : StepReq) : List Nat → List Nat → List Nat × Nat
  | done, [] => (done, 0)
  | done, t :: ts =>
    match endsWith r.aux r (done.length + 1) t with
    | some f => (done ++ [t], f)
    | none => givenRows r (done ++ [t]) ts

/-- The outcome of one request at a close: `rows` its logits, or the GIVEN tokens. -/
def closeReq (r : StepReq) (rows : List (List F32)) (given : Option (List Nat)) (s : State) : StepOut × State :=
  let n := r.proposed.length
  let out (st : Nat) (failed : Bool) : StepOut := ⟨r.gid, st, [], n, 0, if failed then 4 else 0⟩
  if r.st != St.ok then (out r.st r.failed, s)
  else if r.maxNew ≤ r.genLen then (⟨r.gid, St.ok, [], n, 0, 2⟩, s)
  else match given with
    | some ts =>
      if n + 1 < ts.length || ts.take (ts.length - 1) != r.proposed.take (ts.length - 1) then (out St.fieldRange false, s)
      else
        let g := givenRows r [] ts
        (⟨r.gid, St.ok, g.1, n, min g.1.length (ts.length - 1), g.2⟩, s)
    | none => match r.aux with
      | none => (out St.state false, s)
      | some a =>
        let o := closeRows r r.gid rows (r.proposed.zip r.dist) a ⟨[], 0, 0, St.ok, false⟩ s
        (if o.1.st != St.ok then out o.1.st o.1.failed else ⟨r.gid, St.ok, o.1.toks, n, o.1.accepted, o.1.finish⟩, o.2)

/-- Logits rows of a request: n + 1 of VOCAB elements; none without an auxiliary block. -/
def rowShape (r : StepReq) : Nat × Nat :=
  match r.aux with
  | none => (0, 0)
  | some a => (r.proposed.length + 1, a.vocab)

def rowsOf (bf : Bool) (shape : Nat × Nat) (bs : Bytes) : List (List F32) :=
  let n := shape.1 * shape.2
  chunks shape.2 shape.1 (if bf then (bf16sOf bs n).map ofBf16 else f32sOf bs n)

/-- Close every request in table order. -/
def closeAll (bf : Bool) (reqs : List StepReq) (given : Option (List (List Nat))) (bs : Bytes) (s : State) : List StepOut × State :=
  let es := if bf then 2 else 4
  let r := (indexed reqs).foldl (fun (acc : List StepOut × Bytes × State) kr =>
    let sh := rowShape kr.2
    let o := closeReq kr.2 (rowsOf bf sh acc.2.1) (given.map fun g => g.getD kr.1 []) acc.2.2
    (acc.1 ++ [o.1], acc.2.1.drop (sh.1 * sh.2 * es), o.2)) ([], bs, s)
  (r.1, r.2.2)

/-- The logits that a close reads. -/
def logitRange (m : FwdMsg) (reqs : List StepReq) : List StepRange :=
  let es := if hf m.pay 142 142 == 1 then 2 else 4
  if isGiven m.pay then []
  else [⟨hf m.pay 255 192, (reqs.map fun r => (rowShape r).1 * (rowShape r).2 * es).foldl (· + ·) 0, 192, false⟩]

def closeFit (m : FwdMsg) (s : State) : StepFit := fun _ reqs _ => do
  rangesMine m s (logitRange m reqs)
  rangesIn (logitRange m reqs)

/-- The close of an open step: its checks, then its outcomes. A close that reads logits runs its kernel as a launch of context
62 (08 R228). -/
def closeStep (m : FwdMsg) (tag : Nat) (verify : Bool) (st : Step) (given : Option (List (List Nat))) (s : State) :
    Except Ans (Ans × Option (List StepOut) × State) := do
  closeFit m s none st.reqs st.segment
  m.check 0
  need (!st.closing && !st.segment && (st.opener == .spec) == verify) St.state 0
  need (tokSum st.reqs == 0 || (st.layers != 0 && st.nextLayer == st.layers)) St.state 0
  m.check 1
  let rs := logitRange m st.reqs
  rangesOpen s rs
  let bs := rs.flatMap fun r => devRead s r.base r.len
  let (outs, s1) := closeAll (hf m.pay 142 142 == 1) st.reqs given bs (if bs.isEmpty then s else builtinRun 62 s)
  .ok (okAns, some outs, setStep s1 tag { st with closing := true })

/-- SAMPLE_STEP and SPEC_VERIFY at the home. The message carries the GIVEN records of the requests taken in. -/
def homeClose (op : Nat) : StepAct := fun m s => do
  let h := stepHdr op m.pay
  let given := if isGiven m.pay then some (givenRecs h m.reqs.length m.pay) else none
  if h.isOpen then
    let (_, st, s1) ← openStep op .sample (closeFit m s) m s
    closeStep { m with checks := [] } h.tag false st given s1
  else
    match getStep s h.tag with
    | none => stop St.notFound
    | some st =>
      need (st.owner == m.frm) St.notFound 0
      closeStep m h.tag (op == Op.verify) st given s

/-! ### The end of a step at the home (09 R249, R266 step 4) -/

/-- Truncate the lists of a step to final lengths, by identifier, and drop it. -/
def finalStep (tag : Nat) (finals : List (Nat × Nat)) (s : State) : State :=
  dropStep (finals.foldl (fun a f =>
    match getList a f.1 with
    | none => a
    | some l => if f.2 < l.ctxLen then truncate a f.1 f.2 else a) s) tag

/-- The lengths after step 4 as the answer carries them: identifier, CTX_LEN, USED and RES units. -/
def finalLens (s : State) (finals : List (Nat × Nat)) : Bytes :=
  finals.flatMap fun f =>
    match getList s f.1 with
    | none => []
    | some l => leBytes 8 f.1 ++ leBytes 4 l.ctxLen ++ leBytes 4 l.usedUnits ++ leBytes 4 l.resUnits

/-- The final lengths a message brings. -/
def finalsOf (pay : Bytes) : Nat × List (Nat × Nat) :=
  (subNat pay 0 4, (recsOf 12 ((pay.length - 4) / 12) (pay.drop 4)).map fun n => (bits n 63 0, bits n 95 64))

/-- An open step of this home is aborted: staged entries go, appended records are truncated away. -/
def abortStep (s : State) (tag : Nat) : State :=
  match getStep s tag with
  | none => s
  | some st => finalStep tag (if st.segment then [] else st.reqs.map fun r => (r.gid, r.ctx0)) s

/-- The open step of a request ends for it as R249 states. -/
def abortReq (s : State) (gid : Nat) : State :=
  match s.att.steps.find? fun kv => kv.2.reqs.any fun r => r.gid == gid with
  | none => s
  | some (tag, st) =>
    let s1 := match st.reqs.find? fun r => r.gid == gid, getList s gid with
      | some r, some l => if !st.segment && r.ctx0 < l.ctxLen then truncate s gid r.ctx0 else s
      | _, _ => s
    let st1 := { st with reqs := st.reqs.map fun r => if r.gid = gid then endReq r St.peerLost else r }
    setStep s1 tag st1

end Sys2Proof.Machine
end

