-- ==== Sys2Proof/Machine/StepCmds.lean ====
section
/-! DEFINITION. Batch steps at the owner (09 R242, R245 to R250, R263 to R270): the step commands, the opening, the close and
its bulletin, and the events that end a step. -/

namespace Sys2Proof.Machine

/-! ### Fields (09 R245, R247, R250, R263, R265) -/

/-- Where STEP_TAG and COUNT stand, as payload bits. -/
def tagLo (op : Nat) : Nat := if op = Op.attn then 224 else if op = Op.draft then 48 else 160
def countLo (op : Nat) : Nat := if op = Op.attn then 181 else if op = Op.draft then 37 else 149

/-- A payload field's check at a byte of the payload. -/
def entF (b : Bool) (o : Nat) : Bool × Nat × Nat := (b, St.fieldRange, inPay o)

/-- One entry of the length table, before the entries after it: a relation of two entries is named at the earlier one (02
R445). -/
def entChecks (op o : Nat) (after : List LenEnt) (n : Nat) : List (Bool × Nat × Nat) :=
  let e := lenEnt n
  [entF (bits n 44 0 == 0) o, entF (after.all fun b => b.seg == e.seg) (o + 5),
   entF (decide (e.drafts ≤ 8) && (op == Op.draft || e.drafts == 0)) (o + 5),
   entF (if e.seg then decide (1 ≤ e.qToks) && decide (e.qToks ≤ 9) else e.qToks == 0) (o + 6),
   entF (e.seg || e.qPos == 0) (o + 6), entF (after.all fun b => b.handle != e.handle) (o + 12)]

/-- The length table's entries, in order. -/
def tableChecks (op : Nat) : Nat → List Nat → List (Bool × Nat × Nat)
  | _, [] => []
  | o, n :: ns => entChecks op o (ns.map lenEnt) n ++ tableChecks op (o + 16) ns

/-- T of each GIVEN record, then its reserved bits. -/
def givenLens (o : Nat) (rs : List Bytes) : List (Bool × Nat × Nat) :=
  (indexed rs).map fun kr => let t := subNat kr.2 0 4 % 16
    (decide (1 ≤ t) && decide (t ≤ 9), St.lengthRange, inPay (o + 40 * kr.1))

def givenFields (o : Nat) (rs : List Bytes) : List (Bool × Nat × Nat) :=
  (indexed rs).flatMap fun kr =>
    entF (subNat kr.2 0 4 / 16 == 0) (o + 40 * kr.1) ::
      ((wordsOf 10 kr.2).drop 1 |>.take (subNat kr.2 0 4 % 16) |> indexed).map fun iw =>
        entF (iw.2 / 2 ^ 18 == 0) (o + 40 * kr.1 + 4 * (iw.1 + 1) + 2)

/-- The header's own fields, in the order of their offsets. -/
def hdrFields (op : Nat) (h : StepHdr) (pay : Bytes) : List (Bool × Nat × Nat) :=
  let f (hi lo : Nat) : Nat := hf pay hi lo
  if op = Op.attn then
    [entF (f 154 0 == 0) 0, entF (h.isOpen || h.ring == 0) 19, entF (fpOk (f 223 192) fun x => flt 0 x) 24,
     entF (h.tag != 0) 28, entF (f 271 256 == 0) 32]
  else if op = Op.draft then [entF (f 32 0 == 0) 0, entF (h.tag != 0) 6]
  else
    [entF (f 141 0 == 0) 0, entF (op == Op.sample || !h.isOpen) 18, entF (h.isOpen || h.ring == 0) 18, entF (h.tag != 0) 20]

/-- Steps 9 and 10 of R50; `k` is the number of GIVEN records. -/
def stepChecks (op : Nat) (c : Cmd) (h : StepHdr) (k : Nat) : Except Ans Unit := do
  lenF (if h.isOpen then decide (1 ≤ h.count) && decide (h.count ≤ 1024) else h.count == 0) (countLo op)
  lenF (op != Op.attn || (decide (1 ≤ hf c.pay 166 162) && decide (hf c.pay 166 162 ≤ 16))) 162
  let tab := if h.isOpen then 16 * h.count else 0
  c.lenIs (h.len + tab + 40 * k)
  let given := chunks 40 k (c.pay.drop (h.len + tab))
  needAll (givenLens (h.len + tab) given)
  c.bound (if h.isOpen then 2 * h.count else 0)
  c.tgtRsv 0
  needAll (hdrFields op h c.pay)
  needAll (tableChecks op h.len (if h.isOpen then recsOf 16 h.count (c.pay.drop h.len) else []))
  needAll (givenFields (h.len + tab) given)

/-! ### The owner's view -/

def getOwn (s : State) (tag : Nat) : Option OwnStep := Tbl.get s.att.owned tag
def setOwn (s : State) (tag : Nat) (o : OwnStep) : State := { s with att := { s.att with owned := Tbl.set s.att.owned tag o } }
def delOwn (s : State) (tag : Nat) : State := { s with att := { s.att with owned := Tbl.del s.att.owned tag } }

def OwnStep.taken (o : OwnStep) : List OwnEntry := o.entries.filter fun e => e.st == St.ok

/-- Why a request is left out of a step; ST_OK takes it in (09 R247). -/
def leftOut (op : Nat) (s : State) (n : Nat) (x : Slot) (e : LenEnt) : Nat :=
  let q := x.e.promptLen + x.e.genLen - x.e.ctxLen + e.drafts
  if !([RState.admitted, .prefill, .generate, .draining].contains x.e.state) || !x.e.promptComplete || decide (9 < q) then St.state
  else if x.e.inStep || x.e.movePend || x.restoring || relWaiting s n then St.busy
  else if op = Op.draft && x.aux.isNone then St.state
  else St.ok

/-- IN_STEP clears and what waited on the step follows: a page loss, an expiry or cancel, REQ_COMPLETE, a drain mark. -/
def freeStep (s : State) (n : Nat) : State :=
  match getSlot s n with
  | none => s
  | some x =>
    if !x.e.inStep || x.e.movePend then s
    else
      let s1 := setSlot s n { x with stepTag := 0, lossSt := none, e := { x.e with inStep := false } }
      match x.lossSt with
      | some z => if (x.e.expirePend || x.e.cancelPend) && !z.fatal then endBusy s1 n else endBusy (applyLoss s1 n z) n
      | none => endBusy s1 n

def freeAll (s : State) (o : OwnStep) : State := o.taken.foldl (fun a e => freeStep a e.slot) s

/-- The step is open: each request taken in moves to GENERATE. -/
def markOpen (s : State) (tag : Nat) (o : OwnStep) : State :=
  let go (a : State) (e : OwnEntry) : State :=
    match getSlot a e.slot with
    | none => a
    | some x => if x.e.state = .admitted || x.e.state = .prefill then setState a e.slot .generate else a
  setOwn (o.taken.foldl go s) tag { o with isOpen := true }

/-- The result of an opening: one status for each entry. -/
def openResult (o : OwnStep) : Bytes := o.entries.flatMap fun e => leBytes 2 e.st

/-! ### Bulletins (09 R268, R269) -/

/-- A bulletin entry. -/
def bulletinEntry (gid handle st genLen drafted accepted fin : Nat) (toks : List Nat) : Bytes :=
  leBytes 36 (leNat (histBytes (toks ++ List.replicate (9 - toks.length) 0xFFFFFFFF))) ++
    leBytes 28 (fin <<< 76 ||| accepted <<< 79 ||| drafted <<< 83 ||| toks.length <<< 87 ||| genLen <<< 91 ||| st <<< 112
      ||| handle <<< 128 ||| gid <<< 160)

/-- Form the bulletin of a step and report it. -/
def putBulletin (s : State) (r tag home : Nat) (entries : List Bytes) : State :=
  match Tbl.get s.att.bulletins r with
  | none => s
  | some b =>
    let q := if b.bseq = 0xFFFFFFFF then 1 else b.bseq + 1
    let body := entries.flatMap id
    let hdr := home <<< 325 ||| entries.length <<< 341 ||| crc32c body <<< 352 ||| q <<< 384 ||| tag <<< 416
    report { s with att := { s.att with bulletins := Tbl.set s.att.bulletins r { b with bseq := q } } }
      (.bulletin r (leBytes 64 hdr ++ body))

/-- A close may still add a bulletin to those that wait. -/
def ringRoom (s : State) (r : Nat) : Bool :=
  match Tbl.get s.att.bulletins r with
  | none => true
  | some b => decide (b.waiting.length < 64)

/-! ### The close (09 R266 steps 3 to 6) -/

/-- A request that a step's end makes terminal; the commands that waited are answered. -/
def endTerminal (s : State) (n : Nat) (x : Slot) (st : RState) (ls : Nat) : State :=
  answerWaits x.waits (fun w => if st = .done || w = .cancel then (St.ok, 0) else (St.state, 9)) (terminate s n st ls)

/-- Step 3 for one entry of the table, a due deadline watch first (03 R76): its bulletin entry, its final length where the home keeps one, and the next state. -/
def ownOutcome (outs : List StepOut) (s : State) (en : OwnEntry) : Bytes × List (Nat × Nat) × State :=
  let s := if en.st = St.ok then watchFirst s en.slot else s
  match getSlot s en.slot with
  | none => (bulletinEntry en.gid en.handle en.st 0 0 0 5 [], [], s)
  | some x =>
    let o := (outs.find? fun o => o.gid == en.gid).getD ⟨en.gid, St.peerLost, [], 0, 0, 0⟩
    let ent (st fin : Nat) : Bytes := bulletinEntry en.gid en.handle st x.e.genLen o.drafted 0 fin []
    let keep : List (Nat × Nat) := [(en.gid, en.ctx0)]
    if en.st != St.ok then (ent en.st 5, [], s)
    else if x.e.gid != en.gid then (ent St.peerLost 5, [], s)
    else
      let x1 := { x with e := { x.e with stepCount := min (x.e.stepCount + 1) 0xFFFFFFFF } }
      let s1 := setSlot s en.slot x1
      if x.e.expirePend then (ent St.expired 3, keep, freeStep s1 en.slot)
      else if x.e.cancelPend then (ent St.ok 4, keep, freeStep s1 en.slot)
      else match x.lossSt with
        | some z => (ent z.st 5, keep, s1)
        | none =>
          if o.st != St.ok then (ent o.st 5, keep, if o.finish = 4 then endTerminal s1 en.slot x1 .failed o.st else s1)
          else match auxAfter x o.toks with
            | none => (ent St.lengthRange 5, keep, endTerminal s1 en.slot x1 .failed St.lengthRange)
            | some aux =>
              if !(decide (auxLen aux ≤ auxLen x.aux) || serviceFits s (auxLen aux - auxLen x.aux)) then (ent St.noCapacity 5, keep, s1)
              else
                let x2 := acceptTokens x1 o.toks aux
                let ctx := x2.e.promptLen + x2.e.genLen - 1
                let e3 := { x2.e with
                  ctxLen := ctx, draftTokens := min (x2.e.draftTokens + o.drafted) 0xFFFFFFFF
                  acceptedTokens := min (x2.e.acceptedTokens + o.accepted) 0xFFFFFFFF }
                let x3 := { x2 with e := e3 }
                let s2 := setSlot s en.slot x3
                (bulletinEntry en.gid en.handle St.ok e3.genLen o.drafted o.accepted o.finish o.toks, [(en.gid, ctx)],
                  if o.finish = 0 then s2 else endTerminal s2 en.slot x3 .done St.ok)

/-- Step 3 for the whole table. -/
def ownStep3 (o : OwnStep) (outs : List StepOut) (s : State) : List Bytes × List (Nat × Nat) × State :=
  o.entries.foldl (fun a en =>
    let r := ownOutcome outs a.2.2 en
    (a.1 ++ [r.1], a.2.1 ++ r.2.1, r.2.2)) ([], [], s)

/-- Steps 4 (its end) to 6: IN_STEP clears, the bulletin is written, the step is gone. -/
def finishClose (s : State) (tag : Nat) (o : OwnStep) (entries : List Bytes) : State :=
  let s1 := delOwn (freeAll s o) tag
  let s2 := if mirroring s1 then { s1 with mir := { s1.mir with closes := s1.mir.closes ++ [(tag, entries.flatMap id)] } } else s1
  putBulletin s2 o.bulletin tag o.home entries

/-- Step 4 toward a remote home. -/
def sendFinals (s : State) (tag : Nat) (o : OwnStep) (tok : Tok) (finals : List (Nat × Nat)) : State :=
  let id := s.ppm.nextFwd
  let s1 := { s with ppm := { s.ppm with
    nextFwd := (id + 1) % 2 ^ 32, fwds := Tbl.set s.ppm.fwds id ⟨o.home, Op.final, [], tag, tok, now s, epochNum s⟩ } }
  emit s1 (.fwd o.home ⟨me s, id, Op.final, 0, false, 0, 0,
    leBytes 4 tag ++ finals.flatMap (fun f => leBytes 8 f.1 ++ leBytes 4 f.2), [], [], 0, epochNum s, []⟩)

/-- The close at the owner: at once where the home is here, at the home's answer otherwise. -/
def closeOwn (s : State) (tag : Nat) (o : OwnStep) (tok : Tok) (res : Bytes) (outs : List StepOut) : Ans × State :=
  let r := ownStep3 o outs s
  if o.home = me s then (okRes res, finishClose (finalStep tag r.2.1 r.2.2) tag o r.1)
  else (laterAns, sendFinals (setOwn r.2.2 tag { o with closeTok := some tok, closeRes := res, closeOut := r.1 }) tag o tok r.2.1)

/-- An opening that the home refuses leaves no trace. -/
def undoOpen (s : State) (tag : Nat) (o : OwnStep) : State := delOwn (freeAll s o) tag

/-- What the owner does with the home's answer to a step command. -/
def afterStep (op tag : Nat) (tok : Tok) (a : Ans) (outs : Option (List StepOut)) (s : State) : Ans × State :=
  match getOwn s tag with
  | none => (a, s)
  | some o =>
    if a.st != some St.ok then (a, if o.isOpen then s else undoOpen s tag o)
    else
      let s1 := if o.isOpen then s else markOpen s tag o
      let res := if o.isOpen then [] else openResult o
      let o1 := { o with isOpen := true }
      if op = Op.sample || op = Op.verify then closeOwn s1 tag o1 tok res (outs.getD [])
      else if o.segment && outs.isSome then ({ a with result := res }, delOwn (freeAll s1 o1) tag)
      else ({ a with result := res }, s1)

/-- Run a step command at the home, with the owner's checks of its own state; an opening also names the requests it leaves
out, and the codec slot of all. -/
def runStep (op tag : Nat) (home : Nat) (c : Cmd) (ns left : List Nat) (slot : Nat) (checks : List (Except Ans Unit))
    (act : StepAct) (s : State) : Except Ans (Ans × State) :=
  if home != me s then .ok (laterAns, sendForwardOf left slot s c op home tag ns checks)
  else match act { homeMsg s c op 0 ns checks with left := left, codecSlot := slot } s with
    | .error a => .error a
    | .ok (a, outs, s1) => .ok (afterStep op tag c.tok a outs s1)

/-! ### The commands -/

/-- The payload with the GIVEN records of the requests taken in alone. -/
def givenPay (c : Cmd) (h : StepHdr) (entries : List OwnEntry) : Bytes :=
  let front := h.len + if h.isOpen then 16 * h.count else 0
  c.pay.take front ++ ((entries.zip (chunks 40 entries.length (c.pay.drop front))).filter fun x => x.1.st == St.ok).flatMap (·.2)

/-- Where BULLETIN stands, as a payload bit. -/
def ringLo (op : Nat) : Nat := if op = Op.attn then 158 else if op = Op.draft then 33 else 145

/-- Requests of the table taken in or left out, IN_STEP set where taken in. -/
def takeAll (op tag : Nat) (xs : List (LenEnt × Nat × Slot)) (s : State) : List OwnEntry × State :=
  xs.foldl (fun a x =>
    let st := leftOut op s x.2.1 x.2.2 x.1
    (a.1 ++ [⟨x.1.handle, x.2.2.e.gid, x.2.1, st, x.2.2.e.ctxLen⟩],
      if st = St.ok then setSlot a.2 x.2.1 { x.2.2 with stepTag := tag, e := { x.2.2.e with inStep := true } } else a.2)) ([], s)

/-- The home of a request's list. -/
def homeOf (s : State) (x : Slot) : Nat := if x.e.remoteHome then x.e.home else me s

/-- The request of a length-table entry. -/
def tableEntry (c : Cmd) (s : State) (e : LenEnt) : Except Ans (LenEnt × Nat × Slot) := (c.entry s e.handle).map fun nx => (e, nx)

/-- An opening command: its checks of steps 11 and 12 at the owner, then the home's. -/
def openCmd (op : Nat) (act : StepAct) (c : Cmd) (h : StepHdr) (s : State) : Except Ans (Ans × State) := do
  let tab := lenTable h c.pay
  let xs ← tab.mapM (tableEntry c s)
  let seg := tab.any (·.seg)
  let ring := Tbl.get s.att.bulletins h.ring
  need (seg || (ring.map fun b => c.tenantOk b.tenant).getD true) St.accessViolation 0
  lenF (seg || (ring.map fun b => decide (h.count ≤ b.maxBatch)).getD true) (countLo op)
  fldF (seg || ring.isSome) (ringLo op)
  fldF (getOwn s h.tag).isNone (tagLo op)
  let first := xs.head?.map fun x => (homeOf s x.2.2, x.2.2.e.codecSlot)
  need (xs.all fun x => some (homeOf s x.2.2, x.2.2.e.codecSlot) == first) St.fieldRange (inPay (h.len + 12))
  let (ents, s1) := takeAll op h.tag xs s
  let closes : Except Ans Unit := need (op != Op.sample || (!seg && (xs.zip ents).all fun xe => xe.2.st != St.ok ||
    decide (xe.1.2.2.e.promptLen + xe.1.2.2.e.genLen ≤ xe.1.2.2.e.ctxLen))) St.state 0
  let room : Except Ans Unit := need (op != Op.sample || ringRoom s h.ring) St.busy 0
  let home := (first.map (·.1)).getD (me s)
  let o : OwnStep := ⟨home, h.ring, seg, false, now s, ents, none, [], []⟩
  let pay := if op = Op.sample && isGiven c.pay then givenPay c h ents else c.pay
  let left := (ents.filter fun e => e.st != St.ok).map (·.gid)
  runStep op h.tag home { c with pay := pay } (o.taken.map (·.slot)) left ((first.map (·.2)).getD 0) [closes, room] act
    (setOwn s1 h.tag o)

/-- An entry of a step's table is the session's to act on. -/
def entryMine (c : Cmd) (s : State) (e : OwnEntry) : Bool :=
  match getSlot s e.slot with
  | some x => c.tenantOk x.e.tenant
  | none => true

/-- A later command of an open step; `k` is the number of GIVEN records it carries. -/
def moreCmd (op : Nat) (act : StepAct) (c : Cmd) (h : StepHdr) (k : Nat) (s : State) : Except Ans (Ans × State) :=
  match getOwn s h.tag with
  | none => stop St.notFound
  | some o => do
    let closes := op == Op.sample || op == Op.verify
    need (o.entries.all (entryMine c s)) St.accessViolation 0
    need (!(closes && isGiven c.pay) || k == o.entries.length) St.lengthRange 24
    need (o.isOpen && o.closeTok.isNone) St.state 0
    if closes then
      let pay := if isGiven c.pay then givenPay c h o.entries else c.pay
      runStep op h.tag o.home { c with pay := pay } (o.taken.map (·.slot)) [] 0
        [need (!o.segment) St.state 0, need (ringRoom s o.bulletin) St.busy 0] act s
    else runStep op h.tag o.home c [] [] 0 [] act s

/-- Every command of a step. The GIVEN records that a later command carries are as many as its length says; the step's table
decides their number once it is found. -/
def stepCmd (op : Nat) (act : StepAct) : Meaning := fun c s => do
  let h := stepHdr op c.pay
  let k := if (op = Op.sample || op = Op.verify) && isGiven c.pay then (if h.isOpen then h.count else (c.payLen - h.len) / 40)
    else 0
  stepChecks op c h k
  if h.isOpen then openCmd op act c h s else moreCmd op act c h k s

def execAttnStep (r : Nat) (d : Dma) (s : State) : Host.Outcome State Fault Refusal :=
  .next (commit s (hostCmd 0x0801 [.operator, .tenant] r d (stepCmd Op.attn homeAttn) s))

def execSampleStep (r : Nat) (d : Dma) (s : State) : Host.Outcome State Fault Refusal :=
  .next (commit s (hostCmd 0x0811 [.operator, .tenant] r d (stepCmd Op.sample (homeClose Op.sample)) s))

def execSpecDraft (r : Nat) (d : Dma) (s : State) : Host.Outcome State Fault Refusal :=
  .next (commit s (hostCmd 0x0820 [.operator, .tenant] r d (stepCmd Op.draft homeDraft) s))

def execSpecVerify (r : Nat) (d : Dma) (s : State) : Host.Outcome State Fault Refusal :=
  .next (commit s (hostCmd 0x0821 [.operator, .tenant] r d (stepCmd Op.verify (homeClose Op.verify)) s))

/-! ### Steps that end without a close (09 R249, R270; 12 R352) -/

/-- The owner ends a step for each of its requests with ST_PEER_LOST. -/
def abortOwn (s : State) (tag : Nat) : State :=
  match getOwn s tag with
  | none => s
  | some o =>
    if o.segment then delOwn (freeAll s o) tag
    else
      let r := ownStep3 o [] s
      finishClose r.2.2 tag o r.1

/-- The steps whose home a map marks LOST end at their owner. -/
def endLostSteps (s : State) : State :=
  s.att.owned.foldl (fun a kv => if markedLost a kv.2.home then
    (match kv.2.closeTok with
      | some t => finish (finishClose a kv.1 kv.2 kv.2.closeOut) t St.peerLost 0 0
      | none => abortOwn a kv.1) else a) s

def stepPast (s : State) (openedAt : Nat) : Bool := decide (openedAt + s.att.stepTimeout * ms ≤ now s)

/-- STEP_TIMEOUT of a step that `owner` named: the home's side, and the owner's where it is this controller. -/
def execStepTimeout (owner tag : Nat) (s : State) : Host.Outcome State Fault Refusal :=
  .next <| commit s <|
    let s1 := match getStep s tag with
      | some st => if st.owner = owner && stepPast s st.openedAt then abortStep s tag else s
      | none => s
    match getOwn s1 tag with
    | some o => if owner = me s && o.isOpen && o.closeTok.isNone && stepPast s o.openedAt then abortOwn s1 tag else s1
    | none => s1

/-- STEP_ABORT: a survivor of the owner's pair ends a request's open step. -/
def execStepAbort (_frm gid : Nat) (s : State) : Host.Outcome State Fault Refusal :=
  .next <| commit s <| abortReq s gid

end Sys2Proof.Machine
end

