-- ==== Sys2Proof/Machine/Epochs.lean ====
section
/-! DEFINITION. Map epochs: MAP_INSTALL, MAP_QUERY, activation, draining, retirement and nodes marked LOST (04 R95, R101 to
R108). -/

namespace Sys2Proof.Machine

/-! ### Maps as bytes (04 R106) -/

def nodeOf (n : Nat) : NodeRec where
  node := bits n 127 112
  partner := bits n 111 96
  pool := bits n 95 80
  role := bits n 79 76
  domain := bits n 75 70
  inDomain := bit n 69
  lost := bit n 68

/-! ### LOST nodes (04 R95, 03 R78) -/

/-- What one record does when the map marks nodes LOST. Where it marks this controller too, the last item of R95 rules: its
own PULLED and IN_DOUBT stay, and those in REL_WAIT have failed before (`lostSelf`; DESIGN CHOICE, entry 46). The status of
the abort of a PULLING caravan is ST_PEER_LOST, as at the sender (DESIGN CHOICE, entry 46). -/
def lostRec (s : State) (kv : Nat × Caravan) : State :=
  match getRec s kv.1 with
  | none => s
  | some r =>
    if markedLost s (me s) && (r.cstate = .pulled || r.cstate = .inDoubt) then s
    else if (r.cstate = .offered || r.cstate = .pulled || r.cstate = .inDoubt) && markedLost s r.dst then
      cvnResume s kv.1 r .resumed 4 St.peerLost
    else if r.cstate = .pulling && markedLost s r.src then cvnAbort s kv.1 r St.peerLost
    else if r.cstate = .relWait && markedLost s r.src then cvnClose s kv.1 r true
    else s

/-- A request whose home a map newly marks LOST loses its pages; a home move to a LOST node fails (06 R155). -/
def lostHome (was : Nat → Bool) (s : State) (kv : Nat × Slot) : State :=
  match getSlot s kv.1 with
  | none => s
  | some x =>
    let s1 := if x.e.movePend && x.moveDest != 0 && markedLost s x.moveDest then endMove s kv.1 St.peerLost 0 else s
    if x.e.remoteHome && markedLost s x.e.home && !was x.e.home && !x.e.state.terminal then
      applyLoss s1 kv.1 ⟨St.peerLost, false, false⟩
    else s1

/-- The controller itself is marked LOST: requests in REL_WAIT fail, and admission closes until a restart. -/
def lostSelf (s : State) : State :=
  if markedLost s (me s) && !s.cve.selfLost then
    let s1 := { s with cve := { s.cve with selfLost := true } }
    s.cve.recs.foldl (fun a kv => if kv.2.cstate = .relWait then cvnFail a kv.1 kv.2 else a) s1
  else s

/-- An epoch becomes CURRENT: the one before drains, the flag is set, its LOST nodes are acted on, and the command that
waited completes. -/
def activate (s : State) (num : Nat) : State :=
  let was := markedLost s
  let step (e : Epoch) : Epoch :=
    if e.num = num then { e with st := .current, tok := none }
    else if e.st = .current then { e with st := .draining, drainFrom := now s } else e
  let tok : Option Tok := (s.cve.epochs.find? fun e => e.num == num).bind (·.tok)
  let ends : Nat := match s.cve.epochs.find? fun e => e.st == .current && e.num != num with
    | some e => now s + e.drainUs * us
    | none => s.cve.drainEnd
  let s1 := setFlag { s with cve := { s.cve with epochs := s.cve.epochs.map step, drainEnd := ends } } Fl.epochChange
  let s2 := s1.cve.recs.foldl lostRec (lostSelf s1)
  let s3 := s2.rte.slots.foldl (lostHome was) s2
  let s4 := settleEpochs (failLost (endLostSteps s3))
  finishOpt s4 tok St.ok num 0

/-- EPOCH_ACTIVATE: device time has reached ACTIVATE_AT of the PENDING epoch. -/
def execEpochActivate (s : State) : Host.Outcome State Fault Refusal :=
  .next <| commit s <|
    match s.cve.epochs.find? fun e => e.st == .pending with
    | none => s
    | some e => if e.activateAt ≤ now s then activate s e.num else s

/-! ### Retirement (04 R104) -/

/-- What one record does when its epoch retires. -/
def retireRec (num : Nat) (s : State) (kv : Nat × Caravan) : State :=
  match getRec s kv.1 with
  | none => s
  | some r =>
    if r.epoch != num then s
    else if r.cstate = .offered then cvnResume (sendCvn s r Cv.withdraw) kv.1 r .withdrawn 3 St.epochStale
    else if r.cstate = .pulling then cvnAbort s kv.1 r St.epochStale
    else s

/-- DRAIN_TIMEOUT: a DRAINING epoch retires; its caravans that no end has accepted are withdrawn or aborted. -/
def execDrainTimeout (num : Nat) (s : State) : Host.Outcome State Fault Refusal :=
  .next <| commit s <|
    match s.cve.epochs.find? fun e => e.num == num with
    | none => s
    | some e =>
      if e.st = .draining && decide (e.drainFrom + e.drainUs * us ≤ now s) then
        let s1 := { s with cve := { s.cve with epochs := s.cve.epochs.filter fun x => x.num != num } }
        s1.cve.recs.foldl (retireRec num) s1
      else s

/-! ### MAP_INSTALL (04 R106, R107), MAP_QUERY (04 R108) -/

/-- The first record whose node, or whose DOMAIN among IN_DOMAIN records, stands again later in the list: a relation of two
records is named at the earlier one (02 R445). -/
def firstRepeat (key : NodeRec → Option Nat) : Nat → List NodeRec → Option Nat
  | _, [] => none
  | i, r :: rs => if (key r).isSome && rs.any (fun x => key x == key r) then some i else firstRepeat key (i + 1) rs

/-- The partner this controller actually has. -/
def actualPartner (s : State) : Nat :=
  if s.mru.st == .paired || s.mru.st == .joining || s.mru.st == .shadow || s.mru.st == .broken then s.mru.partner else 0xFFFF

def mapInstall : Meaning := fun c s => do
  let count := c.fld 175 160
  let drain := c.fld 159 128
  let num := c.fld 191 176
  c.lenIn 32 (32 + 16 * 4096)
  lenF (drain == 0 || (decide (100 ≤ drain) && decide (drain ≤ 100000))) 128
  lenF (decide (1 ≤ count) && decide (count ≤ 4096)) 160
  c.lenIs (32 + 16 * count)
  let recs := c.recs 32 16 count
  checkEach (fun i r => need (decide (bits r 95 80 ≤ 255)) St.lengthRange (inPay (32 + 16 * i + 10))) 0 recs
  c.tgtRsv 0
  c.rsv 127 0
  checkEach (fun i r => do
    need (bits r 67 0 == 0) St.fieldRange (inPay (32 + 16 * i))
    need (decide (1 ≤ bits r 79 76) && decide (bits r 79 76 ≤ 3)) St.fieldRange (inPay (32 + 16 * i + 9))) 0 recs
  fldF (decide (1 ≤ num) && decide (num ≤ 0xFFFE) && s.cve.epochs.all fun e => newer num e.num) 176
  let nodes := recs.map nodeOf
  match firstRepeat (fun r => some r.node) 0 nodes with
  | some i => stop St.fieldRange (inPay (32 + 16 * i + 14))
  | none => .ok ()
  match firstRepeat (fun r => if r.inDomain then some r.domain else none) 0 nodes with
  | some i => stop St.fieldRange (inPay (32 + 16 * i + 8))
  | none => .ok ()
  match nodes.findIdx? fun r => r.node == me s with
  | none => stop St.fieldRange (inPay 20)
  | some i =>
    let own := nodes.getD i ⟨0, 0, 0, 0, 0, false, false⟩
    need (own.role == s.hcu.role) St.fieldRange (inPay (32 + 16 * i + 9))
    need (own.partner == actualPartner s) St.fieldRange (inPay (32 + 16 * i + 12))
  need (decide (s.cve.epochs.length < 4) && s.cve.epochs.all fun e => e.st != .pending) St.busy 0
  let at0 := c.fld 255 192
  need (at0 == 0 || s.clk.synced) St.state 0
  let now? := decide (at0 ≤ now s)
  let e : Epoch := ⟨num, .pending, at0, if drain = 0 then 2000 else drain, 0, nodes, c.pay, if now? then none else some c.tok⟩
  let s1 := { s with cve := { s.cve with epochs := s.cve.epochs ++ [e] } }
  if now? then .ok (okR0 num, activate s1 num) else .ok ({ st := some St.pending, r0 := num }, s1)

def execMapInstall (r : Nat) (d : Dma) (s : State) : Host.Outcome State Fault Refusal :=
  .next (commit s (hostCmd 0x0310 [.operator] r d mapInstall s))

def EpState.code : EpState → Nat
  | .pending => 1 | .current => 2 | .draining => 3

def mapQuery : Meaning := fun c s => do
  c.lenIs 8
  let num := c.fld 15 0
  if num = 0 then
    c.bound 64
    c.tgtRsv 0
    c.rsv 63 16
    .ok (okRes (s.cve.epochs.flatMap fun e =>
      leBytes 16 (e.num ||| e.st.code <<< 16 ||| inFlight s e.num <<< 32 ||| e.activateAt <<< 64)), s)
  else
    match s.cve.epochs.find? fun e => e.num == num with
    | none =>
      c.tgtRsv 0
      c.rsv 63 16
      stop St.notFound
    | some e =>
      c.tgtRsv 0
      c.rsv 63 16
      c.bound e.image.length
      .ok (okRes e.image, s)

def execMapQuery (r : Nat) (d : Dma) (s : State) : Host.Outcome State Fault Refusal :=
  .next (commit s (hostCmd 0x0311 [.operator, .maintenance] r d mapQuery s))

end Sys2Proof.Machine
end

