-- ==== Sys2Proof/Machine/ReqCmds.lean ====
section
/-! DEFINITION. The 0x02xx commands other than parking, and the request table's events (03). -/

namespace Sys2Proof.Machine

/-! ### REQ_ADMIT (03 R65 to R71) -/

structure Admit where
  prompt : Nat
  maxNew : Nat
  shared : Nat
  kv : Nat
  cls : Nat
  spec : Nat
  deriving DecidableEq, Repr

/-- RES_HBM of 03 R66. -/
def admitHbm (a : Admit) : Nat :=
  let bytes := (a.prompt + a.maxNew + a.spec - a.shared) * a.kv
  ceilDiv (ceilDiv bytes (psize a.cls) * psize a.cls) 65536

/-- RES_FLASH of 03 R66. -/
def admitFlash (a : Admit) : Nat :=
  let bytes := (a.prompt + a.maxNew + a.spec - a.shared) * a.kv
  ceilDiv (ceilDiv bytes (psize a.cls) * psize a.cls) 2097152

def Cmd.admission (c : Cmd) : Admit where
  prompt := c.fld 127 107
  maxNew := c.fld 106 86
  shared := c.fld 85 65
  kv := c.fld 64 45
  cls := c.fld 44 41
  spec := c.fld 15 12

/-- Steps 9 and 10 of R50 for REQ_ADMIT. -/
def admitChecks (c : Cmd) : Except Ans Unit := do
  c.lenIs 32
  lenF (decide (c.fld 15 12 ≤ 8)) 12
  lenF (decide (64 ≤ c.fld 64 45) && decide (c.fld 64 45 ≤ 524288)) 45
  lenF (decide (c.fld 85 65 ≤ c.fld 127 107)) 65
  lenF (decide (c.fld 106 86 + c.fld 127 107 ≤ 1048576)) 86
  lenF (decide (1 ≤ c.fld 127 107) && decide (c.fld 127 107 ≤ 1048576)) 107
  c.tgtRsv 0
  c.rsv 4 0
  c.rsv 11 8
  fldF (decide (c.fld 44 41 ≤ 9)) 41
  fldF (c.fld 191 128 == 0 || c.priv != .tenant) 128

/-- REQ_ADMIT (03 R65 to R71): steps 1 to 5 of R67 are made here, whichever node is the home; one that would draw from a
block whose mark is not committed waits for the commit. -/
def reqAdmit : Meaning := fun c s => do
  admitChecks c
  let a := c.admission
  let gid0 := c.fld 191 128
  let deadline := c.fld 255 192
  let prio := c.fld 34 32
  let home := c.fld 31 16
  let parkOk := bit (c.fld 7 0) 6
  let res := admitHbm a
  need (decide (0 < freeSlots s) && admissionOpen s) St.noCapacity 0
  need (gid0 == 0 || !gidHeld s gid0) St.busy 0
  need (deadline == 0 || decide (now s + (classRow s prio).minLead ≤ deadline)) St.expired 0
  need (capsOk s prio c.tenant res) St.noCapacity 0
  let hist := histUnitsOf (a.prompt + a.maxNew + a.spec)
  need (hbmFits s hist) St.noCapacity 0
  let (n, s1) := takeSlot s
  let s2 := { s1 with rte := { s1.rte with histUnits := Tbl.set s1.rte.histUnits n hist } }
  let e : Entry := { noEntry with
    gid := gid0, deadline := deadline, admitTime := now s, stateTime := now s, plistRoot := noId
    resHbm := res, resFlash := admitFlash a, tenant := c.tenant, kvPerTok := a.kv, prevOwner := 0xFFFF
    epoch := epochNum s, roleHist := s.hcu.role, promptLen := a.prompt, maxNew := a.maxNew, home := home
    auxRoot := noId, codecSlot := c.fld 40 35, pageClass := a.cls, slotGen := slotGenOf s n, prio := prio
    durable := bit (c.fld 7 0) 5, remoteHome := home != me s, watch := bit (c.fld 7 0) 7 }
  let w : HomeWait := ⟨n, e, c.tok, now s, .mark, parkOk⟩
  if gid0 != 0 then .ok (laterAns, admitOn s2 w)
  else if seqReady s && s.rte.markWaits.isEmpty then .ok (laterAns, admitDraw s2 w)
  else .ok (laterAns, { s2 with rte := { s2.rte with markWaits := s2.rte.markWaits ++ [w] } })

def execReqAdmit (r : Nat) (d : Dma) (s : State) : Host.Outcome State Fault Refusal :=
  .next (commit s (hostCmd 0x0201 [.operator, .tenant] r d reqAdmit s))

/-! ### The home's side of an admission (03 R69) -/

/-- The home charges a remote owner's admission and answers. -/
def answerResv (s : State) (m : ResvMsg) : State :=
  match chargeHome s m.gid m.frm m.tenant m.prio m.resHbm m.resFlash m.kvPerTok m.pageClass m.codecSlot m.parkOk m.durable with
  | none => emit s (.resvAns m.frm m.gid St.noCapacity noId 0)
  | some (root, parked, s1) => report s1 (.send (.resvAns m.frm m.gid (if parked then St.pending else St.ok) root 0))

/-- RESERVATION_REQUEST: under an epoch that passes here (04 R103) the home applies steps 4, 6 and 7 of R67 and answers, with
its partner's hold where the reservation is mirrored (12 R343); or the new home of a moved list charges it (06 R155). -/
def execReservationRequest (m : ResvMsg) (s : State) : Host.Outcome State Fault Refusal :=
  .next <| commit s <|
    if !epochPasses s m.epoch then emit s (.resvAns m.frm m.gid St.epochStale noId 0)
    else if m.move then
      let (st, root, key, s1) := moveCharge s m
      report s1 (.send (.resvAns m.frm m.gid st root key))
    else if !capsOk s m.prio m.tenant m.resHbm then emit s (.resvAns m.frm m.gid St.noCapacity noId 0)
    else if mirroring s && (m.durable || s.mru.cover == 2) then sendCharge s (.home m) 0 m.resHbm
    else answerResv s m

/-- The new home has answered (06 R155): its refusal ends the command; otherwise the old home writes the pages. -/
def moveAnswered (s : State) (n st key : Nat) : State :=
  match getSlot s n with
  | none => s
  | some x =>
    if st != St.ok then endMove s n (if st = St.epochStale then st else St.noCapacity) 0
    else
      let s1 := setSlot s n { x with moveReady := true }
      if x.e.remoteHome then
        match x.moveTok with
        | none => s1
        | some t =>
          let id := s1.ppm.nextFwd
          let m : FwdMsg := ⟨me s, id, 0x0502, x.e.tenant, false, 0, 0, leBytes 8 (key <<< 16 ||| x.moveDest), [fwdReq s1 n], [], 0, epochNum s, []⟩
          emit { s1 with ppm := { s1.ppm with
            nextFwd := (id + 1) % 2 ^ 32, fwds := Tbl.set s1.ppm.fwds id ⟨x.e.home, 0x0502, [n], 0, t, now s, epochNum s⟩ } }
            (.fwd x.e.home m)
      else sendPages s1 x.e.gid x.moveDest key

/-- RESERVATION_ANSWER: the admission completes, or a home move goes on. ST_PENDING tells that the charge went to
flash. -/
def execReservationAnswer (frm gid st root key : Nat) (s : State) : Host.Outcome State Fault Refusal :=
  .next <| commit s <|
    match Tbl.get s.rte.homeWaits gid with
    | none =>
      match slotOfGid s gid with
      | none => s
      | some n =>
        match getSlot s n with
        | none => s
        | some x => if x.e.movePend && x.moveDest == frm && !x.moveReady && x.moveDest != 0 then moveAnswered s n st key else s
    | some w =>
      if w.phase != .home || w.ent.home != frm then s
      else
        let s1 := dropWait s gid
        if st = St.ok || st = St.pending then showAdmit s1 w.slot (parkedAt w.ent (st == St.pending) root) w.tok
        else complete (abandon s1 w.slot w.ent) w.tok (if st = St.epochStale then st else St.noCapacity) 0 0 [] true

/-- A home move's destination has not answered for 1 ms: it has failed (06 R155). -/
def moveTimeout (s : State) (gid : Nat) : State :=
  match slotOfGid s gid with
  | none => s
  | some n =>
    match getSlot s n with
    | none => s
    | some x =>
      if x.e.movePend && x.moveDest != 0 && !x.moveReady && decide (x.moveAt + ms ≤ now s) then endMove s n St.peerLost 0 else s

/-- HOME_ANSWER_TIMEOUT: 1 ms without an answer. The admission is rejected and its release sent; none is needed once the home
is marked LOST. -/
def execHomeAnswerTimeout (gid : Nat) (s : State) : Host.Outcome State Fault Refusal :=
  .next <| commit s <|
    match Tbl.get s.rte.homeWaits gid with
    | none => moveTimeout s gid
    | some w =>
      if w.phase != .home || now s < w.sentAt + ms then s
      else
        let s1 := complete (abandon (dropWait s gid) w.slot w.ent) w.tok St.peerLost 0 0 [] true
        if markedLost s w.ent.home then s1
        else emit { s1 with rte := { s1.rte with releases := s1.rte.releases ++ [(gid, w.ent.home)] } } (.resvRelease w.ent.home gid)

/-- A charge for an admission that still waits for this home's partner is given up; the hold goes back when it is granted. -/
def dropHomeCharge (s : State) (frm gid : Nat) : State :=
  { s with mir := { s.mir with charges := s.mir.charges.map fun c =>
      match c.1 with
      | .home m => if m.frm = frm && m.gid = gid then (.admission 0, c.2) else c
      | _ => c } }

/-- ADMISSION_RELEASE, at the home: any charge made for the admission is freed, and the release acknowledged. At the owner
the acknowledgement ends the resending. -/
def execAdmissionRelease (frm gid : Nat) (s : State) : Host.Outcome State Fault Refusal :=
  .next <| commit s <|
    if s.rte.releases.contains (gid, frm) then { s with rte := { s.rte with releases := s.rte.releases.filter (· != (gid, frm)) } }
    else match getList s gid with
      | some l =>
        if l.owner = frm then emit (detachList s gid) (.resvReleaseAck frm gid) else emit s (.resvReleaseAck frm gid)
      | none => emit (dropHomeCharge s frm gid) (.resvReleaseAck frm gid)

/-- RELEASE_RESEND: the releases of an admission are sent again over a new connection; none is needed once the home is
marked LOST. -/
def execReleaseResend (gid : Nat) (s : State) : Host.Outcome State Fault Refusal :=
  .next <| commit s <|
    let (mine, others) := s.rte.releases.partition fun x => x.1 == gid
    let alive := mine.filter fun x => !markedLost s x.2
    alive.foldl (fun a x => emit a (.resvRelease x.2 gid)) { s with rte := { s.rte with releases := others ++ alive } }

/-- HOME_RELEASE: the home detaches a released request's list (05 R134). -/
def execHomeRelease (_frm gid : Nat) (s : State) : Host.Outcome State Fault Refusal :=
  .next <| commit s <|
    match getList s gid with
    | some _ => detachList s gid
    | none => s

/-! ### REQ_QUERY (03 R79) -/

/-- The 128-byte image of a slot. -/
def reqQuery : Meaning := fun c s => do
  need (c.payLen == 0 || c.payLen == 16) St.lengthRange 24
  c.bound 128
  let gid := if c.payLen = 16 then c.fld 127 64 else 0
  let release := c.payLen == 16 && bit (c.fld 7 0) 0
  if gid = 0 then c.tgtRsv 32 else c.tgtRsv 0
  if c.payLen = 16 then c.rsv 63 1
  let (n, x) ← if gid = 0 then c.entry s c.target
    else match slotOfGid s gid with
      | none => stop St.notFound
      | some n => match getSlot s n with
        | none => stop St.notFound
        | some x => c.entry s (handleOf n x.e.slotGen)
  if release then
    stateErr x.e.state.terminal x.e
    need (!relWaiting s n) St.busy 0
    .ok (okRes (entryImage x.e), freeEntry s n)
  else .ok (okRes (entryImage x.e), s)

def execReqQuery (r : Nat) (d : Dma) (s : State) : Host.Outcome State Fault Refusal :=
  .next (commit s (hostCmd 0x0202 [.operator, .tenant, .maintenance] r d reqQuery s))

/-! ### REQ_SET_DEADLINE, REQ_SET_PRIORITY -/

/-- A rejection after the watch has acted keeps what the watch did. -/
def keepWatch (s : State) : Except Ans (Ans × State) → Except Ans (Ans × State)
  | .ok x => .ok x
  | .error a => .ok (a, s)

/-- A command that meets a due deadline watch on its entry: the watch acts first (03 R76). -/
def afterWatch (s : State) (n : Nat) (x : Slot) (act : State → Slot → Except Ans (Ans × State)) : Except Ans (Ans × State) :=
  if watchActs x.e && bucketEnded s x.e then
    match getSlot (watchFires s n) n with
    | none => act s x
    | some y => keepWatch (watchFires s n) (act (watchFires s n) y)
  else act s x

def reqSetDeadline : Meaning := fun c s => do
  c.lenIs 8
  c.tgtRsv 32
  let (n, x) ← c.entry s c.target
  need s.clk.synced St.state 0
  afterWatch s n x fun s x => do
    openEntry s n x
    stateIn x.e [.admitted, .prefill, .generate, .parked, .draining]
    if x.e.expirePend then .error (wrongState x.e) else .ok ()
    let dl := c.fld 63 0
    let s1 := updEntry s n fun e => { e with deadline := dl }
    .ok (okAns, if dl != 0 && dl ≤ now s then watchFires s1 n else s1)

def execReqSetDeadline (r : Nat) (d : Dma) (s : State) : Host.Outcome State Fault Refusal :=
  .next (commit s (hostCmd 0x0203 [.operator, .tenant] r d reqSetDeadline s))

/-- REQ_SET_PRIORITY: accepted in every state that is not terminal, HANDOFF included; DONE and FAILED answer ST_STATE. The
spec names no states for it (DESIGN CHOICE, entry 44). -/
def reqSetPriority : Meaning := fun c s => do
  c.lenIs 8
  c.tgtRsv 32
  c.rsv 31 3
  let (n, x) ← c.entry s c.target
  openEntry s n x
  stateErr (!x.e.state.terminal) x.e
  .ok (okAns, updEntry s n fun e => { e with prio := c.fld 2 0, batchTag := c.fld 63 32 })

def execReqSetPriority (r : Nat) (d : Dma) (s : State) : Host.Outcome State Fault Refusal :=
  .next (commit s (hostCmd 0x0204 [.operator] r d reqSetPriority s))

/-! ### REQ_TOKENS_APPEND -/

def reqTokensAppend : Meaning := fun c s => do
  let count := c.fld 31 0
  c.lenIn 8 (8 + 4 * 65536)
  lenF (decide (1 ≤ count) && decide (count ≤ 65536)) 0
  need (c.payLen == 8 + 4 * count) St.lengthRange 24
  c.tgtRsv 32
  c.rsv 47 32
  c.rsv 63 49
  let toks := c.recs 8 4 count
  checkEach (fun i t => need (decide (t < 2 ^ 18)) St.fieldRange (inPay (8 + 4 * i + 2))) 0 toks
  let gen := bit (c.fld 48 48) 0
  let (n, x) ← c.entry s c.target
  let prompts := x.hist.length - x.e.genLen
  lenF (if gen then decide (x.e.genLen + count ≤ x.e.maxNew) else decide (prompts + count ≤ x.e.promptLen)) 0
  let aux ← if gen then (match auxAfter x toks with
      | some a => .ok a
      | none => stop St.lengthRange (inPay 0)) else .ok x.aux
  openEntry s n x
  stateIn x.e (if gen then [.admitted, .prefill, .generate, .draining] else [.admitted, .prefill, .generate, .parked, .draining])
  need (!x.e.inStep) St.busy 0
  stateErr (if gen then x.e.promptComplete else x.e.genLen == 0) x.e
  need (auxLen aux ≤ auxLen x.aux || serviceFits s (auxLen aux - auxLen x.aux)) St.noCapacity 0
  if gen then
    let x1 := acceptTokens x toks aux
    let e := x1.e
    let e1 := if e.state = .admitted || e.state = .prefill then { e with state := .generate, stateTime := now s } else e
    .ok (okAns, setSlot s n { x1 with e := e1 })
  else
    let h := x.hist ++ toks
    .ok (okAns, setSlot s n { x with hist := h, e := { x.e with promptComplete := h.length == x.e.promptLen } })

def execReqTokensAppend (r : Nat) (d : Dma) (s : State) : Host.Outcome State Fault Refusal :=
  .next (commit s (hostCmd 0x0205 [.operator, .tenant] r d reqTokensAppend s))

/-! ### REQ_COMPLETE, REQ_CANCEL (03 R76) -/

def waitOn (s : State) (n : Nat) (k : WaitKind) (t : Tok) : State :=
  match getSlot s n with
  | none => s
  | some x => setSlot s n { x with waits := x.waits ++ [(k, t)] }

def reqComplete : Meaning := fun c s => do
  c.lenIs 0
  c.tgtRsv 32
  let (n, x) ← c.entry s c.target
  afterWatch s n x fun s x => do
    openEntry s n x
    need (!x.e.movePend) St.busy 0
    stateIn x.e [.admitted, .prefill, .generate, .draining]
    if x.e.inStep then .ok (laterAns, waitOn s n .complete c.tok) else .ok (okAns, terminate s n .done St.ok)

def execReqComplete (r : Nat) (d : Dma) (s : State) : Host.Outcome State Fault Refusal :=
  .next (commit s (hostCmd 0x0206 [.operator, .tenant] r d reqComplete s))

def reqCancel : Meaning := fun c s => do
  c.lenIs 0
  c.tgtRsv 32
  let (n, x) ← c.entry s c.target
  openEntry s n x
  stateErr (!x.e.state.terminal && x.e.state != .handoff) x.e
  need (!x.e.expirePend) St.expired 0
  if x.e.inStep || x.e.movePend then
    .ok (laterAns, waitOn (updEntry s n fun e => { e with cancelPend := true }) n .cancel c.tok)
  else .ok (okAns, terminate s n .failed St.ok)

def execReqCancel (r : Nat) (d : Dma) (s : State) : Host.Outcome State Fault Refusal :=
  .next (commit s (hostCmd 0x0207 [.operator, .tenant] r d reqCancel s))

/-! ### REQ_LIST -/

/-- Handles of FREE slots and listed entries from a slot up, at most `k`; and the next slot to start from. The slots held for
the partner (12 R343) have no numbers of their own; the topmost FREE ones are left out for them (DESIGN CHOICE,
entry 44). -/
def listScan (s : State) (mask : Nat) (tenant : Option Nat) : Nat → Nat → Nat → List Nat × Nat
  | 0, _, _ => ([], 131072)
  | fuel + 1, n, k =>
    if k = 0 then ([], n)
    else
      let hit : Option Nat := match getSlot s n with
        | some x => if bit mask x.e.state.code && (tenant.isNone || tenant == some x.e.tenant)
            then some (handleOf n x.e.slotGen) else none
        | none => if bit mask 0 && tenant.isNone && !s.rte.heldSlots.contains n && decide (n < 131072 - s.mir.heldSlots)
            then some (handleOf n (slotGenOf s n)) else none
      match hit with
      | some h => let (hs, nx) := listScan s mask tenant fuel (n + 1) (k - 1); (h :: hs, nx)
      | none => listScan s mask tenant fuel (n + 1) k

/-- The same over the listed entries alone, where FREE slots are not asked for. -/
def listLive (mask : Nat) (tenant : Option Nat) (start k : Nat) (slots : Tbl Slot) : List Nat × Nat :=
  let hits := slots.filter fun kv => decide (start ≤ kv.1) && bit mask kv.2.e.state.code &&
    (tenant.isNone || tenant == some kv.2.e.tenant)
  let out := hits.take k
  (out.map fun kv => handleOf kv.1 kv.2.e.slotGen,
    if hits.length < k then 131072 else match out.getLast? with
      | some kv => kv.1 + 1
      | none => 131072)

def reqList : Meaning := fun c s => do
  let k := c.fld 63 48
  let mask := c.fld 47 32
  let start := c.fld 31 15
  c.lenIs 8
  lenF (decide (1 ≤ k) && decide (k ≤ 32768)) 48
  c.bound (4 * k)
  c.tgtRsv 0
  c.rsv 14 0
  fldF (mask < 1024) 32
  let tenant := if c.priv = .tenant then some c.tenant else none
  let (hs, nx) := if bit mask 0 && tenant.isNone then listScan s mask tenant (131072 - start) start k
    else listLive mask tenant start k s.rte.slots
  .ok ({ st := some St.ok, r0 := nx, result := hs.flatMap (leBytes 4) }, s)

def execReqList (r : Nat) (d : Dma) (s : State) : Host.Outcome State Fault Refusal :=
  .next (commit s (hostCmd 0x020A [.operator, .maintenance] r d reqList s))

/-! ### Time and the table (03 R63, R72, R73) -/

/-- No entry of the same bucket that the watch has still to examine stands before this one: class order, then slot
order (03 R72, R77). -/
def watchTurn (s : State) (n : Nat) (e : Entry) : Bool :=
  s.rte.slots.all fun kv => !(watchActs kv.2.e && kv.2.e.deadline / 1024 == e.deadline / 1024) ||
    decide (e.prio < kv.2.e.prio) || (e.prio == kv.2.e.prio && decide (n ≤ kv.1))

/-- DEADLINE_EXPIRY: device time has passed the end of the entry's bucket of 1,024 ns, and it is the entry's turn in it. -/
def execDeadlineExpiry (n : Nat) (s : State) : Host.Outcome State Fault Refusal :=
  .next <| commit s <|
    match getSlot s n with
    | none => s
    | some x => if watchActs x.e && bucketEnded s x.e && watchTurn s n x.e then watchFires s n else s

/-- LINGER_END: the linger time of a terminal entry has run. -/
def execLingerEnd (n : Nat) (s : State) : Host.Outcome State Fault Refusal :=
  .next <| commit s <|
    match getSlot s n with
    | none => s
    | some x =>
      match x.lingerFrom with
      | none => s
      | some t => if x.e.state.terminal && t + s.rte.lingerMs * ms ≤ now s then freeEntry s n else s

/-- PAGE_LOSS_REPORT: the home tells the owner that a request's pages are lost; or the sender of a caravan that has released
passes on what it was told while the caravan was open (03 R78). -/
def execPageLossReport (frm gid st : Nat) (charged : Bool) (s : State) : Host.Outcome State Fault Refusal :=
  .next <| commit s <|
    match slotOfGid s gid with
    | none => if s.cve.recs.any fun kv => kv.2.home == frm then pullLoss s gid ⟨st, charged, false⟩ else s
    | some n =>
      match getSlot s n with
      | none => s
      | some x =>
        if x.e.home = frm && x.e.remoteHome then applyLoss s n ⟨st, charged, false⟩
        else if x.e.prevOwner = frm then
          if x.e.remoteHome then applyLoss s n ⟨st, charged, false⟩ else loseList s gid st
        else s

end Sys2Proof.Machine
end

