-- ==== Sys2Proof/Machine/Mirror.lean ====
section
/-! DEFINITION. The pair at its sending end: pair states, full copies, charges, what an acknowledgement releases, and how a
pair ends without a takeover (12 R340 to R348, R355, R356, R360). -/

namespace Sys2Proof.Machine

/-! ### Pair states (12 R340) -/

def PairSt.code : PairSt → Nat
  | .solo => 0 | .joining => 1 | .shadow => 2 | .paired => 3 | .broken => 4 | .takenOver => 5 | .fenced => 6

/-- A change of PAIR_STATE sets its flag (15 R411). -/
def setPairSt (s : State) (st : PairSt) : State :=
  if s.mru.st = st then s else setFlag { s with mru := { s.mru with st := st } } Fl.pairChange

/-- Events of the mirror unit name the device. -/
def pairEvent (s : State) (cause sev st arg : Nat) : State := post s Un.mru Ek.device cause sev st (me s <<< 48) arg

/-- Resources are held for the partner (12 R343). -/
def holding (s : State) : Bool :=
  s.mru.st == .joining || s.mru.st == .shadow || s.mru.st == .paired || s.mru.st == .broken

/-! ### Copies and resends (12 R344, R355) -/

/-- A full copy of every mirrored object: the records of a change from nothing. -/
def fullCopy (s : State) : State :=
  let nothing := { s with
    ppm := { s.ppm with lists := [] }, rte := { s.rte with slots := [] }, cve := { s.cve with recs := [] }
    tfm := { s.tfm with map := [] }, jnl := { s.jnl with seq := 0 } }
  let s1 := mirrorChanges nothing s
  { s1 with mru := { s1.mru with copyMseq := s1.mru.mseqSent } }

/-- Send records again on the port that carries the stream. -/
def resendRecs (s : State) (which : MirRec → Bool) : State :=
  (s.mir.unacked.filter which).foldl (fun a r => emit a (.mirror { r with port := streamPort a }))
    { s with mir := { s.mir with sentAt := now s } }

/-- Full images of one request: entry, history, auxiliary block, and its list where it is homed here. -/
def resendImages (s : State) (gid : Nat) : State :=
  let s1 := match (slotOfGid s gid).bind (getSlot s) with
    | none => s
    | some x =>
      let a := mirrorBody (mirrorEntry s x.e) 2 gid 4 0 (histBytes x.hist)
      mirrorBody a 3 gid 1 0 (auxBytes x.aux)
  match getList s1 gid with
  | none => s1
  | some l => mirrorListFrom s1 l 0

/-! ### DURABLE (12 R348) -/

def setDurable (s : State) (gid : Nat) (d : Bool) : State :=
  let s1 := { s with rte := { s.rte with resv := Tbl.upd s.rte.resv gid fun r => { r with durable := d } } }
  match slotOfGid s1 gid with
  | none => s1
  | some n => updEntry s1 n fun e => { e with durable := d }

/-- Answer the command or the forward that set a DURABLE bit; ST_PENDING is not final. -/
def answerJob (s : State) (j : MirJob) (st : Nat) : State :=
  match j.tok with
  | none => report s (.send (.fwdAns j.frm ⟨me s, j.fwdId, st, 0, 0, [], 0, 0, 0, none⟩))
  | some t => if st != St.pending then finish s t st 0 0 else complete s t st 0 0 [] false

/-- The partner's hold is granted: the bit is set and the list's pages are copied; unpaired, the bit is all there is. -/
def startDurable (s : State) (j : MirJob) : State :=
  let s1 := setDurable s j.gid true
  if !mirroring s then answerJob s1 j St.ok
  else match getList s1 j.gid with
    | none => answerJob s1 j St.ok
    | some l =>
      let s2 := l.pages.foldl mirrorPage (mirrorListFrom (answerJob s1 j St.pending) l l.pages.length)
      { s2 with mir := { s2.mir with mirrorJobs := s2.mir.mirrorJobs ++ [{ j with mseq := s2.mru.mseqSent }] } }

/-! ### Charges (12 R343) -/

/-- A hold that was granted and is not used goes back, with ST_STATE as its status (DESIGN CHOICE, entry 9). -/
def returnHold (s : State) (slots units : Nat) : State :=
  if mirroring s then mirrorSend s 9 (slots <<< 46 ||| units <<< 22 ||| St.state) 0 [] else s

/-- What a charge was for goes on, or fails with ST_NO_CAPACITY. -/
def settleCharge (what : ChargeFor) (ok : Bool) (slots units : Nat) (s : State) : State :=
  match what with
  | .admission gid =>
    match Tbl.get s.rte.homeWaits gid with
    | none => if ok then returnHold s slots units else s
    | some w =>
      if w.phase != .charge then s
      else
        let s1 := dropWait s gid
        if ok then
          let s2 := admitHome s1 w.slot w.ent w.tok w.parkOk
          if (slotOfGid s2 gid).isNone && !Tbl.has s2.rte.homeWaits gid then returnHold s2 slots units else s2
        else finish (abandon s1 w.slot w.ent) w.tok St.noCapacity 0 0
  | .commit k =>
    match getRec s k with
    | none => s
    | some r =>
      if r.cstate != .pulling then returnHold s slots units
      else if ok then
        let s1 := cvnCommit s k r
        if (getRec s1 k).any (·.cstate == .aborted) then returnHold s1 slots units else s1
      else cvnAbort s k r St.noCapacity
  | .home m =>
    if ok then
      let s1 := answerResv s m
      if (getList s1 m.gid).isNone then returnHold s1 slots units else s1
    else emit s (.resvAns m.frm m.gid St.noCapacity noId 0)
  | .durable gid =>
    match s.mir.mirrorJobs.find? fun j => j.gid == gid && j.mseq == 0 with
    | none => s
    | some j =>
      let s1 := { s with mir := { s.mir with mirrorJobs := s.mir.mirrorJobs.filter fun x => !(x.gid == gid && x.mseq == 0) } }
      if ok then startDurable s1 j else answerJob s1 j St.noCapacity

/-! ### The end of mirroring (12 R347, R350, R356, R357, R360) -/

/-- Pages that the partner was asked for are lost to their requests (03 R78). -/
def loseFetches (s : State) : State :=
  let s1 := s.mir.fetches.foldl (losePage St.dataCheck) { s with mir := { s.mir with fetches := [] } }
  { s1 with rte := { s1.rte with slots := Tbl.map s1.rte.slots fun _ x => { x with restoring := false } } }

/-- Nothing waits for the partner any more: reports are released, charges need no hold, DURABLE bits are set. -/
def freeWaiting (s : State) : State :=
  let s1 := releaseHeld s
  let s2 := s1.mir.charges.foldl (fun a c => settleCharge c.1 true c.2.1 c.2.2 a) { s1 with mir := { s1.mir with charges := [] } }
  let s3 := s2.mir.mirrorJobs.foldl (fun a j => answerJob a j St.ok) { s2 with mir := { s2.mir with mirrorJobs := [] } }
  loseFetches s3

/-- The partner's state goes, but for the journal records held for it (12 R357). -/
def dropShadow (s : State) : State :=
  { s with mir := { s.mir with
    shadow := { emptyShadow with journal := s.mir.shadow.journal }, unacked := [], changed := [], steps := [], lastTag := 0
    resetDue := true, digestSent := 0, digestRecv := 0, heldSlots := 0, heldUnits := 0, grants := [], heldLists := []
    loss := none, applyQ := [], resync := false, closes := [] } }

/-- The pair registers of a controller without a partner. -/
def noPartner (s : State) : State :=
  { s with mru := { s.mru with
    partner := 0xFFFF, cover := 0, side := 0, promote := 0, streak := 0, mism := 0, copyDone := false, copyMseq := 0
    joinTok := none, partnerJoined := false, mseqSent := 0, mseqAcked := 0, mseqApplied := 0, miss16 := 0, miss17 := 0
    seen16 := false, seen17 := false } }

/-- To SOLO: a join under way ends with `st`, and ports 16 and 17 become ordinary 1 ms later. -/
def toSolo (s : State) (st : Nat) : State :=
  let s1 := freeWaiting (setPairSt s .solo)
  let s2 := noPartner (dropShadow (finishOpt s1 s1.mru.joinTok st 0 0))
  { s2 with mir := { s2.mir with dissolvedAt := some (now s2) } }

/-- To BROKEN: nothing is mirrored until heartbeats return. -/
def toBroken (s : State) : State :=
  let s1 := freeWaiting (setPairSt s .broken)
  { s1 with mir := { s1.mir with loss := none, resync := false } }

/-- Promotion to PAIRED (12 R355, R362), or the end of a resynchronization (R356). -/
def toPaired (s : State) : State :=
  let s1 := setPairSt s .paired
  finishOpt { s1 with mru := { s1.mru with joinTok := none }, mir := { s1.mir with resync := false, loss := none } } s1.mru.joinTok St.ok 0 0

/-- The stream opens anew: both sequences start again. -/
def openStream (s : State) : State :=
  let s1 := dropShadow s
  { s1 with mru := { s1.mru with
    mseqSent := 0, mseqAcked := 0, mseqApplied := 0, miss16 := 0, miss17 := 0, seen16 := false, seen17 := false
    stepAt := now s } }

/-! ### Acknowledgements (12 R344, R347, R355) -/

/-- A mismatch found at either end of the stream: the streak is gone. -/
def countMismatch (s : State) : State :=
  { s with mru := { s.mru with streak := 0, mism := satBits 32 (s.mru.mism + 1) } }

def countMatch (s : State) (n : Nat) : State := { s with mru := { s.mru with streak := satBits 32 (s.mru.streak + n) } }

/-- The streak has reached PROMOTE_STEPS: the pair is PAIRED. -/
def promoteIfDue (s : State) : State :=
  if (s.mru.st == .joining || s.mru.st == .shadow) && s.mru.copyDone && decide (s.mru.promote ≤ s.mru.streak) then toPaired s else s

/-- The partner has every record up to `q`: what waited for them goes on. -/
def ackedTo (s : State) (q : Nat) : State :=
  if q ≤ s.mru.mseqAcked || s.mru.mseqSent < q then s
  else
    let n := if s.mru.st == .joining && s.mru.copyDone then
        (s.mir.steps.filter fun x => decide (s.mru.mseqAcked < x.1) && decide (x.1 ≤ q)).length else 0
    let s1 := { s with
      mru := { s.mru with mseqAcked := q }, mir := { s.mir with unacked := s.mir.unacked.filter fun r => q < r.mseq } }
    let due (j : MirJob) : Bool := j.mseq != 0 && decide (j.mseq ≤ q)
    let s2 := (s1.mir.mirrorJobs.filter due).foldl (fun a j => answerJob a j St.ok)
      { s1 with mir := { s1.mir with mirrorJobs := s1.mir.mirrorJobs.filter fun j => !due j } }
    promoteIfDue (countMatch (releaseAcked s2) n)

/-- The record that a message number names: MSN is MSEQ modulo 2^32 (DESIGN CHOICE, entry 9). -/
def recOfMsn (s : State) (msn : Nat) : Option MirRec := s.mir.unacked.find? fun r => r.mseq % 2 ^ 32 == msn

/-- ACK on a pair port. -/
def mirrorAck (s : State) (f : Frame) : State :=
  if f.src != s.mru.partner then s
  else ackedTo s (s.mru.mseqAcked + (f.seq + 2 ^ 32 - s.mru.mseqAcked % 2 ^ 32) % 2 ^ 32)

/-- NAK on a pair port: the record is sent again, or, where a STEP record's check has failed, the images of the requests
changed in that step. -/
def mirrorNak (s : State) (f : Frame) : State :=
  if f.src != s.mru.partner then s
  else if f.reason = 4 then
    match s.mir.steps.find? fun x => f.key == x.1 % 2 ^ 32 || f.key == (x.1 + 2 ^ 32 - 1) % 2 ^ 32 with
    | none => s
    | some x => x.2.foldl resendImages (countMismatch { s with mir := { s.mir with steps := s.mir.steps.filter fun y => y.1 != x.1 } })
  else match recOfMsn s f.key with
    | none => s
    | some r => resendRecs s fun x => x.mseq == r.mseq

/-- A mirror record's timer has run (10 R298): it is sent again. -/
def mirrorRto (s : State) (msn : Nat) : State :=
  match recOfMsn s msn with
  | none => s
  | some r => if now s < s.mir.sentAt + s.fbe.ctl.rtoBase * us then s else resendRecs s fun x => x.mseq == r.mseq

end Sys2Proof.Machine
end

