-- ==== Sys2Proof/Machine/Transfer.lean ====
section
/-! DEFINITION. Transfer mode: messages at their sender and receiver, reassembly, releases, acknowledgements, resends,
congestion control (10 R287 to R300). -/

namespace Sys2Proof.Machine

/-! ### Sending (10 R294, R296, R298) -/

def pktBytes (c : Conn) : Nat := 1024 * 2 ^ c.maxPkt

/-- The packets of a message of `n` bytes: offset, length, LAST, turn. -/
def packetsOf (mp n : Nat) : List (Nat × Nat × Bool × Nat) :=
  let k := max 1 (ceilDiv n mp)
  (List.range k).map fun i => (i * mp, min mp (n - i * mp), i + 1 == k, i)

/-- Send a message's packets, dealt over the connection's paths in turn. -/
def sendPackets (s : State) (i : Nat) (c : Conn) (num n : Nat) (f : Frame) (data : State → Nat → Nat → Bytes) : State :=
  (packetsOf (pktBytes c) n).foldl (fun a p =>
    sendOn a i c ((num + p.2.2.2) % max 1 c.paths) (connQueue a i c)
      { f with seq := num, off := p.1 / 256, len := p.2.1, last := p.2.2.1, pay := data a p.1 p.2.1 }) s

/-- Send, or send again, a message: MSN, KEY and EPOCH stay. -/
def sendMsg (s : State) (i : Nat) (c : Conn) (m : OutMsg) : State :=
  let f : Frame := { blankFrame with op := m.op, addr := m.addr, key := m.key, epoch := m.epoch, ordered := m.ordered }
  if m.op = Fo.tread then sendPackets s i c m.num 8 f fun _ _ _ => leBytes 8 m.len
  else sendPackets s i c m.num m.len f fun a o n => devRead a (m.loc + o) n

/-- The timer of a message after `k` timer-driven resends. -/
def rtoAfter (s : State) (k : Nat) : Nat := s.fbe.ctl.rtoBase * us * 2 ^ min k 6

def updMsg (s : State) (i num : Nat) (f : OutMsg → OutMsg) : State :=
  updConn s i fun c => { c with sent := c.sent.map fun m => if m.num = num then f m else m }

/-- Send a message again and restart its timer. -/
def resend (s : State) (i : Nat) (c : Conn) (m : OutMsg) (timed counts : Bool) : State :=
  let m1 := { m with
    why := 0, resends := m.resends + b2n counts, timer := m.timer + b2n timed, dueAt := now s + rtoAfter s (m.timer + b2n timed) }
  sendMsg (updMsg s i m.num fun _ => m1) i c m1

/-! ### Congestion control (10 R299, R300) -/

/-- The update at the end of a period, or for a period with every byte marked. -/
def rateStep (s : State) (c : Conn) (marked acked : Nat) : Conn :=
  let f := marked * 1024 / acked
  let alpha := c.alpha - c.alpha / 16 + f / 16
  let min_ := s.fbe.ctl.minRate
  if 0 < marked then
    { c with alpha := alpha, target := c.rate, rate := max (c.rate - c.rate * alpha / 2048) min_, clean := 0 }
  else
    let clean := min (c.clean + 1) 255
    let target := if 20 < clean then min (c.target + s.fbe.ctl.hai) c.maxRate
      else if 5 < clean then min (c.target + s.fbe.ctl.ai) c.maxRate else c.target
    { c with alpha := alpha, clean := clean, target := target, rate := max ((c.rate + target + 1) / 2) min_ }

/-- A NAK NO_CONTEXT or a timer-driven resend counts as a period with marked = acked. -/
def markedPeriod (s : State) (i : Nat) : State := updConn s i fun c => rateStep s c 1 1

/-- RATE_UPDATE: the end of a RATE_PERIOD; a period with nothing acknowledged changes nothing. -/
def execRateUpdate (conn : Nat) (s : State) : Host.Outcome State Fault Refusal :=
  .next <| commit s <|
    match getConn s conn with
    | none => s
    | some c =>
      if c.memory || now s < c.rateAt + s.fbe.ctl.ratePeriod * us then s
      else
        let c1 := if c.acked = 0 then c else rateStep s c c.marked c.acked
        setConn s conn { c1 with rateAt := now s, acked := 0, marked := 0 }

/-- The sender takes the differences of the echoed totals. -/
def takeEcho (s : State) (i addr : Nat) : State :=
  let bytes := addr % 2 ^ 32
  let marks := addr / 2 ^ 32
  updConn s i fun c => { c with
    acked := c.acked + (bytes + 2 ^ 32 - c.echoBytes) % 2 ^ 32, marked := c.marked + (marks + 2 ^ 32 - c.echoMark) % 2 ^ 32
    echoBytes := bytes, echoMark := marks }

/-! ### Acknowledgements at the sender (10 R298) -/

/-- A message number at or before another. -/
def upTo (num msn : Nat) : Bool := decide ((msn + 2 ^ 32 - num) % 2 ^ 32 < 2 ^ 31)

/-- A message is acknowledged: a write completes, a read waits for its response. -/
def ackMsg (i : Nat) (s : State) (m : OutMsg) : State :=
  if m.op = Fo.tread then updMsg s i m.num fun x => { x with acked := true } else endMsg s i m.num St.ok m.len

def ackUpTo (s : State) (i msn : Nat) : State :=
  match getConn s i with
  | none => s
  | some c => (c.sent.filter fun m => !m.acked && upTo m.num msn).foldl (ackMsg i) s

/-- A transfer frame for a connection of ours with its peer. -/
def connFor (s : State) (f : Frame) : Option Conn :=
  match getConn s f.conn with
  | some c => if !c.memory && c.peer == f.src then some c else none
  | none => none

/-- ACK: of a connection, or of the mirror stream. -/
def execAck (f : Frame) (s : State) : Host.Outcome State Fault Refusal :=
  .next <| commit s <|
    if f.op != Fo.ack || !fabricOpen s f.port then s
    else if !frameOk f then dropFrame s f.port
    else if mirrorPort s f.port then mirrorAck s f
    else if f.mem then (if some f.dst != myDomain s then relay s f else s)
    else if !toUs s f.dst then dropFrame s f.port
    else match connFor s f with
      | none => s
      | some _ => ackUpTo (takeEcho s f.conn f.addr) f.conn f.seq

/-- A violation told by the receiver: the sender's severity-2 event. -/
def senderTold (s : State) (c : Conn) (i key st arg : Nat) : State :=
  if st = St.accessViolation || st = St.staleTag || st = St.fieldRange then
    post s Un.fbe Ek.key Ec.peerReport 2 st (objKey c.peer i key) arg
  else s

/-- NAK FINAL: the message completes with the status; a bounce may be retried; a connection that the peer has lost fails;
for a message already complete it is a late duplicate's report. -/
def finalNak (s : State) (i : Nat) (c : Conn) (f : Frame) : State :=
  if f.status = St.notFound then failConn s i
  else match c.sent.find? fun m => m.num == f.key with
    | none => post s Un.fbe Ek.key Ec.peerReport 2 f.status (objKey c.peer i 0) f.key
    | some m =>
      if f.status = St.epochStale && bounceRetried s m.epoch f.epoch then
        updMsg s i m.num fun x => { x with why := 2, dueAt := now s + 50 * us }
      else
        let s1 := if f.status = St.epochStale && newer f.epoch m.epoch then
            post s Un.fbe Ek.epoch Ec.peerReport 1 St.epochStale f.epoch c.peer
          else senderTold s c i m.key f.status m.num
        endMsg s1 i m.num f.status 0

/-- The connection that the peer says it has lost, by the peer's index of it. -/
def lostConn (s : State) (f : Frame) : Option Nat :=
  (s.fbe.conns.find? fun kv => !kv.2.memory && kv.2.peer == f.src && kv.2.peerIdx == f.conn && kv.2.st != .opening).map (·.1)

/-- What a NAK of a connection does, after its SEQ. -/
def nakConn (s : State) (i : Nat) (f : Frame) : State :=
  match getConn s i with
  | none => s
  | some c =>
    if f.reason = Nr.final then finalNak s i c f
    else match c.sent.find? fun m => m.num == f.key with
      | none => s
      | some m =>
        if f.reason = Nr.reasm then
          if s.fbe.ctl.retryLimit ≤ m.resends then failConn s i else resend s i c m false true
        else if f.reason = Nr.noContext then
          markedPeriod (updMsg s i m.num fun x => { x with why := 1, dueAt := now s + s.fbe.ctl.rtoBase * us }) i
        else s

/-- NAK: of a memory-mode sequence, of a connection, or of the mirror stream. -/
def execNak (f : Frame) (s : State) : Host.Outcome State Fault Refusal :=
  .next <| commit s <|
    if f.op != Fo.nak || !fabricOpen s f.port then s
    else if !frameOk f then dropFrame s f.port
    else if mirrorPort s f.port then mirrorNak s f
    else if f.mem then (if some f.dst != myDomain s then relay s f else seqNak s f)
    else if !toUs s f.dst then dropFrame s f.port
    else if f.reason = Nr.final && f.status = St.notFound then (match lostConn s f with
      | none => s
      | some i => failConn s i)
    else match connFor s f with
      | none => (match lostConn s f with
        | none => s
        | some i => nakConn s i f)
      | some _ => nakConn (ackUpTo (takeEcho s f.conn f.addr) f.conn f.seq) f.conn f

/-- RTO_EXPIRY: a message's timer has run: it is resent whole, or the connection fails at RETRY_LIMIT. The mirror unit's
connection, which has no index of its own, is 0xFFFF. -/
def execRtoExpiry (conn msn : Nat) (s : State) : Host.Outcome State Fault Refusal :=
  .next <| commit s <|
    match getConn s conn with
    | none => if conn = 0xFFFF then mirrorRto s msn else s
    | some c =>
      match c.sent.find? fun m => m.num == msn with
      | none => s
      | some m =>
        if c.memory || now s < m.dueAt then s
        else if m.why = 2 then resend s conn c m false false
        else if s.fbe.ctl.retryLimit ≤ m.resends then failConn s conn
        else if m.why = 1 then resend s conn c m false true
        else markedPeriod (resend s conn c m true true) conn

/-! ### The receiver's answers -/

/-- An answer to the sender of a frame on a connection, with the released MSN and the echoed totals. -/
def answerOn (s : State) (i : Nat) (f : Frame) : State :=
  match getConn s i with
  | none => s
  | some c => sendControl s i c { f with seq := releasedMsn c, addr := echoOf c, epoch := epochNum s }

def nakOn (s : State) (i msn reason status : Nat) : State :=
  answerOn s i { blankFrame with op := Fo.nak, key := msn, reason := reason, status := status }

/-- NAK FINAL for a frame of no connection, naming the index it carried (DESIGN CHOICE, entry 8). -/
def nakUnknown (s : State) (f : Frame) (st : Nat := St.notFound) : State :=
  sendFrame s f.port 8 true { blankFrame with
    op := Fo.nak, key := f.seq, conn := f.conn, dst := f.src, src := me s, reason := Nr.final, status := st
    epoch := epochNum s }

def ackFrame (s : State) (i : Nat) (c : Conn) : Frame :=
  { blankFrame with
    op := Fo.ack, dst := c.peer, src := me s, conn := c.peerIdx, seq := releasedMsn c, addr := echoOf c, epoch := epochNum s
    port := (pathPort s i 0).getD 0 }

/-- Acknowledge: at most once per connection per microsecond; an earlier one is due then. `hold`: the ACK reports a write
into a list homed here, and waits for a mirroring partner (12 R347). -/
def ackSoon (s : State) (i : Nat) (hold : Bool) : State :=
  match getConn s i with
  | none => s
  | some c =>
    if hold && mirroring s then report (setConn s i { c with ackAt := now s }) (.send (.frame (ackFrame s i c)))
    else if c.ackAt + us ≤ now s then answerOn (setConn s i { c with ackAt := now s, ackDue := false }) i { blankFrame with op := Fo.ack }
    else setConn s i { c with ackDue := true }

/-- Send the ACKs that have become due. -/
def flushAcks (s : State) : State :=
  (s.fbe.conns.filter fun kv => kv.2.ackDue && decide (kv.2.ackAt + us ≤ now s)).foldl (fun a kv => ackSoon a kv.1 false) s

/-! ### Landing (10 R293, R294; 04 R88; 06 R155) -/

/-- A landing write that fails aborts its caravan while that is PULLING. -/
def landingFails (s : State) (f : Frame) (st : Nat) : State :=
  match Tbl.get s.fbe.keys (keyIdx f.key) with
  | none => s
  | some x =>
    match x.landing with
    | .caravan k =>
      match getRec s k with
      | some r => if r.cstate = .pulling && r.src == f.src then cvnAbort s k r st else s
      | none => s
    | _ => s

/-- Steps 4 and 5 of R293. -/
def keyStatus (s : State) (c : Conn) (f : Frame) : Nat :=
  if f.op = Fo.tsend then St.ok
  else match Tbl.get s.fbe.keys (keyIdx f.key) with
    | none => St.accessViolation
    | some k =>
      if k.gen != f.key % 256 then St.staleTag
      else if k.tenant == c.tenant && bit k.rights (if f.op = Fo.tread then 0 else 1) && (k.peer == 0xFFFF || k.peer == f.src) &&
          decide (f.addr + (if f.op = Fo.tread then leNat f.pay else f.off * 256 + f.len) ≤ k.len)
      then St.ok else St.accessViolation

/-- A media loss is ST_DATA_CHECK on the fabric. -/
def fabricStatus (st : Nat) : Nat := if st = St.mediaFail then St.dataCheck else st

/-- Step 6 of R293, for a TWRITE's target. -/
def targetStatus (s : State) (f : Frame) : Nat :=
  match findKey s f.key with
  | none => St.accessViolation
  | some (_, k) =>
    if f.op != Fo.twrite then St.ok
    else match k.landing with
      | .no => fabricStatus (rangeWrite s (k.base + f.addr + f.off * 256) f.len)
      | _ => St.ok

/-- Write bytes at an offset of a key's region; none while a frame is awaited. -/
def landBytes (s : State) (key off : Nat) (bs : Bytes) : Option State :=
  if writesDead s then some s
  else match findKey s key with
  | none => some s
  | some (_, k) =>
    match k.landing with
    | .no => devWrite s (k.base + off) bs
    | .caravan r => some { s with cve := { s.cve with
        landing := Tbl.set s.cve.landing r (memWriteN (Tbl.getD s.cve.landing r []) off bs) } }
    | .list g => landInList s g off bs

/-! ### Release (10 R294) -/

/-- A released TREAD is performed: TREAD_RESP packets with the request's MSN, or its status. -/
def performRead (s : State) (i : Nat) (c : Conn) (msn key addr n : Nat) : State :=
  let f : Frame := { blankFrame with op := Fo.treadResp, epoch := epochNum s }
  let bad (st : Nat) : State := sendPackets s i c msn 0 { f with status := st } fun _ _ _ => []
  match findKey s key with
  | none => bad St.staleTag
  | some (_, k) =>
    let st := fabricStatus (rangeRead s (k.base + addr) n)
    if st = St.ok then sendPackets (readAll s (k.base + addr) n) i c msn n f fun a o l => devRead a (k.base + addr + o) l
    else bad st

def listKey (s : State) (key : Nat) : Bool :=
  match findKey s key with
  | some (_, k) => (match k.landing with
    | .list _ => true
    | _ => false)
  | none => false

/-- What a message's release does; none while its ORDERED write waits for a frame. -/
def releaseOne (s : State) (i : Nat) (c : Conn) (msn : Nat) (m : InMsg) : Option State :=
  let n := m.length.getD 0
  if m.failed then some s
  else if m.op = Fo.tread then some (performRead s i c msn m.key m.addr (leNat (memReadN m.held 0 8)))
  else if m.op = Fo.tsend then some (emit s (.handed c.peer i (memReadN m.held 0 n)))
  else if m.ordered then landBytes s m.key m.addr (memReadN m.held 0 n)
  else some s

/-- Release complete and failed messages in MSN order. -/
def releaseMsgs (i : Nat) : Nat → Bool → State → State
  | 0, hold, s => ackSoon s i hold
  | k + 1, hold, s =>
    match getConn s i with
    | none => s
    | some c =>
      match Tbl.get c.rx c.rxBase with
      | none => ackSoon s i hold
      | some m =>
        if !(m.complete || m.failed) then ackSoon s i hold
        else match releaseOne s i c c.rxBase m with
          | none => s
          | some s1 =>
            releaseMsgs i k (hold || listKey s m.key)
              (updConn s1 i fun c => { c with rx := Tbl.del c.rx c.rxBase, rxBase := (c.rxBase + 1) % 2 ^ 32 })

/-- Release what can be released, and acknowledge when something was. -/
def tryRelease (s : State) (i : Nat) : State :=
  match getConn s i with
  | none => s
  | some c =>
    match Tbl.get c.rx c.rxBase with
    | some m => if m.complete || m.failed then releaseMsgs i c.window false s else s
    | none => s

/-! ### Reassembly (10 R293, R296 to R298) -/

def setRx (s : State) (i msn : Nat) (m : InMsg) : State := updConn s i fun c => { c with rx := Tbl.set c.rx msn m }

def newRx (f : Frame) : InMsg := ⟨f.op, f.key, f.addr, f.ordered, [], 0, none, [], 0, false, false⟩

/-- Reassembly contexts in use: incomplete messages, and those held for their release. -/
def contextsUsed (s : State) : Nat :=
  s.fbe.conns.foldl (fun a kv => a + (kv.2.rx.filter fun m =>
    !m.2.failed && (!m.2.complete || m.2.ordered || m.2.op == Fo.tsend)).length) 0

/-- The severity-1 event of a violation at the receiver, naming SRC, CONN, KEY and offset. -/
def receiverTold (s : State) (f : Frame) (st : Nat) : State :=
  if st = St.accessViolation || st = St.staleTag || st = St.fieldRange then
    post s Un.fbe Ek.key Ec.refused 1 st (objKey f.src f.conn f.key) (f.addr + f.off * 256)
  else s

/-- A message fails: nothing more of it is written, it is released as failed, and NAK FINAL is sent. -/
def failRx (s : State) (f : Frame) (m : InMsg) (st : Nat) (told : Bool := true) : State :=
  let s1 := setRx (if told then receiverTold s f st else s) f.conn f.seq { m with failed := true, held := [] }
  landingFails (tryRelease (nakOn s1 f.conn f.seq Nr.final st) f.conn) f st

/-- 256-byte units that a packet covers. -/
def unitsOf (f : Frame) : List Nat := (List.range (ceilDiv f.len 256)).map (f.off + ·)

/-- Apply a packet to its message (the code of R296). -/
def applyPacket (s : State) (f : Frame) (m : InMsg) : State :=
  let us := unitsOf f
  let fin := f.off * 256 + f.len
  let lenBad (n : Nat) : Bool := decide (n < fin) || (f.last && n != fin)
  if (!us.isEmpty && us.all m.bitmap.contains) || (us.isEmpty && m.length == some fin) then s
  else if us.any m.bitmap.contains then failRx s f m St.fieldRange
  else if (m.length.map lenBad).getD false then failRx s f m St.fieldRange false
  else
    let hold := f.op != Fo.twrite || f.ordered
    let len := if f.last then some fin else m.length
    let count := m.count + f.len
    let full : Bool := match len with
      | some n => count == n && decide (m.bitmap.length + us.length = ceilDiv n 256)
      | none => false
    let m1 : InMsg := { m with
      bitmap := m.bitmap ++ us, count := count, length := len, lastAt := now s, complete := full
      held := if hold then memWriteN m.held (f.off * 256) f.pay else m.held }
    match if hold then some s else landBytes s f.key (f.addr + f.off * 256) f.pay with
    | none => s
    | some s1 => tryRelease (setRx s1 f.conn f.seq m1) f.conn

/-- The key of a frame is gone: its index has a later generation, or none is live under it. -/
def keyGone (s : State) (key : Nat) : Bool :=
  !Tbl.has s.fbe.keys (keyIdx key) && keyGenAt s (keyIdx key) != key % 256

/-- A packet of a message in the window. A key that is gone while its message is put together is stale (R309). -/
def inWindow (s : State) (c : Conn) (f : Frame) : State :=
  match Tbl.get c.rx f.seq with
  | some m =>
    if m.complete || m.failed then ackSoon s f.conn false
    else
      let st := if f.op != Fo.tsend && keyGone s f.key then St.staleTag else keyStatus s c f
      let st1 := if st = St.ok then (if f.op = Fo.twrite then targetStatus s f else St.ok) else st
      if st1 != St.ok then failRx s f m st1 else applyPacket s f m
  | none =>
    let st := keyStatus s c f
    let st1 := if st = St.ok then (if f.op = Fo.twrite then targetStatus s f else St.ok) else st
    if st1 != St.ok then failRx s f (newRx f) st1
    else if 4096 ≤ contextsUsed s then nakOn s f.conn f.seq Nr.noContext 0
    else applyPacket s f (newRx f)

/-- A packet of a message already released: acknowledged, or rejected where its key has an old generation; a TREAD is
performed again. -/
def behindWindow (s : State) (c : Conn) (f : Frame) : State :=
  if f.op != Fo.tsend && (keyGone s f.key || keyStatus s c f = St.staleTag) then
    nakOn (receiverTold s f St.staleTag) f.conn f.seq Nr.final St.staleTag
  else
    let s1 := ackSoon s f.conn false
    if f.op = Fo.tread && keyStatus s c f = St.ok then performRead s1 f.conn c f.seq f.key f.addr (leNat f.pay) else s1

/-- A packet under an epoch that does not pass is bounced; one under an epoch older than the current fails its message. -/
def bouncePacket (s : State) (c : Conn) (f : Frame) : State :=
  let d := (f.seq + 2 ^ 32 - c.rxBase) % 2 ^ 32
  if decide (d < c.window) && !newer f.epoch (epochNum s) && f.op != Fo.treadResp then
    match Tbl.get c.rx f.seq with
    | some m => if m.complete || m.failed then ackSoon s f.conn false else failRx s f m St.epochStale
    | none => failRx s f (newRx f) St.epochStale
  else landingFails (nakOn s f.conn f.seq Nr.final St.epochStale) f St.epochStale

/-- Count a payload and its mark, in 64-byte units. -/
def countRx (s : State) (f : Frame) : State :=
  let n := ceilDiv f.len 64
  updConn s f.conn fun c => { c with rxBytes := c.rxBytes + n, rxMarked := c.rxMarked + if f.ce then n else 0 }

/-- A packet of a transfer message arrives: `k` acts on it once its epoch and connection pass. -/
def transferIn (op : Nat) (f : Frame) (s : State) (k : State → Conn → State) : State :=
  if f.op != op || !fabricOpen s f.port then s
  else if !ordinary s f || !toUs s f.dst then dropFrame s f.port
  else match connFor s f with
    | none => nakUnknown s f (if epochPasses s f.epoch then St.notFound else St.epochStale)
    | some c =>
      if c.st != .opened && c.st != .closing then nakUnknown s f (if epochPasses s f.epoch then St.notFound else St.epochStale)
      else if !epochPasses s f.epoch then bouncePacket s c f
      else k (countRx s f) c

/-- TWRITE, TREAD and TSEND: placed by the window (R298). -/
def messageIn (op : Nat) (f : Frame) (s : State) : State :=
  transferIn op f s fun s c =>
    let d := (f.seq + 2 ^ 32 - c.rxBase) % 2 ^ 32
    if d < c.window then inWindow s c f
    else if 2 ^ 31 ≤ d then behindWindow s c f
    else dropFrame s f.port

def execTwrite (f : Frame) (s : State) : Host.Outcome State Fault Refusal := .next (commit s (messageIn Fo.twrite f s))
def execTread (f : Frame) (s : State) : Host.Outcome State Fault Refusal := .next (commit s (messageIn Fo.tread f s))
def execTsend (f : Frame) (s : State) : Host.Outcome State Fault Refusal := .next (commit s (messageIn Fo.tsend f s))

/-- TREAD_RESP at the requester: reassembled into LOCAL. -/
def readBack (f : Frame) (s : State) (c : Conn) : State :=
  match c.sent.find? fun m => m.num == f.seq && m.op == Fo.tread with
  | none => s
  | some m =>
    let us := unitsOf f
    let fin := f.off * 256 + f.len
    if f.status != St.ok then endMsg (senderTold s c f.conn m.key f.status m.num) f.conn m.num f.status 0
    else if !us.isEmpty && us.all m.units.contains then s
    else if us.any m.units.contains || decide (m.len < fin) || (f.last && fin != m.len) then
      endMsg (senderTold s c f.conn m.key St.fieldRange m.num) f.conn m.num St.fieldRange 0
    else
      let (st, s1) := storeLocal s (m.loc + f.off * 256) f.pay
      if st = St.noCapacity then s
      else if st != St.ok then endMsg s f.conn m.num st 0
      else
        let moved := m.moved + f.len
        let total := if f.last then some fin else m.total
        let s2 := updMsg s1 f.conn m.num fun x => { x with units := x.units ++ us, moved := moved, total := total }
        if total = some moved then endMsg s2 f.conn m.num St.ok moved else s2

def execTreadResp (f : Frame) (s : State) : Host.Outcome State Fault Refusal :=
  .next (commit s (transferIn Fo.treadResp f s (readBack f)))

/-- REASM_TIMEOUT: a message without a new packet for REASM_TIMEOUT is dropped whole. -/
def execReasmTimeout (conn msn : Nat) (s : State) : Host.Outcome State Fault Refusal :=
  .next <| commit s <|
    match getConn s conn with
    | none => s
    | some c =>
      match Tbl.get c.rx msn with
      | none => s
      | some m =>
        if m.complete || m.failed || now s < m.lastAt + s.fbe.ctl.reasm * us then s
        else nakOn (setConn s conn { c with rx := Tbl.del c.rx msn }) conn msn Nr.reasm 0

/-! ### OPEN, OPEN_ACK, CLOSE (10 R289, R292) -/

/-- A new connection's fields beside those given. -/
def newConn (st : ConnSt) (memory : Bool) (peer peerIdx tenant ring maxRate window paths maxPkt tc engine : Nat) (tok : Option Tok)
    (t : Nat) : Conn where
  st := st
  memory := memory
  peer := peer
  peerIdx := peerIdx
  tenant := tenant
  ring := ring
  maxRate := maxRate
  window := window
  paths := paths
  maxPkt := maxPkt
  tc := tc
  engine := engine
  tok := tok
  openedAt := t
  nextMsn := 0
  sent := []
  rxBase := 0
  rx := []
  rate := maxRate
  target := maxRate
  alpha := 1024
  clean := 0
  rxBytes := 0
  rxMarked := 0
  echoBytes := 0
  echoMark := 0
  acked := 0
  marked := 0
  rateAt := t
  closeTok := none
  ackAt := 0
  ackDue := false

/-- The lowest free connection index. -/
def freeConn (s : State) : Option Nat := if 16384 ≤ s.fbe.conns.length then none else Tbl.freeFrom s.fbe.conns 16384 0

/-- The engine of a new connection: of 4 to 31 the one with the fewest, the lowest on a tie. -/
def pickEngine (s : State) : Nat :=
  let load (e : Nat) : Nat := (s.fbe.conns.filter fun kv => kv.2.engine == e).length
  ((List.range 28).foldl (fun (b : Nat × Nat) k => if load (4 + k) < b.2 then (4 + k, load (4 + k)) else b) (4, load 4)).1

/-- The sum of the rates of a connection's path ports, in 100 Mb/s. -/
def pathRates (s : State) (i paths : Nat) : Nat :=
  (distinct ((List.range paths).filterMap (pathPort s i))).foldl (fun a p => a + if (portAt s p).st = .up then 16000 else 8000) 0

def openAnswer (s : State) (f : Frame) (idx st : Nat) : State :=
  sendFrame s f.port 8 true { blankFrame with
    op := Fo.openAck, epoch := epochNum s, dst := f.src, src := me s, conn := subNat f.pay 0 2, seq := f.seq, status := st
    pay := setupBytes idx (subNat f.pay 2 2) (subNat f.pay 4 2) (subNat f.pay 6 1) 1, len := 16 }

/-- OPEN of a transfer connection. -/
def connOpenIn (s : State) (f : Frame) : State :=
  if !epochPasses s f.epoch then openAnswer s f 0 St.epochStale
  else match freeConn s with
    | none => openAnswer s f 0 St.noCapacity
    | some i =>
      let c := newConn .opened false f.src (subNat f.pay 0 2) (subNat f.pay 2 2) noRing (max 1 (pathRates s i 1)) (subNat f.pay 4 2) 1
        (subNat f.pay 6 1) f.tc (pickEngine s) none (now s)
      openAnswer (setConn s i c) f i St.ok

/-- OPEN: a memory-mode sequence, or a connection. -/
def execOpenMsg (f : Frame) (s : State) : Host.Outcome State Fault Refusal :=
  .next <| commit s <|
    if f.op != Fo.openMsg || !fabricOpen s f.port then s
    else if !ordinary s f then dropFrame s f.port
    else if f.mem then (if some f.dst != myDomain s then relay s f else seqOpenIn s f)
    else if !toUs s f.dst then dropFrame s f.port
    else connOpenIn s f

/-- A CONN_OPEN fails: its ring is destroyed, and the command completes with the status. -/
def openFails (s : State) (i : Nat) (c : Conn) (st : Nat) : State :=
  let s1 := finishOpt (finishOpt s c.tok st 0 0) c.closeTok St.ok 0 0
  destroyRing { s1 with fbe := { s1.fbe with conns := Tbl.del s1.fbe.conns i }, tsu := { s1.tsu with binds := Tbl.del s1.tsu.binds c.ring } } c.ring

/-- RESULT0 of a CONN_OPEN: ring number and the address of its entries. -/
def ringR0 (s : State) (r : Nat) : Nat := r ||| (64 * ((Tbl.get s.hcu.rings r).map (·.base)).getD 0) <<< 32

/-- OPEN_ACK of a connection. -/
def connOpenAck (s : State) (f : Frame) : State :=
  match connFor s f with
  | none => s
  | some c =>
    if c.tok.isNone then s
    else if f.status != St.ok then openFails s f.conn c f.status
    else
      let c1 := { c with peerIdx := subNat f.pay 0 2, tok := none, st := if c.st = .closing then .closing else .opened }
      settleConn (finishOpt (setConn s f.conn c1) c.tok St.ok (ringR0 s c.ring) 0) f.conn

def execOpenAck (f : Frame) (s : State) : Host.Outcome State Fault Refusal :=
  .next <| commit s <|
    if f.op != Fo.openAck || !fabricOpen s f.port then s
    else if !ordinary s f then dropFrame s f.port
    else if f.mem then (if some f.dst != myDomain s then relay s f else seqOpenAck s f)
    else if !toUs s f.dst then dropFrame s f.port
    else connOpenAck s f

/-- OPEN_TIMEOUT: no OPEN_ACK within 1 ms. -/
def execOpenTimeout (conn : Nat) (s : State) : Host.Outcome State Fault Refusal :=
  .next <| commit s <|
    match getConn s conn with
    | none => s
    | some c => if c.tok.isNone || now s < c.openedAt + ms then s else openFails s conn c St.peerLost

/-- CLOSE: the peer's end of a connection; one that has a ring here fails. -/
def execCloseMsg (f : Frame) (s : State) : Host.Outcome State Fault Refusal :=
  .next <| commit s <|
    if f.op != Fo.close || !fabricOpen s f.port then s
    else if !ordinary s f then dropFrame s f.port
    else if f.mem then (if some f.dst != myDomain s then relay s f else s)
    else if !toUs s f.dst then dropFrame s f.port
    else match connFor s f with
      | none => nakUnknown s f
      | some c =>
        if c.ring = noRing then { s with fbe := { s.fbe with conns := Tbl.del s.fbe.conns f.conn } } else failConn s f.conn

end Sys2Proof.Machine
end

