-- ==== Sys2Proof/Machine/FabCmds.lean ====
section
/-! DEFINITION. The 0x09xx commands, DIAG_LOOPBACK, ERR_INJECT, work-ring descriptors (10 R281, R288 to R292, R305 to R308;
12 R363). -/

namespace Sys2Proof.Machine

/-! ### PORT_CONFIG, PORT_STATUS (10 R305 to R307) -/

/-- The port's state after a configuration: training when it is enabled or asked to retrain. -/
def configuredState (s : State) (x : FPort) (enable retrain : Bool) : PortSt :=
  if x.st = .loopback then .loopback
  else if !enable || me s = 0xFFFE then .disabled
  else if x.st = .disabled || retrain then .training else x.st

def portConfig : Meaning := fun c s => do
  let p := c.fld 4 0
  let enable := c.fld 5 5 == 1
  let retrain := c.fld 8 8 == 1
  c.lenIs 32
  c.tgtRsv 0
  fldF (decide (p ≤ 17)) 0
  fldF (c.fld 7 6 != 0) 6
  c.rsv 122 9
  fldF (c.fld 130 123 != 0) 123
  fldF (c.fld 146 131 != 0) 131
  fldF (c.fld 159 148 != 4095) 148
  need (!(enable && me s == 0xFFFE)) St.state 0
  need (!(inPair s && 16 ≤ p)) St.busy 0
  let x := portAt s p
  let st := configuredState s x enable retrain
  let x1 : FPort := { x with
    mac := c.fld 255 208, gateway := c.fld 207 160, vlan := c.fld 159 148, tagged := c.fld 147 147 == 1
    degradeSym := c.fld 146 131, degradeUnc := c.fld 130 123, modes := c.fld 7 6, enable := enable, st := st
    badLanes := if retrain then 0 else x.badLanes, retrainAt := if retrain then none else x.retrainAt
    peerNode := if st = x.st then x.peerNode else 0xFFFF }
  .ok (okAns, movePort s p x1)

def execPortConfig (r : Nat) (d : Dma) (s : State) : Host.Outcome State Fault Refusal :=
  .next (commit s (hostCmd 0x0901 [.operator] r d portConfig s))

def PortSt.code : PortSt → Nat
  | .disabled => 0 | .down => 1 | .training => 2 | .up => 3 | .degraded => 4 | .loopback => 5

def portRecord (x : FPort) : Bytes :=
  let width := if x.st = .up then 1 else if x.st = .degraded then 2 else 0
  leBytes 32 (width ||| x.st.code <<< 2 ||| x.peerPort <<< 67 ||| x.ceMarked <<< 72 ||| x.badLanes <<< 104 ||| x.peerNode <<< 112
    ||| x.drops <<< 128 ||| x.fecUnc <<< 160 ||| x.fecCorr <<< 192)

def portStatus : Meaning := fun c s => do
  c.lenIs 0
  c.bound 576
  c.tgtRsv 0
  .ok (okRes ((List.range 18).flatMap fun p => portRecord (portAt s p)), s)

def execPortStatus (r : Nat) (d : Dma) (s : State) : Host.Outcome State Fault Refusal :=
  .next (commit s (hostCmd 0x0902 [.operator, .maintenance] r d portStatus s))

/-! ### Keys (10 R288) -/

/-- The test of R288: the object region with extents of the tenant, or a LOOSE page of the tenant. -/
def regionOk (s : State) (p : Priv) (tenant base len : Nat) : Bool :=
  let g := base / 4096
  if base + len ≤ objectBytes then p != .tenant || (extentsOf base len).all fun e => Tbl.getD s.tfm.extTenant e 0 == tenant
  else decide (apGranule ≤ g) && decide (base + len ≤ ergTop) && match getPage s (pageOfGranule g) with
    | some q => q.st == .live && q.loose && (p != .tenant || q.tenant == tenant) &&
        decide (base + len ≤ pageAddr (pageOfGranule g) + psize (pageClassOf (pageOfGranule g)))
    | none => false

def keyRegister : Meaning := fun c s => do
  let base := c.fld 191 128
  let len := c.fld 127 64
  c.lenIs 24
  lenF (decide (4096 ≤ len) && decide (len ≤ objectBytes)) 64
  c.tgtRsv 32
  c.rsv 47 2
  need (c.target == 0 || (findKey s c.target).isSome) St.notFound 0
  need (base % 4096 == 0 && len % 4096 == 0 && regionOk s c.priv c.tenant base len) St.accessViolation 0
  if c.target = 0 then
    match newKey s base len c.tenant (c.fld 1 0) (c.fld 63 48) .no with
    | none => stop St.noCapacity
    | some (k, s1) => .ok (okR0 k, s1)
  else
    match findKey s c.target with
    | none => stop St.notFound
    | some (i, x) =>
      need (x.tenant == c.tenant) St.accessViolation 0
      need (x.landing == .no) St.accessViolation 0
      let g := (x.gen + 1) % 256
      .ok (okR0 (keyOf i g), { s with fbe := { s.fbe with
        keys := Tbl.set s.fbe.keys i ⟨g, base, len, x.tenant, c.fld 1 0, c.fld 63 48, .no⟩, keyGen := Tbl.set s.fbe.keyGen i g } })

def execKeyRegister (r : Nat) (d : Dma) (s : State) : Host.Outcome State Fault Refusal :=
  .next (commit s (hostCmd 0x0910 [.operator, .tenant] r d keyRegister s))

def keyDeregister : Meaning := fun c s => do
  c.lenIs 0
  c.tgtRsv 32
  match findKey s c.target with
  | none => stop St.notFound
  | some (i, x) =>
    need (x.tenant == c.tenant && x.landing == .no) St.accessViolation 0
    .ok (okAns, dropKey s i)

def execKeyDeregister (r : Nat) (d : Dma) (s : State) : Host.Outcome State Fault Refusal :=
  .next (commit s (hostCmd 0x0911 [.operator, .tenant] r d keyDeregister s))

/-! ### CONN_OPEN, CONN_CLOSE (10 R289, R292) -/

/-- The OPEN of a new transfer connection. -/
def sendOpen (s : State) (i : Nat) (c : Conn) : State :=
  sendControl s i c { controlFrame s Fo.openMsg with pay := setupBytes i c.tenant c.window c.maxPkt 1, len := 16 }

/-- A node that a connection may be opened to. -/
def peerKnown (s : State) (n : Nat) : Bool :=
  n != me s && match nodeRec s n with
    | some r => !r.lost
    | none => false

def connOpen : Meaning := fun c s => do
  let kind := c.fld 257 256
  let transfer := kind == 1
  let dest := c.fld 383 368
  let maxRate := c.fld 351 320
  c.lenIs 48
  needAll [(decide (16 ≤ c.fld 47 32) && decide (c.fld 47 32 ≤ 4096), St.lengthRange, inPay 4),
    (decide (16 ≤ c.fld 63 48) && decide (c.fld 63 48 ≤ 4096), St.lengthRange, inPay 6),
    (decide (1 ≤ c.fld 79 64) && decide (c.fld 79 64 ≤ 256), St.lengthRange, inPay 8)]
  lenF (!transfer || (decide (1 ≤ c.fld 302 299) && decide (c.fld 302 299 ≤ 8))) 299
  lenF (!transfer || (decide (16 ≤ c.fld 311 303) && decide (c.fld 311 303 ≤ 256))) 303
  c.tgtRsv 0
  c.rsv 31 0
  ringFields s c.port (c.fld 47 32) (c.fld 63 48) (c.fld 79 64) (c.fld 95 80) (c.fld 111 96) (c.fld 191 128) (c.fld 255 192)
    [] [(c.fld 127 112 == 0, St.fieldRange, inPay 14)] 4 6 8 10 12 16 24
  fldF (kind == 1 || kind == 2) 256
  c.rsv 293 258
  fldF (c.fld 298 297 != 3) 297
  c.rsv 319 312
  fldF (decide (maxRate ≤ 288000)) 320
  c.rsv 367 352
  fldF (if transfer then peerKnown s dest else dest == 0xFFFF) 368
  need (transfer || !s.fbe.erg.isEmpty) St.state 0
  let r := (Tbl.freeFrom s.hcu.rings 252 4).getD 256
  match freeRegion s (c.fld 47 32), freeConn s with
  | some b, some i =>
    need (decide (r < 256)) St.noCapacity 0
    let R := newRing c.sess c.port b (c.fld 47 32) (c.fld 63 48) (c.fld 255 192) (c.fld 191 128) (c.fld 111 96) (c.fld 95 80)
      (c.fld 79 64) true
    let r0 := r ||| (64 * b) <<< 32
    let s1 := addRing s r R
    if transfer then
      let paths := c.fld 302 299
      let rate := max 1 (if maxRate = 0 then pathRates s i paths else maxRate)
      let x := newConn .opening false dest 0 c.tenant r rate (c.fld 311 303) paths (c.fld 298 297) (c.fld 296 294) (pickEngine s)
        (some c.tok) (now s)
      .ok ({ st := some St.pending, r0 := r0 }, sendOpen (setConn s1 i x) i x)
    else
      .ok (okR0 r0, setConn s1 i
        (newConn .opened true 0xFFFF 0 c.tenant r (max 1 maxRate) 0 1 (c.fld 298 297) (c.fld 296 294) (pickEngine s) none (now s)))
  | _, _ => stop St.noCapacity

def execConnOpen (r : Nat) (d : Dma) (s : State) : Host.Outcome State Fault Refusal :=
  .next (commit s (hostCmd 0x0920 [.operator, .tenant] r d connOpen s))

/-- CONN_CLOSE stops fetching; a fetched descriptor that waits to start runs on, or with ABORT completes with ST_STATE. -/
def connClose : Meaning := fun c s => do
  let r := c.target % 65536
  c.lenIs 8
  c.tgtRsv 16
  c.rsv 63 1
  match connOfRing s r with
  | none => stop St.notFound
  | some (i, x) =>
    c.own x.tenant
    need (x.st != .opening && x.st != .closing) St.state 0
    let s0 := if c.fld 0 0 = 1 then endWaiting s r St.state else s
    let s1 := setConn s0 i { x with st := .closing, closeTok := some c.tok }
    let s2 := complete { s1 with hcu := { s1.hcu with rings := Tbl.upd s1.hcu.rings r fun R => { R with fetching := false } } }
      c.tok St.pending 0 0 [] false
    .ok (laterAns, settleConn s2 i)

def execConnClose (r : Nat) (d : Dma) (s : State) : Host.Outcome State Fault Refusal :=
  .next (commit s (hostCmd 0x0921 [.operator, .tenant] r d connClose s))

/-! ### ERG_MAP (10 R281), PTP_CONFIG (10 R303) -/

def ergRec (n : Nat) : ErgRec where
  base := bits n 255 192
  len := bits n 191 128
  node := bits n 127 112
  tenant := bits n 111 96
  route := bits n 95 91
  altRoute := bits n 90 86
  rights := bits n 85 83
  domain := bits n 82 77

/-- A port that a route may name. -/
def routeOk (p : Nat) : Bool := decide (p ≤ 17)

/-- The fields of one record, in order of their offsets. -/
def ergFields (s : State) (i : Nat) (n : Nat) : Except Ans Unit :=
  let r := ergRec n
  let at_ (lo : Nat) : Nat := inPay (16 + 32 * i + lo / 8)
  let known : Bool := match nodeRec s r.node with
    | some x => x.inDomain && x.domain == r.domain
    | none => false
  needAll [(bits n 76 0 == 0, St.fieldRange, at_ 0),
    (r.node == me s || r.altRoute == 0x1F || routeOk r.altRoute, St.fieldRange, at_ 86),
    (r.node == me s || routeOk r.route, St.fieldRange, at_ 91),
    (known, St.fieldRange, at_ 112),
    (r.len % 4096 == 0, St.fieldRange, at_ 128),
    (r.base % 4096 == 0 && decide (r.base + r.len ≤ ergTop), St.fieldRange, at_ 192)]

/-- A record that routes over a mirror port. -/
def namesMirror (s : State) (n : Nat) : Bool :=
  let r := ergRec n
  r.node != me s && (r.route == 16 || r.route == 17 || r.altRoute == 16 || r.altRoute == 17)

def ergMap : Meaning := fun c s => do
  let n := c.fld 6 0
  lenF (decide (1 ≤ n) && decide (n ≤ 64)) 0
  c.lenIs (16 + 32 * n)
  let recs := c.recs 16 32 n
  checkEach (fun i x => need (decide (4096 ≤ bits x 191 128) && decide (bits x 191 128 ≤ ergTop)) St.lengthRange
    (inPay (16 + 32 * i + 16))) 0 recs
  c.tgtRsv 0
  c.rsv 127 7
  checkEach (ergFields s) 0 recs
  fldF (recs.any fun x => (ergRec x).node == me s) 0
  need (!(inPair s && recs.any (namesMirror s))) St.busy 0
  .ok (okAns, { s with fbe := { s.fbe with erg := recs.map ergRec } })

def execErgMap (r : Nat) (d : Dma) (s : State) : Host.Outcome State Fault Refusal :=
  .next (commit s (hostCmd 0x0930 [.operator] r d ergMap s))

def ptpConfig : Meaning := fun c s => do
  c.lenIs 16
  c.tgtRsv 0
  c.rsv 79 0
  fldF (decide (c.fld 85 82 ≤ 7)) 82
  need (!(inPair s && c.fld 127 126 != 0)) St.busy 0
  .ok (okAns, { s with clk := { s.clk with
    ptp := ⟨c.fld 127 110, c.fld 109 102, c.fld 101 94, c.fld 93 86, c.fld 85 82, c.fld 81 81, c.fld 80 80⟩ } })

def execPtpConfig (r : Nat) (d : Dma) (s : State) : Host.Outcome State Fault Refusal :=
  .next (commit s (hostCmd 0x0940 [.operator] r d ptpConfig s))

/-! ### DIAG_LOOPBACK (10 R308), ERR_INJECT (12 R363) -/

def diagLoopback : Meaning := fun c s => do
  let p := c.fld 4 0
  c.lenIs 8
  c.bound 64
  c.tgtRsv 0
  fldF (decide (p ≤ 17)) 0
  c.rsv 21 5
  fldF (c.fld 23 22 == 1 || c.fld 23 22 == 2) 22
  fldF (decide (1 ≤ c.fld 63 32) && decide (c.fld 63 32 ≤ 10000)) 32
  need ((portAt s p).st == .disabled) St.state 0
  .ok (pendAns, setPort s p { portAt s p with
    st := .loopback, loopTok := some c.tok, loopUntil := now s + c.fld 63 32 * ms, loopLanes := c.fld 31 24 })

def execDiagLoopback (r : Nat) (d : Dma) (s : State) : Host.Outcome State Fault Refusal :=
  .next (commit s (hostCmd 0x0E12 [.maintenance] r d diagLoopback s))

/-- LOOPBACK_DONE: the duration has run; the error counts of the tested lanes are returned. -/
def execLoopbackDone (port : Nat) (errs : List Nat) (s : State) : Host.Outcome State Fault Refusal :=
  .next <| commit s <|
    let x := portAt s port
    if x.st != .loopback || now s < x.loopUntil then s
    else
      let res := (List.range 8).flatMap fun l => leBytes 8 (if bit x.loopLanes l then errs.getD l 0 else 0)
      finishOpt (setPort s port { x with st := .disabled, loopTok := none }) x.loopTok St.ok 0 0 res

/-- An address that an injection kind may name. -/
def injectAddr (s : State) (kind addr : Nat) : Bool :=
  if kind ≤ 2 then gkind s (addr / 4096) != .reserved && gkind s (addr / 4096) != .beyond && decide (addr < 0x500000000000)
  else if kind = 3 then decide (addr % 32 ≤ 17) && addr / 2048 == 0 && addr / 32 % 8 == 0
  else if kind = 4 then addr == 16 || addr == 17
  else decide (addr ≤ 17)

def errInject : Meaning := fun c s => do
  let kind := c.fld 7 0
  let count := c.fld 63 48
  let addr := c.fld 127 64
  c.lenIs 16
  lenF (decide (1 ≤ count)) 48
  c.tgtRsv 0
  fldF (decide (1 ≤ kind) && decide (kind ≤ 5)) 0
  c.rsv 47 8
  fldF (injectAddr s kind addr) 64
  .ok (okAns, { s with mir := { s.mir with inject := s.mir.inject ++
    [⟨kind, addr, count, if kind = 3 then some (now s + 1000 * ms) else none⟩] } })

def execErrInject (r : Nat) (d : Dma) (s : State) : Host.Outcome State Fault Refusal :=
  .next (commit s (hostCmd 0x0E20 [.maintenance] r d errInject s))

/-! ### Work descriptors (10 R290, R291) -/

/-- Fetch a descriptor. -/
def fetchedWork (s : State) (r : Nat) (R : Ring) (h : Nat) : State :=
  { s with
    hcu := { s.hcu with rings := Tbl.set s.hcu.rings r { R with
      head := (R.head + 1) % R.sqEntries, outstanding := R.outstanding ++ [wCid h] } }
    tsu := took s (ringArb r R) (pastRing r) }

/-- Privilege and tenant of a ring's session. -/
def ringWho (s : State) (R : Ring) (c : Conn) : Priv × Nat :=
  match findSess s R.owner with
  | some x => (x.priv, x.tenant)
  | none => (.tenant, c.tenant)

/-- Bytes at LOCAL that a descriptor touches. -/
def wLocalLen (h : Nat) : Nat := if wOp h ≤ 2 then wLen h else if wLocal h = 0 then 0 else if bit h 174 then 8 else 4

/-- A descriptor's checks: sizes, fields, LOCAL under R288, REMOTE under R282, the data. -/
def descChecks (s : State) (R : Ring) (c : Conn) (h : Nat) : Except Ans Unit :=
  let op := wOp h
  let mover := op == 1 || op == 2
  let w := ringWho s R c
  let n := if mover then wLen h else if bit h 174 then 8 else 4
  let data := rangeRead s (wLocal h) (wLen h)
  needAll
    [(!R.outstanding.contains (wCid h), St.busy, 0),
     (if mover then decide (1 ≤ wLen h) && decide (wLen h ≤ 1048576) else wLen h == 0, St.lengthRange, 25),
     (bits h 172 0 == 0, St.fieldRange, 0),
     (!bit h 177 || (!c.memory && op == 1 && decide (wLen h ≤ 4096)), St.fieldRange, 22),
     (decide (1 ≤ op) && decide (op ≤ if c.memory then 6 else 2), St.fieldRange, 22),
     (bits h 186 182 == 0, St.fieldRange, 22),
     (!c.memory || bits h 255 224 == 0, St.fieldRange, 28),
     (!mover || wLocal h % 16 == 0, St.fieldRange, 56),
     (wLocalLen h == 0 || regionOk s w.1 w.2 (wLocal h) (wLocalLen h), St.accessViolation, 0),
     (!c.memory || ergAllows s (wRemote h) n c.tenant (if op = 1 then 1 else if op = 2 then 0 else 2), St.accessViolation, 0),
     (op != 1 || data == St.ok, data, 0)]

/-- Requests that a work descriptor makes: a memory-mode write or read is split into 4,096 bytes each (10 R291). -/
def descParts (h : Nat) : Nat := if bits h 181 178 ≤ 2 then (bits h 223 203 + 4095) / 4096 else 1

/-- A message or descriptor as it starts. -/
def workMsg (s : State) (c : Conn) (t : Tok) (h op len : Nat) : OutMsg where
  num := c.nextMsn
  op := op
  key := bits h 255 224
  addr := wRemote h
  len := len
  loc := wLocal h
  data := []
  epoch := epochNum s
  ordered := bit h 177
  size64 := bit h 174
  signed := bit h 175
  tc := c.tc
  tok := some t
  aper := none
  parent := none
  routes := (0x1F, 0x1F)
  parts := descParts h
  moved := 0
  st := 0
  dueAt := now s + rtoAfter s 0
  why := 0
  resends := 0
  timer := 0
  acked := false
  units := []
  total := none

/-- Start a descriptor: one message, or requests of at most 4,096 bytes in address order. -/
def startDesc (s : State) (i : Nat) (c : Conn) (t : Tok) (h : Nat) : State :=
  let op := wOp h
  let s0 := if op = 1 then readAll s (wLocal h) (wLen h) else s
  if c.memory then
    let mop := if op = 1 then Fo.mwrite else if op = 2 then Fo.mread else op
    let n := if op ≤ 2 then wLen h else if bit h 174 then 8 else 4
    let m := workMsg s c t h mop n
    let s1 := setConn s0 i { c with sent := c.sent ++ [m], nextMsn := (c.nextMsn + 1) % 2 ^ 32 }
    let part (a : State) (k : Nat) : State :=
      let l := min 4096 (n - 4096 * k)
      issueMem a c.engine { m with
        tok := none, parent := some (i, m.num), addr := m.addr + 4096 * k, loc := if m.loc = 0 && isAtomic mop then 0 else m.loc + 4096 * k
        len := l, data := if op = 1 then devRead a (m.loc + 4096 * k) l else if op = 2 then []
          else leBytes 8 (bits h 383 320) ++ leBytes 8 (if op = 6 then bits h 319 256 else 0) }
    (List.range (descParts h)).foldl part s1
  else
    let m := workMsg s c t h (if op = 1 then Fo.twrite else Fo.tread) (wLen h)
    let c1 := { c with sent := c.sent ++ [m], nextMsn := (c.nextMsn + 1) % 2 ^ 32 }
    sendMsg (setConn s0 i c1) i c1 m

/-- A descriptor may start: its connection has failed, or stands with room in its window, its engine and, for an atomic, among
the 64 that may be unanswered, and FENCE finds no earlier one open (10 R279, R284, R290, R298). -/
def workReady (s : State) (R : Ring) (c : Conn) (h : Nat) : Bool :=
  c.st == .failed || ((c.st == .opened || c.st == .closing) && !(bit h 176 && !R.outstanding.isEmpty) &&
    if c.memory then
      decide (engineLoad s c.engine + descParts h ≤ 384) &&
        (decide (wOp h ≤ 2) || decide (((Tbl.get s.fbe.seqOut (bits h 435 430)).map fun q =>
          (q.reqs.filter fun m => 3 ≤ m.op).length).getD 0 < 64))
    else decide (engineLoad s c.engine < 384) && decide ((c.sent.filter fun m => !m.acked).length + 1 < c.window))

/-- A descriptor starts in a state where it is fetched; on a failed connection it completes with ST_PEER_LOST. -/
def runDesc (r : Nat) (R : Ring) (i : Nat) (c : Conn) (h : Nat) (s : State) : State :=
  let t := workTok r R h
  if c.st = .failed then finish s t St.peerLost 0 0
  else match descChecks s R c h with
    | .error a => finish s t (a.st.getD 0) 0 a.detail
    | .ok _ => startDesc s i c t h

/-- A descriptor of a work ring: the one that waits starts when it may; otherwise the head slot's is fetched when the arbiter
grants the ring, and starts or waits. -/
def workDesc (op r : Nat) (s : State) : State :=
  match Tbl.get s.hcu.rings r, connOfRing s r with
  | some R, some (i, c) =>
    let others (h : Nat) : Bool := decide (1 ≤ wOp h) && decide (wOp h ≤ 6) && wOp h != op
    if !R.work then s
    else match R.waiting with
      | some h =>
        if !serving s r || others h || !workReady s R c h then s
        else settleConn (runDesc r (unfetched R) i c h (setRing s r { R with waiting := none, outstanding := R.outstanding ++ [wCid h] })) i
      | none =>
        let h := slotHeader s R
        if !granted s r R || others h then s
        else if workReady s R c h then runDesc r R i c h (fetchedWork s r R h)
        else fetchedOnly s r R h
  | _, _ => s

def execWorkWrite (r : Nat) (s : State) : Host.Outcome State Fault Refusal := .next (commit s (workDesc 1 r s))
def execWorkRead (r : Nat) (s : State) : Host.Outcome State Fault Refusal := .next (commit s (workDesc 2 r s))
def execWorkAdd (r : Nat) (s : State) : Host.Outcome State Fault Refusal := .next (commit s (workDesc 3 r s))
def execWorkMin (r : Nat) (s : State) : Host.Outcome State Fault Refusal := .next (commit s (workDesc 4 r s))
def execWorkMax (r : Nat) (s : State) : Host.Outcome State Fault Refusal := .next (commit s (workDesc 5 r s))
def execWorkCas (r : Nat) (s : State) : Host.Outcome State Fault Refusal := .next (commit s (workDesc 6 r s))

end Sys2Proof.Machine
end

