-- ==== Sys2Proof/Machine/PageCmds.lean ====
section
/-! DEFINITION. The 0x04xx commands and the reclaimer (05 R134 to R139). -/

namespace Sys2Proof.Machine

/-! ### Loose pages -/

def pageAlloc : Meaning := fun c s => do
  let n := c.fld 16 0
  let cls := c.fld 35 32
  c.lenIs 8
  lenF (decide (1 ≤ n) && decide (n ≤ 65536)) 0
  c.bound (4 * n)
  c.tgtRsv 0
  c.rsv 31 17
  fldF (decide (cls ≤ 9)) 32
  c.rsv 63 36
  need (decide (n * 2 ^ cls ≤ objectFree s)) St.noCapacity 0
  match allocPages s cls c.tenant true false n with
  | none => stop St.noCapacity
  | some (ids, s1) => .ok (okRes (histBytes ids), s1)

def execPageAlloc (r : Nat) (d : Dma) (s : State) : Host.Outcome State Fault Refusal :=
  .next (commit s (hostCmd 0x0401 [.operator, .tenant] r d pageAlloc s))

/-- The count of a list of `w`-byte records after an 8-byte header, and its agreement with PAYLOAD_LEN. -/
def Cmd.counted (c : Cmd) (o w n lo hi bitLo : Nat) : Except Ans Unit :=
  needAll
    [(decide (o ≤ c.payLen), St.lengthRange, 24),
     (decide (lo ≤ n) && decide (n ≤ hi), St.lengthRange, inPay (bitLo / 8)),
     (c.payLen == o + w * n, St.lengthRange, 24)]

/-- A page that PAGE_FREE may free: LOOSE and live, and of the tenant (05 R137). -/
def Cmd.looseOk (c : Cmd) (s : State) (id : Nat) : Except Ans Unit :=
  match getPage s id with
  | none => stop St.notFound
  | some p => if !p.loose || p.st != .live then stop St.notFound else c.own p.tenant

def pageFree : Meaning := fun c s => do
  let n := c.fld 16 0
  c.counted 8 4 n 1 65536 0
  c.tgtRsv 0
  c.rsv 63 17
  let ids := c.recs 8 4 n
  checkEach (fun _ id => c.looseOk s id) 0 ids
  need ((distinct ids).length == ids.length) St.notFound 0
  .ok (okAns, ids.foldl decRef s)

def execPageFree (r : Nat) (d : Dma) (s : State) : Host.Outcome State Fault Refusal :=
  .next (commit s (hostCmd 0x0402 [.operator, .tenant] r d pageFree s))

/-! ### The owner's checks for a list command (05 R137, 04 R91) -/

def notBusy (x : Slot) : Except Ans Unit := need (!x.e.inStep && !x.e.movePend && !x.restoring) St.busy 0

/-- States that PLIST_APPEND and its like allow, then IN_STEP and MOVE_PEND (05 R136). -/
def listState (s : State) (n : Nat) (x : Slot) : Except Ans Unit := do
  openEntry s n x
  stateErr (stepState x.e) x.e
  notBusy x

/-! ### PLIST_APPEND (05 R138) -/

/-- The list as part 1 leaves it: with the node's pages. -/
def attached (s : State) (l : PList) (node : Option (Nat × PNode)) : PList :=
  match node with
  | none => l
  | some (_, n) =>
    match Tbl.get s.ppm.plists n.plist with
    | none => l
    | some p => { l with pages := p.pages.take (pagesFor l.kvPerTok l.cls n.depthTokens), ctxLen := n.depthTokens }

/-- Storage of a prefix list agrees with a request list (05 R127, R138). -/
def nodeFits (s : State) (l : PList) (ns : Nat) (node : Option (Nat × PNode)) : Bool :=
  match node with
  | none => true
  | some (_, n) =>
    nodeVisible n l.tenant && n.ns == ns && match Tbl.get s.ppm.plists n.plist with
      | none => false
      | some p => p.kvPerTok == l.kvPerTok && p.cls == l.cls && p.codecSlot == l.codecSlot

/-- The writable pages of the result: the tail if it is partial and private, then the new pages; and the position of the
first. -/
def writable (s : State) (tail : Option Nat) (l : PList) (new : List Nat) : Nat × List Nat :=
  let first := l.pages.length - new.length
  match tail with
  | none => (if new.isEmpty then l.pages.length else first, new)
  | some i =>
    let id := l.pages.getD i noId
    match getPage s id with
    | none => (first, new)
    | some p => if p.refs ≤ 1 && i < first then (i, id :: l.pages.drop (max first (i + 1)))
      else (if new.isEmpty then l.pages.length else first, new)

/-- PLIST_APPEND at the home. -/
def homeAppend : HomeAct := fun m s => do
  let nodeH := m.fld 127 96
  let ns := m.fld 95 64
  let newCtx := m.fld 63 43
  let newPages := m.fld 42 26
  let priv := bit (m.fld 25 25) 0
  let l ← m.list s
  let node := if nodeH = noNode then none else findNode s nodeH
  need (nodeH == noNode || node.isSome) St.notFound 0
  let l1 := attached s l node
  lenF (decide (l1.pages.length + newPages ≤ 4194304)) 26
  lenF (decide (newCtx * l.kvPerTok ≤ (l1.pages.length + newPages) * psize l.cls)) 43
  fldF (decide (l1.ctxLen ≤ newCtx)) 43
  fldF (ns == l.ns || (l.ns == 0 && l.pages.isEmpty)) 64
  fldF (nodeFits s l ns node) 96
  m.check 0
  need (node.isNone || l.pages.isEmpty) St.state 0
  let s1 := match node with
    | none => s
    | some (i, _) => hitNodes (l1.pages.foldl incRef s) [i]
  let (l2, s2) ← orFull (fitBlocks s1 { l1 with ns := ns })
  let tail := tailPos l1
  let s3 ← if 0 < newPages || priv then orFull (privTail (putList s2 l2) l.gid) else .ok (putList s2 l2)
  let (ids, s4) ← if newPages = 0 then .ok ([], s3) else orFull (appendPages s3 l.gid newPages)
  let s5 := oneChange l (putList s4 { ((getList s4 l.gid).getD l2) with ctxLen := newCtx })
  let (pos, out) := writable s5 tail ((getList s4 l.gid).getD l2) ids
  .ok ({ st := some St.ok, r0 := pos, result := histBytes out }, s5)

/-- The first append moves the entry from ADMITTED to PREFILL (03 R62). -/
def ownAppend (n : Nat) (s : State) : State :=
  match getSlot s n with
  | none => s
  | some x => if x.e.state = .admitted then setState s n .prefill else s

def plistAppend : Meaning := fun c s => do
  c.lenIs 16
  lenF (decide (c.fld 42 26 ≤ 65536)) 26
  lenF (decide (c.fld 63 43 ≤ 1048576)) 43
  c.bound (4 * (c.fld 42 26 + 1))
  c.tgtRsv 32
  c.rsv 24 0
  let (n, x) ← c.entry s c.target
  let se := listState s n x
  need (!x.e.state.terminal || x.e.remoteHome || c.fld 127 96 == noNode || (findNode s (c.fld 127 96)).isSome) St.notFound 0
  if x.e.state.terminal then se
  atHome 0x0403 c [n] x.e [se] homeAppend (ownAppend n) s

def execPlistAppend (r : Nat) (d : Dma) (s : State) : Host.Outcome State Fault Refusal :=
  .next (commit s (hostCmd 0x0403 [.operator, .tenant] r d plistAppend s))

/-! ### PLIST_TRUNCATE, PLIST_QUERY -/

def homeTruncate : HomeAct := fun m s => do
  let l ← m.list s
  lenF (decide (m.fld 20 0 ≤ l.ctxLen)) 0
  m.check 0
  .ok (okAns, truncate s l.gid (m.fld 20 0))

def plistTruncate : Meaning := fun c s => do
  c.lenIs 8
  c.tgtRsv 32
  c.rsv 63 21
  let (n, x) ← c.entry s c.target
  let se := listState s n x
  if x.e.state.terminal then se
  atHome 0x0404 c [n] x.e [se] homeTruncate id s

def execPlistTruncate (r : Nat) (d : Dma) (s : State) : Host.Outcome State Fault Refusal :=
  .next (commit s (hostCmd 0x0404 [.operator, .tenant] r d plistTruncate s))

def listResult (l : PList) (first k : Nat) : Bytes := plistImage l ++ histBytes ((l.pages.drop first).take k)

def homeListQuery : HomeAct := fun m s => do
  let l ← m.list s
  lenF (decide (m.fld 40 18 ≤ l.pages.length)) 18
  m.check 0
  .ok (okRes (listResult l (m.fld 40 18) (m.fld 16 0)), s)

def plistQuery : Meaning := fun c s => do
  let k := c.fld 16 0
  let gid := c.fld 127 64
  c.lenIs 16
  lenF (decide (1 ≤ k) && decide (k ≤ 65536)) 0
  lenF (decide (c.fld 40 18 ≤ 4194304)) 18
  c.bound (64 + 4 * k)
  if gid = 0 then c.tgtRsv 32 else c.tgtRsv 0
  c.rsv 17 17
  c.rsv 63 41
  if gid = 0 then
    let (n, x) ← c.entry s c.target
    let se : Except Ans Unit := do
      openEntry s n x
      stateErr (!x.e.state.terminal) x.e
    if x.e.state.terminal then se
    atHome 0x0405 c [n] x.e [se] homeListQuery id s
  else
    match getList s gid with
    | none => stop St.notFound
    | some l =>
      c.own l.tenant
      lenF (decide (c.fld 40 18 ≤ l.pages.length)) 18
      .ok (okRes (listResult l (c.fld 40 18) k), s)

def execPlistQuery (r : Nat) (d : Dma) (s : State) : Host.Outcome State Fault Refusal :=
  .next (commit s (hostCmd 0x0405 [.operator, .tenant, .maintenance] r d plistQuery s))

/-! ### Prefixes -/

/-- PREFIX_LOOKUP at its home: the viewer is the issuing tenant, or VIEW_TENANT for the others. -/
def homeLookup : HomeAct := fun m s =>
  let is := lookup s (m.fld 95 64) (if m.isTenant then m.tenant else m.fld 111 96) (wordsOf (m.fld 16 0) (m.pay.drop 16))
  .ok (okR0 (lookupR0 s is), hitNodes s is)

def prefixLookup : Meaning := fun c s => do
  let n := c.fld 16 0
  c.counted 16 4 n 1 65536 0
  c.tgtRsv 0
  c.rsv 63 17
  fldF (c.fld 95 64 != 0) 64
  checkEach (fun i t => need (decide (t < 2 ^ 18)) St.fieldRange (inPay (16 + 4 * i + 2))) 0 (c.recs 16 4 n)
  if c.fld 127 112 = me s then homeLookup (homeMsg s c 0x0410 0 []) s
  else .ok (laterAns, sendForward s c 0x0410 (c.fld 127 112) 0 [])

def execPrefixLookup (r : Nat) (d : Dma) (s : State) : Host.Outcome State Fault Refusal :=
  .next (commit s (hostCmd 0x0410 [.operator, .tenant] r d prefixLookup s))

/-- Pages have gained PREFIX: every list that holds one counts it as shared and pays for it no more (05 R121, R123). -/
def reshare (ps : List Nat) (s : State) : State :=
  (s.ppm.lists.filter fun kv => kv.2.pages.any ps.contains).foldl (fun a kv => putList a kv.2) s

/-- PREFIX_INSERT at the home (05 R131, R132). -/
def homeInsert : HomeAct := fun m s => do
  let count := m.fld 16 0
  let l ← m.list s
  let hist := (m.reqs.head?.map (·.hist)).getD []
  lenF (decide (count ≤ l.ctxLen) && decide (count ≤ hist.length)) 0
  fldF (l.ns != 0) 0
  m.check 0
  let toks := hist.take count
  let got := lookup s l.ns l.tenant toks
  if count ≤ got.length * 16 then .ok (okR0 (lookupR0 s got), s)
  else
    let new := count / 16 - got.length
    let k := pagesFor l.kvPerTok l.cls count
    let ps := l.pages.take k
    need (decide (s.ppm.nodes.length + new ≤ 16777215)) St.noCapacity 0
    match makeRoom ps got s.ppm.nodes.length s with
    | none => stop St.noCapacity
    | some s0 =>
      match allocPage s0 0 0 false true with
      | none => stop St.noCapacity
      | some (root, s1) =>
        let p : PList := ⟨root, 0, 1, 0xFFFF, if bit (m.fld 32 32) 0 then 0 else l.tenant, k, count, l.kvPerTok, l.ns,
          l.codecSlot, l.cls, depthFor k, 0, 0, new, ps, [root]⟩
        match fitBlocks s1 p with
        | none => stop St.noCapacity
        | some (p1, s2) =>
          let s3 := ps.foldl (fun a id => match getPage a id with
            | some q => setPage a id { q with refs := q.refs + 1, inPrefix := true }
            | none => a) s2
          let s4 := reshare ps { s3 with ppm := { s3.ppm with plists := Tbl.set s3.ppm.plists root p1 } }
          let key := (toks.take (16 * got.length))
          let (h, s5) := addNodes l.ns p.tenant root new (got.length + 1) (nextKey (nsKey l.ns) key)
            (match got.getLast? with
              | some i => nodeHandle s4 i
              | none => noNode) (toks.drop (16 * got.length)) s4
          .ok ({ st := some St.ok, r0 := h <<< 32 ||| count, detail := new }, s5)

def prefixInsert : Meaning := fun c s => do
  let n := c.fld 16 0
  need (c.priv != .tenant || c.payLen < 8 || c.fld 32 32 == 0) St.privilege 0
  c.lenIs 8
  lenF (decide (16 ≤ n) && decide (n ≤ 65536)) 0
  c.tgtRsv 32
  fldF (n % 16 == 0) 0
  c.rsv 31 17
  c.rsv 63 33
  let (i, x) ← c.entry s c.target
  let se := listState s i x
  if x.e.state.terminal then se
  atHome 0x0411 c [i] x.e [se] homeInsert id s

def execPrefixInsert (r : Nat) (d : Dma) (s : State) : Host.Outcome State Fault Refusal :=
  .next (commit s (hostCmd 0x0411 [.operator, .tenant] r d prefixInsert s))

def prefixEvict : Meaning := fun c s => do
  let h := c.fld 63 32
  let n := c.fld 23 0
  c.lenIs 8
  lenF (if h = noNode then n != 0 else n == 0) 0
  c.tgtRsv 0
  c.rsv 31 24
  let before := prefixUnits s
  if h = noNode then
    let (k, s1) := evictLru n s
    .ok (okR0 (k <<< 32 ||| (before - prefixUnits s1)), s1)
  else
    match findNode s h with
    | none => stop St.notFound
    | some (i, _) =>
      let is := subtree s s.ppm.nodes.length i
      let s1 := is.foldl evictNode s
      .ok (okR0 (is.length <<< 32 ||| (before - prefixUnits s1)), s1)

/-- In least-recently-hit mode at most as many nodes go as there are. -/
def execPrefixEvict (r : Nat) (d : Dma) (s : State) : Host.Outcome State Fault Refusal :=
  .next (commit s (hostCmd 0x0412 [.operator] r d prefixEvict s))

/-! ### PAGE_SHARE: both requests' states, then the target's emptiness, then IN_STEP and MOVE_PEND (05 R137) -/

def homeShare : HomeAct := fun m s => do
  let toks := m.fld 63 43
  let l ← m.list s
  match (m.reqs.drop 1).head? with
  | none => stop St.notFound
  | some q =>
    match getList s q.gid with
    | none => stop St.notFound
    | some src =>
      lenF (decide (toks ≤ src.ctxLen)) 43
      fldF (l.ns == src.ns || (l.ns == 0 && l.pages.isEmpty)) 96
      m.check 0
      need l.pages.isEmpty St.state 0
      m.check 1
      let k := pagesFor src.kvPerTok src.cls toks
      let ps := src.pages.take k
      let l1 := { l with pages := ps, shared := sharedCount s ps, ctxLen := toks, ns := src.ns }
      let s1 ← orFull (growRes s l.gid (usedUnitsOf l1))
      let (l2, s2) ← orFull (fitBlocks (ps.foldl incRef s1) { l1 with resUnits := ((getList s1 l.gid).getD l).resUnits })
      .ok (okAns, oneChange l (putList s2 l2))

def pageShare : Meaning := fun c s => do
  c.lenIs 16
  lenF (c.fld 63 43 != 0) 43
  c.tgtRsv 32
  c.rsv 42 0
  c.rsv 95 64
  let (n, x) ← c.entry s c.target
  let (k, y) ← c.entry s (c.fld 127 96)
  lenF (decide (c.fld 63 43 ≤ y.e.ctxLen)) 43
  fldF (x.e.home == y.e.home && x.e.kvPerTok == y.e.kvPerTok && x.e.pageClass == y.e.pageClass &&
    x.e.codecSlot == y.e.codecSlot) 96
  let se : Except Ans Unit := do
    openEntry s n x
    stateErr (stepState x.e) x.e
    openEntry s k y
    stateErr (stepState y.e) y.e
  let busy : Except Ans Unit := do
    notBusy y
    notBusy x
  if x.e.state.terminal || y.e.state.terminal then se
  atHome 0x0420 c [n, k] x.e [se, busy] homeShare id s

def execPageShare (r : Nat) (d : Dma) (s : State) : Host.Outcome State Fault Refusal :=
  .next (commit s (hostCmd 0x0420 [.operator, .tenant] r d pageShare s))

/-! ### PAGE_STATS (05 R139) -/

def statWords (s : State) : Bytes :=
  let live (k : Nat) : Nat := s.ppm.pages.countP fun kv => pageClassOf kv.1 == k && kv.2.st == .live
  let recl := s.ppm.pages.foldl (fun a kv => a + if kv.2.st == .reclaim then pageGranules kv.1 else 0) 0
  let w (n : Nat) : Bytes := leBytes 4 (satBits 32 n)
  ((List.range 10).flatMap fun k => w (live k)) ++ ((List.range 12).flatMap fun k => w (stackFree s k)) ++ w recl
    ++ w s.ppm.nodes.length ++ w (prefixUnits s) ++ w (ceilDiv (objectFrames s) 16) ++ w s.ppm.lists.length
    ++ w s.ppm.plists.length ++ leBytes 8 s.ppm.tailCopies ++ w s.ppm.lostCount ++ zeros 132

def pageStats : Meaning := fun c s => do
  c.lenIs 0
  c.bound 256
  c.tgtRsv 0
  .ok (okRes (statWords s), s)

def execPageStats (r : Nat) (d : Dma) (s : State) : Host.Outcome State Fault Refusal :=
  .next (commit s (hostCmd 0x0430 [.operator, .maintenance] r d pageStats s))

/-- RECLAIM: the reclaimer takes eight list entries (05 R134). -/
def execReclaim (s : State) : Host.Outcome State Fault Refusal := .next (commit s (reclaimN s 8))

end Sys2Proof.Machine
end

