-- ==== Sys2Proof/Machine/MirrorIn.lean ====
section
/-! DEFINITION. The pair at its receiving end: what is held for the partner, and the mirror records (12 R343 to R348, R355,
R357). -/

namespace Sys2Proof.Machine

/-! ### What is held (12 R343) -/

/-- The partner's DURABLE lists: by the owner's entry, or by the hold a remote owner's list was granted. -/
def shadowDurable (s : State) (gid : Nat) : Bool :=
  match Tbl.get s.mir.shadow.entries gid with
  | some e => e.durable
  | none => s.mir.heldLists.contains gid

/-- Held slots and units follow the partner's entries and lists, and the holds granted and not yet used. -/
def reheld (s : State) : State :=
  if !holding s then { s with mir := { s.mir with heldSlots := 0, heldUnits := 0 } }
  else
    let lists := s.mir.shadow.lists.filter fun kv => s.mru.cover == 2 || shadowDurable s kv.1
    let slots := s.mir.grants.foldl (fun a g => a + g.1) s.mir.shadow.entries.length
    let units := s.mir.grants.foldl (fun a g => a + g.2) (lists.foldl (fun a kv => a + kv.2.resUnits) 0)
    { s with mir := { s.mir with heldSlots := slots, heldUnits := units } }

def setShadow (s : State) (h : Shadow) : State := { s with mir := { s.mir with shadow := h } }

/-- Use one granted slot. -/
def useSlot : List (Nat × Nat) → List (Nat × Nat)
  | [] => []
  | g :: t => if g.1 = 0 then g :: useSlot t else if g.1 = 1 && g.2 = 0 then t else (g.1 - 1, g.2) :: t

/-- Use a grant of `u` units. -/
def useUnits (u : Nat) : List (Nat × Nat) → List (Nat × Nat)
  | [] => []
  | g :: t => if g.2 != u then g :: useUnits u t else if g.1 = 0 then t else (g.1, 0) :: t

def usedGrant (s : State) (f : List (Nat × Nat) → List (Nat × Nat)) : State :=
  { s with mir := { s.mir with grants := f s.mir.grants } }

def hasGrant (s : State) (u : Nat) : Bool := u != 0 && s.mir.grants.any fun g => g.2 == u

/-! ### Answers on the stream (12 R344, R346) -/

/-- ACK or NAK of the mirror stream, in queue 9 of the port the record came on. -/
def mirrorReply (s : State) (port op msn reason status : Nat) : State :=
  sendFrame s port 9 true { blankFrame with
    op := op, dst := s.mru.partner, src := me s, seq := s.mru.mseqApplied % 2 ^ 32, key := msn % 2 ^ 32, reason := reason
    status := status, epoch := epochNum s }

def mirrorAckOut (s : State) (port : Nat) : State := mirrorReply s port Fo.ack 0 0 0

/-- Bodies have the shape of their kind. -/
def bodyOk (m : MirRec) : Bool :=
  let n := m.body.length
  if m.kind = 1 then n == 128 && (entryOfNat (leNat m.body)).gid == m.object
  else if m.kind = 2 then n % 4 == 0 && (wordsOf (n / 4) m.body).all fun t => decide (t < 2 ^ 18)
  else if m.kind = 4 then n == 64
  else if m.kind = 5 then decide (64 ≤ n) && n % 4 == 0 && bits (leNat (m.body.take 64)) 511 448 == m.object
  else if m.kind = 7 then n == 32
  else if m.kind = 8 then decide (4 ≤ n) && n % 64 == 4
  else if m.kind = 9 then n == 0
  else if m.kind = 15 then n == 0 || n == 8
  else m.kind == 3 || m.kind == 6

/-- A record that stands: CHECK, LEN, reserved bits, and fields of other kinds zero. -/
def recOk (m : MirRec) : Bool :=
  m.check == crc32c m.body && m.len == m.body.length && decide (m.len ≤ 65536) && m.rsv == 0 && bodyOk m &&
    (m.offset == 0 || m.kind == 2 || m.kind == 3 || m.kind == 5 || m.kind == 6) && (m.mseq == 0) == (m.kind == 15)

/-! ### ENTRY, TOKENS, AUX, CARAVAN (12 R345) -/

/-- Copies that no list names go. -/
def trimCopies (s : State) : State :=
  let kept := s.mir.shadow.pages.filter fun kv => s.mir.shadow.lists.any fun l => l.2.pages.contains kv.1
  setShadow s { s.mir.shadow with pages := kept }

/-- The copies of a list's pages go. -/
def dropCopies (s : State) (gid : Nat) : State :=
  match Tbl.get s.mir.shadow.lists gid with
  | none => s
  | some l => setShadow s { s.mir.shadow with pages := s.mir.shadow.pages.filter fun kv => !l.pages.contains kv.1 }

def applyEntry (s : State) (m : MirRec) : State :=
  let e := entryOfNat (leNat m.body)
  let dig := crcMore (if s.mir.resetDue then 0 else s.mir.digestRecv) m.body
  let s1 := { s with mir := { s.mir with digestRecv := dig, resetDue := false } }
  let h := s1.mir.shadow
  if e.state = .free then
    setShadow s1 { h with entries := Tbl.del h.entries e.gid, hists := Tbl.del h.hists e.gid, auxs := Tbl.del h.auxs e.gid }
  else
    let old := Tbl.get h.entries e.gid
    let res := ((Tbl.get h.lists e.gid).map (·.resUnits)).getD 0
    let newly := e.durable && !shadowDurable s e.gid
    let s2 := setShadow s1 { h with entries := Tbl.set h.entries e.gid e }
    let s3 := { s2 with mir := { s2.mir with heldLists := s2.mir.heldLists.filter (· != e.gid) } }
    let s4 := if old.isNone then usedGrant s3 useSlot else s3
    let s5 := if newly && hasGrant s4 res then usedGrant s4 (useUnits res) else s4
    if e.durable then s5 else dropCopies s5 e.gid

def applyTokens (s : State) (m : MirRec) : State :=
  let h := s.mir.shadow
  let toks := wordsOf (m.body.length / 4) m.body
  setShadow s { h with hists := Tbl.set h.hists m.object ((Tbl.getD h.hists m.object []).take m.offset ++ toks) }

/-- Put bytes over others from an offset. -/
def splice (old : Bytes) (off : Nat) (bs : Bytes) : Bytes :=
  old.take off ++ zeros (off - old.length) ++ bs ++ old.drop (off + bs.length)

def applyAux (s : State) (m : MirRec) : State :=
  let h := s.mir.shadow
  setShadow s { h with auxs := Tbl.set h.auxs m.object (splice (Tbl.getD h.auxs m.object []) m.offset m.body) }

/-- A caravan record; an offer of the partner's tells where its CVN_ID sequence stands. -/
def applyCaravan (s : State) (m : MirRec) : State :=
  let h := s.mir.shadow
  let src := bits m.object 47 32
  let cvn := bits m.object 31 0
  let s1 := setShadow s { h with caravans := Tbl.set h.caravans (cvnKey src cvn) m.body }
  if src = s.mru.partner && bits (leNat (m.body.take 1)) 7 4 = 1 then { s1 with mir := { s1.mir with aliasCvn := nextCvn cvn } } else s1

/-! ### PLIST (12 R345) -/

/-- The list that a header and its entries show. -/
def plistOf (n : Nat) (pages : List Nat) : PList where
  root := noId
  gid := bits n 511 448
  gen := bits n 447 416
  owner := bits n 415 400
  tenant := bits n 399 384
  shared := bits n 360 338
  ctxLen := bits n 337 317
  kvPerTok := bits n 316 297
  ns := bits n 296 265
  codecSlot := bits n 264 259
  cls := bits n 258 255
  depth := bits n 254 253
  resUnits := bits n 252 229
  usedUnits := bits n 228 205
  nodeRefs := bits n 204 181
  pages := pages
  blocks := []

def applyPlist (s : State) (m : MirRec) : State :=
  let n := leNat (m.body.take 64)
  let count := bits n 383 361
  let h := s.mir.shadow
  let gid := m.object
  if count = 0 && bits n 252 229 = 0 then
    trimCopies (setShadow { s with mir := { s.mir with heldLists := s.mir.heldLists.filter (· != gid) } }
      { h with lists := Tbl.del h.lists gid })
  else
    let old := Tbl.get h.lists gid
    let before : List Nat := match old with
      | some l => l.pages
      | none => []
    let l := plistOf n ((before.take m.offset ++ wordsOf ((m.body.length - 64) / 4) (m.body.drop 64)).take count)
    let s1 := trimCopies (setShadow s { h with lists := Tbl.set h.lists gid l })
    let foreign := !Tbl.has h.entries gid && !s.mir.heldLists.contains gid
    if hasGrant s1 l.resUnits && foreign && (s.mru.cover != 2 || old.isNone) then
      let s2 := usedGrant s1 (useUnits l.resUnits)
      { s2 with mir := { s2.mir with heldLists := s2.mir.heldLists ++ [gid] } }
    else s1

/-! ### PAGE (12 R345, R357) -/

/-- A copy's generations are all live here, in the codec slot of its list. -/
def maskLive (s : State) (id mask : Nat) : Bool :=
  match s.mir.shadow.lists.find? fun kv => kv.2.pages.contains id with
  | none => mask == 0
  | some (_, l) => (maskTags mask).all (liveTags s l.codecSlot).contains

/-- The partner asks for its page back: the copy goes out, or word that there is none. -/
def sendCopy (s : State) (id : Nat) : State :=
  let n := psize (pageClassOf id)
  match Tbl.get s.mir.shadow.pages id with
  | some p =>
    if p.lost then mirrorSend s 6 id (2 ^ 22 + 1) []
    else mirrorBody s 6 (p.mask <<< 32 ||| id) 1 (2 ^ 22) (memReadN p.cells 0 n)
  | none => mirrorBody s 6 id 1 (2 ^ 22) (zeros n)

/-- A page asked for is back, or lost; requests whose pages are all back go on. -/
def pageBack (s : State) (id : Nat) : State :=
  let s1 := { s with mir := { s.mir with fetches := s.mir.fetches.filter (· != id) } }
  (holders s1 id).foldl (fun a gid =>
    match (slotOfGid a gid).bind fun n => (getSlot a n).map fun x => (n, x), getList a gid with
    | some (n, x), some l => if l.pages.any a.mir.fetches.contains then a else setSlot a n { x with restoring := false }
    | _, _ => a) s1

/-- Part of a page sent back. -/
def takeBack (s : State) (m : MirRec) (id off : Nat) : State :=
  if !s.mir.fetches.contains id then s
  else if m.body.isEmpty then losePage St.dataCheck (pageBack s id) id
  else
    let s1 := pokeN s (pageAddr id + off) m.body
    if psize (pageClassOf id) ≤ off + m.body.length then pageBack s1 id else s1

def applyPage (s : State) (m : MirRec) : State :=
  let id := bits m.object 31 0
  let mask := bits m.object 39 32
  if 2 ^ 22 ≤ m.offset then
    if m.body.isEmpty && m.offset = 2 ^ 22 then sendCopy s id else takeBack s m id (m.offset - 2 ^ 22)
  else
    let h := s.mir.shadow
    let old : ShadowPage := Tbl.getD h.pages id ⟨0, false, []⟩
    let lost := !maskLive s id mask
    let s1 := setShadow s { h with pages := Tbl.set h.pages id ⟨mask, lost, memWriteN old.cells m.offset m.body⟩ }
    if lost && !old.lost then pairEvent s1 Ec.loss 1 0 id else s1

/-! ### JOURNAL (12 R357) -/

/-- A journal record of the partner's is kept; one that the partner hands back, marked by OBJECT[63] (DESIGN CHOICE, entry
9), tells a range that the store failure lost. -/
def applyJournal (s : State) (m : MirRec) : State :=
  if m.object / 2 ^ 63 = 0 then
    let h := s.mir.shadow
    setShadow s { h with journal := h.journal ++ [m.body] }
  else
    let n := leNat m.body
    if s.jnl.committed < bits n 255 208 then addrEvent s Ec.loss 0 0 (bits n 203 164 * 4096) (bits n 163 132) else s

/-- Hand back the journal records held for a member that has restarted. -/
def returnJournal (s : State) : State :=
  s.mir.shadow.journal.foldl (fun a bs => mirrorSend a 7 (2 ^ 63) 0 bs)
    (setShadow s { s.mir.shadow with journal := [] })

/-! ### STEP (12 R355) -/

/-- A bulletin entry agrees with the shadow. -/
def bulletinAgrees (s : State) (bs : Bytes) : Bool :=
  let n := leNat bs
  let gid := bits n 511 448
  let k := bits n 378 375
  let hist := Tbl.getD s.mir.shadow.hists gid []
  match Tbl.get s.mir.shadow.entries gid with
  | none => false
  | some e => e.genLen == bits n 399 379 && hist.drop (hist.length - k) == wordsOf k bs

/-- A second record of one close goes on with the first one's digest. -/
def sameClose (s : State) (tag : Nat) : Bool := s.mir.resetDue && tag != 0 && tag == s.mir.lastTag

/-- STATE_DIGEST, the bulletin's digest, and each bulletin entry agree. -/
def stepAgrees (s : State) (m : MirRec) : Bool :=
  let tag := m.object / 2 ^ 32
  let dig := if s.mir.resetDue && !sameClose s tag then 0 else s.mir.digestRecv
  let es := m.body.drop 4
  leNat (m.body.take 4) == dig && (sameClose s tag || decide (65472 ≤ es.length) || crc32c es == m.object % 2 ^ 32) &&
    (chunks 64 (es.length / 64) es).all (bulletinAgrees s)

def applyStep (s : State) (m : MirRec) : State :=
  let ok := stepAgrees s m
  let s1 := { s with mir := { s.mir with resetDue := true, lastTag := m.object / 2 ^ 32 } }
  if s.mru.st != .paired && !(s.mru.st == .shadow && s.mru.copyDone) then s1
  else if ok then promoteIfDue (countMatch s1 1)
  else
    let s2 := pairEvent (countMismatch s1) Ec.uncorrected (if s.mru.st = .paired then 1 else 2) St.dataCheck (m.object / 2 ^ 32)
    mirrorReply s2 m.port Fo.nak m.mseq Nr.final St.dataCheck

/-! ### CHARGE (12 R343) -/

/-- A hold comes back: from the grants, or from a remote owner's list that is DURABLE no longer. -/
def unhold (s : State) (slots units : Nat) : State :=
  let s1 := if slots = 0 then s else usedGrant s useSlot
  if units = 0 then s1
  else if hasGrant s1 units then usedGrant s1 (useUnits units)
  else
    let same (gid : Nat) : Bool := match Tbl.get s1.mir.shadow.lists gid with
      | some l => l.resUnits == units
      | none => false
    match s1.mir.heldLists.find? same with
    | none => s1
    | some gid => dropCopies { s1 with mir := { s1.mir with heldLists := s1.mir.heldLists.filter (· != gid) } } gid

def applyCharge (s : State) (m : MirRec) : State :=
  let slots := bits m.object 63 46
  let units := bits m.object 45 22
  let st := bits m.object 15 0
  let answer (s : State) (st : Nat) : State := mirrorSend s 9 (slots <<< 46 ||| units <<< 22 ||| st) 0 []
  if st = St.pending then
    if slots ≤ freeSlots s && hbmFits s units then
      answer (reheld { s with mir := { s.mir with grants := s.mir.grants ++ [(slots, units)] } }) St.ok
    else answer s St.noCapacity
  else if st = St.state then unhold s slots units
  else match s.mir.charges with
    | [] => s
    | c :: rest => settleCharge c.1 (st == St.ok) c.2.1 c.2.2 { s with mir := { s.mir with charges := rest } }

/-! ### The stream's order (12 R344) -/

/-- Apply one record, whose turn it is. -/
def applyRec (s0 : State) (m : MirRec) : State :=
  let s := { s0 with mru := { s0.mru with mseqApplied := m.mseq } }
  reheld <|
    if m.kind = 1 then applyEntry s m
    else if m.kind = 2 then applyTokens s m
    else if m.kind = 3 then applyAux s m
    else if m.kind = 4 then applyCaravan s m
    else if m.kind = 5 then applyPlist s m
    else if m.kind = 6 then applyPage s m
    else if m.kind = 7 then applyJournal s m
    else if m.kind = 8 then applyStep s m
    else applyCharge s m

/-- Apply the records in the apply queue as far as their order reaches. -/
def drainQueue : Nat → State → State
  | 0, s => s
  | k + 1, s =>
    match s.mir.applyQ.find? fun m => m.mseq == s.mru.mseqApplied + 1 with
    | none => s
    | some m => drainQueue k (applyRec { s with mir := { s.mir with applyQ := s.mir.applyQ.filter fun x => x.mseq != m.mseq } } m)

/-- The apply queue holds 256 MiB. -/
def queueRoom (s : State) (m : MirRec) : Bool :=
  decide (s.mir.applyQ.foldl (fun a x => a + 32 + x.len) (32 + m.len) ≤ 268435456)

/-- Records are taken from a partner that mirrors, on a pair port. -/
def receiving (s : State) (port : Nat) : Bool :=
  mirrorPort s port && fabricOpen s port &&
    (s.mru.st == .joining || s.mru.st == .shadow || s.mru.st == .paired || (s.mru.st == .broken && s.mir.resync))

/-- A mirror record of a kind arrives. -/
def mirrorIn (kind : Nat) (m : MirRec) (s : State) : State :=
  if m.kind != kind || !receiving s m.port then s
  else if !recOk m then mirrorReply s m.port Fo.nak m.mseq Nr.reasm 0
  else if m.mseq ≤ s.mru.mseqApplied then mirrorAckOut s m.port
  else if !queueRoom s m then mirrorReply s m.port Fo.nak m.mseq Nr.noContext 0
  else
    let q := if s.mir.applyQ.any fun x => x.mseq == m.mseq then s.mir.applyQ else s.mir.applyQ ++ [m]
    let s1 := drainQueue q.length { s with mir := { s.mir with applyQ := q } }
    if s1.mru.mseqApplied = s.mru.mseqApplied then s1 else mirrorAckOut s1 m.port

def execMirEntry (m : MirRec) (s : State) : Host.Outcome State Fault Refusal := .next (commit s (mirrorIn 1 m s))
def execMirTokens (m : MirRec) (s : State) : Host.Outcome State Fault Refusal := .next (commit s (mirrorIn 2 m s))
def execMirAux (m : MirRec) (s : State) : Host.Outcome State Fault Refusal := .next (commit s (mirrorIn 3 m s))
def execMirCaravan (m : MirRec) (s : State) : Host.Outcome State Fault Refusal := .next (commit s (mirrorIn 4 m s))
def execMirPlist (m : MirRec) (s : State) : Host.Outcome State Fault Refusal := .next (commit s (mirrorIn 5 m s))
def execMirPage (m : MirRec) (s : State) : Host.Outcome State Fault Refusal := .next (commit s (mirrorIn 6 m s))
def execMirJournal (m : MirRec) (s : State) : Host.Outcome State Fault Refusal := .next (commit s (mirrorIn 7 m s))
def execMirStep (m : MirRec) (s : State) : Host.Outcome State Fault Refusal := .next (commit s (mirrorIn 8 m s))
def execMirCharge (m : MirRec) (s : State) : Host.Outcome State Fault Refusal := .next (commit s (mirrorIn 9 m s))

end Sys2Proof.Machine
end

