-- ==== Sys2Proof/Machine/PairCmds.lean ====
section
/-! DEFINITION. Pair commands, heartbeats and joins, with their timers (12 R341, R342, R348, R349, R355, R356, R360 to
R362). -/

namespace Sys2Proof.Machine

/-! ### PAIR_JOIN (12 R342) -/

/-- The controller is in start-up, test or recovery (12 R342, 16 R438). -/
def joinUnfit (s : State) : Bool :=
  !s.sbu.bootDone || !s.cax.tests.isEmpty || s.fbe.ports.any (fun kv => kv.2.st == .loopback) || s.pin.extest ||
    s.tfm.rebuilding || s.mir.inject.any fun i => match i.until' with
      | some t => decide (now s ≤ t)
      | none => true

/-- Ports 16 and 17 carry frames and end at the partner. -/
def pairLinked (s : State) (p : Nat) : Bool :=
  [16, 17].all fun q => linked s q && (portAt s q).peerNode == p

/-- What waits to leave on a port goes; its messages are sent again on others (01 R19, 10 R298). -/
def purgePort (s : State) (p : Nat) : State :=
  { s with tsu := { s.tsu with queues := Tbl.map s.tsu.queues fun k q =>
      if k / 4096 = p then { q with frames := [], waiting := [], drops := satBits 32 (q.drops + q.frames.length + q.waiting.length) }
      else q } }

/-- The mirror unit takes or leaves ports 16 and 17; where it takes them, no ordinary frame leaves there any more. -/
def takePorts (s0 : State) (b : Bool) : State :=
  let s := if b then purgePort (purgePort s0 16) 17 else s0
  respread { s with mir := { s.mir with portsMirror := b, dissolvedAt := none } }

/-- A join is accepted: the primary's full copy goes out, after any journal records held for the partner. -/
def startJoin (s : State) (partner promote cover side : Nat) (t : Tok) : State :=
  let s1 := setPairSt s (if side = 1 then .joining else .shadow)
  let s2 := openStream { s1 with mru := { s1.mru with
    partner := partner, cover := cover, side := side, promote := promote, streak := 0, mism := 0, copyDone := false
    copyMseq := 0, joinTok := some t, joinAt := now s, partnerJoined := false, beatAt := now s } }
  let s3 := takePorts s2 true
  if side = 1 then fullCopy (returnJournal s3) else s3

/-- PAIR_JOIN. What the partner holds is not known before its copy, so step 5 has nothing to refuse (DEDUCED, entry 9). -/
def pairJoin : Meaning := fun c s => do
  let side := c.fld 1 0
  let cover := c.fld 3 2
  let promote := c.fld 223 192
  let partner := c.fld 255 240
  c.lenIs 32
  lenF (decide (promote ≤ 1000000)) 192
  c.tgtRsv 0
  fldF (side == 1 || side == 2) 0
  fldF (cover == 1 || cover == 2) 2
  c.rsv 191 4
  c.rsv 239 224
  fldF (match nodeRec s partner with
    | some r => partner != me s && !r.lost && r.role == s.hcu.role
    | none => false) 240
  need (s.mru.st == .solo || (s.mru.st == .takenOver && side == 1)) St.busy 0
  need (!joinUnfit s && pairLinked s partner) St.state 0
  need (side == 1 || s.rte.slots.all fun kv => kv.2.e.state == .free) St.state 0
  .ok (pendAns, startJoin s partner (if promote = 0 then 10000 else promote) cover side c.tok)

def execPairJoin (r : Nat) (d : Dma) (s : State) : Host.Outcome State Fault Refusal :=
  .next (commit s (hostCmd 0x0B01 [.operator] r d pairJoin s))

/-- A join is under way. -/
def inJoin (s : State) : Bool := s.mru.st == .joining || s.mru.st == .shadow

/-- JOIN_TIMEOUT: the other command has not arrived within 1 s. -/
def execJoinTimeout (s : State) : Host.Outcome State Fault Refusal :=
  .next <| commit s <|
    if inJoin s && !s.mru.partnerJoined && decide (s.mru.joinAt + 1000 * ms ≤ now s) then toSolo s St.peerLost else s

/-- COPY_DONE: the join's copy is complete at both members; after a resynchronization the pair is PAIRED again (12 R355,
R356). -/
def execCopyDone (s : State) : Host.Outcome State Fault Refusal :=
  .next <| commit s <|
    let sent := decide (s.mru.copyMseq ≤ s.mru.mseqAcked)
    if s.mru.st = .joining && s.mru.partnerJoined && sent || s.mru.st = .shadow && s.mru.partnerJoined then
      { s with mru := { s.mru with copyDone := true } }
    else if s.mru.st = .broken && s.mir.resync && sent then toPaired s
    else s

/-! ### PAIR_DISSOLVE, PAIR_STATUS, PAIR_PROMOTE (12 R360 to R362) -/

def pairDissolve : Meaning := fun c s => do
  c.lenIs 0
  c.tgtRsv 0
  need (holding s) St.state 0
  .ok (okAns, toSolo (emit s (.dissolve s.mru.partner)) St.busy)

def execPairDissolve (r : Nat) (d : Dma) (s : State) : Host.Outcome State Fault Refusal :=
  .next (commit s (hostCmd 0x0B02 [.operator] r d pairDissolve s))

/-- DISSOLVE: the partner ends the pair. -/
def execDissolve (frm : Nat) (s : State) : Host.Outcome State Fault Refusal :=
  .next <| commit s <| if holding s && s.mru.partner = frm then toSolo s St.busy else s

/-- ORDINARY_PORTS: 1 ms after a pair's end. -/
def execOrdinaryPorts (s : State) : Host.Outcome State Fault Refusal :=
  .next <| commit s <|
    match s.mir.dissolvedAt with
    | none => s
    | some t => if t + ms ≤ now s then takePorts s false else s

/-- Entries owned under the alias. -/
def aliasEntries (s : State) : Nat := (s.rte.slots.filter fun kv => kv.2.underAlias && kv.2.e.state != .free).length

/-- A pair port carries heartbeats. -/
def beating (s : State) (n : Nat) : Bool := (holding s) && decide (n < 3)

def pairRecord (s : State) : Nat :=
  let m := s.mru
  b2n (beating s m.miss16) <<< 143 ||| b2n (beating s m.miss17) <<< 144 ||| b2n m.copyDone <<< 145 ||| m.cover <<< 146
    ||| m.st.code <<< 148 ||| m.partner <<< 164 ||| s.mir.aliasNode <<< 180 ||| aliasEntries s <<< 196
    ||| s.mir.heldUnits <<< 214 ||| s.mir.heldSlots <<< 238 ||| m.mism <<< 256 ||| m.promote <<< 288 ||| m.streak <<< 320
    ||| m.mseqAcked <<< 352 ||| m.mseqSent <<< 400 ||| m.lastBeat <<< 448

def pairStatus : Meaning := fun c s => do
  c.lenIs 0
  c.bound 64
  c.tgtRsv 0
  .ok (okRes (leBytes 64 (pairRecord s)), s)

def execPairStatus (r : Nat) (d : Dma) (s : State) : Host.Outcome State Fault Refusal :=
  .next (commit s (hostCmd 0x0B03 [.operator, .maintenance] r d pairStatus s))

def pairPromote : Meaning := fun c s => do
  c.lenIs 0
  c.tgtRsv 0
  need (inJoin s && s.mru.copyDone && decide (1 ≤ s.mru.streak)) St.state 0
  .ok (okAns, toPaired s)

def execPairPromote (r : Nat) (d : Dma) (s : State) : Host.Outcome State Fault Refusal :=
  .next (commit s (hostCmd 0x0B05 [.operator] r d pairPromote s))

/-! ### MIRROR_CLASS_SET (12 R348) -/

/-- The home records the bit. A paired home that sets it asks its partner's hold first, and answers later; one that clears
it tells the partner where the owner's entry does not. -/
def homeDurable : HomeAct := fun m s =>
  match m.reqs with
  | [] => stop St.notFound
  | q :: _ =>
    let d := m.fld 0 0 == 1
    match Tbl.get s.rte.resv q.gid, getList s q.gid with
    | some r, some l =>
      if d && !r.durable && mirroring s then
        let j : MirJob := ⟨none, m.frm, m.id, q.gid, 0⟩
        .ok (laterAns, sendCharge { s with mir := { s.mir with mirrorJobs := s.mir.mirrorJobs ++ [j] } } (.durable q.gid) 0
          (if s.mru.cover = 2 then 0 else l.resUnits))
      else if !d && r.durable && (slotOfGid s q.gid).isNone && s.mru.cover != 2 then
        .ok (okAns, returnHold (setDurable s q.gid false) 0 l.resUnits)
      else .ok (okAns, setDurable s q.gid d)
    | _, _ => stop St.notFound

/-- The command's own job answers the command in place of a forward. -/
def ownJob (gid : Nat) (t : Tok) (s : State) : State :=
  { s with mir := { s.mir with mirrorJobs := s.mir.mirrorJobs.map fun j =>
    if j.gid = gid && j.mseq = 0 && j.tok.isNone then { j with tok := some t } else j } }

def mirrorClassSet : Meaning := fun c s => do
  c.lenIs 8
  c.tgtRsv 32
  c.rsv 63 1
  let (n, x) ← c.entry s c.target
  openEntry s n x
  stateErr (!x.e.state.terminal && x.e.state != .handoff) x.e
  need (!x.e.inStep && !x.e.movePend && !x.restoring) St.busy 0
  if x.e.remoteHome then .ok (laterAns, sendForward s c 0x0B04 x.e.home (c.fld 0 0) [n])
  else atHome 0x0B04 c [n] x.e [] homeDurable (ownJob x.e.gid c.tok) s

def execMirrorClassSet (r : Nat) (d : Dma) (s : State) : Host.Outcome State Fault Refusal :=
  .next (commit s (hostCmd 0x0B04 [.operator] r d mirrorClassSet s))

/-! ### Heartbeats (12 R341, R349, R355, R356) -/

/-- A join's parameters, which its heartbeats carry (DESIGN CHOICE, entry 9). -/
def joinParams (s : State) : Nat := s.mru.side ||| s.mru.cover <<< 2 ||| s.mru.promote <<< 4

/-- A heartbeat goes out on a port that carries frames, unless an injection drops it (12 R363). -/
def sendBeat (s : State) (p : Nat) : State :=
  if !linked s p then s
  else if s.mir.inject.any fun i => i.kind == 4 && i.addr == p then
    { s with mir := { s.mir with inject := dropOne s.mir.inject } }
  else
    let body := if inJoin s then leBytes 8 (joinParams s) else []
    emit s (.mirror ⟨p, s.mru.mseqApplied <<< 16 ||| s.mru.st.code, 0, crc32c body, 0, body.length, 0, 15, body⟩)
where
  dropOne : List Inject → List Inject
    | [] => []
    | i :: t => if i.kind = 4 && i.addr = p then (if i.left ≤ 1 then t else { i with left := i.left - 1 } :: t) else i :: dropOne t

/-- Both members are there at a restart: PAIRED without a shadow period, COVER SLOTS (DESIGN CHOICE, entry 9). -/
def formPair (s : State) : State :=
  let s1 := openStream s
  toPaired { s1 with mru := { s1.mru with cover := 1, promote := 10000 } }

/-- A heartbeat of the partner during a join: its command has arrived; two that disagree end the join; a promotion is
followed. -/
def joinBeat (s : State) (m : MirRec) : State :=
  let st := m.object % 16
  let p := leNat m.body
  if st != 1 && st != 2 && st != 3 then s
  else if m.body.length = 8 && (p % 4 == s.mru.side || p / 4 != joinParams s / 4) then toSolo s St.fieldRange
  else
    let s1 := { s with mru := { s.mru with partnerJoined := true } }
    let s2 := if s.mru.partnerJoined || s.mru.st != .joining then s1 else resendRecs s1 fun _ => true
    if st = 3 && s2.mru.copyDone then toPaired s2 else s2

/-- Heartbeats of a BROKEN pair are back: each member sends full images of all its objects. -/
def startResync (s : State) : State :=
  if s.mir.resync then s
  else fullCopy (resendRecs { s with mir := { s.mir with resync := true } } fun _ => true)

def beatIn (s : State) (m : MirRec) : State :=
  let s1 := { s with mru := { s.mru with
    seen16 := s.mru.seen16 || m.port == 16, seen17 := s.mru.seen17 || m.port == 17, lastBeat := now s } }
  let s2 := ackedTo s1 (bits m.object 63 16)
  if s.mru.st = .solo && s.mir.dissolvedAt.isNone then formPair s2
  else if inJoin s then joinBeat s2 m
  else if s.mru.st = .broken then startResync s2
  else s2

/-- HEARTBEAT. -/
def execHeartbeat (m : MirRec) (s : State) : Host.Outcome State Fault Refusal :=
  .next <| commit s <|
    if m.kind != 15 || !mirrorPort s m.port || !fabricOpen s m.port || s.mru.partner = 0xFFFF || !recOk m then s else beatIn s m

/-- One port is lost to the pair: the stream goes on on the other. -/
def portLost (s : State) (p : Nat) : State :=
  resendRecs (post s Un.mru Ek.port Ec.loss 2 0 (objPort p) 0) fun r => r.port == p

/-- Both ports are lost: the loss procedure of a pair, the end of a join (12 R350, R356). -/
def bothLost (s : State) : State :=
  if s.mru.st = .paired && s.mir.loss.isNone then
    emit { s with mir := { s.mir with loss := some ⟨.probing, now s, [], []⟩ } } (.probe s.mru.partner)
  else if inJoin s then toSolo s St.peerLost
  else s

/-- HEARTBEAT_TICK: every 200 µs. -/
def execHeartbeatTick (s : State) : Host.Outcome State Fault Refusal :=
  .next <| commit s <|
    if !s.mir.portsMirror || s.mru.partner = 0xFFFF || !s.sbu.bootDone || now s < s.mru.beatAt + 200 * us then s
    else
      let s1 := sendBeat (sendBeat s 16) 17
      let n16 := if s1.mru.seen16 then 0 else min 255 (s1.mru.miss16 + 1)
      let n17 := if s1.mru.seen17 then 0 else min 255 (s1.mru.miss17 + 1)
      let s2 := { s1 with mru := { s1.mru with miss16 := n16, miss17 := n17, seen16 := false, seen17 := false, beatAt := now s } }
      if !holding s then { s1 with mru := { s1.mru with beatAt := now s } }
      else if 3 ≤ n16 && 3 ≤ n17 then bothLost s2
      else if n16 = 3 && s.mru.miss16 != 3 then portLost s2 16
      else if n17 = 3 && s.mru.miss17 != 3 then portLost s2 17
      else s2

/-- PAIR_FORM_TIMEOUT: no heartbeat within 10 s of the boot's end. -/
def execPairFormTimeout (s : State) : Host.Outcome State Fault Refusal :=
  .next <| commit s <|
    if s.mru.st = .solo && s.mir.portsMirror && s.mru.partner != 0xFFFF && decide (s.mru.joinAt + 10000 * ms ≤ now s) then
      pairEvent (takePorts { s with mru := { s.mru with partner := 0xFFFF } } false) Ec.timeout 1 0 s.mru.partner
    else s

/-- MIRROR_TICK: 1 ms in which no batch step closed. -/
def execMirrorTick (s : State) : Host.Outcome State Fault Refusal :=
  .next <| commit s <| if mirroring s && decide (s.mru.stepAt + ms ≤ now s) then mirrorStepEnd 0 [] s else s

end Sys2Proof.Machine
end

