-- ==== Sys2Proof/Machine/Forward.lean ====
section
/-! DEFINITION. Forwarded commands: the home's side, the owner's end of the answer, and the 1 ms without one (05 R122; 06
R154, R155; 09 R242, R266; 12 R348). -/

namespace Sys2Proof.Machine

/-! ### At the home -/

/-- An answer without outcomes of a step. -/
def plainAct (r : Except Ans (Ans × State)) : Except Ans (Ans × Option (List StepOut) × State) :=
  match r with
  | .error a => .error a
  | .ok (a, s) => .ok (a, none, s)

/-- Final lengths arrive: the step is gone, and the lists' lengths go back. -/
def homeFinal (m : FwdMsg) (s : State) : Ans × State :=
  let (tag, finals) := finalsOf m.pay
  let s1 := finalStep tag finals s
  (okRes (finalLens s1 finals), s1)

/-- The pages of a list that moves go out under the new home's key. -/
def homeSend (m : FwdMsg) (s : State) : Except Ans (Ans × State) :=
  match m.list s with
  | .error a => .error a
  | .ok l => .ok (okAns, sendPages s l.gid (m.fld 15 0) (m.fld 47 16))

/-- Apply a forwarded command. -/
def homeRun (m : FwdMsg) (s : State) : Except Ans (Ans × Option (List StepOut) × State) :=
  if m.op = 0x0208 then plainAct (homePark m s)
  else if m.op = 0x0209 then plainAct (homeUnpark m s)
  else if m.op = 0x0403 then plainAct (homeAppend m s)
  else if m.op = 0x0404 then plainAct (homeTruncate m s)
  else if m.op = 0x0405 then plainAct (homeListQuery m s)
  else if m.op = 0x0410 then plainAct (homeLookup m s)
  else if m.op = 0x0411 then plainAct (homeInsert m s)
  else if m.op = 0x0420 then plainAct (homeShare m s)
  else if m.op = 0x0502 then plainAct (homeSend m s)
  else if m.op = 0x0605 then plainAct (homeQuantize m s)
  else if m.op = 0x0606 then plainAct (homeDequantize m s)
  else if m.op = 0x0607 then plainAct (homeScaleFind m s)
  else if m.op = 0x0608 then plainAct (homeRecode m s)
  else if m.op = 0x0B04 then plainAct (homeDurable m s)
  else if m.op = Op.attn then homeAttn m s
  else if m.op = Op.draft then homeDraft m s
  else if m.op = Op.sample then homeClose Op.sample m s
  else if m.op = Op.verify then homeClose Op.verify m s
  else if m.op = Op.final then let r := homeFinal m s; .ok (r.1, none, r.2)
  else stop St.badOpcode

/-- The answer a home returns, with the lengths of the list it acted on. -/
def fwdAnswer (s : State) (m : FwdMsg) (a : Ans) (st : Nat) (outs : Option (List StepOut)) : FwdAns :=
  let l := (m.reqs.head?).bind fun q => getList s q.gid
  ⟨me s, m.id, st, a.r0, a.detail, a.result, (l.map (·.ctxLen)).getD 0, (l.map (·.usedUnits)).getD 0,
    (l.map (·.resUnits)).getD 0, outs⟩

/-- A request whose pages are on their way back from the partner (12 R357). -/
def listRestoring (s : State) (m : FwdMsg) : Bool :=
  m.reqs.any fun q => match getList s q.gid with
    | some l => l.pages.any s.mir.fetches.contains
    | none => false

/-- FORWARD. -/
def execForward (m : FwdMsg) (s : State) : Host.Outcome State Fault Refusal :=
  .next <| commit s <|
    if !s.sbu.bootDone then s
    else if !epochPasses s m.epoch then emit s (.fwdAns m.frm (fwdAnswer s m {st := none} St.epochStale none))
    else if listRestoring s m then emit s (.fwdAns m.frm (fwdAnswer s m {st := none} St.busy none))
    else match homeRun m s with
      | .error a => emit s (.fwdAns m.frm (fwdAnswer s m a (a.st.getD St.ok) none))
      | .ok (a, outs, s1) =>
        match a.st with
        | none => s1
        | some st => report s1 (.send (.fwdAns m.frm (fwdAnswer s1 m a st outs)))

/-! ### At the owner -/

/-- A forward is outstanding no more. -/
def dropFwd (s : State) (id : Nat) : State := settleEpochs { s with ppm := { s.ppm with fwds := Tbl.del s.ppm.fwds id } }

/-- The owner takes the lengths that an answer carries. -/
def takeAns (s : State) (w : FwdWait) (a : FwdAns) : State :=
  match (w.slots.head?).bind (getSlot s) with
  | none => s
  | some x => if a.st = St.ok && x.e.home = a.frm then takeLengths s x.e.gid a.ctxLen a.usedHbm a.resHbm else s

/-- The lengths of step 4 of R266, as the home returns them. -/
def takeFinals (s : State) (bs : Bytes) : State :=
  (recsOf 20 (bs.length / 20) bs).foldl (fun a n =>
    takeLengths a (bits n 63 0) (bits n 95 64) (bits n 127 96) (bits n 159 128)) s

/-- A move's answer: refused, the move ends; pending, it runs; done, the entry changes state. -/
def moveAns (s : State) (id : Nat) (w : FwdWait) (a : FwdAns) (n : Nat) : State :=
  if w.op = 0x0502 then (if a.st = St.ok then dropFwd s id else endMove (dropFwd s id) n a.st 0)
  else if a.st = St.pending then
    let s1 := { s with ppm := { s.ppm with fwds := Tbl.set s.ppm.fwds id { w with tag := w.tag + 2 } } }
    complete s1 w.tok St.pending 0 0 [] false
  else if a.st != St.ok then endMove (dropFwd s id) n a.st 0
  else if w.op = 0x0208 then ownParked (dropFwd s id) n a.usedHbm
  else ownUnparked (takeAns (dropFwd s id) w a) n a.usedHbm

/-- A step command's answer. -/
def stepAns (s : State) (w : FwdWait) (a : FwdAns) : State :=
  if w.op = Op.final then
    let s1 := takeFinals s a.result
    match getOwn s1 w.tag with
    | none => finish s1 w.tok St.ok 0 0
    | some o => finish (finishClose s1 w.tag o o.closeOut) w.tok St.ok 0 0 o.closeRes
  else
    let r := afterStep w.op w.tag w.tok ⟨some a.st, a.r0, a.detail, a.result⟩ a.outs s
    match r.1.st with
    | none => r.2
    | some st => finish r.2 w.tok st r.1.r0 r.1.detail r.1.result

def stepOp (op : Nat) : Bool := op == Op.attn || op == Op.draft || op == Op.sample || op == Op.verify || op == Op.final

/-- The DURABLE bit that the home has taken, at the owner; the tag's bit 0 is its value. -/
def durableAns (s : State) (id : Nat) (w : FwdWait) (a : FwdAns) : State :=
  let s1 := if a.st = St.ok || a.st = St.pending then
      w.slots.foldl (fun t n => updEntry t n fun e => { e with durable := w.tag % 2 == 1 }) s else s
  if a.st = St.pending then
    let s2 := { s1 with ppm := { s1.ppm with fwds := Tbl.set s1.ppm.fwds id { w with tag := w.tag % 2 + 2 } } }
    complete s2 w.tok St.pending 0 0 [] false
  else finish (dropFwd s1 id) w.tok a.st 0 a.detail

/-- FORWARD_ANSWER. -/
def execForwardAnswer (a : FwdAns) (s : State) : Host.Outcome State Fault Refusal :=
  .next <| commit s <|
    match Tbl.get s.ppm.fwds a.id with
    | none => s
    | some w =>
      if w.dst != a.frm then s
      else if w.op = 0x0208 || w.op = 0x0209 || w.op = 0x0502 then
        (match w.slots.head? with
          | none => dropFwd s a.id
          | some n => moveAns s a.id w a n)
      else if w.op = 0x0B04 then durableAns s a.id w a
      else if stepOp w.op then stepAns (dropFwd s a.id) w a
      else
        let s1 := takeAns (dropFwd s a.id) w a
        let s2 := if w.op = 0x0403 && a.st = St.ok then w.slots.foldl (fun t n => ownAppend n t) s1 else s1
        finish s2 w.tok a.st a.r0 a.detail a.result

/-- What a forward without an answer leaves: the opening is undone, a close goes on without the home, a home move has lost
its pages, a park or an unpark ends. -/
def fwdLost (s : State) (w : FwdWait) : State :=
  if w.op = 0x0208 || w.op = 0x0209 then
    (match w.slots.head? with
      | none => finish s w.tok St.peerLost 0 0
      | some n => endMove s n St.peerLost 0)
  else if w.op = 0x0502 then
    (match w.slots.head? with
      | none => s
      | some n => applyLoss (endMove s n St.peerLost 0) n ⟨St.peerLost, false, false⟩)
  else if stepOp w.op then
    (match getOwn s w.tag with
      | none => finish s w.tok St.peerLost 0 0
      | some o =>
        if w.op = Op.final then finish (finishClose s w.tag o o.closeOut) w.tok St.peerLost 0 0
        else if o.isOpen then finish s w.tok St.peerLost 0 0
        else finish (undoOpen s w.tag o) w.tok St.peerLost 0 0)
  else finish s w.tok St.peerLost 0 0

/-- FORWARD_TIMEOUT: 1 ms without an answer. One that has answered ST_PENDING waits for its end. -/
def execForwardTimeout (id : Nat) (s : State) : Host.Outcome State Fault Refusal :=
  .next <| commit s <|
    match Tbl.get s.ppm.fwds id with
    | none => s
    | some w =>
      let pended := (w.op == 0x0208 || w.op == 0x0209 || w.op == 0x0B04) && decide (2 ≤ w.tag)
      if pended || now s < w.sentAt + ms then s else fwdLost (dropFwd s id) w

end Sys2Proof.Machine
end

