-- ==== Sys2Proof/Machine/Regs.lean ====
section
/-! DEFINITION. The register space: reads, writes, doorbells, flags, event-queue windows, the ring region, the I3C target and
PERST# (15; 02 R31, R33, R37; 11 R336; 16 R433, R437). -/

namespace Sys2Proof.Machine

/-! ### Who reaches what -/

/-- A port's accesses are taken while its link is up; those of the management cores once firmware has started. -/
def regOpen (s : State) (src : Src) : Bool :=
  clocked s && match src with
    | .pcie p => decide (p < 4) && !linksOff s && (portMode s p != 0 || (s.sbu.stage == 0xF0 && p == 0))
    | .core => decide (7 ≤ s.sbu.stage) && s.sbu.stage != 0xF0

/-- Whether an access comes from a port. -/
def isPort (src : Src) (p : Nat) : Bool := src == .pcie p

def regErr (s : State) (src : Src) : State := setSrcFlag s src Fl.regErr
def doorbellErr (s : State) (src : Src) : State := setSrcFlag s src Fl.doorbellErr

/-! ### Event-queue windows (11 R336, 15 R407, R421) -/

/-- The 32 bytes of an event, as a number. -/
def eventNat (e : Event) : Nat :=
  e.time <<< 192 ||| e.object <<< 128 ||| e.arg <<< 64 ||| e.seq <<< 32 ||| e.status <<< 16 ||| e.unit <<< 12 ||| e.kind <<< 8
    ||| e.cause <<< 4 ||| e.sev

/-- Entries in the order they are read: the most severe first, the oldest of a severity first. -/
def readOrder (q : EvQueue) : List Event := sortBy (fun a b => decide (a.sev < b.sev)) q.entries

/-- The head entries: the next 64 to read, and those that have been shown. -/
def headSeqs (q : EvQueue) : List Nat :=
  ((readOrder q).take 64).map (·.seq) ++ q.shown.filter fun n => q.entries.any fun e => e.seq == n

/-- Queue 0 is read and popped by the management cores, another by its PORT. -/
def evServed (q : EvQueue) (k : Nat) (src : Src) : Bool := if k = 0 then src == .core else isPort src q.port

def setEvq (s : State) (k : Nat) (q : EvQueue) : State := { s with tsu := { s.tsu with evq := Tbl.set s.tsu.evq k q } }

/-- A read of offset 0 of a head window latches the next entry. -/
def latchHead (s : State) (k : Nat) (src : Src) : State :=
  let q := evqOf s k
  if !evServed q k src then s
  else match readOrder q with
    | [] => setEvq s k { q with latch := none }
    | e :: _ => setEvq s k { q with latch := some e, shown := if q.shown.contains e.seq then q.shown else q.shown ++ [e.seq] }

/-- A write to POP. -/
def popWrite (s : State) (k : Nat) (src : Src) (v : Nat) : State :=
  let q := evqOf s k
  let drop : Bool := match src with
    | .core => k != 0
    | .pcie _ => false
  if 8 ≤ k || drop then s
  else if evServed q k src && (headSeqs q).contains v then
    setEvq s k { q with entries := q.entries.filter (fun e => e.seq != v), shown := q.shown.filter (· != v) }
  else setEvq s k { q with popIgnored := (q.popIgnored + 1) % 2 ^ 32 }

/-- A register of a window: +0x00 is the next entry's, +0x08 to +0x18 the latched entry's. -/
def windowReg (s : State) (k r : Nat) (src : Src) : Nat :=
  let q := evqOf s k
  if !evServed q k src then 0
  else if r < 0x20 then (match if r = 0 then (readOrder q).head? else q.latch with
    | some e => eventNat e / 2 ^ (8 * r) % 2 ^ 64
    | none => 0)
  else if r = 0x28 then q.entries.length <<< 43 ||| q.popIgnored
  else if r = 0x30 then q.lost.getD 1 0 <<< 32 ||| q.lost.getD 0 0
  else if r = 0x38 then q.lost.getD 3 0 <<< 32 ||| q.lost.getD 2 0
  else 0

/-! ### Control registers as stored (15 R415) -/

def requestCtl (s : State) : Nat := s.rte.lingerMs <<< 54
def timerCtl (s : State) : Nat :=
  let t := s.cve.timers
  t.offer <<< 50 ||| t.receiptBase <<< 36 ||| t.receiptPerMib <<< 28 ||| t.probe <<< 18 ||| t.release <<< 4
def prefixCtl (s : State) : Nat := s.ppm.prefixCap <<< 40
def objectCtl (s : State) : Nat := s.ppm.objectCap <<< 40 ||| s.ppm.objectFlashCap <<< 16
def serviceCtl (s : State) : Nat := s.ppm.serviceFloor <<< 40 ||| s.ppm.staging <<< 16
def tierCtl (s : State) : Nat :=
  let t := s.tfm.ctl
  t.demoteLow <<< 54 ||| t.demoteHigh <<< 44 ||| t.promoteHeat <<< 40 ||| t.heatPeriod <<< 30 ||| t.migrateShare <<< 23
    ||| t.readRedirect <<< 9
def arrayCtl (s : State) : Nat :=
  let t := s.cax.ctl
  t.slowLimit <<< 54 ||| t.slowSteps <<< 50 ||| b2n t.autoExclude <<< 49 ||| t.maxExclude <<< 42 ||| t.idleGate <<< 30
    ||| t.minWork <<< 14
def attentionCtl (s : State) : Nat := s.att.stepTimeout <<< 54
def fabricCtl (s : State) : Nat :=
  let t := s.fbe.ctl
  t.reasm <<< 54 ||| t.rtoBase <<< 44 ||| t.retryLimit <<< 40 ||| t.memTimeout <<< 33 ||| t.ratePeriod <<< 27 ||| t.ai <<< 19
    ||| t.hai <<< 11 ||| t.minRate <<< 3
def plantCtl (s : State) : Nat :=
  let p := s.plc
  p.pumpDuty0 <<< 57 ||| p.pumpDuty1 <<< 50 ||| b2n p.chgEn <<< 49 ||| p.chgSet <<< 39 ||| b2n p.fwCooling <<< 38

/-- The plant cause register (15 R418). -/
def causeReg (s : State) : Nat :=
  s.pin.cause <<< 56 ||| s.pin.tripSensor <<< 48 ||| (min 3 (tripsHour s).length) <<< 40 ||| b2n s.pin.tripLock <<< 39
    ||| (s.pin.factoryStep % 128) <<< 32 ||| s.pin.restarts

def controlReg (s : State) (off : Nat) : Nat :=
  match (off - 0x3000) / 8 with
  | 0 => requestCtl s
  | 1 => timerCtl s
  | 2 => prefixCtl s
  | 3 => objectCtl s
  | 4 => serviceCtl s
  | 5 => tierCtl s
  | 6 => arrayCtl s
  | 7 => attentionCtl s
  | 8 => fabricCtl s
  | 9 => plantCtl s
  | 10 => causeReg s
  | 11 => s.rte.beats
  | _ => 0

/-! ### Reads (15 R406 to R422) -/

/-- Eight bytes of an ASCII string. -/
def versionWord (v : Bytes) (o : Nat) : Nat := subNat v o 8

def identReg (s : State) (off : Nat) : Nat :=
  if off = 0 then 0x4D560768B0010000
  else if off = 8 then s.sec.serial % 2 ^ 64
  else if off = 0x10 then s.sbu.stage <<< 56 ||| s.sbu.factorySvn <<< 32 ||| s.sbu.userSvn <<< 16 ||| s.sbu.minSvn
  else if off < 0x20 then 0
  else if off < 0x40 then versionWord s.sec.verFactory (off - 0x20)
  else if off < 0x60 then versionWord s.sec.verUser (off - 0x40)
  else versionWord s.sec.verFw (off - 0x60)

def statusReg (s : State) : Nat :=
  me s <<< 48 ||| s.hcu.role <<< 44 ||| s.hcu.pendingRole <<< 40 ||| s.mru.st.code <<< 36 ||| epochNum s <<< 16
    ||| b2n s.sbu.bootDone <<< 15 ||| b2n (s.sbu.bootDone && admissionOpen s) <<< 14 ||| b2n s.rte.lapsed <<< 13
    ||| b2n s.sbu.trial <<< 12 ||| s.sbu.bootedSlot <<< 10 ||| b2n s.plu.short <<< 9

def adminReg (s : State) (p : Nat) : AdminReg := Tbl.getD s.hcu.adminRegs p ⟨0, 0, 0, 0, 1, false⟩

/-- The interrupt and enable register of an admin ring, without IDLE. -/
def adminCtl (a : AdminReg) : Nat := a.vec <<< 48 ||| a.irqTime <<< 32 ||| a.irqCount <<< 16 ||| b2n a.enable

def adminIdle (s : State) (p : Nat) : Bool :=
  match Tbl.get s.hcu.rings p with
  | some R => R.outstanding.isEmpty && R.held.isEmpty && R.waiting.isNone
  | none => true

/-- One bit per arbiter identifier from `64 i` up. -/
def arbBits (s : State) (i : Nat) (f : Frozen → Bool) : Nat :=
  s.tsu.frozen.foldl (fun n kv => if kv.1 / 64 = i && f kv.2 then n ||| 2 ^ (kv.1 % 64) else n) 0

/-- The port whose copy of a per-port register an access names. -/
def portView (src : Src) (off : Nat) : Option Nat × Nat :=
  match src with
  | .pcie p => (some p, off)
  | .core =>
    if 0x100000 ≤ off && off < 0x200000 then (some ((off - 0x100000) / 0x40000), (off - 0x100000) % 0x40000) else (none, off)

/-- A register's value: 64 bits at an aligned offset. Offsets not listed read as zero; a controller whose factory region has
failed its check shows the identification alone (14 R388). -/
def regValue (s : State) (src : Src) (off0 : Nat) : Nat :=
  let (port, off) := portView src off0
  let mine (f : Nat → Nat) : Nat := match port with
    | some p => f p
    | none => 0
  if off < 0x80 then identReg s off
  else if s.sbu.stage = 0xF0 then 0
  else if off = 0x1000 then statusReg s
  else if off = 0x1008 then s.hcu.roleStatus <<< 48
  else if off = 0x1010 then mine fun p => Tbl.getD s.reg.flags p 0
  else if off = 0x1018 then mine fun p => Tbl.getD s.reg.flagMask p 0
  else if off = 0x1020 then mine fun p => Tbl.getD s.reg.flagVec p 0 <<< 32
  else if off = 0x1028 then mine fun p => Tbl.getD s.reg.flagNotify p 0
  else if 0x1100 ≤ off && off < 0x1180 then Tbl.getD s.reg.flagCount ((off - 0x1100) / 8) 0
  else if 0x2000 ≤ off && off < 0x2100 then
    let p := (off - 0x2000) / 0x40
    let a := adminReg s p
    match (off - 0x2000) % 0x40 with
    | 0 => a.base
    | 8 => a.notify
    | 0x10 => adminCtl a ||| b2n (adminIdle s p) <<< 1
    | _ => 0
  else if 0x3000 ≤ off && off < 0x3060 then controlReg s off
  else if 0x4000 ≤ off && off < 0x4300 then
    (arr s ((off - 0x4000) / 8)).mhzSet ||| (arr s ((off - 0x4000) / 8)).mhzRun <<< 16
  else if 0x5000 ≤ off && off < 0x5048 then arbBits s ((off - 0x5000) / 8) fun _ => true
  else if 0x5080 ≤ off && off < 0x50C8 then arbBits s ((off - 0x5080) / 8) fun f => f.drained
  else if off = 0x5100 then now s % 2 ^ 64
  else if 0x5200 ≤ off && off < 0x5300 then subNat (telemSnapshot s) (off - 0x5200) 8
  else if 0x6000 ≤ off && off < 0x6080 then (match Tbl.get s.att.bulletins ((off - 0x6000) / 8) with
    | some b => b.head ||| b.tail <<< 16
    | none => 0)
  else if 0x7000 ≤ off && off < 0x7400 then windowReg s ((off - 0x7000) / 0x80) ((off - 0x7000) % 0x80) src
  else if 0x10000 ≤ off && off < 0x10800 then (match Tbl.get s.hcu.rings ((off - 0x10000) / 8) with
    | some R => R.tail ||| R.cqHead <<< 32
    | none => 0)
  else if 0x20000 ≤ off && off < 0x22000 then
    mine fun p => if portMode s p = 2 then Tbl.getD (Tbl.getD s.reg.msix p []) ((off - 0x20000) / 8) 0 else 0
  else 0

/-- The key of an access's latch. -/
def srcKey (src : Src) : Nat :=
  match src with
  | .pcie p => p
  | .core => 4

/-- HEAD_WINDOW_READ: an 8-byte read of offset 0 of a head window. -/
def execHeadWindowRead (src : Src) (q : Nat) (s : State) : Host.Outcome State Fault Refusal :=
  .next <| commit s <|
    if !regOpen s src || 8 ≤ q then s
    else
      let s1 := latchHead s q src
      emit s1 (.readAns src true (leBytes 8 (regValue s1 src (0x7000 + 0x80 * q))))

/-- HALF_READ_LATCH: a 4-byte read. One of the lower half latches the upper; the next one of the upper half from the same
source returns what was latched. -/
def halfRead (s : State) (src : Src) (off : Nat) : State :=
  let base := off / 8 * 8
  let s1 := if off % 8 = 0 && 0x7000 ≤ base && base < 0x7400 && base % 0x80 = 0 then latchHead s ((base - 0x7000) / 0x80) src else s
  let v := regValue s1 src base
  if off % 8 = 0 then
    emit { s1 with reg := { s1.reg with half := Tbl.set s1.reg.half (srcKey src) (base, v / 2 ^ 32) } }
      (.readAns src true (leBytes 4 v))
  else
    match Tbl.get s1.reg.half (srcKey src) with
    | some (b, h) =>
      if b = base then
        emit { s1 with reg := { s1.reg with half := Tbl.del s1.reg.half (srcKey src) } } (.readAns src true (leBytes 4 h))
      else emit s1 (.readAns src true (leBytes 4 (v / 2 ^ 32)))
    | none => emit s1 (.readAns src true (leBytes 4 (v / 2 ^ 32)))

def execHalfReadLatch (src : Src) (off : Nat) (s : State) : Host.Outcome State Fault Refusal :=
  .next <| commit s <| if !regOpen s src || off % 4 != 0 then s else halfRead s src off

/-! ### Doorbells (02 R33, 15 R414) -/

/-- A value that R33 rejects. -/
def ringRefused (s : State) (src : Src) (r : Nat) (R : Ring) (v : Nat) : State :=
  doorbellErr (post s Un.hcu Ek.ring Ec.refused 2 0 (objRing R.owner r) v) src

/-- The ring a doorbell reaches: the source owns it, and power has not failed. -/
def doorbellRing (s : State) (src : Src) (r : Nat) : Option Ring :=
  match Tbl.get s.hcu.rings r with
  | some R => if s.plu.phase != .powerFail && decide (r < 256) && isPort src R.port then some R
    else if s.plu.phase != .powerFail && decide (256 ≤ r) && src == .core then some R else none
  | none => none

def tailWrite (s : State) (src : Src) (r v : Nat) : State :=
  match doorbellRing s src r with
  | none => doorbellErr s src
  | some R => if R.sqEntries ≤ v then ringRefused s src r R v else setRing s r { R with tail := v }

/-- SQ_TAIL_WRITE. Before BOOT_DONE the tail is kept, and acted on then (14 R397). -/
def execSqTailWrite (src : Src) (ring v : Nat) (s : State) : Host.Outcome State Fault Refusal :=
  .next <| commit s <| if regOpen s src then tailWrite s src ring (v % 2 ^ 32) else s

/-- The head moves past what has been written. -/
def headPast (R : Ring) (v : Nat) : Bool :=
  decide ((R.cqTail + R.cqEntries - R.cqHead) % R.cqEntries < (v + R.cqEntries - R.cqHead) % R.cqEntries)

def headWrite (s : State) (src : Src) (r v : Nat) : State :=
  match doorbellRing s src r with
  | none => doorbellErr s src
  | some R =>
    if R.cqEntries ≤ v || headPast R v then ringRefused s src r R v
    else flushHeld r R.held.length (setRing s r { R with cqHead := v })

/-- CQ_HEAD_WRITE: room in the completion ring lets held completions be written. -/
def execCqHeadWrite (src : Src) (ring v : Nat) (s : State) : Host.Outcome State Fault Refusal :=
  .next <| commit s <| if regOpen s src then headWrite s src ring (v % 2 ^ 32) else s

/-- IRQ_TIMER: IRQ_TIME after the first completion counted since the last interrupt. -/
def execIrqTimer (ring : Nat) (s : State) : Host.Outcome State Fault Refusal :=
  .next <| commit s <|
    match Tbl.get s.hcu.rings ring with
    | none => s
    | some R =>
      if R.irqPend = 0 || R.irqTime = 0 || now s < R.irqFirst + R.irqTime * us then s
      else irqPort (setRing s ring { R with irqPend := 0 }) R.port R.vec R.notify R.cqTail

/-! ### Admin rings (15 R413) -/

def setAdmin (s : State) (p : Nat) (a : AdminReg) : State :=
  { s with hcu := { s.hcu with adminRegs := Tbl.set s.hcu.adminRegs p a } }

/-- The admin ring follows its registers. -/
def adminRingFollows (s : State) (p : Nat) : State :=
  let a := adminReg s p
  match Tbl.get s.hcu.rings p with
  | none => s
  | some R =>
    let R1 := { R with vec := a.vec, irqTime := a.irqTime, irqCount := a.irqCount, fetching := a.enable }
    let R2 := if a.enable && !R.fetching then { R1 with cqBase := a.base, notify := a.notify } else R1
    reapRing (setRing s p R2) p

/-- A write of the interrupt and enable register: fields out of range keep their values, ENABLE does not set over a
misaligned base, and either sets REG_ERR. -/
def adminWrite (s : State) (src : Src) (p v : Nat) : State :=
  let a := adminReg s p
  let vec := bits v 63 48
  let time := bits v 47 32
  let count := bits v 31 16
  let okV := decide (vec ≤ 511)
  let okT := decide (time ≤ 1000)
  let okC := decide (1 ≤ count) && decide (count ≤ 64)
  let okE := !bit v 0 || a.enable || a.base % 4096 == 0
  let a1 : AdminReg := { a with
    vec := if okV then vec else a.vec, irqTime := if okT then time else a.irqTime, irqCount := if okC then count else a.irqCount
    enable := if okE then bit v 0 else a.enable }
  let s1 := adminRingFollows (setAdmin s p a1) p
  if okV && okT && okC && okE then s1 else regErr s1 src

/-- A write to admin register r of port p, only from that port. -/
def adminRegWrite (s : State) (src : Src) (p r v : Nat) : State :=
  if !isPort src p then regErr s src
  else if r = 0x10 then adminWrite s src p v
  else if (adminReg s p).enable then regErr s src
  else if r = 0 then setAdmin s p { adminReg s p with base := v }
  else setAdmin s p { adminReg s p with notify := v }

/-- ADMIN_RING_ENABLE: a write of the register with ENABLE set. -/
def execAdminRingEnable (src : Src) (p v : Nat) (s : State) : Host.Outcome State Fault Refusal :=
  .next <| commit s <| if regOpen s src && decide (p < 4) && bit v 0 then adminRegWrite s src p 0x10 (v % 2 ^ 64) else s

/-- ADMIN_RING_DISABLE: a write of it with ENABLE clear. -/
def execAdminRingDisable (src : Src) (p v : Nat) (s : State) : Host.Outcome State Fault Refusal :=
  .next <| commit s <| if regOpen s src && decide (p < 4) && !bit v 0 then adminRegWrite s src p 0x10 (v % 2 ^ 64) else s

/-! ### Flags (15 R411, R412) -/

/-- A W1C write clears flags in the writing port's copy. -/
def clearFlags (s : State) (src : Src) (v : Nat) : State :=
  match src with
  | .pcie p =>
    let old := Tbl.getD s.reg.flags p 0
    { s with reg := { s.reg with flags := Tbl.set s.reg.flags p (old - (old &&& v)) } }
  | .core => s

def execFlagClear (src : Src) (v : Nat) (s : State) : Host.Outcome State Fault Refusal :=
  .next <| commit s <| if regOpen s src then clearFlags s src v else s

/-- FLAG_IRQ_GAP: the gap of 10 µs is over, and one interrupt tells of the sets that fell inside it. -/
def execFlagIrqGap (p : Nat) (s : State) : Host.Outcome State Fault Refusal :=
  .next <| commit s <|
    if s.reg.flagDue.contains p && decide (Tbl.getD s.reg.flagLast p 0 + 10 * us ≤ now s) then
      flagIrq { s with reg := { s.reg with flagDue := s.reg.flagDue.filter (· != p) } } p
    else s

/-- POP. -/
def execPop (src : Src) (q v : Nat) (s : State) : Host.Outcome State Fault Refusal :=
  .next <| commit s <| if regOpen s src then popWrite s q src (v % 2 ^ 32) else s

/-! ### Bulletin heads (15 R420) -/

def bulletinWrite (s : State) (src : Src) (r v : Nat) : State :=
  match src, Tbl.get s.att.bulletins r with
  | .core, _ => s
  | .pcie _, none => doorbellErr s src
  | .pcie p, some b =>
    if b.port != p || b.slots ≤ v || decide ((b.tail + b.slots - b.head) % b.slots < (v + b.slots - b.head) % b.slots) then
      doorbellErr s src
    else flushBulletins r b.waiting.length { s with att := { s.att with bulletins := Tbl.set s.att.bulletins r { b with head := v } } }

def execBulletinHeadWrite (src : Src) (ring v : Nat) (s : State) : Host.Outcome State Fault Refusal :=
  .next <| commit s <| if regOpen s src then bulletinWrite s src ring (v % 2 ^ 16) else s

/-! ### Control registers (06 R153, 15 R415, R416) -/

/-- The event of a field outside its range. -/
def ctlEvent (s : State) (unit v : Nat) : State := post s unit Ek.device Ec.config 2 0 (me s <<< 48) v

/-- A field in its range takes the written value, else keeps its own. -/
def keepOr (ok : Bool) (new old : Nat) : Nat := if ok then new else old

def inRange (v lo hi : Nat) : Bool := decide (lo ≤ v) && decide (v ≤ hi)

/-- The event unless every field was in range. -/
def ctlDone (s : State) (unit v : Nat) (oks : List Bool) : State := if oks.all id then s else ctlEvent s unit v

def requestWrite (s : State) (v : Nat) : State :=
  let n := bits v 63 54
  let ok := inRange n 0 1000
  ctlDone { s with rte := { s.rte with lingerMs := keepOr ok n s.rte.lingerMs } } Un.rte v [ok]

def timerWrite (s : State) (v : Nat) : State :=
  let t := s.cve.timers
  let a := bits v 63 50
  let b := bits v 49 36
  let c := bits v 35 28
  let d := bits v 27 18
  let e := bits v 17 4
  let oa := inRange a 10 10000
  let ob := inRange b 100 10000
  let oc := inRange c 1 255
  let od := inRange d 10 1000
  let oe := inRange e 100 10000
  ctlDone { s with cve := { s.cve with timers :=
    ⟨keepOr oa a t.offer, keepOr ob b t.receiptBase, keepOr oc c t.receiptPerMib, keepOr od d t.probe, keepOr oe e t.release⟩ } }
    Un.cve v [oa, ob, oc, od, oe]

/-- The capacity fields after a write: where the floor would pass 704 GiB all four HBM caps keep their values, with an
event; a field out of range keeps its own. -/
def capsWrite (s : State) (unit v pre obj svc stg : Nat) (flash : Nat) : State :=
  let p := s.ppm
  let okF := inRange flash 0 14680064
  let okS := decide (16384 ≤ svc)
  let svc1 := keepOr okS svc p.serviceFloor
  let okG := inRange stg 1024 svc1
  let stg1 := keepOr okG stg p.staging
  let overNow := decide (11534336 < floorUnits s.tfm.leafPool s.tfm.listBlocks pre obj svc1)
  let s1 := { s with ppm := { p with
    prefixCap := if overNow then p.prefixCap else pre
    objectCap := if overNow then p.objectCap else obj
    serviceFloor := if overNow then p.serviceFloor else svc1
    staging := if overNow then p.staging else stg1
    objectFlashCap := keepOr okF flash p.objectFlashCap } }
  let s2 := if overNow then ctlEvent s1 unit v else s1
  ctlDone s2 unit v [okF, okS, okG]

def prefixWrite (s : State) (v : Nat) : State :=
  capsWrite s Un.ppm v (bits v 63 40) s.ppm.objectCap s.ppm.serviceFloor s.ppm.staging s.ppm.objectFlashCap
def objectWrite (s : State) (v : Nat) : State :=
  capsWrite s Un.tfm v s.ppm.prefixCap (bits v 63 40) s.ppm.serviceFloor s.ppm.staging (bits v 39 16)
def serviceWrite (s : State) (v : Nat) : State :=
  capsWrite s Un.tfm v s.ppm.prefixCap s.ppm.objectCap (bits v 63 40) (bits v 39 16) s.ppm.objectFlashCap

def tierWrite (s : State) (v : Nat) : State :=
  let t := s.tfm.ctl
  let a := bits v 63 54
  let oa := inRange a 1 499
  let a1 := keepOr oa a t.demoteLow
  let b := bits v 53 44
  let ob := inRange b (a1 + 1) 500
  let c := bits v 43 40
  let oc := inRange c 1 15
  let d := bits v 39 30
  let od := inRange d 20 1000
  let e := bits v 29 23
  let oe := inRange e 0 100
  let f := bits v 22 9
  let of := inRange f 100 10000
  ctlDone { s with tfm := { s.tfm with ctl := ⟨a1, keepOr ob b t.demoteHigh, keepOr oc c t.promoteHeat, keepOr od d t.heatPeriod,
    keepOr oe e t.migrateShare, keepOr of f t.readRedirect⟩ } } Un.tfm v [oa, ob, oc, od, oe, of]

def arrayWrite (s : State) (v : Nat) : State :=
  let t := s.cax.ctl
  let a := bits v 63 54
  let oa := inRange a 10 900
  let b := bits v 53 50
  let ob := inRange b 1 15
  let c := bits v 48 42
  let oc := inRange c 0 95
  let d := bits v 41 30
  let od := inRange d 1 4000
  ctlDone { s with cax := { s.cax with ctl := ⟨keepOr oa a t.slowLimit, keepOr ob b t.slowSteps, bit v 49, keepOr oc c t.maxExclude,
    keepOr od d t.idleGate, bits v 29 14⟩ } } Un.cax v [oa, ob, oc, od]

def attentionWrite (s : State) (v : Nat) : State :=
  let n := bits v 63 54
  let ok := inRange n 1 1000
  ctlDone { s with att := { s.att with stepTimeout := keepOr ok n s.att.stepTimeout } } Un.cax v [ok]

def fabricWrite (s : State) (v : Nat) : State :=
  let t := s.fbe.ctl
  let a := bits v 63 54
  let oa := inRange a 10 1000
  let b := bits v 53 44
  let ob := inRange b 10 1000
  let c := bits v 43 40
  let oc := inRange c 1 15
  let d := bits v 39 33
  let od := inRange d 2 100
  let e := bits v 32 27
  let oe := inRange e 4 63
  let f := bits v 26 19
  let of := inRange f 1 255
  let g := bits v 18 11
  let og := inRange g 1 255
  let h := bits v 10 3
  let oh := inRange h 1 255
  ctlDone { s with fbe := { s.fbe with ctl := ⟨keepOr oa a t.reasm, keepOr ob b t.rtoBase, keepOr oc c t.retryLimit,
    keepOr od d t.memTimeout, keepOr oe e t.ratePeriod, keepOr of f t.ai, keepOr og g t.hai, keepOr oh h t.minRate⟩ } }
    Un.fbe v [oa, ob, oc, od, oe, of, og, oh]

def plantWrite (s : State) (v : Nat) : State :=
  let p := s.plc
  let a := bits v 63 57
  let oa := inRange a 0 100
  let b := bits v 56 50
  let ob := inRange b 0 100
  let c := bits v 48 39
  let oc := inRange c 0 1000
  let s1 := { s with plc := { p with
    pumpDuty0 := keepOr oa a p.pumpDuty0, pumpDuty1 := keepOr ob b p.pumpDuty1, chgEn := bit v 49, chgSet := keepOr oc c p.chgSet
    fwCooling := bit v 38 } }
  setCharger (setDuty (ctlDone s1 Un.plu v [oa, ob, oc]))

/-- A write to a control register: RW to the management cores, discarded with REG_ERR from PCIe. -/
def controlWrite (s : State) (src : Src) (off v : Nat) : State :=
  if src != .core then regErr s src
  else match (off - 0x3000) / 8 with
    | 0 => requestWrite s v
    | 1 => timerWrite s v
    | 2 => prefixWrite s v
    | 3 => objectWrite s v
    | 4 => serviceWrite s v
    | 5 => tierWrite s v
    | 6 => arrayWrite s v
    | 7 => attentionWrite s v
    | 8 => fabricWrite s v
    | 9 => plantWrite s v
    | 11 => heartbeat s
    | _ => s

/-- CAPACITY_WRITE: an 8-byte write to PREFIX_CTRL, OBJECT_CAPACITY or SERVICE_FLOOR. -/
def execCapacityWrite (src : Src) (off v : Nat) (s : State) : Host.Outcome State Fault Refusal :=
  .next <| commit s <|
    if regOpen s src && (off == 0x3010 || off == 0x3018 || off == 0x3020) then controlWrite s src off (v % 2 ^ 64) else s

/-! ### Every other write (15 R406) -/

/-- An array clock register: a multiple of 50 MHz from 1,200 to 1,800, anything else keeps the field (00 R13). -/
def clockWrite (s : State) (a v : Nat) : State :=
  let m := bits v 11 0
  if inRange m 1200 1800 && m % 50 == 0 then
    wantClock (setArr s a { arr s a with mhzSet := m }) a
  else s

/-- A register of the writing port's own: mask, vector, notify address. -/
def flagRegWrite (s : State) (src : Src) (p off v : Nat) : State :=
  if off = 0x1010 then clearFlags s src v
  else if off = 0x1018 then { s with reg := { s.reg with flagMask := Tbl.set s.reg.flagMask p (v % 2 ^ 13) } }
  else if off = 0x1020 then
    if bits v 47 32 ≤ 511 then { s with reg := { s.reg with flagVec := Tbl.set s.reg.flagVec p (bits v 47 32) } } else regErr s src
  else if v % 4 = 0 then { s with reg := { s.reg with flagNotify := Tbl.set s.reg.flagNotify p v } }
  else regErr s src

def msixWrite (s : State) (p i v : Nat) : State :=
  if portMode s p = 2 then { s with reg := { s.reg with msix := Tbl.set s.reg.msix p (Tbl.set (Tbl.getD s.reg.msix p []) i v) } }
  else s

/-- The register's present value with the written bytes in place: a 4-byte write keeps the other half. A W1C or write-only
register has no other half to keep. -/
def mergedValue (s : State) (src : Src) (off len v : Nat) : Nat :=
  let base := off / 8 * 8
  let old := if base = 0x1010 || (0x7000 ≤ base && base < 0x7400) then 0 else regValue s src base
  if len = 8 then v % 2 ^ 64
  else if off % 8 = 0 then old / 2 ^ 32 * 2 ^ 32 + v % 2 ^ 32
  else old % 2 ^ 32 + v % 2 ^ 32 * 2 ^ 32

/-- The halves of a doorbell that a write rings, the tail first. -/
def doorbellWrite (s : State) (src : Src) (off len v : Nat) : State :=
  let r := (off - 0x10000) / 8
  if len = 8 then headWrite (tailWrite s src r (v % 2 ^ 32)) src r (v / 2 ^ 32 % 2 ^ 32)
  else if off % 8 = 0 then tailWrite s src r (v % 2 ^ 32)
  else headWrite s src r (v % 2 ^ 32)

/-- A write of 4 or 8 aligned bytes. -/
def regWrite (s : State) (src : Src) (off len v : Nat) : State :=
  let base := off / 8 * 8
  let m := mergedValue s src off len v
  if 0x10000 ≤ base && base < 0x10800 then doorbellWrite s src off len v
  else if 0x3000 ≤ base && base < 0x3060 then controlWrite s src base m
  else if 0x4000 ≤ base && base < 0x4300 then clockWrite s ((base - 0x4000) / 8) m
  else if 0x7000 ≤ base && base < 0x7400 then
    if (base - 0x7000) % 0x80 = 0x20 && off % 8 = 0 then popWrite s ((base - 0x7000) / 0x80) src (v % 2 ^ 32) else s
  else match src with
    | .core => s
    | .pcie p =>
      if 0x6000 ≤ base && base < 0x6080 then (if off % 8 = 0 then bulletinWrite s src ((base - 0x6000) / 8) (v % 2 ^ 16) else s)
      else if 0x1010 ≤ base && base < 0x1030 then flagRegWrite s src p base m
      else if 0x2000 ≤ base && base < 0x2100 && (base - 0x2000) % 0x40 < 0x18 then
        adminRegWrite s src ((base - 0x2000) / 0x40) ((base - 0x2000) % 0x40) m
      else if 0x20000 ≤ base && base < 0x22000 then msixWrite s p ((base - 0x20000) / 8) m
      else s

/-- REGISTER_WRITE: 4 or 8 bytes, aligned; any other write is discarded with REG_ERR. -/
def execRegisterWrite (src : Src) (off len v : Nat) (s : State) : Host.Outcome State Fault Refusal :=
  .next <| commit s <|
    if !regOpen s src || s.sbu.stage = 0xF0 then s
    else if (len != 4 && len != 8) || off % len != 0 then regErr s src
    else regWrite s src off len v

/-! ### The ring region (02 R31) -/

/-- A ring that a byte range meets. -/
def ringMeets (s : State) (off n : Nat) (f : Ring → Bool) : Bool :=
  s.hcu.rings.any fun kv => f kv.2 && rangesMeet off n (64 * kv.2.base) (64 * kv.2.sqEntries)

/-- Where the firmware memory begins, past the slots of the internal rings, in the management cores' own memory (DESIGN CHOICE,
entry 43). -/
def fwBase : Nat := 0x440000

/-- Where the rows of 03 R68 lie: past the firmware memory, 16 bytes each, the eight class rows first, then the 64 tenant
rows. The spec gives the fields and no place or layout (DESIGN CHOICE, entry 43). -/
def rowBase : Nat := 0x1440000

/-- Write a class row: [0] CLASS_GATE, 1 open; [65:32] MIN_LEAD in ns, to 10 s; [127:96] CLASS_CAP. A value out
of range leaves the row as it was. -/
def classWrite (s : State) (k v : Nat) : State :=
  let lead := bits v 65 32
  if 10000000000 < lead then s
  else { s with rte := { s.rte with classRows := Tbl.set s.rte.classRows k ⟨bit v 0, bits v 127 96, lead⟩ } }

/-- Write tenant row `k`: [0] in use; [31:16] TENANT; [63:32] TENANT_CAP. A tenant has one row at most: the row that named it
before goes. -/
def tenantWrite (s : State) (k v : Nat) : State :=
  let others := s.rte.tenantRows.filter fun kv => kv.1 != k && (!bit v 0 || kv.2.1 != bits v 31 16)
  { s with rte := { s.rte with tenantRows := if bit v 0 then Tbl.set others k (bits v 31 16, bits v 63 32) else others } }

/-- Policy firmware writes one row of 03 R68. -/
def rowWrite (s : State) (off : Nat) (bs : Bytes) : State :=
  let k := (off - rowBase) / 16
  if off % 16 != 0 || bs.length != 16 then s
  else if k < 8 then classWrite s k (leNat bs)
  else if k < 72 then tenantWrite s (k - 8) (leNat bs)
  else s

/-- RING_REGION_WRITE: a port's write lands unless it meets a ring of another port; the management cores write the slots of
the internal rings, the firmware memory and the admission rows. -/
def execRingRegionWrite (src : Src) (off : Nat) (bs : Bytes) (s : State) : Host.Outcome State Fault Refusal :=
  .next <| commit s <|
    let ok : Bool := match src with
      | .pcie p => decide (off + bs.length ≤ 0x400000) && !ringMeets s off bs.length (fun R => R.port != p)
      | .core => decide (0x400000 ≤ off) && decide (off + bs.length ≤ 0x440000)
    let fw : Bool := match src with
      | .pcie _ => false
      | .core => decide (fwBase ≤ off) && decide (off + bs.length ≤ fwBase + s.hcu.fwMemLen)
    if regOpen s src && ok then { s with hcu := { s.hcu with ringMem := memWriteN s.hcu.ringMem off bs } }
    else if regOpen s src && fw then { s with hcu := { s.hcu with fwMem := memPut s.hcu.fwMem (off - fwBase) bs } }
    else if regOpen s src && src == .core && decide (rowBase ≤ off) then rowWrite s off bs
    else s

/-! ### I3C and PERST# (16 R433, R437; 14 R397; 02 R47) -/

/-- The I3C status register at offset 0x10. -/
def i3cStatus (s : State) : Nat :=
  (if now s < s.sbu.bootAt + cyc (1200000 + norDelay s) then 0 else s.sbu.stage) <<< 56 ||| b2n s.pin.alert <<< 55 ||| satBits 16 s.plu.pin <<< 32
    ||| unsigned 16 (maxInt s.plu.tDie) <<< 16 ||| unsigned 16 s.plu.tOut

/-- I3C_STATUS_READ clears ALERT. The island answers in every phase. -/
def execI3cStatusRead (s : State) : Host.Outcome State Fault Refusal :=
  .next <| settle s <|
    if s.plu.island then emit { s with pin := { s.pin with alert := false } } (.i3c (i3cStatus s)) else s

/-- All rings of a session are carried by one port: the one its handshake came on, and those it created. -/
def carriedBy (s : State) (p : Nat) (i : Nat) (x : Session) : Bool :=
  x.helloRing == p && s.hcu.rings.all fun kv => decide (kv.1 < 4) || decide (256 ≤ kv.1) || kv.2.owner != i + 64 * x.gen || kv.2.port == p

/-- PERST_ASSERT on an ENDPOINT port resets that port's function: ENABLE clears, and the sessions it alone carries close. -/
def execPerstAssert (p : Nat) (s : State) : Host.Outcome State Fault Refusal :=
  .next <| commit s <|
    if 4 ≤ p || portMode s p != 2 then s
    else
      let s1 := adminRingFollows (setAdmin s p { adminReg s p with enable := false }) p
      (s1.hcu.sessions.filter fun kv => carriedBy s1 p kv.1 kv.2).foldl (fun a kv => closeSession a kv.1) s1

end Sys2Proof.Machine
end

