-- ==== Sys2Proof/Machine/Scrub.lean ====
section
/-! DEFINITION. The background scrub of HBM and SRAM (00 R4; 03 R57; 06 R172, R173; 08 R208, R240). -/

namespace Sys2Proof.Machine

/-- Where the scrubber finds SRAM (DESIGN CHOICE, log 45: the spec gives SRAM no addresses): the request table, then each
array's own 4 MiB, its local memory in the lower half. -/
def sramBase : Nat := 0x500000000000
def sramArrays : Nat := 0x500100000000

/-- The context whose share of an array holds local word `w`, and the word's place in the share: shares stand in rising
context number (log 45). -/
def shareOfWord (s : State) (a w : Nat) : Option (Nat × Nat) :=
  let held := (Tbl.keys s.cax.ctxs).filterMap fun id => (getCtx s id).bind fun x =>
    if bit x.mask a then some (id, shareLen x / 16) else none
  let step (st : Nat × Option (Nat × Nat)) (c : Nat × Nat) : Nat × Option (Nat × Nat) :=
    (st.1 + c.2, if st.1 ≤ w && w < st.1 + c.2 then some (c.1, w - st.1) else st.2)
  (held.foldl step (0, none)).2

/-- A word of an array's local memory is uncorrectable: it stays so until it is written whole (08 R208). -/
def spoilLocal (s : State) (a w : Nat) : State :=
  match shareOfWord s a w with
  | none => s
  | some cw =>
    let l := badWordsOf s cw.1 a
    if l.contains cw.2 then s else setBadWords s cw.1 a (cw.2 :: l)

/-- An uncorrectable SRAM word. A request-table entry fails, unless the pair holds it and it is written again from there (03
R57); a word of local memory stays uncorrectable; any other word of an array fails the array (08 R240). -/
def spoilSram (s : State) (addr : Nat) : State :=
  if addr < sramArrays then
    if s.mru.st == .paired then s else applyLoss s ((addr - sramBase) / 128) ⟨St.dataCheck, false, true⟩
  else
    let a := (addr - sramArrays) / 0x400000
    let o := (addr - sramArrays) % 0x400000
    if 96 ≤ a then s else if o < 0x200000 then spoilLocal s a (o / 16) else failArray s a

/-- An uncorrectable HBM word: its granule is lost. -/
def spoilHbm (s : State) (addr : Nat) : State :=
  let g := addr / 4096
  let s1 := addrEvent s Ec.uncorrected 1 St.dataCheck addr 0
  if (tmap s1 g).place = .hbm then loseAll false St.dataCheck [g] s1 else s1

/-- A word that a running DIAG_MEM_SCRUB counts, when its SCOPE names the memory. -/
def scrubCount (s : State) (addr : Nat) (corrected uncorrectable : Bool) : State :=
  let one (j : ScrubJob) : ScrubJob :=
    if bit j.scope (b2n (decide (sramBase ≤ addr))) then
      { j with corrected := j.corrected + b2n (corrected && !uncorrectable), bad := j.bad + b2n uncorrectable }
    else j
  { s with tfm := { s.tfm with scrub := s.tfm.scrub.map one } }

/-- SCRUB_PASS: the scrubber reads one word. A corrected word is written back, which changes nothing that is read. -/
def execScrubPass (addr : Nat) (corrected uncorrectable : Bool) (s : State) : Host.Outcome State Fault Refusal :=
  .next <| commit s <|
    let s1 := scrubCount s addr corrected uncorrectable
    if !uncorrectable then s1 else if sramBase ≤ addr then spoilSram s1 addr else spoilHbm s1 addr

end Sys2Proof.Machine
end

