-- ==== Sys2Proof/Machine/Takeover.lean ====
section
/-! DEFINITION. The loss of a partner: probe, claims, grants, fencing, and the takeover with its import (12 R350 to R353,
R364; 04 R93). -/

namespace Sys2Proof.Machine

/-! ### Caravans of the lost member (04 R93) -/

/-- A record from its mirrored image and its request's entry. An OFFERED or PULLED one is IN_DOUBT, a PULLING one ABORTED. -/
def caravanOf (s : State) (bs : Bytes) : Caravan :=
  let n := leNat bs
  let gid := bits n 511 448
  let e := Tbl.getD s.mir.shadow.entries gid noEntry
  let code := bits n 7 4
  let st : CState :=
    if decide (1 ≤ code) && decide (code ≤ 3) then .inDoubt else if code = 4 then .released else if code = 5 then .withdrawn
    else if code = 6 then .resumed else if code = 9 then .relWait else if code = 11 then .closed else .aborted
  let aux := (Tbl.getD s.mir.shadow.auxs gid []).length
  { gid := gid, startTime := bits n 447 384, lastTime := bits n 383 320, cvnId := bits n 319 288, src := bits n 287 272
    dst := bits n 271 256, epoch := bits n 255 240, status := bits n 239 224, pageUnits := bits n 223 200
    probes := bits n 199 192, cstate := st, kind := bits n 3 0, slot := noId, tok := none, stamp := now s, timeout := 0
    probedAt := 0, home := e.home, tenant := e.tenant, prio := e.prio, durable := e.durable, deadline := e.deadline
    histTokens := (Tbl.getD s.mir.shadow.hists gid []).length, auxBytes := aux, codecFp := if isPages (bits n 3 0) then slotFp s e.codecSlot else 0, key := 0, offerLife := 0
    probeUs := s.cve.timers.probe, relUs := s.cve.timers.release, unans := 0, cslot := 0, tags := [], bounceUntil := none
    bounceAt := 0
    loss := none }

def importCaravan (s : State) (kv : Nat × Bytes) : State :=
  let r := caravanOf s kv.2
  if r.cstate.isOpen then openCvn s kv.1 r else endCvn (openCvn s kv.1 r) kv.1 r r.cstate r.status

/-- Tie an open record to the slot its request is imported into. -/
def tieCaravan (s : State) (gid n : Nat) : State :=
  { s with cve := { s.cve with recs := Tbl.map s.cve.recs fun _ r =>
      if r.gid = gid && r.slot = noId && r.cstate.isOpen then { r with slot := n } else r } }

/-! ### Lists homed at the lost member (12 R352) -/

/-- The copies become the list: pages, bytes and generations. -/
def copiesToList (s : State) (l : PList) (root : Nat) : Option State :=
  match allocPages s l.cls 0 false false l.pages.length with
  | none => none
  | some (ids, s1) =>
    match fitBlocks s1 { l with root := root, pages := ids, blocks := [root], shared := 0, nodeRefs := 0 } with
    | none => none
    | some (l1, s2) =>
      let fill (a : State) (io : Nat × Nat) : State :=
        match Tbl.get s.mir.shadow.pages io.2 with
        | none => a
        | some p => (maskTags p.mask).foldl (fun b t => markPage b io.1 l.codecSlot t) (pokeCells a (pageAddr io.1) p.cells)
      some ((ids.zip l.pages).foldl fill (putList s2 l1))

/-- A copy that cannot stand for its page. -/
def copyLost (s : State) (l : PList) : Bool :=
  l.pages.any fun id => match Tbl.get s.mir.shadow.pages id with
    | some p => p.lost
    | none => false

/-- Rebuild a list here with a charge; the answer tells whether its pages came through. A list that is not DURABLE, or one
of a parked request, whose pages were in flash, comes without pages. -/
def rebuildList (s : State) (l : PList) (prio owner : Nat) (durable parked onFlash : Bool) : Option (Bool × State) :=
  let s0 := setResv s l.gid ⟨prio, l.tenant, l.resUnits, resFlashOf l.resUnits, onFlash, false, durable⟩
  match newList s0 l.gid owner l.tenant l.kvPerTok l.cls l.codecSlot l.resUnits with
  | none => none
  | some (root, s1) =>
    let s2 := { s1 with mir := { s1.mir with aliasLists := s1.mir.aliasLists ++ [l.gid] } }
    if durable && !parked && !copyLost s l then
      match copiesToList s2 { l with owner := owner } root with
      | some s3 => some (true, s3)
      | none => some (false, s2)
    else some (l.pages.isEmpty && l.ctxLen == 0, s2)

/-! ### Entries (12 R352) -/

/-- The entry as imported, before anything that its pages or its flags ask. -/
def importedEntry (s : State) (e : Entry) (n tok aux : Nat) : Entry :=
  { e with
    slotGen := slotGenOf s n, tokRoot := tok, auxRoot := aux, remoteHome := !isUs s e.home, inStep := false, movePend := false
    watch := false, state := if e.state = .draining then e.drainFrom else e.state
    drainFrom := if e.state = .draining then .free else e.drainFrom }

/-- An imported entry that has no room here goes to FAILED. -/
def failImport (s : State) (n : Nat) : State := terminate s n .failed St.noCapacity

/-- The pages of an imported request that was homed at the lost member. -/
def importPages (s : State) (n : Nat) (e : Entry) : State :=
  match Tbl.get s.mir.shadow.lists e.gid with
  | none => failImport s n
  | some l =>
    let parked := e.state == .parked
    let fits := hbmFits s l.resUnits
    if !fits && !(parked && flashFits s (resFlashOf l.resUnits)) then failImport s n
    else match rebuildList s l e.prio (me s) e.durable parked (parked && !fits) with
      | none => failImport s n
      | some (whole, s1) =>
        let root := ((getList s1 e.gid).map (·.root)).getD noId
        let s2 := updEntry s1 n fun x => { x with plistRoot := root }
        if whole && !parked then s2
        else applyLoss s2 n ⟨St.peerLost, fits, false⟩

/-- End an imported entry as its flags and deadline ask: EXPIRE_PEND, CANCEL_PEND, a deadline that has passed. -/
def importEnd (s : State) (n : Nat) (e : Entry) : State :=
  if e.expirePend then terminate s n .expired St.expired
  else if e.cancelPend then terminate s n .failed St.ok
  else if pastDeadline s e && e.state != .handoff then terminate s n .expired St.expired
  else s

/-- The step that the lost member had open for a request ends at its home. -/
def abortAtHome (s : State) (e : Entry) : State :=
  if !e.inStep || e.movePend || (e.home != me s && isUs s e.home) then s
  else if e.home = me s then abortReq s e.gid
  else emit s (.stepAbort e.home e.gid)

/-- Import one entry into a held slot. -/
def importEntry (s : State) (e : Entry) : State :=
  if e.state.terminal || e.state = .free then s
  else
    let h := s.mir.shadow
    let hist := Tbl.getD h.hists e.gid []
    let aux := Tbl.getD h.auxs e.gid []
    let (n, s1) := takeSlot { s with mir := { s.mir with heldSlots := s.mir.heldSlots - 1 } }
    match innerPage s1 true with
    | none => dropSlot s1 n
    | some (tok, s2) =>
      match innerPage s2 (!aux.isEmpty) with
      | none => dropSlot (freeInner s2 tok) n
      | some (auxId, s3) =>
        let s4 := { s3 with rte := { s3.rte with
          histUnits := Tbl.set s3.rte.histUnits n (histUnitsOf (e.promptLen + e.maxNew)) } }
        let e1 := importedEntry s4 e n tok auxId
        let s5 := showSlot s4 n { newSlot e1 with hist := hist, aux := auxOf aux, underAlias := true }
        let s6 := tieCaravan (abortAtHome s5 e) e.gid n
        let s7 := if e.home != me s && isUs s e.home then importPages s6 n e1 else s6
        let live : Bool := match getSlot s7 n with
          | some x => !x.e.state.terminal
          | none => false
        if live then importEnd s7 n e1 else s7

/-- Priority class first, then deadline, a request without one last. -/
def importBefore (a b : Entry) : Bool :=
  decide (a.prio < b.prio) || (a.prio == b.prio && a.deadline != 0 && (b.deadline == 0 || decide (a.deadline < b.deadline)))

/-- A list homed at the lost member and owned elsewhere; its owner learns of pages that are LOST. -/
def importForeign (p : Nat) (s : State) (kv : Nat × PList) : State :=
  let l := kv.2
  if l.owner = p || l.owner = me s || (getList s kv.1).isSome then s
  else
    let durable := s.mir.heldLists.contains kv.1 || l.pages.any fun id => Tbl.has s.mir.shadow.pages id
    if !hbmFits s l.resUnits then emit s (.pageLoss l.owner kv.1 St.peerLost false)
    else match rebuildList s l 0 l.owner durable false false with
      | none => emit s (.pageLoss l.owner kv.1 St.peerLost false)
      | some (true, s1) => s1
      | some (false, s1) => emit s1 (.pageLoss l.owner kv.1 St.peerLost true)

/-! ### The takeover (12 R352, R353) -/

/-- Declare the partner lost and answer in its name. -/
def takeover (s : State) : State :=
  let p := s.mru.partner
  let s1 := freeWaiting (setPairSt s .takenOver)
  let s2 := { s1 with mir := { s1.mir with aliasNode := p, aliasLists := [], loss := none, heldUnits := 0 } }
  let s3 := s2.mir.shadow.caravans.foldl importCaravan s2
  let s4 := (sortBy importBefore (List.map (·.2) s3.mir.shadow.entries)).foldl importEntry s3
  let s5 := s4.mir.shadow.lists.foldl (importForeign p) s4
  let s6 := noPartner (dropShadow s5)
  pairEvent { s6 with mir := { s6.mir with dissolvedAt := some (now s6) } } Ec.loss 1 St.peerLost p

/-- The alias ends once nothing is owned, open or homed under it: TAKEN_OVER returns to SOLO. -/
def settleAlias (s : State) : State :=
  let a := s.mir.aliasNode
  if a = 0xFFFF || aliasEntries s != 0 || s.mir.aliasLists.any (fun g => (getList s g).isSome) ||
      s.cve.recs.any (fun kv => kv.2.cstate.isOpen && (kv.2.src == a || kv.2.dst == a)) then s
  else
    let s1 := pairEvent { s with mir := { s.mir with aliasNode := 0xFFFF, aliasLists := [] } } Ec.stateChange 2 0 a
    if s1.mru.st = .takenOver then setPairSt s1 .solo else s1

/-- No majority: FENCED. Held reports are never made, and requests in REL_WAIT fail (12 R351, 04 R95). -/
def fence (s : State) : State :=
  let s1 := setPairSt s .fenced
  let s2 := dropShadow { s1 with
    mru := { s1.mru with held := [] }, mir := { s1.mir with charges := [], mirrorJobs := [], fetches := [] } }
  s2.cve.recs.foldl (fun a kv => if kv.2.cstate = .relWait then cvnFail a kv.1 kv.2 else a) s2

/-! ### The loss procedure (12 R350) -/

/-- LOSS_PROBE: the partner's probe is answered, and the pair is BROKEN. -/
def execLossProbe (frm : Nat) (s : State) : Host.Outcome State Fault Refusal :=
  .next <| commit s <|
    if s.mru.partner = frm && (s.mru.st == .paired || s.mru.st == .broken) then
      let s1 := emit s (.probeAns frm)
      if s.mru.st = .paired then toBroken s1 else s1
    else s

def lossAt (s : State) (st : LossStage) : Option Loss := s.mir.loss.bind fun l => if l.stage = st then some l else none

/-- LOSS_PROBE_ANSWER: the partner is alive. -/
def execLossProbeAnswer (frm : Nat) (s : State) : Host.Outcome State Fault Refusal :=
  .next <| commit s <|
    match lossAt s .probing with
    | none => s
    | some l => if s.mru.partner = frm && decide (now s < l.at' + 400 * us) then toBroken s else s

/-- The witnesses: the three lowest nodes of the current map that are neither member nor LOST. -/
def witnesses (s : State) : List Nat :=
  match curEpoch s with
  | none => []
  | some e =>
    let ns := e.nodes.filter fun r => r.node != me s && r.node != s.mru.partner && !r.lost
    ((sortBy (fun a b => decide (a < b)) (ns.map (·.node)))).take 3

/-- LOSS_PROBE_TIMEOUT: claims go to the witnesses; without any the pair is BROKEN. -/
def execLossProbeTimeout (s : State) : Host.Outcome State Fault Refusal :=
  .next <| commit s <|
    match lossAt s .probing with
    | none => s
    | some l =>
      if now s < l.at' + 400 * us then s
      else if (witnesses s).isEmpty then toBroken s
      else
        let ws := witnesses s
        ws.foldl (fun a w => emit a (.claim w s.mru.partner)) { s with mir := { s.mir with loss := some ⟨.claiming, now s, ws, []⟩ } }

/-- CLAIM at a witness: the first for a pair is granted, every other for that pair denied for 10 s. -/
def execClaim (frm other : Nat) (s : State) : Host.Outcome State Fault Refusal :=
  .next <| commit s <|
    if !s.sbu.bootDone || shunned s then s
    else
      let a := min frm other
      let b := max frm other
      if s.mir.witness.any fun w => w.1 == a && w.2.1 == b && decide (now s < w.2.2.2 + 10000 * ms) then
        emit s (.grantAns frm false)
      else
        let rest := s.mir.witness.filter fun w => !(w.1 == a && w.2.1 == b)
        emit { s with mir := { s.mir with witness := rest ++ [(a, b, frm, now s)] } } (.grantAns frm true)

/-- GRANT_HOLD_END: the 10 s after a grant have run. -/
def execGrantHoldEnd (a b : Nat) (s : State) : Host.Outcome State Fault Refusal :=
  .next <| commit s <|
    { s with mir := { s.mir with witness := s.mir.witness.filter fun w =>
      !(w.1 == min a b && w.2.1 == max a b && decide (w.2.2.2 + 10000 * ms ≤ now s)) } }

/-- GRANT: with more than half of the witnesses the partner is lost. -/
def execGrant (witness : Nat) (granted : Bool) (s : State) : Host.Outcome State Fault Refusal :=
  .next <| commit s <|
    match lossAt s .claiming with
    | none => s
    | some l =>
      if !granted || !l.witnesses.contains witness || l.grants.contains witness || l.at' + ms ≤ now s then s
      else
        let l1 := { l with grants := l.grants ++ [witness] }
        let s1 := { s with mir := { s.mir with loss := some l1 } }
        if l.witnesses.length < 2 * l1.grants.length then takeover s1 else s1

/-- CLAIM_TIMEOUT: 1 ms after the claims without a majority. -/
def execClaimTimeout (s : State) : Host.Outcome State Fault Refusal :=
  .next <| commit s <|
    match lossAt s .claiming with
    | none => s
    | some l => if l.at' + ms ≤ now s then fence s else s

end Sys2Proof.Machine
end

