-- ==== Sys2Proof/Machine/Dispatch.lean ====
section
/-! DEFINITION. Which meaning each command has: one arm per constructor of `Instr`. -/

namespace Sys2Proof.Machine

def exec (i : Instr) (s : State) : Host.Outcome State Fault Refusal :=
  match i with
  | .sessHello r d => Sys2Proof.Machine.execSessHello r d s
  | .sessProve r d => Sys2Proof.Machine.execSessProve r d s
  | .sessClose r d => Sys2Proof.Machine.execSessClose r d s
  | .ringCreate r d => Sys2Proof.Machine.execRingCreate r d s
  | .ringDestroy r d => Sys2Proof.Machine.execRingDestroy r d s
  | .nop r d => Sys2Proof.Machine.execNop r d s
  | .reqAdmit r d => Sys2Proof.Machine.execReqAdmit r d s
  | .reqQuery r d => Sys2Proof.Machine.execReqQuery r d s
  | .reqSetDeadline r d => Sys2Proof.Machine.execReqSetDeadline r d s
  | .reqSetPriority r d => Sys2Proof.Machine.execReqSetPriority r d s
  | .reqTokensAppend r d => Sys2Proof.Machine.execReqTokensAppend r d s
  | .reqComplete r d => Sys2Proof.Machine.execReqComplete r d s
  | .reqCancel r d => Sys2Proof.Machine.execReqCancel r d s
  | .reqPark r d => Sys2Proof.Machine.execReqPark r d s
  | .reqUnpark r d => Sys2Proof.Machine.execReqUnpark r d s
  | .reqList r d => Sys2Proof.Machine.execReqList r d s
  | .cvnOffer r d => Sys2Proof.Machine.execCvnOffer r d s
  | .cvnWithdraw r d => Sys2Proof.Machine.execCvnWithdraw r d s
  | .cvnStatus r d => Sys2Proof.Machine.execCvnStatus r d s
  | .mapInstall r d => Sys2Proof.Machine.execMapInstall r d s
  | .mapQuery r d => Sys2Proof.Machine.execMapQuery r d s
  | .pageAlloc r d => Sys2Proof.Machine.execPageAlloc r d s
  | .pageFree r d => Sys2Proof.Machine.execPageFree r d s
  | .plistAppend r d => Sys2Proof.Machine.execPlistAppend r d s
  | .plistTruncate r d => Sys2Proof.Machine.execPlistTruncate r d s
  | .plistQuery r d => Sys2Proof.Machine.execPlistQuery r d s
  | .prefixLookup r d => Sys2Proof.Machine.execPrefixLookup r d s
  | .prefixInsert r d => Sys2Proof.Machine.execPrefixInsert r d s
  | .prefixEvict r d => Sys2Proof.Machine.execPrefixEvict r d s
  | .pageShare r d => Sys2Proof.Machine.execPageShare r d s
  | .pageStats r d => Sys2Proof.Machine.execPageStats r d s
  | .reclaim => Sys2Proof.Machine.execReclaim s
  | .tierHint r d => Sys2Proof.Machine.execTierHint r d s
  | .tierMigrate r d => Sys2Proof.Machine.execTierMigrate r d s
  | .homeMoveCommit slot newRoot => Sys2Proof.Machine.execHomeMoveCommit slot newRoot s
  | .rangeTrim r d => Sys2Proof.Machine.execRangeTrim r d s
  | .tierStats r d => Sys2Proof.Machine.execTierStats r d s
  | .gcSetWeights r d => Sys2Proof.Machine.execGcSetWeights r d s
  | .flashHealth r d => Sys2Proof.Machine.execFlashHealth r d s
  | .durableFlush r d => Sys2Proof.Machine.execDurableFlush r d s
  | .codecTableLoad r d => Sys2Proof.Machine.execCodecTableLoad r d s
  | .codecTableQuery r d => Sys2Proof.Machine.execCodecTableQuery r d s
  | .codecCompress r d => Sys2Proof.Machine.execCodecCompress r d s
  | .codecDecompress r d => Sys2Proof.Machine.execCodecDecompress r d s
  | .codecQuantize r d => Sys2Proof.Machine.execCodecQuantize r d s
  | .codecDequantize r d => Sys2Proof.Machine.execCodecDequantize r d s
  | .codecScaleFind r d => Sys2Proof.Machine.execCodecScaleFind r d s
  | .codecRecode r d => Sys2Proof.Machine.execCodecRecode r d s
  | .kernelLoad r d => Sys2Proof.Machine.execKernelLoad r d s
  | .kernelUnload r d => Sys2Proof.Machine.execKernelUnload r d s
  | .ctxCreate r d => Sys2Proof.Machine.execCtxCreate r d s
  | .ctxDestroy r d => Sys2Proof.Machine.execCtxDestroy r d s
  | .ctxLaunch r d => Sys2Proof.Machine.execCtxLaunch r d s
  | .schedSet r d => Sys2Proof.Machine.execSchedSet r d s
  | .schedSwitch => Sys2Proof.Machine.execSchedSwitch s
  | .arraySlowdown r d => Sys2Proof.Machine.execArraySlowdown r d s
  | .arrayExclude r d => Sys2Proof.Machine.execArrayExclude r d s
  | .diagArrayTest r d => Sys2Proof.Machine.execDiagArrayTest r d s
  | .diagArrayTestDone failed => Sys2Proof.Machine.execDiagArrayTestDone failed s
  | .attnStep r d => Sys2Proof.Machine.execAttnStep r d s
  | .attnBiasLoad r d => Sys2Proof.Machine.execAttnBiasLoad r d s
  | .lseMerge r d => Sys2Proof.Machine.execLseMerge r d s
  | .sampleSet r d => Sys2Proof.Machine.execSampleSet r d s
  | .sampleStep r d => Sys2Proof.Machine.execSampleStep r d s
  | .banLoad r d => Sys2Proof.Machine.execBanLoad r d s
  | .specDraft r d => Sys2Proof.Machine.execSpecDraft r d s
  | .specVerify r d => Sys2Proof.Machine.execSpecVerify r d s
  | .bulletinSet r d => Sys2Proof.Machine.execBulletinSet r d s
  | .stepTimeout owner tag => Sys2Proof.Machine.execStepTimeout owner tag s
  | .stepAbort frm gid => Sys2Proof.Machine.execStepAbort frm gid s
  | .portConfig r d => Sys2Proof.Machine.execPortConfig r d s
  | .portStatus r d => Sys2Proof.Machine.execPortStatus r d s
  | .keyRegister r d => Sys2Proof.Machine.execKeyRegister r d s
  | .keyDeregister r d => Sys2Proof.Machine.execKeyDeregister r d s
  | .connOpen r d => Sys2Proof.Machine.execConnOpen r d s
  | .connClose r d => Sys2Proof.Machine.execConnClose r d s
  | .ergMap r d => Sys2Proof.Machine.execErgMap r d s
  | .ptpConfig r d => Sys2Proof.Machine.execPtpConfig r d s
  | .queueConfig r d => Sys2Proof.Machine.execQueueConfig r d s
  | .shaperSet r d => Sys2Proof.Machine.execShaperSet r d s
  | .queueSample r d => Sys2Proof.Machine.execQueueSample r d s
  | .searchWrite r d => Sys2Proof.Machine.execSearchWrite r d s
  | .searchDelete r d => Sys2Proof.Machine.execSearchDelete r d s
  | .searchQuery r d => Sys2Proof.Machine.execSearchQuery r d s
  | .searchScrub bank => Sys2Proof.Machine.execSearchScrub bank s
  | .arbFreeze r d => Sys2Proof.Machine.execArbFreeze r d s
  | .drained arb => Sys2Proof.Machine.execDrained arb s
  | .holdExpiry arb => Sys2Proof.Machine.execHoldExpiry arb s
  | .evqConfig r d => Sys2Proof.Machine.execEvqConfig r d s
  | .eventIrqGap q => Sys2Proof.Machine.execEventIrqGap q s
  | .telemRead r d => Sys2Proof.Machine.execTelemRead r d s
  | .pairJoin r d => Sys2Proof.Machine.execPairJoin r d s
  | .joinTimeout => Sys2Proof.Machine.execJoinTimeout s
  | .copyDone => Sys2Proof.Machine.execCopyDone s
  | .pairDissolve r d => Sys2Proof.Machine.execPairDissolve r d s
  | .dissolve frm => Sys2Proof.Machine.execDissolve frm s
  | .pairStatus r d => Sys2Proof.Machine.execPairStatus r d s
  | .mirrorClassSet r d => Sys2Proof.Machine.execMirrorClassSet r d s
  | .pairPromote r d => Sys2Proof.Machine.execPairPromote r d s
  | .plantStatus r d => Sys2Proof.Machine.execPlantStatus r d s
  | .coolTargetSet r d => Sys2Proof.Machine.execCoolTargetSet r d s
  | .holdupTest r d => Sys2Proof.Machine.execHoldupTest r d s
  | .holdupTestEnd stepMv stepCa chargeMc fallMv => Sys2Proof.Machine.execHoldupTestEnd stepMv stepCa chargeMc fallMv s
  | .powerCapSet r d => Sys2Proof.Machine.execPowerCapSet r d s
  | .standbyEnter r d => Sys2Proof.Machine.execStandbyEnter r d s
  | .standbyEntry => Sys2Proof.Machine.execStandbyEntry s
  | .standbyWake => Sys2Proof.Machine.execStandbyWake s
  | .imageWrite r d => Sys2Proof.Machine.execImageWrite r d s
  | .imageProgrammed slot => Sys2Proof.Machine.execImageProgrammed slot s
  | .imageVerify r d => Sys2Proof.Machine.execImageVerify r d s
  | .imageSelect r d => Sys2Proof.Machine.execImageSelect r d s
  | .fwLoad r d => Sys2Proof.Machine.execFwLoad r d s
  | .fwLoadTimeout => Sys2Proof.Machine.execFwLoadTimeout s
  | .keyProvision r d => Sys2Proof.Machine.execKeyProvision r d s
  | .keyAreaWritten => Sys2Proof.Machine.execKeyAreaWritten s
  | .deviceAttest r d => Sys2Proof.Machine.execDeviceAttest r d s
  | .roleSet r d => Sys2Proof.Machine.execRoleSet r d s
  | .roleSwitch => Sys2Proof.Machine.execRoleSwitch s
  | .deviceReset r d => Sys2Proof.Machine.execDeviceReset r d s
  | .diagMemScrub r d => Sys2Proof.Machine.execDiagMemScrub r d s
  | .diagLoopback r d => Sys2Proof.Machine.execDiagLoopback r d s
  | .loopbackDone port errs => Sys2Proof.Machine.execLoopbackDone port errs s
  | .errInject r d => Sys2Proof.Machine.execErrInject r d s
  | .workWrite r => Sys2Proof.Machine.execWorkWrite r s
  | .workRead r => Sys2Proof.Machine.execWorkRead r s
  | .workAdd r => Sys2Proof.Machine.execWorkAdd r s
  | .workMin r => Sys2Proof.Machine.execWorkMin r s
  | .workMax r => Sys2Proof.Machine.execWorkMax r s
  | .workCas r => Sys2Proof.Machine.execWorkCas r s
  | .aBr t => Sys2Proof.Machine.execABr t s
  | .aBrp t => Sys2Proof.Machine.execABrp t s
  | .aLoop t => Sys2Proof.Machine.execALoop t s
  | .aYield t => Sys2Proof.Machine.execAYield t s
  | .aHalt t => Sys2Proof.Machine.execAHalt t s
  | .aAdd t => Sys2Proof.Machine.execAAdd t s
  | .aSub t => Sys2Proof.Machine.execASub t s
  | .aMul t => Sys2Proof.Machine.execAMul t s
  | .aAnd t => Sys2Proof.Machine.execAAnd t s
  | .aOr t => Sys2Proof.Machine.execAOr t s
  | .aXor t => Sys2Proof.Machine.execAXor t s
  | .aShl t => Sys2Proof.Machine.execAShl t s
  | .aShr t => Sys2Proof.Machine.execAShr t s
  | .aSra t => Sys2Proof.Machine.execASra t s
  | .aMovi t => Sys2Proof.Machine.execAMovi t s
  | .aCmp t => Sys2Proof.Machine.execACmp t s
  | .aRdstat t => Sys2Proof.Machine.execARdstat t s
  | .aLd t => Sys2Proof.Machine.execALd t s
  | .aSt t => Sys2Proof.Machine.execASt t s
  | .aVld t => Sys2Proof.Machine.execAVld t s
  | .aVst t => Sys2Proof.Machine.execAVst t s
  | .aDmaRd t => Sys2Proof.Machine.execADmaRd t s
  | .aDmaWr t => Sys2Proof.Machine.execADmaWr t s
  | .aDmaQld t => Sys2Proof.Machine.execADmaQld t s
  | .aDmaWait t => Sys2Proof.Machine.execADmaWait t s
  | .dmaDone t => Sys2Proof.Machine.execDmaDone t s
  | .gridMm t => Sys2Proof.Machine.execGridMm t s
  | .passEnd t => Sys2Proof.Machine.execPassEnd t s
  | .gridWait t => Sys2Proof.Machine.execGridWait t s
  | .cbLoad t => Sys2Proof.Machine.execCbLoad t s
  | .vFma t => Sys2Proof.Machine.execVFma t s
  | .vAdd t => Sys2Proof.Machine.execVAdd t s
  | .vMul t => Sys2Proof.Machine.execVMul t s
  | .vMax t => Sys2Proof.Machine.execVMax t s
  | .vMin t => Sys2Proof.Machine.execVMin t s
  | .vCvt t => Sys2Proof.Machine.execVCvt t s
  | .vRed t => Sys2Proof.Machine.execVRed t s
  | .vExp2 t => Sys2Proof.Machine.execVExp2 t s
  | .vRcp t => Sys2Proof.Machine.execVRcp t s
  | .vRsqrt t => Sys2Proof.Machine.execVRsqrt t s
  | .syncBar t => Sys2Proof.Machine.execSyncBar t s
  | .syncXbar t => Sys2Proof.Machine.execSyncXbar t s
  | .semInc t => Sys2Proof.Machine.execSemInc t s
  | .semWait t => Sys2Proof.Machine.execSemWait t s
  | .arrayGate a => Sys2Proof.Machine.execArrayGate a s
  | .cvnMsgOffer m => Sys2Proof.Machine.execCvnMsgOffer m s
  | .cvnMsgPull m => Sys2Proof.Machine.execCvnMsgPull m s
  | .cvnMsgManifest m => Sys2Proof.Machine.execCvnMsgManifest m s
  | .cvnMsgReceipt m => Sys2Proof.Machine.execCvnMsgReceipt m s
  | .cvnMsgRelease m => Sys2Proof.Machine.execCvnMsgRelease m s
  | .cvnMsgDecline m => Sys2Proof.Machine.execCvnMsgDecline m s
  | .cvnMsgWithdraw m => Sys2Proof.Machine.execCvnMsgWithdraw m s
  | .cvnMsgProbe m => Sys2Proof.Machine.execCvnMsgProbe m s
  | .cvnMsgProbeAnswer m => Sys2Proof.Machine.execCvnMsgProbeAnswer m s
  | .offerTimeout cvn => Sys2Proof.Machine.execOfferTimeout cvn s
  | .receiptTimeout src cvn => Sys2Proof.Machine.execReceiptTimeout src cvn s
  | .pulledTimeout cvn => Sys2Proof.Machine.execPulledTimeout cvn s
  | .probeInterval src cvn => Sys2Proof.Machine.execProbeInterval src cvn s
  | .releaseTimeout src cvn => Sys2Proof.Machine.execReleaseTimeout src cvn s
  | .epochActivate => Sys2Proof.Machine.execEpochActivate s
  | .drainTimeout epoch => Sys2Proof.Machine.execDrainTimeout epoch s
  | .bounceRetry src cvn => Sys2Proof.Machine.execBounceRetry src cvn s
  | .reservationRequest m => Sys2Proof.Machine.execReservationRequest m s
  | .reservationAnswer frm gid st root key => Sys2Proof.Machine.execReservationAnswer frm gid st root key s
  | .homeAnswerTimeout gid => Sys2Proof.Machine.execHomeAnswerTimeout gid s
  | .admissionRelease frm gid => Sys2Proof.Machine.execAdmissionRelease frm gid s
  | .releaseResend gid => Sys2Proof.Machine.execReleaseResend gid s
  | .homeRelease frm gid => Sys2Proof.Machine.execHomeRelease frm gid s
  | .forward m => Sys2Proof.Machine.execForward m s
  | .forwardAnswer a => Sys2Proof.Machine.execForwardAnswer a s
  | .forwardTimeout id => Sys2Proof.Machine.execForwardTimeout id s
  | .pageLossReport frm gid st charged => Sys2Proof.Machine.execPageLossReport frm gid st charged s
  | .deadlineExpiry slot => Sys2Proof.Machine.execDeadlineExpiry slot s
  | .lingerEnd slot => Sys2Proof.Machine.execLingerEnd slot s
  | .parkCommit gid => Sys2Proof.Machine.execParkCommit gid s
  | .unparkDone gid => Sys2Proof.Machine.execUnparkDone gid s
  | .memWindowRead p addr len => Sys2Proof.Machine.execMemWindowRead p addr len s
  | .memWindowWrite p addr bs => Sys2Proof.Machine.execMemWindowWrite p addr bs s
  | .flashReadDone id ok => Sys2Proof.Machine.execFlashReadDone id ok s
  | .readRedirect id => Sys2Proof.Machine.execReadRedirect id s
  | .dieRetry die => Sys2Proof.Machine.execDieRetry die s
  | .demotion => Sys2Proof.Machine.execDemotion s
  | .migrationSwitch g => Sys2Proof.Machine.execMigrationSwitch g s
  | .heatSweep => Sys2Proof.Machine.execHeatSweep s
  | .journalPageWrite => Sys2Proof.Machine.execJournalPageWrite s
  | .journalCommit => Sys2Proof.Machine.execJournalCommit s
  | .checkpointWrite leaf => Sys2Proof.Machine.execCheckpointWrite leaf s
  | .gcCollect => Sys2Proof.Machine.execGcCollect s
  | .programFail stream die => Sys2Proof.Machine.execProgramFail stream die s
  | .bandErase b => Sys2Proof.Machine.execBandErase b s
  | .eraseFail b die => Sys2Proof.Machine.execEraseFail b die s
  | .readRelocate b => Sys2Proof.Machine.execReadRelocate b s
  | .dieFailed die => Sys2Proof.Machine.execDieFailed die s
  | .stackRetire k => Sys2Proof.Machine.execStackRetire k s
  | .parityRebuildDone => Sys2Proof.Machine.execParityRebuildDone s
  | .scrubPass addr corrected uncorrectable => Sys2Proof.Machine.execScrubPass addr corrected uncorrectable s
  | .powerUp => Sys2Proof.Machine.execPowerUp s
  | .powerFail => Sys2Proof.Machine.execPowerFail s
  | .overVoltage => Sys2Proof.Machine.execOverVoltage s
  | .openRowsProgrammed => Sys2Proof.Machine.execOpenRowsProgrammed s
  | .saveSeal => Sys2Proof.Machine.execSaveSeal s
  | .sequenceEnd => Sys2Proof.Machine.execSequenceEnd s
  | .storeSample mv ca => Sys2Proof.Machine.execStoreSample mv ca s
  | .powerSample mv ca => Sys2Proof.Machine.execPowerSample mv ca s
  | .dieTempSample ts => Sys2Proof.Machine.execDieTempSample ts s
  | .hbmTempSample ts => Sys2Proof.Machine.execHbmTempSample ts s
  | .coolantSample tIn tOut => Sys2Proof.Machine.execCoolantSample tIn tOut s
  | .pumpFault n => Sys2Proof.Machine.execPumpFault n s
  | .thermalTrip sensor => Sys2Proof.Machine.execThermalTrip sensor s
  | .tripRestart => Sys2Proof.Machine.execTripRestart s
  | .islandOff => Sys2Proof.Machine.execIslandOff s
  | .restart => Sys2Proof.Machine.execRestart s
  | .ptpWaitTimeout => Sys2Proof.Machine.execPtpWaitTimeout s
  | .bootDone => Sys2Proof.Machine.execBootDone s
  | .trialTimeout => Sys2Proof.Machine.execTrialTimeout s
  | .slotConfirm => Sys2Proof.Machine.execSlotConfirm s
  | .firmwareHeartbeat v => Sys2Proof.Machine.execFirmwareHeartbeat v s
  | .heartbeatLapse => Sys2Proof.Machine.execHeartbeatLapse s
  | .keySlotUnlock slot => Sys2Proof.Machine.execKeySlotUnlock slot s
  | .sqTailWrite src ring v => Sys2Proof.Machine.execSqTailWrite src ring v s
  | .cqHeadWrite src ring v => Sys2Proof.Machine.execCqHeadWrite src ring v s
  | .irqTimer ring => Sys2Proof.Machine.execIrqTimer ring s
  | .adminRingEnable src p v => Sys2Proof.Machine.execAdminRingEnable src p v s
  | .adminRingDisable src p v => Sys2Proof.Machine.execAdminRingDisable src p v s
  | .flagClear src v => Sys2Proof.Machine.execFlagClear src v s
  | .flagIrqGap p => Sys2Proof.Machine.execFlagIrqGap p s
  | .pop src q v => Sys2Proof.Machine.execPop src q v s
  | .headWindowRead src q => Sys2Proof.Machine.execHeadWindowRead src q s
  | .halfReadLatch src off => Sys2Proof.Machine.execHalfReadLatch src off s
  | .bulletinHeadWrite src ring v => Sys2Proof.Machine.execBulletinHeadWrite src ring v s
  | .capacityWrite src off v => Sys2Proof.Machine.execCapacityWrite src off v s
  | .registerWrite src off len v => Sys2Proof.Machine.execRegisterWrite src off len v s
  | .i3cStatusRead => Sys2Proof.Machine.execI3cStatusRead s
  | .i3cRestart key => Sys2Proof.Machine.execI3cRestart key s
  | .i3cWake key => Sys2Proof.Machine.execI3cWake key s
  | .perstAssert p => Sys2Proof.Machine.execPerstAssert p s
  | .mwrite f => Sys2Proof.Machine.execMwrite f s
  | .mread f => Sys2Proof.Machine.execMread f s
  | .madd f => Sys2Proof.Machine.execMadd f s
  | .mmin f => Sys2Proof.Machine.execMmin f s
  | .mmax f => Sys2Proof.Machine.execMmax f s
  | .mcas f => Sys2Proof.Machine.execMcas f s
  | .mresp f => Sys2Proof.Machine.execMresp f s
  | .twrite f => Sys2Proof.Machine.execTwrite f s
  | .tread f => Sys2Proof.Machine.execTread f s
  | .treadResp f => Sys2Proof.Machine.execTreadResp f s
  | .openMsg f => Sys2Proof.Machine.execOpenMsg f s
  | .openAck f => Sys2Proof.Machine.execOpenAck f s
  | .openTimeout conn => Sys2Proof.Machine.execOpenTimeout conn s
  | .closeMsg f => Sys2Proof.Machine.execCloseMsg f s
  | .ack f => Sys2Proof.Machine.execAck f s
  | .nak f => Sys2Proof.Machine.execNak f s
  | .discover port node peerPort mac => Sys2Proof.Machine.execDiscover port node peerPort mac s
  | .pauseFrame port => Sys2Proof.Machine.execPauseFrame port s
  | .neighborDiscovery port node => Sys2Proof.Machine.execNeighborDiscovery port node s
  | .ptpSync master => Sys2Proof.Machine.execPtpSync master s
  | .ptpOffsetAlarm => Sys2Proof.Machine.execPtpOffsetAlarm s
  | .holdoverRepeat => Sys2Proof.Machine.execHoldoverRepeat s
  | .reasmTimeout conn msn => Sys2Proof.Machine.execReasmTimeout conn msn s
  | .rtoExpiry conn msn => Sys2Proof.Machine.execRtoExpiry conn msn s
  | .memTimeout dst => Sys2Proof.Machine.execMemTimeout dst s
  | .nakWaitTimer src => Sys2Proof.Machine.execNakWaitTimer src s
  | .rateUpdate conn => Sys2Proof.Machine.execRateUpdate conn s
  | .shaperRefill => Sys2Proof.Machine.execShaperRefill s
  | .depthSample => Sys2Proof.Machine.execDepthSample s
  | .apertureRead p tag addr len => Sys2Proof.Machine.execApertureRead p tag addr len s
  | .apertureWrite p addr bs => Sys2Proof.Machine.execApertureWrite p addr bs s
  | .apertureFetchAdd p tag addr size64 v => Sys2Proof.Machine.execApertureFetchAdd p tag addr size64 v s
  | .apertureCas p tag addr size64 cmp v => Sys2Proof.Machine.execApertureCas p tag addr size64 cmp v s
  | .apertureUnsupported p tag => Sys2Proof.Machine.execApertureUnsupported p tag s
  | .apertureTimeout p tag => Sys2Proof.Machine.execApertureTimeout p tag s
  | .linkUp port four upper => Sys2Proof.Machine.execLinkUp port four upper s
  | .laneLockLoss port lane => Sys2Proof.Machine.execLaneLockLoss port lane s
  | .fecWindow port corr unc => Sys2Proof.Machine.execFecWindow port corr unc s
  | .mirEntry m => Sys2Proof.Machine.execMirEntry m s
  | .mirTokens m => Sys2Proof.Machine.execMirTokens m s
  | .mirAux m => Sys2Proof.Machine.execMirAux m s
  | .mirCaravan m => Sys2Proof.Machine.execMirCaravan m s
  | .mirPlist m => Sys2Proof.Machine.execMirPlist m s
  | .mirPage m => Sys2Proof.Machine.execMirPage m s
  | .mirJournal m => Sys2Proof.Machine.execMirJournal m s
  | .mirStep m => Sys2Proof.Machine.execMirStep m s
  | .mirCharge m => Sys2Proof.Machine.execMirCharge m s
  | .heartbeat m => Sys2Proof.Machine.execHeartbeat m s
  | .heartbeatTick => Sys2Proof.Machine.execHeartbeatTick s
  | .pairFormTimeout => Sys2Proof.Machine.execPairFormTimeout s
  | .lossProbe frm => Sys2Proof.Machine.execLossProbe frm s
  | .lossProbeAnswer frm => Sys2Proof.Machine.execLossProbeAnswer frm s
  | .lossProbeTimeout => Sys2Proof.Machine.execLossProbeTimeout s
  | .claim frm other => Sys2Proof.Machine.execClaim frm other s
  | .grant witness granted => Sys2Proof.Machine.execGrant witness granted s
  | .claimTimeout => Sys2Proof.Machine.execClaimTimeout s
  | .grantHoldEnd a b => Sys2Proof.Machine.execGrantHoldEnd a b s
  | .ringRegionWrite src off bs => Sys2Proof.Machine.execRingRegionWrite src off bs s
  | .tsend f => Sys2Proof.Machine.execTsend f s
  | .rowProgrammed stream => Sys2Proof.Machine.execRowProgrammed stream s
  | .bandErased b => Sys2Proof.Machine.execBandErased b s
  | .idlePlacement g => Sys2Proof.Machine.execIdlePlacement g s
  | .codecCommandDone id => Sys2Proof.Machine.execCodecCommandDone id s
  | .diagScrubDone => Sys2Proof.Machine.execDiagScrubDone s
  | .imageVerifyDone which => Sys2Proof.Machine.execImageVerifyDone which s
  | .arrayWake a => Sys2Proof.Machine.execArrayWake a s
  | .holdover => Sys2Proof.Machine.execHoldover s
  | .ppsOut => Sys2Proof.Machine.execPpsOut s
  | .mirrorTick => Sys2Proof.Machine.execMirrorTick s
  | .ordinaryPorts => Sys2Proof.Machine.execOrdinaryPorts s
  | .extest => Sys2Proof.Machine.execExtest s
  | .tapReset => Sys2Proof.Machine.execTapReset s

end Sys2Proof.Machine
end

