-- ==== Sys2Proof/Machine/Tick.lean ====
section
/-! DEFINITION. The passing of time while no command waits: what no row of the table brings about (entry 11). -/

namespace Sys2Proof.Machine

/-- Counted bytes that a port's line carries in a nanosecond: 1.6 Tb/s on eight lanes, half on four (10 R271, R273). -/
def lineRate (x : FPort) : Nat := if x.st = .degraded then 100 else 200

/-- Count one act of the oldest injection that drops frames on a port (12 R363). -/
def dropFirst (p : Nat) : List Inject → List Inject
  | [] => []
  | x :: t =>
    if x.kind = 5 && x.addr == p then (if x.left ≤ 1 then t else { x with left := x.left - 1 } :: t)
    else x :: dropFirst p t

/-- A port's line takes the next frame once it is free: its queue and its shapers give it (11 R311 to R315), the port's
arbiter is not frozen (11 R331), and no injection drops it. -/
def sendNext (s : State) (p : Nat) : State :=
  if now s < (output s p).freeAt || !linked s p || !portsPowered s || Tbl.has s.tsu.frozen (0x20 + p) then s
  else
    match nextQueue s p with
    | none => s
    | some (k, x) =>
      match depart s p k x with
      | (none, s1) => s1
      | (some f, s1) =>
        let port := portAt s1 p
        let s2 := setOutput s1 p { output s1 p with freeAt := now s + (headLen x + lineRate port - 1) / lineRate port }
        let s3 := if f.ce then setPort s2 p { port with ceMarked := satBits 32 (port.ceMarked + 1) } else s2
        if s3.mir.inject.any fun i => i.kind == 5 && i.addr == p then
          { s3 with mir := { s3.mir with inject := dropFirst p s3.mir.inject } }
        else emit s3 (.frame f)

/-- What the clocked units do by themselves: array clocks change 5 µs after their writes at the latest, frames leave,
acknowledgements that have waited 1 µs go out, closing connections end once nothing is in flight, and an alias ends with
the last that it stands for. -/
def tickUnits (s : State) : State :=
  let s1 := (List.range 18).foldl sendNext (lateClocks s)
  let s2 := flushAcks s1
  let s3 := (Tbl.keys s2.fbe.conns).foldl settleConn s2
  settleAlias s3

/-- A nanosecond of the island's counter. Device time, 64 bits wide (00 R9), follows it, and every 10,000th one slews an
offset from the master by a nanosecond: 100 ppm at most, and never a step back (10 R303). -/
def advance (c : Clk) : Clk :=
  if c.slew + 1 < 10000 then { c with now := (c.now + 1) % 2 ^ 64, slew := c.slew + 1 }
  else if 0 < c.offset then { c with now := (c.now + 2) % 2 ^ 64, offset := c.offset - 1, slew := 0 }
  else if c.offset < 0 then { c with offset := c.offset + 1, slew := 0 }
  else { c with now := (c.now + 1) % 2 ^ 64, slew := 0 }

/-- A nanosecond passes; the boot and the power-fail sequence move on. -/
def passTime (s : State) : State := shedTick (bootTick { s with clk := advance s.clk })

/-- A tick. The island's counter runs in every state (16 R435). -/
def tick (s : State) : State :=
  let s1 := passTime s
  settle s (if clocked s1 then tickUnits s1 else s1)

end Sys2Proof.Machine
end

