-- ==== Sys2Proof/Machine/Wire.lean ====
section
/-! DEFINITION. The headers of messages as bytes on a wire: caravan header (04 R83), Jalnal header (10 R276), mirror record
header (12 R346). Each is one little-endian number (00 R8). The commands carry the fields of a header; these functions say which
bytes stand for them. The outer headers in front of them keep their own standards' byte order and are not laid out (entry 43). -/

namespace Sys2Proof.Machine

/-- Fields as one number, the lowest first: width and value. -/
def packFields : List (Nat × Nat) → Nat
  | [] => 0
  | (w, v) :: t => v % 2 ^ w + 2 ^ w * packFields t

/-- The values of fields of the given widths, the lowest first. -/
def cutFields : List Nat → Nat → List Nat
  | [], _ => []
  | w :: t, n => n % 2 ^ w :: cutFields t (n / 2 ^ w)

/-- The caravan header's fields, from bit 0 up (04 R83). -/
def caravanFields (m : CvnMsg) : List (Nat × Nat) :=
  [(2, m.outcome), (1, m.durable), (3, m.prio), (2, m.kind), (4, m.msg), (4, m.cver), (32, m.rsvB), (32, m.codecFp),
   (16, m.offerLife), (32, m.check), (30, m.rsvA), (21, m.auxBytes), (21, m.histTokens), (24, m.pageUnits), (16, m.status),
   (16, m.tenant), (16, m.home), (16, m.epoch), (16, m.dst), (16, m.src), (32, m.key), (32, m.cvnId), (64, m.deadline),
   (64, m.gid)]

def caravanBytes (m : CvnMsg) : Bytes := leBytes 64 (packFields (caravanFields m))

/-- The message that 64 bytes from a node spell. -/
def caravanOfBytes (frm : Nat) (bs : Bytes) : CvnMsg :=
  let n := leNat (bs.take 64)
  { frm := frm, outcome := bits n 1 0, durable := bits n 2 2, prio := bits n 5 3, kind := bits n 7 6, msg := bits n 11 8
    cver := bits n 15 12, rsvB := bits n 47 16, codecFp := bits n 79 48, offerLife := bits n 95 80, check := bits n 127 96
    rsvA := bits n 157 128, auxBytes := bits n 178 158, histTokens := bits n 199 179, pageUnits := bits n 223 200
    status := bits n 239 224, tenant := bits n 255 240, home := bits n 271 256, epoch := bits n 287 272, dst := bits n 303 288
    src := bits n 319 304, key := bits n 351 320, cvnId := bits n 383 352, deadline := bits n 447 384, gid := bits n 511 448 }

/-- The Jalnal header's fields, from bit 0 up (10 R276). -/
def jalnalFields (f : Frame) : List (Nat × Nat) :=
  [(16, f.status), (5, f.hops), (4, f.reason), (3, f.tc), (4, f.ver), (1, b2n f.size64), (1, b2n f.signed), (1, b2n f.ordered),
   (1, b2n f.last), (5, f.op), (13, f.len), (12, f.off), (14, f.conn), (16, f.src), (16, f.dst), (16, f.epoch), (32, f.seq),
   (32, f.key), (64, f.addr)]

/-- Header and payload of a frame. -/
def jalnalBytes (f : Frame) : Bytes := leBytes 32 (packFields (jalnalFields f)) ++ f.pay

/-- The frame that header and payload bytes spell; what the outer header tells is given. -/
def jalnalOfBytes (port : Nat) (mem bad ce : Bool) (bs : Bytes) : Frame :=
  let n := leNat (bs.take 32)
  { port := port, mem := mem, bad := bad, ce := ce, status := bits n 15 0, hops := bits n 20 16, reason := bits n 24 21
    tc := bits n 27 25, ver := bits n 31 28, size64 := bit n 32, signed := bit n 33, ordered := bit n 34, last := bit n 35
    op := bits n 40 36, len := bits n 53 41, off := bits n 65 54, conn := bits n 79 66, src := bits n 95 80
    dst := bits n 111 96, epoch := bits n 127 112, seq := bits n 159 128, key := bits n 191 160, addr := bits n 255 192
    pay := bs.drop 32 }

/-- The mirror record header's fields, from bit 0 up (12 R346); `rsv` is [71:8] above [3:0]. -/
def mirrorFields (m : MirRec) : List (Nat × Nat) :=
  [(4, m.rsv), (4, m.kind), (64, m.rsv / 16), (17, m.len), (23, m.offset), (32, m.check), (48, m.mseq), (64, m.object)]

/-- A mirror record's bytes: header, then body. -/
def mirrorBytes (m : MirRec) : Bytes := leBytes 32 (packFields (mirrorFields m)) ++ m.body

/-- The record that bytes from a pair port spell. -/
def mirrorOfBytes (port : Nat) (bs : Bytes) : MirRec :=
  let n := leNat (bs.take 32)
  { port := port, rsv := bits n 3 0 ||| bits n 71 8 <<< 4, kind := bits n 7 4, len := bits n 88 72, offset := bits n 111 89
    check := bits n 143 112, mseq := bits n 191 144, object := bits n 255 192, body := bs.drop 32 }

end Sys2Proof.Machine
end

