-- ==== Sys2Proof/WellFormed.lean ====
section
/-! DEFINITION. Well-formed commands: every operand fits the wires, the field or the register it stands for. Values that the
manual lets a sender get wrong (reserved fields, lengths that disagree, stale identifiers) are not ruled out here: the
meanings answer them. -/

namespace Sys2Proof

/-- A value of `n` bits. -/
def bitsWf (n v : Nat) : Bool := decide (v < 2 ^ n)

/-- A ring: 0 to 255 (02 R29), or an internal ring 256 to 271 (02 R38). -/
def ringWf (r : Nat) : Bool := decide (r < 272)

/-- A work ring (10 R289): a created ring. -/
def workRingWf (r : Nat) : Bool := decide (4 ≤ r) && decide (r < 256)

/-- A PCIe port (01 R14). -/
def portWf (p : Nat) : Bool := decide (p < 4)

/-- A Jalnal port (10 R271): 16 ports and the two of the pair. -/
def jportWf (p : Nat) : Bool := decide (p < 18)

/-- A slot of the request table (03 R57). -/
def slotWf (n : Nat) : Bool := bitsWf 17 n

/-- A node identifier. -/
def nodeWf (n : Nat) : Bool := bitsWf 16 n

/-- An array (08 R205). -/
def arrayWf (a : Nat) : Bool := decide (a < 96)

/-- A burst or payload of at most 1 MiB. -/
def bytesWf (bs : Bytes) : Bool := decide (bs.length ≤ 0x100000)

/-- A temperature in sixteenths or whole degrees, 16 bits with a sign. -/
def tempWf (t : Int) : Bool := decide (-32768 ≤ t) && decide (t < 32768)

/-- A current, 32 bits with a sign. -/
def currentWf (c : Int) : Bool := decide (-2147483648 ≤ c) && decide (c < 2147483648)

/-- The source of an access: a port, or a management core. -/
def Src.wf : Src → Bool
  | .pcie p => portWf p
  | .core => true

/-- A thread's place (08 R212). -/
def Thr.wf (t : Thr) : Bool := bitsWf 16 t.ctx && arrayWf t.arr && decide (t.idx < 128)

/-- The header's fields have the widths of 04 R83. -/
def CvnMsg.wf (m : CvnMsg) : Bool :=
  nodeWf m.frm && bitsWf 64 m.gid && bitsWf 64 m.deadline && bitsWf 32 m.cvnId && bitsWf 32 m.key && nodeWf m.src
    && nodeWf m.dst && bitsWf 16 m.epoch && nodeWf m.home && nodeWf m.tenant && bitsWf 16 m.status && bitsWf 24 m.pageUnits
    && bitsWf 21 m.histTokens && bitsWf 21 m.auxBytes && bitsWf 30 m.rsvA && bitsWf 32 m.check && bitsWf 16 m.offerLife
    && bitsWf 32 m.codecFp && bitsWf 32 m.rsvB && bitsWf 4 m.cver && bitsWf 4 m.msg && bitsWf 2 m.kind && bitsWf 3 m.prio
    && bitsWf 1 m.durable && bitsWf 2 m.outcome

/-- A reservation's fields have the widths of the entry's (03 R60). -/
def ResvMsg.wf (m : ResvMsg) : Bool :=
  nodeWf m.frm && bitsWf 64 m.gid && bitsWf 16 m.tenant && bitsWf 3 m.prio && bitsWf 32 m.resHbm && bitsWf 32 m.resFlash
    && bitsWf 32 m.kvPerTok && bitsWf 4 m.pageClass && bitsWf 8 m.codecSlot && bitsWf 21 m.ctxLen && bitsWf 32 m.ns && bitsWf 16 m.epoch

/-- A forwarded command's payload is one a host could send. -/
def FwdMsg.wf (m : FwdMsg) : Bool :=
  nodeWf m.frm && bitsWf 32 m.id && bitsWf 16 m.op && bitsWf 16 m.tenant && bitsWf 64 m.target && bitsWf 32 m.resultLen
    && bytesWf m.pay && decide (m.reqs.length ≤ 1024) && bitsWf 16 m.epoch

/-- An answer's fields have the widths of a completion's (02 R35). -/
def FwdAns.wf (a : FwdAns) : Bool :=
  nodeWf a.frm && bitsWf 32 a.id && bitsWf 16 a.st && bitsWf 64 a.r0 && bitsWf 32 a.detail && bytesWf a.result
    && bitsWf 21 a.ctxLen && bitsWf 32 a.usedHbm && bitsWf 32 a.resHbm

/-- The header's fields have the widths of 10 R276. -/
def Frame.wf (f : Frame) : Bool :=
  jportWf f.port && bitsWf 64 f.addr && bitsWf 32 f.key && bitsWf 32 f.seq && bitsWf 16 f.epoch && nodeWf f.dst && nodeWf f.src
    && bitsWf 14 f.conn && bitsWf 12 f.off && bitsWf 13 f.len && bitsWf 5 f.op && bitsWf 4 f.ver && bitsWf 3 f.tc
    && bitsWf 4 f.reason && bitsWf 5 f.hops && bitsWf 16 f.status && decide (f.pay.length ≤ 4096)

/-- The record's fields have the widths of 12 R346, and its body is as long as LENGTH says. -/
def MirRec.wf (m : MirRec) : Bool :=
  (m.port == 16 || m.port == 17) && bitsWf 64 m.object && bitsWf 48 m.mseq && bitsWf 32 m.check && bitsWf 23 m.offset
    && bitsWf 17 m.len && bitsWf 68 m.rsv && bitsWf 4 m.kind && m.body.length == m.len

/-- A command is well formed. -/
def Instr.wf : Instr → Bool
  | .sessHello r _ | .sessProve r _ | .sessClose r _ | .ringCreate r _ | .ringDestroy r _ | .nop r _ | .reqAdmit r _
  | .reqQuery r _ | .reqSetDeadline r _ | .reqSetPriority r _ | .reqTokensAppend r _ | .reqComplete r _
  | .reqCancel r _ | .reqPark r _ | .reqUnpark r _ | .reqList r _ | .cvnOffer r _ | .cvnWithdraw r _ | .cvnStatus r _
  | .mapInstall r _ | .mapQuery r _ | .pageAlloc r _ | .pageFree r _ | .plistAppend r _ | .plistTruncate r _
  | .plistQuery r _ | .prefixLookup r _ | .prefixInsert r _ | .prefixEvict r _ | .pageShare r _ | .pageStats r _
  | .tierHint r _ | .tierMigrate r _ | .rangeTrim r _ | .tierStats r _ | .gcSetWeights r _ | .flashHealth r _
  | .durableFlush r _ | .codecTableLoad r _ | .codecTableQuery r _ | .codecCompress r _ | .codecDecompress r _
  | .codecQuantize r _ | .codecDequantize r _ | .codecScaleFind r _ | .codecRecode r _ | .kernelLoad r _
  | .kernelUnload r _ | .ctxCreate r _ | .ctxDestroy r _ | .ctxLaunch r _ | .schedSet r _ | .arraySlowdown r _
  | .arrayExclude r _ | .diagArrayTest r _ | .attnStep r _ | .attnBiasLoad r _ | .lseMerge r _ | .sampleSet r _
  | .sampleStep r _ | .banLoad r _ | .specDraft r _ | .specVerify r _ | .bulletinSet r _ | .portConfig r _
  | .portStatus r _ | .keyRegister r _ | .keyDeregister r _ | .connOpen r _ | .connClose r _ | .ergMap r _
  | .ptpConfig r _ | .queueConfig r _ | .shaperSet r _ | .queueSample r _ | .searchWrite r _ | .searchDelete r _
  | .searchQuery r _ | .arbFreeze r _ | .evqConfig r _ | .telemRead r _ | .pairJoin r _ | .pairDissolve r _
  | .pairStatus r _ | .mirrorClassSet r _ | .pairPromote r _ | .plantStatus r _ | .coolTargetSet r _
  | .holdupTest r _ | .powerCapSet r _ | .standbyEnter r _ | .imageWrite r _ | .imageVerify r _ | .imageSelect r _
  | .fwLoad r _ | .keyProvision r _ | .deviceAttest r _ | .roleSet r _ | .deviceReset r _ | .diagMemScrub r _
  | .diagLoopback r _ | .errInject r _ => ringWf r
  | .reclaim | .schedSwitch | .joinTimeout | .copyDone | .standbyEntry | .standbyWake | .fwLoadTimeout
  | .keyAreaWritten | .roleSwitch | .epochActivate | .demotion | .heatSweep | .journalPageWrite | .journalCommit
  | .gcCollect | .parityRebuildDone | .powerUp | .powerFail | .overVoltage | .openRowsProgrammed | .saveSeal
  | .sequenceEnd | .tripRestart | .islandOff | .restart | .ptpWaitTimeout | .bootDone | .trialTimeout | .slotConfirm
  | .heartbeatLapse | .i3cStatusRead | .ptpOffsetAlarm | .holdoverRepeat | .shaperRefill | .depthSample
  | .heartbeatTick | .pairFormTimeout | .lossProbeTimeout | .claimTimeout | .diagScrubDone | .holdover | .ppsOut
  | .mirrorTick | .ordinaryPorts | .extest | .tapReset => true
  | .homeMoveCommit slot newRoot => slotWf slot && bitsWf 32 newRoot
  | .diagArrayTestDone failed => bitsWf 96 failed
  | .stepTimeout owner tag => nodeWf owner && bitsWf 32 tag
  | .stepAbort frm gid | .admissionRelease frm gid | .homeRelease frm gid => nodeWf frm && bitsWf 64 gid
  | .searchScrub bank => bitsWf 2 bank
  | .drained arb | .holdExpiry arb => bitsWf 10 arb
  | .eventIrqGap q => bitsWf 3 q
  | .dissolve frm | .lossProbe frm | .lossProbeAnswer frm => nodeWf frm
  | .holdupTestEnd stepMv stepCa chargeMc fallMv => bitsWf 32 stepMv && bitsWf 32 stepCa && bitsWf 32 chargeMc && bitsWf 32 fallMv
  | .imageProgrammed slot => bitsWf 1 slot
  | .loopbackDone port errs => jportWf port && errs.all (bitsWf 64)
  | .workWrite r | .workRead r | .workAdd r | .workMin r | .workMax r | .workCas r => workRingWf r
  | .aBr t | .aBrp t | .aLoop t | .aYield t | .aHalt t | .aAdd t | .aSub t | .aMul t | .aAnd t | .aOr t | .aXor t
  | .aShl t | .aShr t | .aSra t | .aMovi t | .aCmp t | .aRdstat t | .aLd t | .aSt t | .aVld t | .aVst t | .aDmaRd t
  | .aDmaWr t | .aDmaQld t | .aDmaWait t | .dmaDone t | .gridMm t | .passEnd t | .gridWait t | .cbLoad t | .vFma t
  | .vAdd t | .vMul t | .vMax t | .vMin t | .vCvt t | .vRed t | .vExp2 t | .vRcp t | .vRsqrt t | .syncBar t
  | .syncXbar t | .semInc t | .semWait t => t.wf
  | .arrayGate a | .arrayWake a => arrayWf a
  | .cvnMsgOffer m | .cvnMsgPull m | .cvnMsgManifest m | .cvnMsgReceipt m | .cvnMsgRelease m | .cvnMsgDecline m
  | .cvnMsgWithdraw m | .cvnMsgProbe m | .cvnMsgProbeAnswer m | .reservationRequest m | .forward m | .mirEntry m
  | .mirTokens m | .mirAux m | .mirCaravan m | .mirPlist m | .mirPage m | .mirJournal m | .mirStep m | .mirCharge m
  | .heartbeat m => m.wf
  | .offerTimeout cvn | .pulledTimeout cvn => bitsWf 32 cvn
  | .receiptTimeout src cvn | .probeInterval src cvn | .releaseTimeout src cvn | .bounceRetry src cvn => nodeWf src && bitsWf 32 cvn
  | .drainTimeout epoch => bitsWf 32 epoch
  | .reservationAnswer frm gid st root key => nodeWf frm && bitsWf 64 gid && bitsWf 16 st && bitsWf 32 root && bitsWf 64 key
  | .homeAnswerTimeout gid | .releaseResend gid | .parkCommit gid | .unparkDone gid => bitsWf 64 gid
  | .forwardAnswer a => a.wf
  | .forwardTimeout id | .flashReadDone id _ | .readRedirect id | .codecCommandDone id => bitsWf 32 id
  | .pageLossReport frm gid st _ => nodeWf frm && bitsWf 64 gid && bitsWf 16 st
  | .deadlineExpiry slot | .lingerEnd slot => slotWf slot
  | .memWindowRead p addr len => portWf p && bitsWf 64 addr && bitsWf 32 len
  | .memWindowWrite p addr bs | .apertureWrite p addr bs => portWf p && bitsWf 64 addr && bytesWf bs
  | .dieRetry die | .dieFailed die => bitsWf 8 die
  | .migrationSwitch g | .idlePlacement g => bitsWf 34 g
  | .checkpointWrite leaf => bitsWf 26 leaf
  | .programFail stream die => bitsWf 16 stream && bitsWf 8 die
  | .bandErase b | .readRelocate b | .bandErased b => bitsWf 16 b
  | .eraseFail b die => bitsWf 16 b && bitsWf 8 die
  | .stackRetire k => decide (k < 12)
  | .scrubPass addr _ _ => bitsWf 64 addr
  | .storeSample mv ca => bitsWf 32 mv && currentWf ca
  | .powerSample mv ca => bitsWf 32 mv && bitsWf 32 ca
  | .dieTempSample ts | .hbmTempSample ts => ts.all tempWf
  | .coolantSample tIn tOut => tempWf tIn && tempWf tOut
  | .pumpFault n => bitsWf 1 n
  | .thermalTrip sensor => bitsWf 8 sensor
  | .firmwareHeartbeat v => bitsWf 64 v
  | .keySlotUnlock slot => bitsWf 4 slot
  | .sqTailWrite src ring v | .cqHeadWrite src ring v => src.wf && ringWf ring && bitsWf 64 v
  | .irqTimer ring => ringWf ring
  | .adminRingEnable src p v | .adminRingDisable src p v => src.wf && portWf p && bitsWf 64 v
  | .flagClear src v => src.wf && bitsWf 64 v
  | .flagIrqGap p | .perstAssert p => portWf p
  | .pop src q v => src.wf && bitsWf 3 q && bitsWf 64 v
  | .headWindowRead src q => src.wf && bitsWf 3 q
  | .halfReadLatch src off => src.wf && bitsWf 24 off
  | .bulletinHeadWrite src ring v => src.wf && bitsWf 4 ring && bitsWf 64 v
  | .capacityWrite src off v => src.wf && bitsWf 24 off && bitsWf 64 v
  | .registerWrite src off len v => src.wf && bitsWf 24 off && bitsWf 32 len && bitsWf 64 v
  | .i3cRestart key | .i3cWake key => bitsWf 64 key
  | .mwrite f | .mread f | .madd f | .mmin f | .mmax f | .mcas f | .mresp f | .twrite f | .tread f | .treadResp f
  | .openMsg f | .openAck f | .closeMsg f | .ack f | .nak f | .tsend f => f.wf
  | .openTimeout conn | .rateUpdate conn => bitsWf 16 conn
  | .discover port node peerPort mac => jportWf port && nodeWf node && bitsWf 8 peerPort && bitsWf 48 mac
  | .pauseFrame port | .linkUp port _ _ => jportWf port
  | .neighborDiscovery port node => jportWf port && nodeWf node
  | .ptpSync master => bitsWf 64 master
  | .reasmTimeout conn msn | .rtoExpiry conn msn => bitsWf 16 conn && bitsWf 32 msn
  | .memTimeout dst => nodeWf dst
  | .nakWaitTimer src => nodeWf src
  | .apertureRead p tag addr len => portWf p && bitsWf 32 tag && bitsWf 64 addr && bitsWf 32 len
  | .apertureFetchAdd p tag addr _ v => portWf p && bitsWf 32 tag && bitsWf 64 addr && bitsWf 64 v
  | .apertureCas p tag addr _ cmp v => portWf p && bitsWf 32 tag && bitsWf 64 addr && bitsWf 64 cmp && bitsWf 64 v
  | .apertureUnsupported p tag | .apertureTimeout p tag => portWf p && bitsWf 32 tag
  | .laneLockLoss port lane => jportWf port && bitsWf 3 lane
  | .fecWindow port corr unc => jportWf port && corr.all (bitsWf 64) && bitsWf 32 unc
  | .claim frm other => nodeWf frm && nodeWf other
  | .grant witness _ => nodeWf witness
  | .grantHoldEnd a b => nodeWf a && nodeWf b
  | .ringRegionWrite src off bs => src.wf && bitsWf 25 off && bytesWf bs
  | .rowProgrammed stream => bitsWf 16 stream
  | .imageVerifyDone which => decide (which ≤ 2)

end Sys2Proof
end

