-- ==== Sys2Proof/Safety.lean ====
section
/-! DEFINITION. The terms that claims about the machine use: a step that goes on, a host command that has been taken, the
invariants of the mirror stream and of memory. -/

namespace Sys2Proof.Machine

/-- A step goes on: no fault, no refusal. -/
def goesOn (s : State) : Prop := ∃ t, step s = .next t

/-- The command that ring `r` starts, where it starts one with opcode `op` and steps 1 to 8 of 02 R50 pass; with the state
they leave. -/
def taken (op : Nat) (privs : List Priv) (r : Nat) (d : Dma) (s : State) : Option (Cmd × State) :=
  match begins s r with
  | none => none
  | some (R, h, s0) =>
    if !knownOp (hOpcode h) || hOpcode h != op then none
    else match check privs r R h d (stored r h d s0) with
      | .ok x => some x
      | .error _ => none

/-- No partner mirrors: nothing is held back and no record is sent (12 R347). -/
def alone (s : State) : Bool := !streaming s && s.mru.held.isEmpty

/-- 12 R347: a report that is held waits for a record of the stream, and none is held without a stream. -/
def heldOk (s : State) : Bool := if streaming s then s.mru.held.all fun h => h.mseq != 0 else s.mru.held.isEmpty

/-- Every memory of the controller is in its canonical form. -/
def memoryOk (s : State) : Bool :=
  memWf s.hcu.ringMem && memWf s.hcu.fwMem && memWf s.tfm.hbm && memWf s.tfm.flash

/-- A caravan message other than an OFFER is handled: this controller is not fenced, not marked LOST under the message's
epoch, and the header passes rows 1 and 2 of the checks (04 R85, R95; 12 R351). -/
def cvnHeard (s : State) (msg : Nat) (m : CvnMsg) : Prop :=
  ¬ (s.cve.selfLost = true ∧ m.epoch = epochNum s) ∧ s.mru.st ≠ .fenced ∧ hdrFieldsOk msg m = true ∧ hdrRangesOk msg m = true

/-- A command names an entry at rest whose list is homed here: no step and no move runs, the entry is in a state that a list
command allows, and its list is in the directory (05 R136, R137; 04 R91). -/
def restsHere (s : State) (c : Cmd) (h n : Nat) (x : Slot) (l : PList) : Prop :=
  c.entry s h = .ok (n, x) ∧ getSlot s n = some x ∧ x.e.remoteHome = false ∧ openEntry s n x = .ok () ∧
    stepState x.e = true ∧ x.e.inStep = false ∧ x.e.movePend = false ∧ x.restoring = false ∧ getList s x.e.gid = some l

/-- A command names an entry at rest whose list is at a remote home, in a state that a list command allows (05 R136, R137). -/
def restsThere (s : State) (c : Cmd) (h n : Nat) (x : Slot) : Prop :=
  c.entry s h = .ok (n, x) ∧ x.e.remoteHome = true ∧ openEntry s n x = .ok () ∧ stepState x.e = true ∧ x.e.inStep = false ∧
    x.e.movePend = false ∧ x.restoring = false

/-- Thread `t` of context `x` issues the word `w` of operation `op` of class `cls` now: its launch has started, it runs and does
not wait, the word lies in its kernel's code, no frozen arbiter holds it and its port grants it, the word's class, operation,
predicate field and format are those named, and its predicate holds (08 R213, R214, R231, R232; 11 R331). -/
def issues (cls op : Nat) (fmts : List Nat) (t : Thr) (s : State) (x : Ctx) (th : Thread) (w : Word64) : Prop :=
  getCtx s t.ctx = some x ∧ getThr s t = some th ∧ nextWord s x th = some w ∧ portFrozen s t.arr cls = false ∧
    portGrants s (portOf cls) t x = true ∧ op < opCount cls ∧ w.pred < 5 ∧ w.cls = cls ∧ w.op = op ∧
    fmts.contains w.fmt = true ∧ predHolds th w = true

/-- The state after an instruction of class `cls` that `issues` names: its effect `f` on the state with the port's pointer moved
past the thread, and the void grants that it brings (08 R213; 11 R330). -/
def issuesTo (cls : Nat) (t : Thr) (x : Ctx) (s : State) (f : State → State) : State :=
  voidThreads s (f (tookPort s cls t x)) (some t)

/-- A frame of an operation is taken: its port carries frames, and no test of 10 R278 discards it. -/
def arrives (op : Nat) (s : State) (f : Frame) : Prop := f.op = op ∧ fabricOpen s f.port = true ∧ frameOk f = true

/-- A transfer frame for this controller, on a port that does not mirror, of connection `c` (10 R289; 12 R341). -/
def onConn (s : State) (f : Frame) (c : Conn) : Prop :=
  mirrorPort s f.port = false ∧ f.mem = false ∧ toUs s f.dst = true ∧ connFor s f = some c

/-- A message's packet passes the epoch check and the key check of 10 R293 and falls in the window, where no context holds its
message yet. -/
def startsMessage (s : State) (f : Frame) (c : Conn) : Prop :=
  (c.st = .opened ∨ c.st = .closing) ∧ epochPasses s f.epoch = true ∧ (f.seq + 2 ^ 32 - c.rxBase) % 2 ^ 32 < c.window ∧
    Tbl.get c.rx f.seq = none ∧ keyStatus (countRx s f) c f = St.ok ∧ contextsUsed (countRx s f) < 4096

/-- A memory-mode request for this controller's domain, under an epoch that passes, from a source with an open sequence whose
turn it is with nothing held (10 R283, R284). -/
def memTurn (s : State) (f : Frame) (q : SeqIn) : Prop :=
  some f.dst = myDomain s ∧ epochPasses s f.epoch = true ∧ Tbl.get s.fbe.seqIn f.src = some q ∧ q.opened = true ∧
    q.queue = [] ∧ q.expect < 2 ^ 32 ∧ f.seq = q.expect

/-- A mirror record that stands, in its turn, with none queued before it (12 R344). -/
def recTurn (s : State) (m : MirRec) : Prop :=
  receiving s m.port = true ∧ recOk m = true ∧ m.mseq = s.mru.mseqApplied + 1 ∧ s.mir.applyQ = []

end Sys2Proof.Machine
end

