-- ==== Sys2Proof/Certificates/Slice0/Obligations.lean ====
section
/-! DEFINITION. The obligations. Those of a family of commands state, for each row, the whole next state where the command
completes: the state is an equation, so what it does not name stands as it was but for `commit` and the answer, whose own frames
are stated too. -/

open Sys2Proof Sys2Proof.Machine

/-- The session and ring commands of chapter 02, taken and in order, do what R43, R44, R47, R53 and R54 say: SESS_HELLO
opens a challenge at the lowest free index with the controller's nonce (a free value), a right SESS_PROVE opens the session
under its derived key and clears the key slot's failures, a wrong one counts against the slot and frees the index,
SESS_CLOSE closes the session, RING_CREATE takes the lowest free number and the lowest free region, RING_DESTROY lets the
ring go, and NOP answers ST_OK. What each answers is given; nothing else of the state changes but by the answer and by
`commit`. What the spec leaves open in it is the model's choice, in log entries 4, 5 and 17. -/
def Obligations.SessionCommands : Prop :=
  (∀ (r : Nat) (d : Dma) (s s1 : State) (c : Cmd) (i : Nat) (k : KeySlot),
    taken 0x0101 [] r d s = some (c, s1) → c.payLen = 48 → 32 ≤ c.resLen → c.fld 7 0 ≤ 15 → c.fld 127 8 = 0 →
    Tbl.freeFrom s1.hcu.sessions 64 0 = some i → i < 64 → Tbl.get s1.hcu.keySlots (c.fld 7 0) = some k →
    slotLocked s1 k = false →
    exec (.sessHello r d) s = .next (commit s (answer
      { s1 with
        draws := s1.draws + 1
        hcu := { s1.hcu with sessions := Tbl.set s1.hcu.sessions i ⟨
            Tbl.getD s1.hcu.sessGen i 0, false, c.fld 7 0, k.priv, k.tenant, sub c.pay 16 32,
            leBytes 32 (Config.nonce s1.draws).toNat, c.ring, now s1, [], 0⟩ } }
      c.tok { st := some St.ok, r0 := 64 * Tbl.getD s1.hcu.sessGen i 0 + i
              result := leBytes 32 (Config.nonce s1.draws).toNat }))) ∧
  (∀ (r : Nat) (d : Dma) (s s1 : State) (c : Cmd) (x : Session) (k : KeySlot),
    taken 0x0102 [] r d s = some (c, s1) → c.payLen = 32 → 32 ≤ c.resLen → findSess s1 c.sess = some x →
    Tbl.get s1.hcu.keySlots x.slot = some k →
    exec (.sessProve r d) s = .next (commit s (
      if hmac256 k.key (shakeMsg "TF768A-HPRF" c.sess x.slot x.hostNonce x.devNonce) = c.pay then
        answer
          { s1 with hcu := { s1.hcu with
              sessions := Tbl.set s1.hcu.sessions (c.sess % 64)
                { x with isOpen := true, key := hmac256 k.key (shakeMsg "TF768A-SKEY" c.sess x.slot x.hostNonce x.devNonce) }
              keySlots := Tbl.upd s1.hcu.keySlots x.slot fun k => { k with fails := 0 } } }
          c.tok (okRes (hmac256 k.key (shakeMsg "TF768A-DPRF" c.sess x.slot x.hostNonce x.devNonce)))
      else answer (proofFails s1 x (c.sess % 64)) c.tok { st := some St.authFail }))) ∧
  (∀ (r : Nat) (d : Dma) (s s1 : State) (c : Cmd) (x : Session),
    taken 0x0103 [.operator, .tenant, .maintenance] r d s = some (c, s1) → c.payLen = 0 → c.target >>> 16 = 0 →
    (c.target % 65536 = c.sess ∨ c.isOp = true) → findSess s1 (c.target % 65536) = some x →
    exec (.sessClose r d) s = .next (commit s (answer (closeSession s1 (c.target % 65536 % 64)) c.tok okAns))) ∧
  (∀ (r : Nat) (d : Dma) (s s1 : State) (c : Cmd) (b n : Nat),
    taken 0x0110 [.operator, .tenant, .maintenance] r d s = some (c, s1) → c.payLen = 32 →
    16 ≤ c.fld 47 32 → c.fld 47 32 ≤ 4096 → 16 ≤ c.fld 63 48 → c.fld 63 48 ≤ 4096 → 1 ≤ c.fld 79 64 → c.fld 79 64 ≤ 256 →
    isPow2 (c.fld 47 32) = true → isPow2 (c.fld 63 48) = true → c.fld 95 80 ≤ 1000 →
    (portMode s1 c.port = 2 → c.fld 111 96 ≤ 511) → (portMode s1 c.port = 1 → c.fld 191 128 % 4 = 0) →
    c.fld 255 192 % 4096 = 0 → c.fld 31 0 = 0 → c.fld 127 112 = 0 →
    freeRegion s1 (c.fld 47 32) = some b → Tbl.freeFrom s1.hcu.rings 252 4 = some n → n < 256 →
    exec (.ringCreate r d) s = .next (commit s (answer
      { s1 with hcu := { s1.hcu with
          rings := Tbl.set s1.hcu.rings n (newRing c.sess c.port b (c.fld 47 32) (c.fld 63 48) (c.fld 255 192)
            (c.fld 191 128) (c.fld 111 96) (c.fld 95 80) (c.fld 79 64) false)
          seqs := Tbl.del s1.hcu.seqs (512 * (c.sess % 64) + n) } }
      c.tok (okR0 (n ||| (64 * b) <<< 32))))) ∧
  (∀ (r : Nat) (d : Dma) (s s1 : State) (c : Cmd) (R : Ring),
    taken 0x0111 [.operator, .tenant, .maintenance] r d s = some (c, s1) → c.payLen = 0 → c.target >>> 16 = 0 →
    4 ≤ c.target % 65536 → c.target % 65536 ≤ 255 → Tbl.get s1.hcu.rings (c.target % 65536) = some R → R.work = false →
    (R.owner = c.sess ∨ c.isOp = true) →
    exec (.ringDestroy r d) s = .next (commit s (answer (destroyRing s1 (c.target % 65536)) c.tok okAns))) ∧
  (∀ (r : Nat) (d : Dma) (s s1 : State) (c : Cmd),
    taken 0x0130 [.operator, .tenant, .maintenance] r d s = some (c, s1) →
    exec (.nop r d) s = .next (commit s (answer s1 c.tok okAns)))

/-- The request table's commands (03 R62, R65 to R67, R76, R79), taken and in order, on entries whose deadline watch is not
due. REQ_ADMIT passes steps 1 to 5 of R67, takes a FREE slot, forms the entry of R60 with the reservation of R66 and goes
on: with the GLOBAL_ID given, or with the next origin sequence once the mark of its block is committed. With its
token-history page it is charged at a local home and shown, ADMITTED in HBM and PARKED in flash. REQ_QUERY answers the
128-byte image and with RELEASE frees a terminal entry. REQ_SET_DEADLINE and REQ_SET_PRIORITY replace their fields; a
deadline that has passed acts at once. REQ_TOKENS_APPEND adds prompt tokens. REQ_COMPLETE and REQ_CANCEL end a request at
rest as DONE and FAILED, and wait on one that is in a step. REQ_LIST answers the handles of the listed entries. What the
spec leaves open in it is the model's choice, in log entries 5, 24 and 44. -/
def Obligations.RequestCommands : Prop :=
  (∀ (r : Nat) (d : Dma) (s s1 : State) (c : Cmd),
    let gid := c.fld 191 128
    let n := (takeSlot s1).1
    let hist := histUnitsOf (c.fld 127 107 + c.fld 106 86 + c.fld 15 12)
    let bytes := (c.fld 127 107 + c.fld 106 86 + c.fld 15 12 - c.fld 85 65) * c.fld 64 45
    let pages := ceilDiv bytes (4096 * 2 ^ c.fld 44 41) * (4096 * 2 ^ c.fld 44 41)
    let s2 : State := { (takeSlot s1).2 with rte := { (takeSlot s1).2.rte with
      histUnits := Tbl.set (takeSlot s1).2.rte.histUnits n hist } }
    let e : Entry := { noEntry with
      gid := gid, deadline := c.fld 255 192, admitTime := now s1, stateTime := now s1, plistRoot := noId
      resHbm := ceilDiv pages 65536, resFlash := ceilDiv pages 2097152, tenant := c.tenant, kvPerTok := c.fld 64 45
      prevOwner := 0xFFFF, epoch := epochNum s1, roleHist := s1.hcu.role, promptLen := c.fld 127 107, maxNew := c.fld 106 86
      home := c.fld 31 16, auxRoot := noId, codecSlot := c.fld 40 35, pageClass := c.fld 44 41, slotGen := slotGenOf s1 n
      prio := c.fld 34 32, durable := bit (c.fld 7 0) 5, remoteHome := c.fld 31 16 != me s1, watch := bit (c.fld 7 0) 7 }
    let w : HomeWait := ⟨n, e, c.tok, now s1, .mark, bit (c.fld 7 0) 6⟩
    taken 0x0201 [.operator, .tenant] r d s = some (c, s1) → admitChecks c = .ok () →
    0 < freeSlots s1 → admissionOpen s1 = true → (gid = 0 ∨ gidHeld s1 gid = false) →
    (c.fld 255 192 = 0 ∨ now s1 + (classRow s1 (c.fld 34 32)).minLead ≤ c.fld 255 192) →
    capsOk s1 (c.fld 34 32) c.tenant (ceilDiv pages 65536) = true → hbmFits s1 hist = true →
    exec (.reqAdmit r d) s = .next (commit s (
      if gid ≠ 0 then admitOn s2 w
      else if seqReady s1 = true ∧ s1.rte.markWaits = [] then admitDraw s2 w
      else { s2 with rte := { s2.rte with markWaits := s2.rte.markWaits ++ [w] } }))) ∧
  (∀ (s s1 s2 : State) (w : HomeWait) (tok root : Nat) (parked : Bool),
    let e := { w.ent with tokRoot := tok }
    allocPage s 4 0 false true = some (tok, s1) → mirroring s1 = false → w.ent.remoteHome = false →
    chargeHome s1 e.gid (me s1) e.tenant e.prio e.resHbm e.resFlash e.kvPerTok e.pageClass e.codecSlot w.parkOk e.durable
      = some (root, parked, s2) →
    admitOn s w = showAdmit s2 w.slot (parkedAt e parked root) w.tok) ∧
  (∀ (r : Nat) (d : Dma) (s s1 : State) (c : Cmd) (n : Nat) (x : Slot),
    taken 0x0202 [.operator, .tenant, .maintenance] r d s = some (c, s1) → c.payLen = 0 → 128 ≤ c.resLen →
    c.target >>> 32 = 0 → c.entry s1 c.target = .ok (n, x) →
    exec (.reqQuery r d) s = .next (commit s (answer s1 c.tok (okRes (entryImage x.e))))) ∧
  (∀ (r : Nat) (d : Dma) (s s1 : State) (c : Cmd) (n : Nat) (x : Slot),
    taken 0x0202 [.operator, .tenant, .maintenance] r d s = some (c, s1) → c.payLen = 16 → 128 ≤ c.resLen →
    c.target = 0 → c.fld 63 1 = 0 → c.fld 127 64 ≠ 0 → bit (c.fld 7 0) 0 = true → slotOfGid s1 (c.fld 127 64) = some n →
    getSlot s1 n = some x → c.entry s1 (handleOf n x.e.slotGen) = .ok (n, x) → x.e.state.terminal = true →
    relWaiting s1 n = false →
    exec (.reqQuery r d) s = .next (commit s (answer (freeEntry s1 n) c.tok (okRes (entryImage x.e))))) ∧
  (∀ (r : Nat) (d : Dma) (s s1 : State) (c : Cmd) (n : Nat) (x : Slot),
    taken 0x0203 [.operator, .tenant] r d s = some (c, s1) → c.payLen = 8 → c.target >>> 32 = 0 →
    c.entry s1 c.target = .ok (n, x) → s1.clk.synced = true → (watchActs x.e && bucketEnded s1 x.e) = false →
    openEntry s1 n x = .ok () →
    [RState.admitted, .prefill, .generate, .parked, .draining].contains x.e.state = true → x.e.expirePend = false →
    exec (.reqSetDeadline r d) s = .next (commit s (answer
      (if c.fld 63 0 ≠ 0 ∧ c.fld 63 0 ≤ now s1 then watchFires (updEntry s1 n fun e => { e with deadline := c.fld 63 0 }) n
       else updEntry s1 n fun e => { e with deadline := c.fld 63 0 }) c.tok okAns))) ∧
  (∀ (r : Nat) (d : Dma) (s s1 : State) (c : Cmd) (n : Nat) (x : Slot),
    taken 0x0204 [.operator] r d s = some (c, s1) → c.payLen = 8 → c.target >>> 32 = 0 → c.fld 31 3 = 0 →
    c.entry s1 c.target = .ok (n, x) → openEntry s1 n x = .ok () → x.e.state.terminal = false →
    exec (.reqSetPriority r d) s = .next (commit s (answer
      (updEntry s1 n fun e => { e with prio := c.fld 2 0, batchTag := c.fld 63 32 }) c.tok okAns))) ∧
  (∀ (r : Nat) (d : Dma) (s s1 : State) (c : Cmd) (n : Nat) (x : Slot),
    let toks := c.recs 8 4 (c.fld 31 0)
    taken 0x0205 [.operator, .tenant] r d s = some (c, s1) → 1 ≤ c.fld 31 0 → c.fld 31 0 ≤ 65536 →
    c.payLen = 8 + 4 * c.fld 31 0 → c.target >>> 32 = 0 → c.fld 47 32 = 0 → c.fld 63 49 = 0 →
    checkEach (fun i t => need (decide (t < 2 ^ 18)) St.fieldRange (inPay (8 + 4 * i + 2))) 0 toks = .ok () →
    bit (c.fld 48 48) 0 = false → c.entry s1 c.target = .ok (n, x) →
    x.hist.length - x.e.genLen + c.fld 31 0 ≤ x.e.promptLen → openEntry s1 n x = .ok () →
    [RState.admitted, .prefill, .generate, .parked, .draining].contains x.e.state = true → x.e.inStep = false →
    x.e.genLen = 0 →
    exec (.reqTokensAppend r d) s = .next (commit s (answer
      (setSlot s1 n { x with hist := x.hist ++ toks
                             e := { x.e with promptComplete := (x.hist ++ toks).length == x.e.promptLen } }) c.tok okAns))) ∧
  (∀ (r : Nat) (d : Dma) (s s1 : State) (c : Cmd) (n : Nat) (x : Slot),
    taken 0x0206 [.operator, .tenant] r d s = some (c, s1) → c.payLen = 0 → c.target >>> 32 = 0 →
    c.entry s1 c.target = .ok (n, x) → (watchActs x.e && bucketEnded s1 x.e) = false →
    openEntry s1 n x = .ok () → [RState.admitted, .prefill, .generate, .draining].contains x.e.state = true → x.e.movePend = false →
    exec (.reqComplete r d) s = .next (commit s (
      if x.e.inStep = true then waitOn s1 n .complete c.tok
      else answer (terminate s1 n .done St.ok) c.tok okAns))) ∧
  (∀ (r : Nat) (d : Dma) (s s1 : State) (c : Cmd) (n : Nat) (x : Slot),
    taken 0x0207 [.operator, .tenant] r d s = some (c, s1) → c.payLen = 0 → c.target >>> 32 = 0 →
    c.entry s1 c.target = .ok (n, x) → openEntry s1 n x = .ok () → x.e.state.terminal = false → x.e.state ≠ .handoff →
    x.e.expirePend = false →
    exec (.reqCancel r d) s = .next (commit s (
      if x.e.inStep = true ∨ x.e.movePend = true then
        waitOn (updEntry s1 n fun e => { e with cancelPend := true }) n .cancel c.tok
      else answer (terminate s1 n .failed St.ok) c.tok okAns))) ∧
  (∀ (r : Nat) (d : Dma) (s s1 : State) (c : Cmd),
    taken 0x020A [.operator, .maintenance] r d s = some (c, s1) → c.payLen = 8 → 1 ≤ c.fld 63 48 → c.fld 63 48 ≤ 32768 →
    4 * c.fld 63 48 ≤ c.resLen → c.target = 0 → c.fld 14 0 = 0 → c.fld 47 32 < 1024 → bit (c.fld 47 32) 0 = false →
    c.priv ≠ .tenant →
    exec (.reqList r d) s = .next (commit s (answer s1 c.tok
      { st := some St.ok, r0 := (listLive (c.fld 47 32) none (c.fld 31 15) (c.fld 63 48) s1.rte.slots).2
        result := (listLive (c.fld 47 32) none (c.fld 31 15) (c.fld 63 48) s1.rte.slots).1.flatMap (leBytes 4) })))

/-- What other controllers and timers do to the request table (03 R63, R69, R72, R73, R78; 05 R134; 06 R155), each where its
condition holds. A RESERVATION_REQUEST under an epoch that does not pass is refused, one of a home move is charged and
answered, one of an admission is refused where a cap is full and otherwise charged and answered; an answer of ST_OK shows
the entry and completes REQ_ADMIT, a refusal gives slot and token-history page back; 1 ms without an answer completes
ST_PEER_LOST and sends the release, which is sent again until it is acknowledged or the home marked LOST; the release frees
the charge; HOME_RELEASE detaches the list; a loss report applies to the entry; the deadline watch fires after its bucket,
in class order and then slot order; and LINGER_END frees a terminal entry. What the spec leaves open in it is the model's
choice, in log entries 24 and 44. -/
def Obligations.RequestEvents : Prop :=
  (∀ (s : State) (m : ResvMsg), epochPasses s m.epoch = false →
    exec (.reservationRequest m) s = .next (commit s (emit s (.resvAns m.frm m.gid St.epochStale noId 0)))) ∧
  (∀ (s : State) (m : ResvMsg), m.move = true → epochPasses s m.epoch = true →
    exec (.reservationRequest m) s = .next (commit s (report (moveCharge s m).2.2.2
      (.send (.resvAns m.frm m.gid (moveCharge s m).1 (moveCharge s m).2.1 (moveCharge s m).2.2.1))))) ∧
  (∀ (s : State) (m : ResvMsg), m.move = false → epochPasses s m.epoch = true →
    capsOk s m.prio m.tenant m.resHbm = false →
    exec (.reservationRequest m) s = .next (commit s (emit s (.resvAns m.frm m.gid St.noCapacity noId 0)))) ∧
  (∀ (s s1 : State) (m : ResvMsg) (root : Nat) (parked : Bool), m.move = false → epochPasses s m.epoch = true →
    capsOk s m.prio m.tenant m.resHbm = true → mirroring s = false →
    chargeHome s m.gid m.frm m.tenant m.prio m.resHbm m.resFlash m.kvPerTok m.pageClass m.codecSlot m.parkOk m.durable
      = some (root, parked, s1) →
    exec (.reservationRequest m) s = .next (commit s (report s1
      (.send (.resvAns m.frm m.gid (if parked = true then St.pending else St.ok) root 0))))) ∧
  (∀ (s : State) (gid : Nat), dropWait s gid =
    settleEpochs { s with rte := { s.rte with homeWaits := Tbl.del s.rte.homeWaits gid } }) ∧
  (∀ (s : State) (gid st root key : Nat) (w : HomeWait), Tbl.get s.rte.homeWaits gid = some w → w.phase = .home →
    (st = St.ok ∨ st = St.pending) →
    exec (.reservationAnswer w.ent.home gid st root key) s = .next (commit s
      (showAdmit (dropWait s gid) w.slot
        (parkedAt w.ent (st == St.pending) root) w.tok))) ∧
  (∀ (s : State) (gid st root key : Nat) (w : HomeWait), Tbl.get s.rte.homeWaits gid = some w → w.phase = .home →
    st ≠ St.ok → st ≠ St.pending →
    exec (.reservationAnswer w.ent.home gid st root key) s = .next (commit s
      (complete (dropSlot (freeInner (dropWait s gid) w.ent.tokRoot)
        w.slot) w.tok (if st = St.epochStale then St.epochStale else St.noCapacity) 0 0 [] true))) ∧
  (∀ (s : State) (gid : Nat) (w : HomeWait), Tbl.get s.rte.homeWaits gid = some w → w.phase = .home →
    w.sentAt + 1000000 ≤ now s → markedLost s w.ent.home = false →
    let s1 := dropWait s gid
    let s2 := complete (dropSlot (freeInner s1 w.ent.tokRoot) w.slot) w.tok St.peerLost 0 0 [] true
    exec (.homeAnswerTimeout gid) s = .next (commit s (emit
      { s2 with rte := { s2.rte with releases := s2.rte.releases ++ [(gid, w.ent.home)] } } (.resvRelease w.ent.home gid)))) ∧
  (∀ (s : State) (frm gid : Nat) (l : PList), s.rte.releases.contains (gid, frm) = false → getList s gid = some l → l.owner = frm →
    exec (.admissionRelease frm gid) s = .next (commit s (emit (detachList s gid) (.resvReleaseAck frm gid)))) ∧
  (∀ (s : State) (frm gid : Nat), s.rte.releases.contains (gid, frm) = true →
    exec (.admissionRelease frm gid) s = .next (commit s
      { s with rte := { s.rte with releases := s.rte.releases.filter (· != (gid, frm)) } })) ∧
  (∀ (s : State) (gid : Nat),
    let due := (s.rte.releases.filter fun x => x.1 == gid).filter fun x => !markedLost s x.2
    exec (.releaseResend gid) s = .next (commit s (due.foldl (fun a x => emit a (.resvRelease x.2 gid))
      { s with rte := { s.rte with releases := (s.rte.releases.filter fun x => !(x.1 == gid)) ++ due } }))) ∧
  (∀ (s : State) (frm gid : Nat) (l : PList), getList s gid = some l →
    exec (.homeRelease frm gid) s = .next (commit s (detachList s gid))) ∧
  (∀ (s : State) (gid st n : Nat) (charged : Bool) (x : Slot), slotOfGid s gid = some n → getSlot s n = some x →
    x.e.remoteHome = true →
    exec (.pageLossReport x.e.home gid st charged) s = .next (commit s (applyLoss s n ⟨st, charged, false⟩))) ∧
  (∀ (s : State) (n : Nat) (x : Slot), getSlot s n = some x → x.e.deadline ≠ 0 → x.e.state.terminal = false →
    x.e.state ≠ .handoff → x.e.expirePend = false → (x.e.deadline / 1024 + 1) * 1024 ≤ now s → watchTurn s n x.e = true →
    exec (.deadlineExpiry n) s = .next (commit s
      (if x.e.inStep = true ∨ x.e.movePend = true then
        (if x.e.cancelPend = true then s else updEntry s n fun e => { e with expirePend := true })
      else terminate s n .expired St.expired))) ∧
  (∀ (s : State) (n t : Nat) (x : Slot), getSlot s n = some x → x.lingerFrom = some t → x.e.state.terminal = true →
    t + s.rte.lingerMs * 1000000 ≤ now s →
    exec (.lingerEnd n) s = .next (commit s (freeEntry s n)))

/-- The tier commands and parking (06 R154, R155, R165, R166, R173), taken and in order. TIER_HINT ends the moves that it
overrules and sets the hint of the range, its granules in flash on their way to HBM under hint 2 and those in HBM on their
way to flash under hint 4; TIER_MIGRATE moves a range to flash or to HBM, or starts a home move; RANGE_TRIM journals TRIM
records and frees every granule of the range; GC_SET_WEIGHTS replaces the weights; DURABLE_FLUSH and DIAG_MEM_SCRUB start a
save and a scrub pass; REQ_PARK and REQ_UNPARK of a list homed here take the second charge, start the moves of its pages and
set MOVE_PEND. What the spec leaves open in it is the model's choice, in log entries 26 and 44. -/
def Obligations.TierCommands : Prop :=
  (∀ (r : Nat) (d : Dma) (s s1 : State) (c : Cmd),
    let base := c.fld 191 128
    let len := c.fld 127 64
    let h := c.fld 2 0
    let gs := (if h = 2 then rangeAt s1 base len .flash else if h = 4 then rangeAt s1 base len .hbm else []).filter
      fun g => !isDurable s1 g
    taken 0x0501 [.operator, .tenant] r d s = some (c, s1) → c.payLen = 24 → c.target = 0 → bit (c.fld 4 4) 0 = false →
    rangeLen base len = true → rangeBase base = true → h ≤ 4 →
    c.fld 3 3 = 0 → c.fld 47 5 = 0 → c.extentsOk s1 base len = true →
    (h = 2 → gs.length ≤ objectFree s1) → (h = 4 → objectFlashFits s1 gs.length = true) →
    exec (.tierHint r d) s = .next (commit s (
      if gs.isEmpty = true then answer (setHints (hintWins s1 base len h) base len h) c.tok okAns
      else startJob (setHints (hintWins s1 base len h) base len h) c.tok .hint (h == 4) gs))) ∧
  (∀ (r : Nat) (d : Dma) (s s1 : State) (c : Cmd),
    let base := c.fld 255 192
    let len := c.fld 191 128
    let flash := c.fld 3 0 == 2
    let gs := (rangeAt s1 base len (if flash then .hbm else .flash)).filter fun g => !isDurable s1 g
    taken 0x0502 [.operator] r d s = some (c, s1) → c.payLen = 32 → c.target = 0 → (c.fld 3 0 = 1 ∨ c.fld 3 0 = 2) →
    rangeLen base len = true → rangeBase base = true →
    c.fld 111 4 = 0 → (flash = false → gs.length ≤ objectFree s1) → (flash = true → objectFlashFits s1 gs.length = true) →
    exec (.tierMigrate r d) s = .next (commit s
      (startJob (setHints s1 base len (if flash then 3 else 1)) c.tok .migrate flash gs))) ∧
  (∀ (r : Nat) (d : Dma) (s s1 : State) (c : Cmd) (n : Nat) (x : Slot),
    taken 0x0502 [.operator] r d s = some (c, s1) → c.payLen = 32 → c.fld 191 128 = 0 → c.target >>> 32 = 0 →
    c.fld 3 0 = 3 → c.fld 111 4 = 0 → c.fld 255 192 = 0 → c.entry s1 c.target = .ok (n, x) → openEntry s1 n x = .ok () →
    stepState x.e = true → x.e.inStep = false → x.e.movePend = false → c.fld 127 112 ≠ x.e.home →
    exec (.tierMigrate r d) s = .next (commit s (startHomeMove s1 c.tok n (c.fld 127 112)))) ∧
  (∀ (r : Nat) (d : Dma) (s s1 : State) (c : Cmd),
    let base := c.fld 127 64
    let len := c.fld 63 0
    let s2 := trimRecords 4 (base / 4096) (len / 4096) s1
    let s3 := retryWrites (((Tbl.keys s1.tfm.map).filter fun g =>
      decide (base / 4096 ≤ g) && decide (g < (base + len) / 4096)).foldl freeGranule s2)
    taken 0x0503 [.operator, .tenant] r d s = some (c, s1) → c.payLen = 16 → c.target = 0 →
    rangeLen base len = true → rangeBase base = true →
    c.extentsOk s1 base len = true →
    (durableShut s1 && s1.tfm.map.any fun kv =>
      decide (base / 4096 ≤ kv.1) && decide (kv.1 < (base + len) / 4096) && isDurable s1 kv.1) = false →
    exec (.rangeTrim r d) s = .next (commit s (settleJobs
      { s3 with tfm := { s3.tfm with nextId := s3.tfm.nextId + 1, jobs := Tbl.set s3.tfm.jobs s3.tfm.nextId ⟨
          c.tok, 0, s2.jnl.seq - 1⟩ } }))) ∧
  (∀ (r : Nat) (d : Dma) (s s1 : State) (c : Cmd),
    taken 0x0504 [.operator, .maintenance] r d s = some (c, s1) → c.payLen = 0 → 128 ≤ c.resLen → c.target = 0 →
    exec (.tierStats r d) s = .next (commit s (answer s1 c.tok (okRes (tierWords s1))))) ∧
  (∀ (r : Nat) (d : Dma) (s s1 : State) (c : Cmd),
    taken 0x0510 [.operator] r d s = some (c, s1) → c.payLen = 8 → c.target = 0 → c.fld 15 0 = 0 → 32 ≤ c.fld 27 16 →
    c.fld 27 16 < c.fld 39 28 → 64 ≤ c.fld 39 28 → c.fld 39 28 ≤ 2048 →
    exec (.gcSetWeights r d) s = .next (commit s (answer
      { s1 with tfm := { s1.tfm with gc := ⟨c.fld 63 56, c.fld 55 48, c.fld 47 40, c.fld 39 28, c.fld 27 16⟩ } } c.tok okAns))) ∧
  (∀ (r : Nat) (d : Dma) (s s1 : State) (c : Cmd),
    taken 0x0511 [.operator, .maintenance] r d s = some (c, s1) → c.payLen = 0 → 4160 ≤ c.resLen → c.target = 0 →
    exec (.flashHealth r d) s = .next (commit s (answer s1 c.tok (okRes
      (leBytes 64 (Config.healthSummary [spareBands s1, freeBands s1, wearNow s1,
        s1.tfm.blocks.countP fun kv => kv.2.retired]).toNat ++ (List.range 256).flatMap (dieBytes s1)))))) ∧
  (∀ (r : Nat) (d : Dma) (s s1 : State) (c : Cmd),
    taken 0x0512 [.operator] r d s = some (c, s1) → c.payLen = 0 → c.target = 0 → s1.jnl.saving = false →
    exec (.durableFlush r d) s = .next (commit s (answer
      { s1 with jnl := { s1.jnl with saving := true, saveTok := some c.tok } } c.tok pendAns))) ∧
  (∀ (r : Nat) (d : Dma) (s s1 : State) (c : Cmd),
    taken 0x0E11 [.maintenance] r d s = some (c, s1) → c.payLen = 8 → c.target = 0 → c.fld 1 0 ≠ 0 → c.fld 63 2 = 0 →
    s1.tfm.scrub = none →
    exec (.diagMemScrub r d) s = .next (commit s (answer
      { s1 with tfm := { s1.tfm with scrub := some ⟨c.tok, c.fld 1 0, 0, 0⟩ } } c.tok pendAns))) ∧
  (∀ (r : Nat) (d : Dma) (s s1 : State) (c : Cmd) (n : Nat) (x : Slot) (l : PList) (v : Resv),
    let s2 := setPark (setResv s1 l.gid { v with both := true }) l.gid ⟨true, me s1, 0⟩
    let gs := ((parkPages s1 l).flatMap pageGs).filter fun g => (tmap s1 g).place == .hbm
    taken 0x0208 [.operator, .tenant] r d s = some (c, s1) → c.payLen = 0 → c.target >>> 32 = 0 →
    c.entry s1 c.target = .ok (n, x) → getSlot s1 n = some x → x.e.remoteHome = false → openEntry s1 n x = .ok () →
    x.e.inStep = false → x.e.movePend = false → x.restoring = false → (x.e.state = .admitted ∨ x.e.state = .generate) →
    getList s1 x.e.gid = some l → Tbl.get s1.rte.resv l.gid = some v → Tbl.has s1.tfm.parks l.gid = false →
    flashFits s1 v.flash = true →
    exec (.reqPark r d) s = .next (commit s (answer
      (ownMove n c.tok (fillRow 1 (gs.foldl (startPark (.park l.gid) true 4) s2))) c.tok pendAns))) ∧
  (∀ (r : Nat) (d : Dma) (s s1 : State) (c : Cmd) (n : Nat) (x : Slot) (l : PList) (v : Resv),
    let s2 := setPark (setResv s1 l.gid { v with both := true }) l.gid ⟨false, me s1, 0⟩
    let gs := (l.pages.flatMap pageGs).filter fun g => (tmap s1 g).place == .flash
    taken 0x0209 [.operator, .tenant] r d s = some (c, s1) → c.payLen = 0 → c.target >>> 32 = 0 →
    c.entry s1 c.target = .ok (n, x) → getSlot s1 n = some x → x.e.remoteHome = false → openEntry s1 n x = .ok () →
    x.e.inStep = false → x.e.movePend = false → x.restoring = false → x.e.state = .parked →
    getList s1 x.e.gid = some l → Tbl.get s1.rte.resv l.gid = some v → Tbl.has s1.tfm.parks l.gid = false →
    capsOk (delResv s1 l.gid) v.cls v.tenant v.hbm = true → hbmFits s1 v.hbm = true →
    exec (.reqUnpark r d) s = .next (commit s (answer
      (ownMove n c.tok (gs.foldl (startPark (.unpark l.gid) false 1) s2)) c.tok pendAns)))

/-- The ends of parks, unparks and moves, and forwarded commands (05 R122; 06 R154, R155), each where its condition holds.
HOME_MOVE_COMMIT puts the new home and root in, lets the old list go and ends the move; a scrub pass ends with its counts;
PARK_COMMIT switches every page to its flash copy and parks the entry; UNPARK_DONE promotes the pages and returns the entry.
A FORWARD is applied at the home and answered, or refused under an epoch that does not pass; the answer completes the
owner's command, and 1 ms without one completes it ST_PEER_LOST. What the spec leaves open in it is the model's choice, in
log entries 26 and 33. -/
def Obligations.MoveAndForwardEvents : Prop :=
  (∀ (s : State) (n root : Nat) (x : Slot), getSlot s n = some x → x.e.movePend = true → x.moveReady = true →
    let s1 := setSlot s n { x with e := { x.e with home := x.moveDest, plistRoot := root, remoteHome := x.moveDest != me s } }
    exec (.homeMoveCommit n root) s = .next (commit s (endMove
      (if x.e.remoteHome = true then emit s1 (.homeRelease x.e.home x.e.gid) else detachList s1 x.e.gid) n St.ok
      (pagesFor x.e.kvPerTok x.e.pageClass x.e.ctxLen * 2 ^ x.e.pageClass)))) ∧
  (∀ (s : State) (j : ScrubJob), s.tfm.scrub = some j →
    exec .diagScrubDone s = .next (commit s (finish { s with tfm := { s.tfm with scrub := none } } j.tok St.ok j.corrected j.bad))) ∧
  (∀ (s : State) (gid : Nat) (p : ParkJob) (v : Resv),
    let gs := s.tfm.moves.filter fun kv => kv.2.kind == .park gid
    let s1 := gs.foldl (fun a kv => switchToFlash a kv.1) { s with tfm := { s.tfm with parks := Tbl.del s.tfm.parks gid } }
    let s2 := setResv s1 gid { v with onFlash := true, both := false }
    let stay := ((getList s2 gid).map (stayUnits s2)).getD 0
    Tbl.get s.tfm.parks gid = some p → Tbl.get s.rte.resv gid = some v → p.parking = true →
    (gs.any fun kv => !kv.2.committed) = false →
    exec (.parkCommit gid) s = .next (commit s
      (tellOwner s2 gid p stay fun a n => ownParked a n stay))) ∧
  (∀ (s s1 : State) (gid : Nat) (p : ParkJob) (v : Resv) (l : PList),
    Tbl.get s.tfm.parks gid = some p → Tbl.get s.rte.resv gid = some v → getList s gid = some l → p.parking = false →
    ((s.tfm.moves.filter fun kv => kv.2.kind == .unpark gid).map (·.1)).foldl (fun o g => o.bind fun a => promote (readMedia a g) g) (some s) = some s1 →
    exec (.unparkDone gid) s = .next (commit s (tellOwner
      (setResv { s1 with tfm := { s1.tfm with parks := Tbl.del s1.tfm.parks gid } } gid { v with onFlash := false, both := false })
      gid p l.usedUnits fun a n => ownUnparked a n l.usedUnits))) ∧
  (∀ (s : State) (m : FwdMsg), s.sbu.bootDone = true → epochPasses s m.epoch = false →
    exec (.forward m) s = .next (commit s (emit s (.fwdAns m.frm (fwdAnswer s m { st := none } St.epochStale none))))) ∧
  (∀ (s : State) (id : Nat), dropFwd s id = settleEpochs { s with ppm := { s.ppm with fwds := Tbl.del s.ppm.fwds id } }) ∧
  (∀ (s : State) (m : FwdMsg) (l : PList), s.sbu.bootDone = true → epochPasses s m.epoch = true →
    listRestoring s m = false →
    m.op = 0x0405 → m.checks = [(St.ok, 0)] → m.list s = .ok l → m.fld 40 18 ≤ l.pages.length →
    exec (.forward m) s = .next (commit s (report s (.send (.fwdAns m.frm
      (fwdAnswer s m (okRes (listResult l (m.fld 40 18) (m.fld 16 0))) St.ok none)))))) ∧
  (∀ (s : State) (a : FwdAns) (w : FwdWait), Tbl.get s.ppm.fwds a.id = some w → w.dst = a.frm →
    (w.op = 0x0404 ∨ w.op = 0x0405 ∨ w.op = 0x0410 ∨ w.op = 0x0411 ∨ w.op = 0x0420) →
    exec (.forwardAnswer a) s = .next (commit s (finish
      (takeAns (dropFwd s a.id) w a) w.tok a.st a.r0 a.detail a.result))) ∧
  (∀ (s : State) (id : Nat) (w : FwdWait), Tbl.get s.ppm.fwds id = some w →
    (w.op = 0x0404 ∨ w.op = 0x0405 ∨ w.op = 0x0410 ∨ w.op = 0x0411 ∨ w.op = 0x0420) → w.sentAt + 1000000 ≤ now s →
    exec (.forwardTimeout id) s = .next (commit s (finish (dropFwd s id) w.tok St.peerLost 0 0)))

/-- The page and prefix commands on pages homed here (05 R114 to R139), taken and in order. PAGE_ALLOC answers the pages it
takes; PAGE_FREE lets each go; PLIST_APPEND attaches a node's pages to an empty list, makes the tail private, appends pages
and sets CTX_LEN, in one change of the list; PLIST_TRUNCATE and PLIST_QUERY shorten and show a list; PREFIX_LOOKUP answers
the deepest match and sets LAST_HIT; PREFIX_INSERT of chunks that all match answers the match; PREFIX_EVICT evicts a subtree
or least-recently-hit leaves and answers nodes and units; PAGE_SHARE puts the source's pages in the empty list; PAGE_STATS
answers the counts; and the reclaimer takes eight entries. What the spec leaves open in it is the model's choice, in log
entries 5, 25 and 47. -/
def Obligations.PageCommands : Prop :=
  (∀ (r : Nat) (d : Dma) (s s1 s2 : State) (c : Cmd) (ids : List Nat),
    taken 0x0401 [.operator, .tenant] r d s = some (c, s1) → c.payLen = 8 → 1 ≤ c.fld 16 0 → c.fld 16 0 ≤ 65536 →
    4 * c.fld 16 0 ≤ c.resLen → c.target = 0 → c.fld 31 17 = 0 → c.fld 35 32 ≤ 9 → c.fld 63 36 = 0 →
    c.fld 16 0 * 2 ^ c.fld 35 32 ≤ objectFree s1 →
    allocPages s1 (c.fld 35 32) c.tenant true false (c.fld 16 0) = some (ids, s2) →
    exec (.pageAlloc r d) s = .next (commit s (answer s2 c.tok (okRes (histBytes ids))))) ∧
  (∀ (r : Nat) (d : Dma) (s s1 : State) (c : Cmd),
    taken 0x0402 [.operator, .tenant] r d s = some (c, s1) → 1 ≤ c.fld 16 0 → c.fld 16 0 ≤ 65536 →
    c.payLen = 8 + 4 * c.fld 16 0 → c.target = 0 → c.fld 63 17 = 0 →
    checkEach (fun _ id => c.looseOk s1 id) 0 (c.recs 8 4 (c.fld 16 0)) = .ok () →
    (distinct (c.recs 8 4 (c.fld 16 0))).length = (c.recs 8 4 (c.fld 16 0)).length →
    exec (.pageFree r d) s = .next (commit s (answer ((c.recs 8 4 (c.fld 16 0)).foldl decRef s1) c.tok okAns))) ∧
  (∀ (r : Nat) (d : Dma) (s s1 s2 s3 s4 : State) (c : Cmd) (n : Nat) (x : Slot) (l l2 l3 : PList) (ids : List Nat),
    let node := if c.fld 127 96 = noNode then none else findNode s1 (c.fld 127 96)
    let l1 := attached s1 l node
    taken 0x0403 [.operator, .tenant] r d s = some (c, s1) → c.payLen = 16 → c.fld 42 26 ≤ 65536 → c.fld 63 43 ≤ 1048576 →
    4 * (c.fld 42 26 + 1) ≤ c.resLen → c.target >>> 32 = 0 → c.fld 24 0 = 0 → restsHere s1 c c.target n x l →
    (c.fld 127 96 = noNode ∨ node ≠ none ∧ l.pages = []) → l1.pages.length + c.fld 42 26 ≤ 4194304 →
    c.fld 63 43 * l.kvPerTok ≤ (l1.pages.length + c.fld 42 26) * psize l.cls → l1.ctxLen ≤ c.fld 63 43 →
    (c.fld 95 64 = l.ns ∨ (l.ns = 0 ∧ l.pages = [])) → nodeFits s1 l (c.fld 95 64) node = true →
    fitBlocks (match node with
      | none => s1
      | some p => hitNodes (l1.pages.foldl incRef s1) [p.1]) { l1 with ns := c.fld 95 64 } = some (l2, s2) →
    (if 0 < c.fld 42 26 ∨ bit (c.fld 25 25) 0 = true then privTail (putList s2 l2) l.gid else some (putList s2 l2)) = some s3 →
    (if c.fld 42 26 = 0 then some ([], s3) else appendPages s3 l.gid (c.fld 42 26)) = some (ids, s4) →
    getList s4 l.gid = some l3 →
    let s5 := oneChange l (putList s4 { l3 with ctxLen := c.fld 63 43 })
    let w := writable s5 (tailPos l1) l3 ids
    exec (.plistAppend r d) s = .next (commit s (answer (ownAppend n s5) c.tok
      { st := some St.ok, r0 := w.1, result := histBytes w.2 }))) ∧
  (∀ (r : Nat) (d : Dma) (s s1 : State) (c : Cmd) (n : Nat) (x : Slot) (l : PList),
    taken 0x0404 [.operator, .tenant] r d s = some (c, s1) → c.payLen = 8 → c.target >>> 32 = 0 → c.fld 63 21 = 0 →
    restsHere s1 c c.target n x l → c.fld 20 0 ≤ l.ctxLen →
    exec (.plistTruncate r d) s = .next (commit s (answer (truncate s1 l.gid (c.fld 20 0)) c.tok okAns))) ∧
  (∀ (r : Nat) (d : Dma) (s s1 : State) (c : Cmd) (l : PList),
    taken 0x0405 [.operator, .tenant, .maintenance] r d s = some (c, s1) → c.payLen = 16 → 1 ≤ c.fld 16 0 →
    c.fld 16 0 ≤ 65536 → c.fld 40 18 ≤ 4194304 → 64 + 4 * c.fld 16 0 ≤ c.resLen → c.target = 0 → c.fld 17 17 = 0 →
    c.fld 63 41 = 0 → c.fld 127 64 ≠ 0 → getList s1 (c.fld 127 64) = some l → c.tenantOk l.tenant = true →
    c.fld 40 18 ≤ l.pages.length →
    exec (.plistQuery r d) s = .next (commit s (answer s1 c.tok
      (okRes (plistImage l ++ histBytes ((l.pages.drop (c.fld 40 18)).take (c.fld 16 0))))))) ∧
  (∀ (r : Nat) (d : Dma) (s s1 : State) (c : Cmd),
    let is := lookup s1 (c.fld 95 64) (if c.priv = .tenant then c.tenant else c.fld 111 96)
      (wordsOf (c.fld 16 0) (c.pay.drop 16))
    taken 0x0410 [.operator, .tenant] r d s = some (c, s1) → 1 ≤ c.fld 16 0 → c.fld 16 0 ≤ 65536 →
    c.payLen = 16 + 4 * c.fld 16 0 → c.target = 0 → c.fld 63 17 = 0 → c.fld 95 64 ≠ 0 →
    checkEach (fun i t => need (decide (t < 2 ^ 18)) St.fieldRange (inPay (16 + 4 * i + 2))) 0 (c.recs 16 4 (c.fld 16 0))
      = .ok () → c.fld 127 112 = me s1 →
    exec (.prefixLookup r d) s = .next (commit s (answer (hitNodes s1 is) c.tok (okR0 (lookupR0 s1 is))))) ∧
  (∀ (r : Nat) (d : Dma) (s s1 : State) (c : Cmd) (n : Nat) (x : Slot) (l : PList),
    let got := lookup s1 l.ns l.tenant (x.hist.take (c.fld 16 0))
    taken 0x0411 [.operator, .tenant] r d s = some (c, s1) → (c.priv ≠ .tenant ∨ c.fld 32 32 = 0) → c.payLen = 8 →
    16 ≤ c.fld 16 0 → c.fld 16 0 ≤ 65536 → c.target >>> 32 = 0 → c.fld 16 0 % 16 = 0 → c.fld 31 17 = 0 → c.fld 63 33 = 0 →
    restsHere s1 c c.target n x l → c.fld 16 0 ≤ l.ctxLen → c.fld 16 0 ≤ x.hist.length → l.ns ≠ 0 →
    c.fld 16 0 ≤ got.length * 16 →
    exec (.prefixInsert r d) s = .next (commit s (answer s1 c.tok (okR0 (lookupR0 s1 got))))) ∧
  (∀ (r : Nat) (d : Dma) (s s1 : State) (c : Cmd) (i : Nat) (x : PNode),
    let is := subtree s1 s1.ppm.nodes.length i
    let s2 := is.foldl evictNode s1
    taken 0x0412 [.operator] r d s = some (c, s1) → c.payLen = 8 → c.fld 63 32 ≠ noNode → c.fld 23 0 = 0 → c.target = 0 →
    c.fld 31 24 = 0 → findNode s1 (c.fld 63 32) = some (i, x) →
    exec (.prefixEvict r d) s = .next (commit s (answer s2 c.tok
      (okR0 (is.length <<< 32 ||| (prefixUnits s1 - prefixUnits s2)))))) ∧
  (∀ (r : Nat) (d : Dma) (s s1 : State) (c : Cmd),
    let p := evictLru (c.fld 23 0) s1
    taken 0x0412 [.operator] r d s = some (c, s1) → c.payLen = 8 → c.fld 63 32 = noNode → c.fld 23 0 ≠ 0 → c.target = 0 →
    c.fld 31 24 = 0 →
    exec (.prefixEvict r d) s = .next (commit s (answer p.2 c.tok
      (okR0 (p.1 <<< 32 ||| (prefixUnits s1 - prefixUnits p.2)))))) ∧
  (∀ (r : Nat) (d : Dma) (s s1 s2 s3 : State) (c : Cmd) (n k : Nat) (x y : Slot) (l src l1 l2 : PList),
    let ps := src.pages.take (pagesFor src.kvPerTok src.cls (c.fld 63 43))
    let l0 : PList := { l with pages := ps, shared := sharedCount s1 ps
                               ctxLen := c.fld 63 43, ns := src.ns }
    taken 0x0420 [.operator, .tenant] r d s = some (c, s1) → c.payLen = 16 → c.fld 63 43 ≠ 0 → c.target >>> 32 = 0 →
    c.fld 42 0 = 0 → c.fld 95 64 = 0 → restsHere s1 c c.target n x l → restsHere s1 c (c.fld 127 96) k y src →
    c.fld 63 43 ≤ y.e.ctxLen → x.e.home = y.e.home → x.e.kvPerTok = y.e.kvPerTok → x.e.pageClass = y.e.pageClass →
    x.e.codecSlot = y.e.codecSlot → c.fld 63 43 ≤ src.ctxLen → (l.ns = src.ns ∨ l.ns = 0) → l.pages = [] →
    growRes s1 l.gid (usedUnitsOf l0) = some s2 → getList s2 l.gid = some l1 →
    fitBlocks (ps.foldl incRef s2) { l0 with resUnits := l1.resUnits } = some (l2, s3) →
    exec (.pageShare r d) s = .next (commit s (answer (oneChange l (putList s3 l2)) c.tok okAns))) ∧
  (∀ (r : Nat) (d : Dma) (s s1 : State) (c : Cmd),
    taken 0x0430 [.operator, .maintenance] r d s = some (c, s1) → c.payLen = 0 → 256 ≤ c.resLen → c.target = 0 →
    exec (.pageStats r d) s = .next (commit s (answer s1 c.tok (okRes (statWords s1))))) ∧
  (∀ (s : State),
    exec .reclaim s = .next (commit s ((s.ppm.reclaim.take 8).foldl decRef
      { s with ppm := { s.ppm with reclaim := s.ppm.reclaim.drop 8 } })))

/-- The caravan and map commands, and what time does to epochs (04 R101 to R113), taken and in order. CVN_OFFER puts the
request in HANDOFF, opens an OFFERED record under the next CVN_ID and sends OFFER; CVN_WITHDRAW of an offer still OFFERED
sends WITHDRAW and resumes the request; CVN_STATUS shows a record. MAP_INSTALL adds a map, which becomes CURRENT at once or
at its ACTIVATE_AT; MAP_QUERY lists the epochs or shows one map. EPOCH_ACTIVATE makes a PENDING map CURRENT when its time is
reached, and DRAIN_TIMEOUT retires a DRAINING epoch with the caravans no end has accepted. What the spec leaves open in it
is the model's choice, in log entries 27 and 46. -/
def Obligations.CaravanCommands : Prop :=
  (∀ (r : Nat) (d : Dma) (s s1 : State) (c : Cmd) (n : Nat) (x : Slot),
    let kind := c.fld 1 0
    let dest := c.fld 127 112
    let v := offerRec s1 n x dest kind (if c.fld 95 80 = 0 then s1.cve.timers.offer else c.fld 95 80) c.tok
    let s2 := setSlot s1 n { x with
      e := { x.e with state := .handoff, prior := x.e.state, cvnId := v.cvnId, epoch := v.epoch, stateTime := now s1 }
      parkFrom := x.e.prior }
    taken 0x0301 [.operator] r d s = some (c, s1) → c.payLen = 16 →
    (c.fld 95 80 = 0 ∨ (10 ≤ c.fld 95 80 ∧ c.fld 95 80 ≤ 10000)) → c.target >>> 32 = 0 → kind ≤ 1 → c.fld 79 2 = 0 →
    c.fld 111 96 = 0 → c.entry s1 c.target = .ok (n, x) → s1.cve.selfLost = false → (nodeRec s1 dest).isSome = true →
    markedLost s1 dest = false → isUs s1 dest = false → (isPages kind = true → isUs s1 x.e.home = true) →
    openEntry s1 n x = .ok () →
    (x.e.state = .admitted ∨ x.e.state = .prefill ∨ x.e.state = .generate) → x.e.promptComplete = true →
    x.e.inStep = false → x.e.movePend = false → x.restoring = false → openRecs s1 < 4096 →
    exec (.cvnOffer r d) s = .next (commit s (answer
      (sendCvn (openCvn (bumpCvn s2 x) (cvnKey v.src v.cvnId) v) v Cv.offer) c.tok
      { st := some St.pending, r0 := v.epoch, detail := v.cvnId }))) ∧
  (∀ (r : Nat) (d : Dma) (s s1 : State) (c : Cmd) (n k : Nat) (x : Slot) (v : Caravan),
    taken 0x0302 [.operator] r d s = some (c, s1) → c.payLen = 0 → c.target >>> 32 = 0 → c.entry s1 c.target = .ok (n, x) →
    openEntry s1 n x = .ok () → x.e.state = .handoff → entryCvn s1 n = some (k, v) → v.cstate = .offered →
    exec (.cvnWithdraw r d) s = .next (commit s (answer
      (cvnResume (sendCvn s1 v Cv.withdraw) k v .withdrawn 2 St.ok) c.tok okAns))) ∧
  (∀ (r : Nat) (d : Dma) (s s1 : State) (c : Cmd) (v : Caravan),
    taken 0x0303 [.operator, .maintenance] r d s = some (c, s1) → c.payLen = 8 → 64 ≤ c.resLen → c.target >>> 32 = 0 →
    c.fld 47 0 = 0 → getRec s1 (cvnKey (c.fld 63 48) c.target) = some v →
    exec (.cvnStatus r d) s = .next (commit s (answer s1 c.tok (okRes (caravanImage v))))) ∧
  (∀ (r : Nat) (d : Dma) (s s1 : State) (c : Cmd) (i : Nat),
    let count := c.fld 175 160
    let drain := c.fld 159 128
    let num := c.fld 191 176
    let nodes := (c.recs 32 16 count).map nodeOf
    let own := nodes.getD i ⟨0, 0, 0, 0, 0, false, false⟩
    let atOnce := decide (c.fld 255 192 ≤ now s1)
    let e : Epoch := ⟨num, .pending, c.fld 255 192, if drain = 0 then 2000 else drain, 0, nodes, c.pay,
      if atOnce then none else some c.tok⟩
    let s2 := { s1 with cve := { s1.cve with epochs := s1.cve.epochs ++ [e] } }
    taken 0x0310 [.operator] r d s = some (c, s1) → (drain = 0 ∨ (100 ≤ drain ∧ drain ≤ 100000)) → 1 ≤ count →
    count ≤ 4096 → c.payLen = 32 + 16 * count → c.target = 0 → c.fld 127 0 = 0 →
    (∀ r ∈ c.recs 32 16 count, bits r 95 80 ≤ 255 ∧ bits r 67 0 = 0 ∧ 1 ≤ bits r 79 76 ∧ bits r 79 76 ≤ 3) →
    1 ≤ num → num ≤ 0xFFFE → (s1.cve.epochs.all fun e => newer num e.num) = true →
    firstRepeat (fun r => some r.node) 0 nodes = none →
    firstRepeat (fun r => if r.inDomain then some r.domain else none) 0 nodes = none →
    nodes.findIdx? (fun r => r.node == me s1) = some i → own.role = s1.hcu.role → own.partner = actualPartner s1 →
    s1.cve.epochs.length < 4 → (s1.cve.epochs.all fun e => e.st != .pending) = true →
    (c.fld 255 192 = 0 ∨ s1.clk.synced = true) →
    exec (.mapInstall r d) s = .next (commit s (
      if atOnce = true then answer (activate s2 num) c.tok (okR0 num)
      else answer s2 c.tok { st := some St.pending, r0 := num }))) ∧
  (∀ (r : Nat) (d : Dma) (s s1 : State) (c : Cmd),
    taken 0x0311 [.operator, .maintenance] r d s = some (c, s1) → c.payLen = 8 → c.fld 15 0 = 0 → 64 ≤ c.resLen →
    c.target = 0 → c.fld 63 16 = 0 →
    exec (.mapQuery r d) s = .next (commit s (answer s1 c.tok (okRes (s1.cve.epochs.flatMap fun e =>
      leBytes 16 (e.num ||| e.st.code <<< 16 ||| inFlight s1 e.num <<< 32 ||| e.activateAt <<< 64)))))) ∧
  (∀ (r : Nat) (d : Dma) (s s1 : State) (c : Cmd) (e : Epoch),
    taken 0x0311 [.operator, .maintenance] r d s = some (c, s1) → c.payLen = 8 → c.fld 15 0 ≠ 0 →
    s1.cve.epochs.find? (fun e => e.num == c.fld 15 0) = some e → c.target = 0 → c.fld 63 16 = 0 →
    e.image.length ≤ c.resLen →
    exec (.mapQuery r d) s = .next (commit s (answer s1 c.tok (okRes e.image)))) ∧
  (∀ (s : State) (e : Epoch), s.cve.epochs.find? (fun e => e.st == .pending) = some e → e.activateAt ≤ now s →
    exec .epochActivate s = .next (commit s (activate s e.num))) ∧
  (∀ (s : State) (num : Nat) (e : Epoch), s.cve.epochs.find? (fun e => e.num == num) = some e → e.st = .draining →
    e.drainFrom + e.drainUs * 1000 ≤ now s →
    exec (.drainTimeout num) s = .next (commit s (s.cve.recs.foldl (retireRec num)
      { s with cve := { s.cve with epochs := s.cve.epochs.filter fun x => x.num != num } })))

/-- The caravan messages and timers (04 R85 to R93), each where it is heard and its condition holds. An OFFER that fits
takes slot, charge and key and sends PULL; a PULL of an OFFERED record writes the regions and sends MANIFEST; a MANIFEST
that agrees commits; RECEIPT releases the request at the sender; RELEASE ends REL_WAIT, or gives the list its new owner at
the home; DECLINE resumes the request; WITHDRAW aborts the receiver; a PROBE is answered with the outcome and an answer
settles an IN_DOUBT sender. The offer, receipt and pulled timeouts withdraw, abort and put in doubt; the probe interval and
the release timeout probe; and a bounced OFFER is sent again after 50 µs. What the spec leaves open in it is the model's
choice, in log entries 27 and 46. -/
def Obligations.CaravanMessages : Prop :=
  (∀ (s s2 : State) (m : CvnMsg) (cslot key : Nat), ¬ (s.cve.selfLost = true ∧ m.epoch = epochNum s) → s.mru.st ≠ .fenced →
    offerHdr s m = .ok cslot → offerFits s m = St.ok →
    newKey (takeSlot s).2 0 (landingLen m.kind m.histTokens m.auxBytes m.pageUnits) m.tenant 2 m.src
      (.caravan (cvnKey m.src m.cvnId)) = some (key, s2) →
    let n := (takeSlot s).1
    let v := pullRec s m n key cslot
    let s3 := { s2 with rte := { s2.rte with histUnits := Tbl.set s2.rte.histUnits n (histUnitsOf m.histTokens) } }
    exec (.cvnMsgOffer m) s = .next (commit s (sendCvn (openCvn (if isPages m.kind = true then
        holdTags (setResv s3 m.gid ⟨m.prio, m.tenant, m.pageUnits, resFlashOf m.pageUnits, false, false, m.durable != 0⟩)
          cslot v.tags
      else s3) (cvnKey m.src m.cvnId) v) v Cv.pull))) ∧
  (∀ (s : State) (m : CvnMsg) (v : Caravan) (x : Slot), cvnHeard s Cv.pull m → getRec s (cvnKey m.src m.cvnId) = some v →
    v.cstate = .offered → epochLive s m.epoch = true → getSlot s v.slot = some x →
    exec (.cvnMsgPull m) s = .next (commit s (sendLanding s (cvnKey m.src m.cvnId) v m.key x))) ∧
  (∀ (s : State) (m : CvnMsg) (v : Caravan), cvnHeard s Cv.manifest m → getRec s (cvnKey m.src m.cvnId) = some v →
    v.cstate = .pulling → epochLive s m.epoch = true → manifestOk s (cvnKey m.src m.cvnId) v m = true →
    codecOk s (cvnKey m.src m.cvnId) v = true → mirroring s = false →
    exec (.cvnMsgManifest m) s = .next (commit s (cvnCommit s (cvnKey m.src m.cvnId) v))) ∧
  (∀ (s : State) (m : CvnMsg) (v : Caravan), cvnHeard s Cv.receipt m → getRec s (cvnKey m.src m.cvnId) = some v →
    (v.cstate = .pulled ∨ v.cstate = .inDoubt) →
    exec (.cvnMsgReceipt m) s = .next (commit s (cvnRelease s (cvnKey m.src m.cvnId) v))) ∧
  (∀ (s : State) (m : CvnMsg) (v : Caravan), cvnHeard s Cv.release m → isUs s m.dst = true →
    getRec s (cvnKey m.src m.cvnId) = some v → v.cstate = .relWait →
    exec (.cvnMsgRelease m) s = .next (commit s (cvnClose s (cvnKey m.src m.cvnId) v false))) ∧
  (∀ (s : State) (m : CvnMsg), cvnHeard s Cv.release m → isUs s m.dst = false →
    exec (.cvnMsgRelease m) s = .next (commit s { s with ppm := { s.ppm with
      lists := Tbl.upd s.ppm.lists m.gid fun l =>
        if l.owner = m.dst then l else { l with owner := m.dst, gen := (l.gen + 1) % 2 ^ 32 } } })) ∧
  (∀ (s : State) (m : CvnMsg) (v : Caravan), cvnHeard s Cv.decline m → getRec s (cvnKey m.src m.cvnId) = some v →
    (v.cstate = .offered ∨ v.cstate = .pulled ∨ v.cstate = .inDoubt) → m.status ≠ St.epochStale →
    exec (.cvnMsgDecline m) s = .next (commit s (cvnResume s (cvnKey m.src m.cvnId) v .withdrawn 3 m.status))) ∧
  (∀ (s : State) (m : CvnMsg) (v : Caravan), cvnHeard s Cv.withdraw m → getRec s (cvnKey m.src m.cvnId) = some v →
    v.cstate = .pulling →
    exec (.cvnMsgWithdraw m) s = .next (commit s (cvnAbort s (cvnKey m.src m.cvnId) v St.peerLost))) ∧
  (∀ (s : State) (m : CvnMsg), cvnHeard s Cv.probe m → m.frm = m.src →
    exec (.cvnMsgProbe m) s = .next (commit s (emit s (.cvn m.frm { replyHdr s m Cv.answer with
      outcome := match getRec s (cvnKey m.src m.cvnId) with
        | none => Co.aborted
        | some v => if v.cstate = .relWait ∨ v.cstate = .closed then Co.committed
          else if v.cstate = .pulling then Co.none else Co.aborted })))) ∧
  (∀ (s : State) (m : CvnMsg) (v : Caravan), cvnHeard s Cv.probe m → m.frm ≠ m.src →
    getRec s (cvnKey m.src m.cvnId) = some v → (v.cstate = .pulled ∨ v.cstate = .inDoubt) →
    exec (.cvnMsgProbe m) s = .next (commit s (answerWith (cvnRelease s (cvnKey m.src m.cvnId) v) m Co.committed))) ∧
  (∀ (s : State) (m : CvnMsg) (v : Caravan), cvnHeard s Cv.answer m → getRec s (cvnKey m.src m.cvnId) = some v →
    v.cstate = .inDoubt →
    exec (.cvnMsgProbeAnswer m) s = .next (commit s (
      if m.outcome = Co.committed then cvnRelease s (cvnKey m.src m.cvnId) v
      else if m.outcome = Co.aborted then cvnResume s (cvnKey m.src m.cvnId) v .resumed 4 St.peerLost
      else setRec s (cvnKey m.src m.cvnId) { v with unans := 0 }))) ∧
  (∀ (s : State) (cvn : Nat) (v : Caravan), getRec s (ownCvn s cvn .offered) = some v → v.cstate = .offered →
    v.startTime + v.offerLife * 1000 ≤ now s →
    exec (.offerTimeout cvn) s = .next (commit s
      (cvnResume (sendCvn s v Cv.withdraw) (ownCvn s cvn .offered) v .resumed 4 St.peerLost))) ∧
  (∀ (s : State) (src cvn : Nat) (v : Caravan), getRec s (cvnKey src cvn) = some v → v.cstate = .pulling →
    v.stamp + v.timeout * 1000 ≤ now s →
    exec (.receiptTimeout src cvn) s = .next (commit s (cvnAbort s (cvnKey src cvn) v St.peerLost))) ∧
  (∀ (s : State) (cvn : Nat) (v : Caravan), getRec s (ownCvn s cvn .pulled) = some v → v.cstate = .pulled →
    v.stamp + v.timeout * 1000 ≤ now s →
    let v1 := { v with cstate := .inDoubt, lastTime := now s }
    exec (.pulledTimeout cvn) s = .next (commit s
      (sendProbe (setRec s (ownCvn s cvn .pulled) v1) (ownCvn s cvn .pulled) v1))) ∧
  (∀ (s : State) (src cvn : Nat) (v : Caravan), getRec s (cvnKey src cvn) = some v →
    (v.cstate = .inDoubt ∨ (v.cstate = .relWait ∧ 0 < v.probes)) → v.probedAt + v.probeUs * 1000 ≤ now s →
    exec (.probeInterval src cvn) s = .next (commit s (sendProbe s (cvnKey src cvn) v))) ∧
  (∀ (s : State) (src cvn : Nat) (v : Caravan), getRec s (cvnKey src cvn) = some v → v.cstate = .relWait → v.probes = 0 →
    v.stamp + v.relUs * 1000 ≤ now s →
    exec (.releaseTimeout src cvn) s = .next (commit s (sendProbe s (cvnKey src cvn) v))) ∧
  (∀ (s : State) (src cvn t : Nat) (v : Caravan), getRec s (cvnKey src cvn) = some v → v.bounceUntil = some t →
    v.bounceAt + 50000 ≤ now s → v.cstate = .offered →
    exec (.bounceRetry src cvn) s = .next (commit s
      (sendCvn (setRec s (cvnKey src cvn) { v with bounceUntil := none }) v Cv.offer))) ∧
  (∀ (s : State) (src cvn t : Nat) (v : Caravan), getRec s (cvnKey src cvn) = some v → v.bounceUntil = some t →
    v.bounceAt + 50000 ≤ now s → v.cstate = .pulling →
    exec (.bounceRetry src cvn) s = .next (commit s
      (sendCvn (setRec s (cvnKey src cvn) { v with bounceUntil := none }) v Cv.pull)))

/-- The codec commands on slots and objects (07 R176, R177, R182, R183, R185, R186, R201, R202, R204, R448, R449), taken and
in order. CODEC_TABLE_LOAD adds a generation under the tag asked for or the lowest free one, and with CLEAR lets the newest
retire; CODEC_TABLE_QUERY shows the slot. COMPRESS and QUANTIZE write blocks and index, hold the generation for each block
that names it, and end as a job; DECOMPRESS and DEQUANTIZE write what decodes and poison what does not; SCALE_FIND writes
one scale a unit; RECODE re-codes the blocks, or lets go of or takes their references. The generations that a job encodes or
decodes with are held from its start. CODEC_COMMAND_DONE lets the job's generations go and completes the command. What the
spec leaves open in it is the model's choice, in log entries 13, 28 and 50. -/
def Obligations.CodecObjectCommands : Prop :=
  (∀ (r : Nat) (d : Dma) (s s1 : State) (c : Cmd) (g : Gen),
    let h := leNat (c.pay.take 64)
    let k := bits h 9 4
    taken 0x0601 [.operator, .tenant] r d s = some (c, s1) → loadLens c h = .ok () → c.target = 0 → loadFields h = .ok () →
    bits h 3 0 = 0 → slotMine (c.priv == .tenant) c.tenant (cslot s1 k) = true → (cslot s1 k).newest = some g →
    exec (.codecTableLoad r d) s = .next (commit s (answer
      (retireGens (setCSlot s1 k { cslot s1 k with cleared := true }) k) c.tok (okR0 (g.tableId <<< 32 ||| g.tag))))) ∧
  (∀ (r : Nat) (d : Dma) (s s1 : State) (c : Cmd),
    let h := leNat (c.pay.take 64)
    let body := c.pay.drop 64
    let k := bits h 9 4
    let x := cslot s1 k
    let id := crc32c (tableBytes h body)
    let tag := if bits h 15 12 < 8 then bits h 15 12 else lowestNot (x.gens.map (·.tag)) 8 0
    let x1 : CSlot := { x with
      cond := if bits h 3 0 = 1 then .lossless else .quant, tenant := if x.gens.isEmpty then c.tenant else x.tenant
      gens := x.gens ++ [⟨tag, h, body, id, s1.cdu.loadSeq + 1, 0⟩], cleared := false }
    taken 0x0601 [.operator, .tenant] r d s = some (c, s1) → loadLens c h = .ok () → c.target = 0 → loadFields h = .ok () →
    bits h 3 0 ≠ 0 → slotMine (c.priv == .tenant) c.tenant x = true →
    (bits h 3 0 = 2 → loadStep2 (loadTab h body) body = .ok ()) → loadStep3 x (bits h 3 0) (loadTab h body) = .ok () →
    (x.gens.all fun g => g.tableId != id) = true → x.gens.length < 8 →
    (x.gens.map (·.tag)).contains (bits h 15 12) = false →
    exec (.codecTableLoad r d) s = .next (commit s (answer
      (retireGens (setCSlot { s1 with cdu := { s1.cdu with loadSeq := s1.cdu.loadSeq + 1 } } k x1) k) c.tok
      (okR0 (id <<< 32 ||| tag))))) ∧
  (∀ (r : Nat) (d : Dma) (s s1 : State) (c : Cmd),
    let x := cslot s1 (c.fld 5 0)
    taken 0x0602 [.operator, .tenant, .maintenance] r d s = some (c, s1) → c.payLen = 8 → 288 ≤ c.resLen → c.target = 0 →
    c.fld 63 6 = 0 → slotMine (c.priv == .tenant) c.tenant x = true →
    exec (.codecTableQuery r d) s = .next (commit s (answer s1 c.tok
      (okRes (slotRecord x ++ (List.range 8).flatMap (genRecord x)))))) ∧
  (∀ (r : Nat) (d : Dma) (s s1 s2 : State) (c : Cmd) (g : Gen) (coded : Nat),
    let src := c.fld 319 256
    let base := c.fld 255 192
    let idx := c.fld 191 128
    let total := c.fld 127 88
    let limit := c.fld 87 48
    let n := blocksOf total
    let slot := c.fld 5 0
    let ten := c.priv == .tenant
    let blocks := (chunks 65536 n (devRead s1 src total)).map fun b => some (losslessBlock slot g b)
    taken 0x0603 [.operator, .tenant] r d s = some (c, s1) → c.payLen = 40 → n * 65552 ≤ limit →
    base + limit ≤ objectBytes → 1 ≤ total → total ≤ 1099511562240 → src + total ≤ objectBytes →
    idx + indexLen n ≤ objectBytes → c.target = 0 → c.fld 47 6 = 0 → objAddr idx = true → objAddr base = true →
    objAddr src = true → rangeMine s1 ten c.tenant src total = true → rangeMine s1 ten c.tenant base limit = true →
    rangeMine s1 ten c.tenant idx (indexLen n) = true → slotMine ten c.tenant (cslot s1 slot) = true →
    (cslot s1 slot).cond = .lossless → encGen (cslot s1 slot) = some g → rangeRead s1 src total = St.ok →
    rangeWrite s1 base limit = St.ok → rangeWrite s1 idx (indexLen n) = St.ok →
    writeObject (readAll s1 src total) base idx total 0 slot 1 blocks = some (coded, s2) →
    exec (.codecCompress r d) s = .next (commit s (answer (startCodecJob
      (holdN (holdGens s2 [(slot, g.tag)]) slot g.tag
        (blocks.countP fun b => !(b.map fun bs => (blkHdr (leNat (bs.take 16))).raw).getD true))
      c.tok (heldAs s2 [(slot, g.tag)]) (okR0 coded)) c.tok pendAns))) ∧
  (∀ (r : Nat) (d : Dma) (s s1 s2 : State) (c : Cmd) (i : Index),
    let idx := c.fld 255 192
    let dest := c.fld 191 128
    let dlen := c.fld 127 88
    let first := c.fld 87 64
    let count := c.fld 63 40
    let ks := granules first count
    let bytes := ks.foldl (fun a k => a + impliedRaw i k) 0
    let rs := ks.map (decodeBlkOut s1 idx i)
    taken 0x0604 [.operator, .tenant] r d s = some (c, s1) → c.payLen = 32 → 1 ≤ count → count ≤ 65536 →
    dest + dlen ≤ objectBytes → 2 * count ≤ c.resLen → c.target = 0 → c.fld 39 0 = 0 → objAddr dest = true →
    objAddr idx = true → rangeMine s1 (c.priv == .tenant) c.tenant idx 64 = true →
    rangeMine s1 (c.priv == .tenant) c.tenant dest dlen = true → readIndex s1 idx = .ok i →
    objectMine s1 (c.priv == .tenant) c.tenant idx i = true → first + count ≤ i.count →
    bytes ≤ dlen → rangeWrite s1 dest bytes = St.ok →
    writePieces (readAll s1 i.base i.coded) dest
      ((ks.zip rs).map fun kr => (decodedBytes (impliedRaw i kr.1) kr.2, isOk kr.2)) = some s2 →
    exec (.codecDecompress r d) s = .next (commit s (answer s2 c.tok (decodeAns (rs.map statusOf))))) ∧
  (∀ (r : Nat) (d : Dma) (s s1 s2 : State) (c : Cmd) (g g0 : Gen) (coded : Nat),
    let p := qpay (leNat c.pay)
    let ten := c.priv == .tenant
    let n := blocksOf p.total
    let q := qtab g
    let xs := bf16sAt s1 p.src (p.total / 2)
    let units := objUnits q p.row xs
    let blocks := objBlocks q p.slot xs (groupScales q p.row xs.length (unitScales s1 q p units))
    taken 0x0605 [.operator, .tenant] r d s = some (c, s1) → qpayChecks c .quantize p = .ok () → p.kv = false →
    rangeMine s1 ten c.tenant p.src p.total = true → rangeMine s1 ten c.tenant p.base p.limit = true →
    rangeMine s1 ten c.tenant p.idx (indexLen n) = true → slotMine ten c.tenant (cslot s1 p.slot) = true →
    (cslot s1 p.slot).cond = .quant → (cslot s1 p.slot).newest = some g0 → objShape (qtab g0) p = .ok () →
    (p.given = true → scaleRoom (qtab g0) p = .ok ()) → encGen (cslot s1 p.slot) = some g →
    rangeRead s1 p.src p.total = St.ok → rangeWrite s1 p.base p.limit = St.ok → rangeWrite s1 p.idx (indexLen n) = St.ok →
    (p.given = true → rangeMine s1 ten c.tenant p.scaleAddr (2 * units.length) = true ∧
      rangeRead s1 p.scaleAddr (2 * units.length) = St.ok) →
    writeObject (readAll s1 p.src p.total) p.base p.idx p.total p.row p.slot 2 (blocks.map fun b => some b.1)
      = some (coded, s2) →
    exec (.codecQuantize r d) s = .next (commit s (answer (startCodecJob
      (countLost (holdN (holdGens s2 [(p.slot, q.tag)]) p.slot q.tag blocks.length) p.slot
        (blocks.foldl (fun a b => a.add b.2) ⟨0, 0⟩)) c.tok (heldAs s2 [(p.slot, q.tag)]) (okR0 coded)) c.tok pendAns))) ∧
  (∀ (r : Nat) (d : Dma) (s s1 s2 : State) (c : Cmd) (i : Index) (g0 : Gen),
    let p := qpay (leNat c.pay)
    let ten := c.priv == .tenant
    let ks := List.range (blocksOf p.total)
    let elems := ks.foldl (fun a k => a + impliedRaw i k / 2) 0
    let rs := ks.map fun k => elemsOf (decodeBlk s1 p.idx i k)
    taken 0x0606 [.operator, .tenant] r d s = some (c, s1) → qpayChecks c .dequantize p = .ok () → p.kv = false →
    rangeMine s1 ten c.tenant p.idx 64 = true → rangeMine s1 ten c.tenant p.base p.limit = true →
    slotMine ten c.tenant (cslot s1 p.slot) = true → (cslot s1 p.slot).cond = .quant →
    (cslot s1 p.slot).newest = some g0 → objShape (qtab g0) p = .ok () → readIndex s1 p.idx = .ok i →
    objectMine s1 ten c.tenant p.idx i = true →
    blocksOf p.total ≤ i.count → elems * outSize p.bf16Out ≤ p.limit →
    rangeWrite s1 p.base (elems * outSize p.bf16Out) = St.ok →
    writePieces (readAll s1 i.base i.coded) p.base
      ((ks.zip rs).map fun kr => elemPiece p.bf16Out (impliedRaw i kr.1 / 2) kr.2) = some s2 →
    exec (.codecDequantize r d) s = .next (commit s (answer s2 c.tok (decodeAns rs)))) ∧
  (∀ (r : Nat) (d : Dma) (s s1 s2 : State) (c : Cmd) (g g0 : Gen),
    let p := qpay (leNat c.pay)
    let ten := c.priv == .tenant
    let units := objUnits (qtab g) p.row (bf16sAt s1 p.src (p.total / 2))
    taken 0x0607 [.operator, .tenant] r d s = some (c, s1) → qpayChecks c .scaleFind p = .ok () → p.kv = false →
    rangeMine s1 ten c.tenant p.src p.total = true → slotMine ten c.tenant (cslot s1 p.slot) = true →
    (cslot s1 p.slot).cond = .quant → (cslot s1 p.slot).newest = some g0 → objShape (qtab g0) p = .ok () →
    scaleRoom (qtab g0) p = .ok () → encGen (cslot s1 p.slot) = some g →
    rangeMine s1 ten c.tenant p.scaleAddr (2 * units.length) = true → rangeRead s1 p.src p.total = St.ok →
    rangeWrite (readAll s1 p.src p.total) p.scaleAddr (2 * units.length) = St.ok →
    devWrite (readAll s1 p.src p.total) p.scaleAddr
      (units.flatMap fun u => leBytes 2 (scaleOf (qtab g) (clipPoint (qtab g) u)).toNat) = some s2 →
    exec (.codecScaleFind r d) s = .next (commit s (answer s2 c.tok (okR0 units.length)))) ∧
  (∀ (r : Nat) (d : Dma) (s s1 : State) (c : Cmd) (i : Index),
    let live := (namedGens s1 (c.fld 255 192) i).filterMap id
    taken 0x0608 [.operator, .tenant] r d s = some (c, s1) → c.payLen = 32 → c.target = 0 →
    (c.fld 3 0 = 2 ∨ c.fld 3 0 = 3) → c.fld 23 4 = 0 → objAddr (c.fld 255 192) = true →
    rangeMine s1 (c.priv == .tenant) c.tenant (c.fld 255 192) 64 = true → readIndex s1 (c.fld 255 192) = .ok i →
    objectMine s1 (c.priv == .tenant) c.tenant (c.fld 255 192) i = true →
    slotMine (c.priv == .tenant) c.tenant (cslot s1 i.slot) = true →
    (live.all fun kt => slotMine (c.priv == .tenant) c.tenant (cslot s1 kt.1)) = true →
    exec (.codecRecode r d) s = .next (commit s (answer (
      if c.fld 3 0 = 2 then startCodecJob (live.foldl (fun a kt => dropN a kt.1 kt.2 1) s1) c.tok [] (okR0 live.length)
      else startCodecJob (live.foldl (fun a kt => holdN a kt.1 kt.2 1) s1) c.tok []
        { st := some St.ok, r0 := live.length, detail := (namedGens s1 (c.fld 255 192) i).length - live.length })
      c.tok pendAns))) ∧
  (∀ (r : Nat) (d : Dma) (s s1 s2 : State) (c : Cmd) (i : Index) (g : Gen) (coded : Nat),
    let idx := c.fld 255 192
    let base := c.fld 191 128
    let nidx := c.fld 127 64
    let limit := c.fld 63 24
    let ten := c.priv == .tenant
    let out := ((List.range i.count).map (decodeBlk s1 idx i)).map (recodeBlock i.slot g)
    let bad := out.countP fun b => b.1.isNone
    let named := out.countP fun b => !((b.1.map fun bs => (blkHdr (leNat (bs.take 16))).raw).getD true)
    let old := (namedGens s1 idx i).filterMap id
    let used := ((i.slot, g.tag) :: old).eraseDups
    let s3 := countLost (holdN (holdGens s2 used) i.slot g.tag named) i.slot (out.foldl (fun a b => a.add b.2) ⟨0, 0⟩)
    taken 0x0608 [.operator, .tenant] r d s = some (c, s1) → c.payLen = 32 → c.target = 0 → c.fld 3 0 = 1 → c.fld 23 4 = 0 →
    objAddr nidx = true → objAddr base = true → objAddr idx = true → rangeMine s1 ten c.tenant idx 64 = true →
    readIndex s1 idx = .ok i → objectMine s1 ten c.tenant idx i = true → i.count * 65552 ≤ limit → base + limit ≤ objectBytes →
    rangeMine s1 ten c.tenant base limit = true → rangeMine s1 ten c.tenant nidx (indexLen i.count) = true →
    slotMine ten c.tenant (cslot s1 i.slot) = true → encGen (cslot s1 i.slot) = some g → rangeWrite s1 base limit = St.ok →
    rangeWrite s1 nidx (indexLen i.count) = St.ok →
    writeObject (readAll s1 i.base i.coded) base nidx i.total i.rowLen i.slot i.kind (out.map (·.1)) = some (coded, s2) →
    exec (.codecRecode r d) s = .next (commit s (answer (startCodecJob (old.foldl (fun a kt => dropN a kt.1 kt.2 1) s3) c.tok
      (heldAs s2 used) { st := some St.ok, r0 := i.count - bad, detail := bad }) c.tok pendAns))) ∧
  (∀ (s : State) (id : Nat) (j : CodecJob), Tbl.get s.cdu.jobs id = some j →
    exec (.codecCommandDone id) s = .next (commit s (finish
      (j.held.foldl letGo { s with cdu := { s.cdu with jobs := Tbl.del s.cdu.jobs id } })
      j.tok j.st j.r0 j.detail)))

/-- The codec commands on the key-value records of a request whose list is homed here (07 R186, R195, R201 to R204), taken
and in order: CODEC_QUANTIZE writes records of the newest generation into private pages, CODEC_DEQUANTIZE writes the
elements that decode, CODEC_SCALE_FIND writes one scale a unit, and CODEC_RECODE re-codes records of older generations in
place and leaves the pages' masks with the newest alone. What the spec leaves open in it is the model's choice, in log entry
28. -/
def Obligations.CodecRecordCommands : Prop :=
  (∀ (r : Nat) (d : Dma) (s s1 s2 s3 : State) (c : Cmd) (n : Nat) (x : Slot) (l l2 : PList) (g : Gen),
    let p := qpay (leNat c.pay)
    let ten := c.priv == .tenant
    let q := qtab g
    let h := holdGens s1 (encGens p.slot s1)
    let toks := chunks q.recElems p.toks (bf16sAt h p.src (q.recElems * p.toks))
    let units := kvUnits q toks
    let scales := unitScales h q p units
    let amaxs := if p.given then scales.map (givenAmax q) else units.map fun u => toBf16 (clipPoint q u)
    taken 0x0605 [.operator, .tenant] r d s = some (c, s1) → qpayChecks c .quantize p = .ok () → p.kv = true →
    restsHere s1 c c.target n x l → getList h x.e.gid = some l → slotMine ten c.tenant (cslot h p.slot) = true →
    (cslot h p.slot).cond = .quant → kvSlotOk h p.slot l = true →
    (p.first + p.toks) * l.kvPerTok ≤ l.pages.length * psize l.cls →
    l.shared * psize l.cls ≤ p.first * l.kvPerTok → encGen (cslot h p.slot) = some g →
    p.src + 2 * q.recElems * p.toks ≤ objectBytes → (p.given = true → p.scaleAddr + 2 * q.units ≤ objectBytes) →
    rangeMine h ten c.tenant p.src (2 * q.recElems * p.toks) = true → rangeRead h p.src (2 * q.recElems * p.toks) = St.ok →
    (p.given = true → rangeMine h ten c.tenant p.scaleAddr (2 * q.units) = true ∧
      rangeRead h p.scaleAddr (2 * q.units) = St.ok) →
    privRun h l.gid (p.first * l.kvPerTok) (p.toks * l.kvPerTok) = some s2 → getList s2 l.gid = some l2 →
    writeRecords q l2 p.slot p.first (toks.map (bulkRecord q scales amaxs)) s2 = some s3 →
    exec (.codecQuantize r d) s = .next (commit s (answer (startCodecJob s3 c.tok (heldAs s1 (encGens p.slot s1))
      (okR0 (p.toks * l.kvPerTok))) c.tok pendAns))) ∧
  (∀ (r : Nat) (d : Dma) (s s1 s2 : State) (c : Cmd) (n : Nat) (x : Slot) (l : PList) (g : Gen),
    let p := qpay (leNat c.pay)
    let ten := c.priv == .tenant
    let k := (qtab g).recElems
    let rs := (granules p.first p.toks).map fun t => recordElems (decodeRec s1 l t)
    taken 0x0606 [.operator, .tenant] r d s = some (c, s1) → qpayChecks c .dequantize p = .ok () → p.kv = true →
    restsHere s1 c c.target n x l → slotMine ten c.tenant (cslot s1 p.slot) = true → (cslot s1 p.slot).cond = .quant →
    kvSlotOk s1 p.slot l = true → (p.first + p.toks) * l.kvPerTok ≤ l.pages.length * psize l.cls →
    (cslot s1 p.slot).newest = some g → p.toks * k * outSize p.bf16Out ≤ p.limit → x.e.state.terminal = false →
    rangeMine s1 ten c.tenant p.base p.limit = true → rangeWrite s1 p.base (p.toks * k * outSize p.bf16Out) = St.ok →
    writePieces s1 p.base (rs.map (elemPiece p.bf16Out k)) = some s2 →
    exec (.codecDequantize r d) s = .next (commit s (answer s2 c.tok (decodeAns rs)))) ∧
  (∀ (r : Nat) (d : Dma) (s s1 s2 : State) (c : Cmd) (n : Nat) (x : Slot) (l : PList) (g : Gen),
    let p := qpay (leNat c.pay)
    let ten := c.priv == .tenant
    let q := qtab g
    let units := kvUnits q (chunks q.recElems p.toks (bf16sAt s1 p.src (q.recElems * p.toks)))
    taken 0x0607 [.operator, .tenant] r d s = some (c, s1) → qpayChecks c .scaleFind p = .ok () → p.kv = true →
    restsHere s1 c c.target n x l → slotMine ten c.tenant (cslot s1 p.slot) = true → (cslot s1 p.slot).cond = .quant →
    scaleFindFits (cslot s1 p.slot) p = true →
    kvSlotOk s1 p.slot l = true → encGen (cslot s1 p.slot) = some g → x.e.state.terminal = false →
    rangeMine s1 ten c.tenant p.src (2 * q.recElems * p.toks) = true →
    rangeMine s1 ten c.tenant p.scaleAddr (2 * q.units) = true → rangeRead s1 p.src (2 * q.recElems * p.toks) = St.ok →
    rangeWrite s1 p.scaleAddr (2 * units.length) = St.ok →
    devWrite s1 p.scaleAddr (units.flatMap fun u => leBytes 2 (scaleOf q (clipPoint q u)).toNat) = some s2 →
    exec (.codecScaleFind r d) s = .next (commit s (answer s2 c.tok (okR0 units.length)))) ∧
  (∀ (r : Nat) (d : Dma) (s s1 s2 : State) (c : Cmd) (n k left : Nat) (x : Slot) (l : PList) (g : Gen),
    let h := holdGens s1 (recodeGens l s1)
    taken 0x0608 [.operator, .tenant] r d s = some (c, s1) → c.payLen = 32 → c.target >>> 32 = 0 → c.fld 3 0 = 4 →
    c.fld 23 4 = 0 → c.fld 255 192 = 0 → restsHere s1 c c.target n x l → findEntry s1 c.target = some (n, x) →
    getList h x.e.gid = some l → slotMine (c.priv == .tenant) c.tenant (cslot h l.codecSlot) = true →
    kvSlotOk h l.codecSlot l = true → encGen (cslot h l.codecSlot) = some g →
    (List.range l.ctxLen).foldl (recodeOne (qtab g) l) (some (h, 0, 0)) = some (s2, k, left) →
    exec (.codecRecode r d) s = .next (commit s (answer (startCodecJob
      (l.pages.foldl (soloMask l.codecSlot (qtab g).tag) s2) c.tok (heldAs s1 (recodeGens l s1))
      { st := some St.ok, r0 := k, detail := left }) c.tok pendAns)))

/-- The array commands and the arrays' own events (08 R207, R221 to R240), taken and in order. KERNEL_LOAD of an image whose
signature holds takes the lowest free kernel and KERNEL_UNLOAD retires it; CTX_CREATE takes the lowest free context with a
fresh share on every array and CTX_DESTROY lets it go, ending its launches under KILL; CTX_LAUNCH starts or waits; SCHED_SET
keeps the table for its switch; the slowdown record, exclusion and self-test do as said; SCHED_SWITCH puts the table in
force, the self-test's end fails the arrays that failed, and an idle array is gated and woken 2 µs after it is named. What
the spec leaves open in it is the model's choice, in log entries 5, 29 and 49. -/
def Obligations.ArrayCommands : Prop :=
  (∀ (r : Nat) (d : Dma) (s s1 : State) (c : Cmd) (k : Nat),
    let x := imageKernel (Tbl.getD s1.cax.kernelGen k 0) c.tenant c.pay
    taken 0x0701 [.operator, .tenant] r d s = some (c, s1) → imageLens c = .ok () → c.target = 0 → imageFields s1 c = .ok () →
    ecdsaOk (verKey s1 (subNat c.pay 26 1)) (c.pay.take 160 ++ c.pay.drop 256) (sub c.pay 160 96) = true →
    Tbl.freeFrom s1.cax.kernels 256 0 = some k → serviceFits s1 x.code.length = true →
    exec (.kernelLoad r d) s = .next (commit s (answer
      { s1 with cax := { s1.cax with kernels := Tbl.set s1.cax.kernels k x } } c.tok
      (okR0 (k ||| Tbl.getD s1.cax.kernelGen k 0 <<< 8))))) ∧
  (∀ (r : Nat) (d : Dma) (s s1 : State) (c : Cmd) (k : Kernel),
    taken 0x0702 [.operator, .tenant] r d s = some (c, s1) → c.payLen = 0 → c.target >>> 16 = 0 →
    findKernel s1 c.target = some k → c.tenantOk k.tenant = true → (s1.cax.ctxs.all fun kv => kv.2.kernel != c.target) = true →
    exec (.kernelUnload r d) s = .next (commit s (answer
      { s1 with cax := { s1.cax with
          kernels := Tbl.del s1.cax.kernels (c.target % 256)
          kernelGen := Tbl.set s1.cax.kernelGen (c.target % 256) ((k.gen + 1) % 255) } } c.tok okAns))) ∧
  (∀ (r : Nat) (d : Dma) (s s1 : State) (c : Cmd) (id : Nat) (k : Kernel),
    let mask := c.fld 255 160
    let threads := c.fld 143 136
    let units := c.fld 135 130
    let vregs := c.fld 129 124
    let minA := c.fld 123 117
    let g := Tbl.getD s1.cax.ctxGen id 0
    let x : Ctx :=
      { gen := g, kernel := c.fld 159 144, tenant := c.tenant, mask := mask, threads := threads, localUnits := units
        vregs := vregs, minArrays := minA, prio := c.fld 116 114, running := none, runMask := 0, started := false
        startAt := 0, queue := [], sems := [] }
    taken 0x0710 [.operator, .tenant] r d s = some (c, s1) → c.payLen = 32 → minA ≤ 96 → minA ≤ popCount 96 mask →
    vregs ≤ 32 → 1 ≤ units → units ≤ 32 → 1 ≤ threads → threads ≤ 128 → c.target = 0 → c.fld 113 0 = 0 →
    findKernel s1 (c.fld 159 144) = some k → c.tenantOk k.tenant = true → k.arraysMin ≤ minA → k.vregsMin ≤ vregs →
    k.localMin ≤ units → k.threadsMin ≤ threads → ((maskArrays mask).all fun a => (arr s1 a).st == .active) = true →
    Tbl.freeFrom s1.cax.ctxs 61 0 = some id → ((maskArrays mask).all fun a => arrFits s1 a threads units vregs) = true →
    exec (.ctxCreate r d) s = .next (commit s (answer
      (makeShares (setCtx s1 id x) id (maskArrays mask)) c.tok
      (okR0 (ctxHandle id g))))) ∧
  (∀ (s : State) (id : Nat) (x : Ctx) (k : Kernel) (as : List Nat), getCtx s id = some x → kernelOf s x.kernel = some k →
    makeShares s id as = as.foldl (fun t a => setShare t id a (memPut [] 0 k.data)) s) ∧
  (∀ (r : Nat) (d : Dma) (s s1 : State) (c : Cmd) (id : Nat) (x : Ctx),
    taken 0x0711 [.operator, .tenant] r d s = some (c, s1) → c.payLen = 8 → c.target >>> 16 = 0 → c.fld 63 1 = 0 →
    c.target % 64 < 61 → findCtx s1 c.target = some (id, x) → c.tenantOk x.tenant = true → x.running = none → x.queue = [] →
    exec (.ctxDestroy r d) s = .next (commit s (answer (dropCtx s1 id x) c.tok okAns))) ∧
  (∀ (r : Nat) (d : Dma) (s s1 : State) (c : Cmd) (id : Nat) (x : Ctx),
    taken 0x0711 [.operator, .tenant] r d s = some (c, s1) → c.payLen = 8 → c.target >>> 16 = 0 → c.fld 63 1 = 0 →
    c.target % 64 < 61 → findCtx s1 c.target = some (id, x) → c.tenantOk x.tenant = true → x.running ≠ none → c.fld 0 0 = 1 →
    exec (.ctxDestroy r d) s = .next (commit s (answer (dropCtx (killCtx s1 id x) id x) c.tok okAns))) ∧
  (∀ (r : Nat) (d : Dma) (s s1 : State) (c : Cmd) (id : Nat) (x : Ctx),
    let l : LaunchCmd := ⟨some c.tok, [c.fld 255 192, c.fld 191 128, c.fld 127 64], c.fld 11 8, c.fld 0 0 == 1⟩
    taken 0x0712 [.operator, .tenant] r d s = some (c, s1) → c.payLen = 32 → c.target >>> 16 = 0 → c.fld 7 1 = 0 →
    c.fld 63 12 = 0 → findCtx s1 c.target = some (id, x) → c.tenantOk x.tenant = true → entryOk s1 x (c.fld 11 8) = true →
    (x.running = none ∨ x.queue.length < 64) → x.minArrays ≤ popCount 96 (activeMask s1 x.mask) →
    exec (.ctxLaunch r d) s = .next (commit s (
      if x.running.isNone = true then startLaunch s1 id l else setCtx s1 id { x with queue := x.queue ++ [l] }))) ∧
  (∀ (r : Nat) (d : Dma) (s s1 : State) (c : Cmd),
    let x : Sched := ⟨c.fld 127 64, c.fld 0 0 == 1, c.pay.drop 16⟩
    taken 0x0720 [.operator] r d s = some (c, s1) → c.payLen = 32784 → c.target = 0 → c.fld 63 1 = 0 →
    checkEach (schedEntryOk s1) 0 (c.pay.drop 16) = .ok () → s1.clk.synced = true → s1.cax.schedNext = none →
    exec (.schedSet r d) s = .next (commit s (answer
      { s1 with cax := { s1.cax with schedNext := some ⟨x, schedStart s1 x.base, c.tok⟩ } } c.tok pendAns))) ∧
  (∀ (s : State) (n : SchedNext), s.cax.schedNext = some n → n.at' ≤ now s →
    exec .schedSwitch s = .next (commit s (finish
      { s with cax := { s.cax with sched := n.sched, schedNext := none } } n.tok St.ok 0 0))) ∧
  (∀ (r : Nat) (d : Dma) (s s1 : State) (c : Cmd),
    taken 0x0721 [.operator, .maintenance] r d s = some (c, s1) → c.payLen = 0 → 1536 ≤ c.resLen → c.target = 0 →
    exec (.arraySlowdown r d) s = .next (commit s (answer s1 c.tok
      (okRes ((List.range 96).flatMap fun a => slowRecord (arr s1 a)))))) ∧
  (∀ (r : Nat) (d : Dma) (s s1 : State) (c : Cmd),
    taken 0x0722 [.operator] r d s = some (c, s1) → c.payLen = 16 → c.target = 0 → (c.fld 1 0 = 1 ∨ c.fld 1 0 = 2) →
    c.fld 31 2 = 0 → (c.fld 1 0 = 2 → ((maskArrays (c.fld 127 32)).all fun a => (arr s1 a).st != .failed) = true) →
    exec (.arrayExclude r d) s = .next (commit s (answer
      ((maskArrays (c.fld 127 32)).foldl (excludeOne (c.fld 1 0 == 2)) s1) c.tok okAns))) ∧
  (∀ (r : Nat) (d : Dma) (s s1 : State) (c : Cmd),
    taken 0x0E10 [.maintenance] r d s = some (c, s1) → c.payLen = 16 → 16 ≤ c.resLen → c.target = 0 → c.fld 31 0 = 0 →
    ((maskArrays (c.fld 127 32)).all fun a => (arr s1 a).st == .excluded) = true →
    exec (.diagArrayTest r d) s = .next (commit s (answer
      { s1 with cax := { s1.cax with tests := s1.cax.tests ++ [(c.fld 127 32, c.tok)] } } c.tok pendAns))) ∧
  (∀ (s : State) (failed mask : Nat) (t : Tok) (rest : List (Nat × Tok)), s.cax.tests = (mask, t) :: rest →
    exec (.diagArrayTestDone failed) s = .next (commit s (finish
      ((maskArrays (mask &&& failed)).foldl failArray { s with cax := { s.cax with tests := rest } }) t St.ok 0 0
      (leBytes 16 (mask &&& failed))))) ∧
  (∀ (s : State) (a t : Nat), idleSince s a = some t → a < 96 → (arr s a).gated = false →
    t + s.cax.ctl.idleGate * 1000 ≤ now s →
    exec (.arrayGate a) s = .next (commit s (setArr s a { arr s a with gated := true, wakeAt := none }))) ∧
  (∀ (s : State) (a t : Nat), (arr s a).wakeAt = some t → t ≤ now s →
    exec (.arrayWake a) s = .next (commit s (startWaiting (setArr s a { arr s a with gated := false, wakeAt := none }))))

/-- The control and scalar instructions (08 R212 to R215), each where its word issues: the branches set the pc, LOOP counts
SRC_A down and branches while it is not zero, YIELD goes on, HALT halts the thread, lets barriers that it completes go on,
and the last one's ends the launch; the scalar operations write DST from SRC_A and operand B modulo 2^64 (s0 stays zero, as
`setReg` has it), CMP sets the predicate that DST names, and RDSTAT reads ACC_SAT and the array's counters. Each but the
branches and HALT moves the pc past its word. What the spec leaves open in it is the model's choice, in log entries 13, 30
and 49. -/
def Obligations.ScalarInstructions : Prop :=
  (∀ (t : Thr) (s : State) (x : Ctx) (th : Thread) (w : Word64),
    issues 0 0 [0] t s x th w →
    exec (.aBr t) s = .next (commit s (issuesTo 0 t x s fun s => setThr s t { th with pc := Config.branchTarget th.pc w.imm (reg th w.a) }))) ∧
  (∀ (t : Thr) (s : State) (x : Ctx) (th : Thread) (w : Word64),
    issues 0 1 [0] t s x th w →
    exec (.aBrp t) s = .next (commit s (issuesTo 0 t x s fun s => setThr s t { th with pc := Config.branchTarget th.pc w.imm (reg th w.a) }))) ∧
  (∀ (t : Thr) (s : State) (x : Ctx) (th : Thread) (w : Word64),
    let th1 := setReg th w.a ((reg th w.a + 2 ^ 64 - 1) % 2 ^ 64)
    issues 0 2 [0] t s x th w →
    exec (.aLoop t) s = .next (commit s (issuesTo 0 t x s fun s => setThr s t (if reg th1 w.a = 0 then { th1 with pc := th.pc + 8 } else
      { th1 with pc := Config.branchTarget th.pc w.imm 0 })))) ∧
  (∀ (t : Thr) (s : State) (x : Ctx) (th : Thread) (w : Word64),
    issues 0 3 [0] t s x th w →
    exec (.aYield t) s = .next (commit s (issuesTo 0 t x s fun s => setThr s t { th with pc := th.pc + 8 }))) ∧
  (∀ (t : Thr) (s : State) (x : Ctx) (th : Thread) (w : Word64),
    let s1 := setThr (tookPort s 0 t x) t { th with halted := true, busy := busyCycles s x }
    issues 0 4 [0] t s x th w →
    exec (.aHalt t) s = .next (commit s (issuesTo 0 t x s fun _ =>
      if (launchThreads t.ctx x).all (haltedAt s1) = true then endLaunch s1 t.ctx none true
      else releaseIf .xbar (launchThreads t.ctx x)
        (releaseIf .bar ((launchThreads t.ctx x).filter fun h => h.arr == t.arr) s1)))) ∧
  (∀ (t : Thr) (s : State) (x : Ctx) (th : Thread) (w : Word64),
    issues 1 0 [0] t s x th w →
    exec (.aAdd t) s = .next (commit s (issuesTo 1 t x s fun s => setThr s t (next (setReg th w.dst (reg th w.a + opB th w)))))) ∧
  (∀ (t : Thr) (s : State) (x : Ctx) (th : Thread) (w : Word64),
    issues 1 1 [0] t s x th w →
    exec (.aSub t) s = .next (commit s (issuesTo 1 t x s fun s => setThr s t (next (setReg th w.dst (reg th w.a + (2 ^ 64 - opB th w))))))) ∧
  (∀ (t : Thr) (s : State) (x : Ctx) (th : Thread) (w : Word64),
    issues 1 2 [0] t s x th w →
    exec (.aMul t) s = .next (commit s (issuesTo 1 t x s fun s => setThr s t (next (setReg th w.dst (reg th w.a * opB th w)))))) ∧
  (∀ (t : Thr) (s : State) (x : Ctx) (th : Thread) (w : Word64),
    issues 1 3 [0] t s x th w →
    exec (.aAnd t) s = .next (commit s (issuesTo 1 t x s fun s => setThr s t (next (setReg th w.dst (reg th w.a &&& opBu th w)))))) ∧
  (∀ (t : Thr) (s : State) (x : Ctx) (th : Thread) (w : Word64),
    issues 1 4 [0] t s x th w →
    exec (.aOr t) s = .next (commit s (issuesTo 1 t x s fun s => setThr s t (next (setReg th w.dst (reg th w.a ||| opBu th w)))))) ∧
  (∀ (t : Thr) (s : State) (x : Ctx) (th : Thread) (w : Word64),
    issues 1 5 [0] t s x th w →
    exec (.aXor t) s = .next (commit s (issuesTo 1 t x s fun s => setThr s t (next (setReg th w.dst (reg th w.a ^^^ opBu th w)))))) ∧
  (∀ (t : Thr) (s : State) (x : Ctx) (th : Thread) (w : Word64),
    issues 1 6 [0] t s x th w →
    exec (.aShl t) s = .next (commit s (issuesTo 1 t x s fun s => setThr s t (next (setReg th w.dst (reg th w.a <<< (opBu th w % 64))))))) ∧
  (∀ (t : Thr) (s : State) (x : Ctx) (th : Thread) (w : Word64),
    issues 1 7 [0] t s x th w →
    exec (.aShr t) s = .next (commit s (issuesTo 1 t x s fun s => setThr s t (next (setReg th w.dst (reg th w.a >>> (opBu th w % 64))))))) ∧
  (∀ (t : Thr) (s : State) (x : Ctx) (th : Thread) (w : Word64),
    issues 1 8 [0] t s x th w →
    exec (.aSra t) s = .next (commit s (issuesTo 1 t x s fun s => setThr s t (next (setReg th w.dst (unsigned 64 (signed 64 (reg th w.a) / 2 ^ (opBu th w % 64)))))))) ∧
  (∀ (t : Thr) (s : State) (x : Ctx) (th : Thread) (w : Word64),
    issues 1 9 [0] t s x th w →
    exec (.aMovi t) s = .next (commit s (issuesTo 1 t x s fun s => setThr s t (next (setReg th w.dst (unsigned 64 (signed 32 w.imm))))))) ∧
  (∀ (t : Thr) (s : State) (x : Ctx) (th : Thread) (w : Word64),
    let p := w.dst % 4
    let ps := if Config.compare (reg th w.a) (reg th w.b) w.imm then th.preds ||| 2 ^ p
      else th.preds - (if bit th.preds p then 2 ^ p else 0)
    issues 1 10 [0] t s x th w →
    exec (.aCmp t) s = .next (commit s (issuesTo 1 t x s fun s => setThr s t (next { th with preds := ps })))) ∧
  (∀ (t : Thr) (s : State) (x : Ctx) (th : Thread) (w : Word64),
    issues 1 11 [0] t s x th w →
    exec (.aRdstat t) s = .next (commit s (issuesTo 1 t x s fun s => setThr s t (next (setReg th w.dst (Config.readStat th.accSat (busyCycles s x)
      (arrCounts s t.ctx t.arr x.threads).2 w.imm))))))

/-- Loads, stores and DMA of the arrays (08 R213, R215, R218, R220), each where its word issues: a load or store inside the
share moves 8 bytes, or the 256 of a vector register, outside it traps LOCAL_BOUND, and a load of an uncorrectable word
traps DATA; a DMA in order is added to the thread's DMAs, which complete one by one, oldest first, moving their bytes,
unless a frozen arbiter holds the DMA; DMA.WAIT waits for the last. What the spec leaves open in it is the model's choice,
in log entries 30 and 49. -/
def Obligations.ArrayMemoryInstructions : Prop :=
  (∀ (t : Thr) (s : State) (x : Ctx) (th : Thread) (w : Word64),
    issues 2 0 [0] t s x th w →
    lsuAddr th w + 8 ≤ shareLen x →
    localBad s t.ctx t.arr (lsuAddr th w) 8 = false →
    exec (.aLd t) s = .next (commit s (issuesTo 2 t x s fun s => setThr s t (next (setReg th w.dst
      (leNat (memReadN (share s t.ctx t.arr) (lsuAddr th w) 8))))))) ∧
  (∀ (t : Thr) (s : State) (x : Ctx) (th : Thread) (w : Word64),
    issues 2 0 [0] t s x th w →
    shareLen x < lsuAddr th w + 8 →
    exec (.aLd t) s = .next (commit s (issuesTo 2 t x s fun s => trap s t th.pc Tr.localBound 0))) ∧
  (∀ (t : Thr) (s : State) (x : Ctx) (th : Thread) (w : Word64),
    issues 2 0 [0] t s x th w →
    lsuAddr th w + 8 ≤ shareLen x →
    localBad s t.ctx t.arr (lsuAddr th w) 8 = true →
    exec (.aLd t) s = .next (commit s (issuesTo 2 t x s fun s => trap s t th.pc Tr.data 0))) ∧
  (∀ (t : Thr) (s : State) (x : Ctx) (th : Thread) (w : Word64),
    issues 2 1 [0] t s x th w →
    lsuAddr th w + 8 ≤ shareLen x →
    exec (.aSt t) s = .next (commit s (issuesTo 2 t x s fun s => setThr
      (putLocal s t.ctx t.arr (lsuAddr th w) (leBytes 8 (reg th w.b))) t (next th)))) ∧
  (∀ (t : Thr) (s : State) (x : Ctx) (th : Thread) (w : Word64),
    issues 2 2 [0] t s x th w →
    w.dst < x.vregs →
    lsuAddr th w + 256 ≤ shareLen x →
    localBad s t.ctx t.arr (lsuAddr th w) 256 = false →
    exec (.aVld t) s = .next (commit s (issuesTo 2 t x s fun s => setThr s t (next (setVreg th w.dst
      (f32sOf (memReadN (share s t.ctx t.arr) (lsuAddr th w) 256) 64)))))) ∧
  (∀ (t : Thr) (s : State) (x : Ctx) (th : Thread) (w : Word64),
    issues 2 3 [0] t s x th w →
    w.b < x.vregs →
    lsuAddr th w + 256 ≤ shareLen x →
    exec (.aVst t) s = .next (commit s (issuesTo 2 t x s fun s => setThr
      (putLocal s t.ctx t.arr (lsuAddr th w) (f32Bytes (vreg th w.b))) t (next th)))) ∧
  (∀ (t : Thr) (s : State) (x : Ctx) (th : Thread) (w : Word64),
    issues 3 0 [0] t s x th w →
    16 ≤ w.imm →
    w.imm ≤ 1048576 →
    w.imm % 16 = 0 →
    reg th w.b + w.imm ≤ shareLen x →
    reg th w.a % 16 = 0 →
    dmaAllowed s x false (reg th w.a) w.imm = true →
    exec (.aDmaRd t) s = .next (commit s (issuesTo 3 t x s fun s =>
      setThr s t (next { th with dmas := th.dmas ++ [⟨.read, reg th w.a, reg th w.b, w.imm, 0, th.pc, now s⟩] })))) ∧
  (∀ (t : Thr) (s : State) (x : Ctx) (th : Thread) (w : Word64),
    issues 3 1 [0] t s x th w →
    16 ≤ w.imm →
    w.imm ≤ 1048576 →
    w.imm % 16 = 0 →
    reg th w.b + w.imm ≤ shareLen x →
    reg th w.a % 16 = 0 →
    dmaAllowed s x true (reg th w.a) w.imm = true →
    exec (.aDmaWr t) s = .next (commit s (issuesTo 3 t x s fun s =>
      setThr s t (next { th with dmas := th.dmas ++ [⟨.write, reg th w.a, reg th w.b, w.imm, 0, th.pc, now s⟩] })))) ∧
  (∀ (t : Thr) (s : State) (x : Ctx) (th : Thread) (w : Word64),
    issues 3 2 [0] t s x th w →
    reg th w.a % 8 = 0 →
    dmaAllowed s x false (reg th w.a) 16 = true →
    exec (.aDmaQld t) s = .next (commit s (issuesTo 3 t x s fun s =>
      setThr s t (next { th with dmas := th.dmas ++ [⟨.block, reg th w.a, reg th w.b, 0, w.dst, th.pc, now s⟩] })))) ∧
  (∀ (t : Thr) (s : State) (x : Ctx) (th : Thread) (w : Word64),
    issues 3 3 [0] t s x th w →
    exec (.aDmaWait t) s = .next (commit s (issuesTo 3 t x s fun s =>
      setThr s t (if th.dmas.isEmpty = true then next th else { th with wait := .dma })))) ∧
  (∀ (t : Thr) (s : State) (x : Ctx) (th : Thread) (d : ADma) (rest : List ADma),
    let th1 := { th with dmas := rest }
    getCtx s t.ctx = some x → getThr s t = some th → th.dmas = d :: rest → dmaHeld s d = false → d.kind = .read →
    rangeRead s d.dev d.len = St.ok →
    exec (.dmaDone t) s = .next (commit s (voidThreads s (setThr
      (putLocal (readAll s d.dev d.len) t.ctx t.arr d.loc (devRead s d.dev d.len)) t
      (if rest = [] ∧ th.wait = .dma then next { th1 with wait := .none } else th1)) none))) ∧
  (∀ (t : Thr) (s s1 : State) (x : Ctx) (th : Thread) (d : ADma) (rest : List ADma),
    let th1 := { th with dmas := rest }
    getCtx s t.ctx = some x → getThr s t = some th → th.dmas = d :: rest → dmaHeld s d = false → d.kind = .write →
    localBad s t.ctx t.arr d.loc d.len = false → rangeWrite s d.dev d.len = St.ok →
    devWrite s d.dev (memReadN (share s t.ctx t.arr) d.loc d.len) = some s1 →
    exec (.dmaDone t) s = .next (commit s (voidThreads s (setThr s1 t
      (if rest = [] ∧ th.wait = .dma then next { th1 with wait := .none } else th1)) none))) ∧
  (∀ (t : Thr) (s : State) (x : Ctx) (th : Thread) (d : ADma) (rest : List ADma), getCtx s t.ctx = some x →
    getThr s t = some th → th.dmas = d :: rest → dmaHeld s d = true →
    exec (.dmaDone t) s = .next (commit s (voidThreads s s none)))

/-- The grid, vector and synchronizing instructions (08 R209 to R219), each where its word issues: GRID.MM with a descriptor
in order adds its pass with the time of its end, and otherwise traps; PASS_END at that time stores the oldest pass's
results; GRID.WAIT waits for the last; CB.LOAD puts a generation in a bank; the lane operations write DST lane by lane,
INT32 lanes saturating into ACC_SAT; a barrier that is complete lets all its threads go on; a semaphore counts up and down.
What the spec leaves open in it is the model's choice, in log entries 13, 30, 38 and 49. -/
def Obligations.GridAndVectorInstructions : Prop :=
  (∀ (t : Thr) (s : State) (x : Ctx) (th : Thread) (w : Word64) (p : PDesc),
    let q := (Tbl.get (arr s t.arr).banks p.cb).map fun b => qtab ⟨0, b.header, b.body, 0, 0, 0⟩
    let v : Pass := ⟨p.d, passVals (share s t.ctx t.arr) q p, decide (p.wf ≤ 2) && !p.isGroup && p.side == 0, p.acc, p.cycles,
      now s + ceilDiv ((p.cycles + 140) * 1000) (max 1 (arr s t.arr).mhzRun)⟩
    issues 4 0 [0] t s x th w →
    passDesc s t x (reg th w.a) = .ok p →
    (coded p.wf = true → ∃ b, Tbl.get (arr s t.arr).banks p.cb = some b ∧ bankLive s b = true) →
    exec (.gridMm t) s = .next (commit s (issuesTo 4 t x s fun s => setThr s t (next { th with passes := th.passes ++ [v] })))) ∧
  (∀ (t : Thr) (s : State) (x : Ctx) (th : Thread) (w : Word64) (code : Nat),
    issues 4 0 [0] t s x th w →
    passDesc s t x (reg th w.a) = .error code →
    exec (.gridMm t) s = .next (commit s (issuesTo 4 t x s fun s => trap s t th.pc code 0))) ∧
  (∀ (t : Thr) (s : State) (th y : Thread) (p : Pass) (rest : List Pass),
    let s1 := endPass s t th p rest
    let s2 := if y.passes.isEmpty && y.wait == .grid then setThr s1 t (next { y with wait := .none }) else s1
    getThr s t = some th → th.passes = p :: rest → p.endAt ≤ now s → getThr s1 t = some y →
    exec (.passEnd t) s = .next (commit s (voidThreads s
      (if (arr s2 t.arr).mhzRun = mhzTarget s2 t.arr then s2 else setClock s2 t.arr) none))) ∧
  (∀ (t : Thr) (s : State) (x : Ctx) (th : Thread) (w : Word64),
    issues 4 1 [0] t s x th w →
    exec (.gridWait t) s = .next (commit s (issuesTo 4 t x s fun s =>
      setThr s t (if th.passes.isEmpty = true then next th else { th with wait := .grid })))) ∧
  (∀ (t : Thr) (s : State) (x : Ctx) (th : Thread) (w : Word64) (g : Gen),
    issues 4 2 [0] t s x th w →
    ((cslot s (reg th 1)).gens.find? fun g => g.tag == reg th 2 && g.tableId == reg th 3 &&
      decide ((cslot s (reg th 1)).cond = .quant)) = some g →
    exec (.cbLoad t) s = .next (commit s (issuesTo 4 t x s fun s =>
      setThr (setArr s t.arr
      { arr s t.arr with banks := Tbl.set (arr s t.arr).banks (w.imm % 8) ⟨reg th 1, g.loadSeq, g.header, g.body⟩ }) t (next th)))) ∧
  (∀ (t : Thr) (s : State) (x : Ctx) (th : Thread) (w : Word64),
    let ls := ((vreg th w.a).zip (vreg th w.b)).zip (vreg th w.dst)
    let rs := ls.map fun l => satLane (s32 l.1.1 * s32 l.1.2 + s32 l.2)
    issues 5 0 [0, 0xC, 0xD] t s x th w →
    w.dst < x.vregs →
    w.a < x.vregs →
    w.b < x.vregs →
    exec (.vFma t) s = .next (commit s (issuesTo 5 t x s fun s =>
      setThr s t (vecDone (
      if w.fmt = 0xD then { setVreg th w.dst (rs.map (·.1)) with accSat := th.accSat || rs.any (·.2) }
      else setVreg th w.dst (ls.map fun l => ffma l.1.1 l.1.2 l.2)))))) ∧
  (∀ (t : Thr) (s : State) (x : Ctx) (th : Thread) (w : Word64),
    let ls := ((vreg th w.a).zip (vreg th w.b)).zip (vreg th w.dst)
    let rs := ls.map fun l => satLane (s32 l.1.1 + s32 l.1.2)
    issues 5 1 [0, 0xC, 0xD] t s x th w →
    w.dst < x.vregs →
    w.a < x.vregs →
    w.b < x.vregs →
    exec (.vAdd t) s = .next (commit s (issuesTo 5 t x s fun s =>
      setThr s t (vecDone (
      if w.fmt = 0xD then { setVreg th w.dst (rs.map (·.1)) with accSat := th.accSat || rs.any (·.2) }
      else setVreg th w.dst (ls.map fun l => fadd l.1.1 l.1.2)))))) ∧
  (∀ (t : Thr) (s : State) (x : Ctx) (th : Thread) (w : Word64),
    let ls := ((vreg th w.a).zip (vreg th w.b)).zip (vreg th w.dst)
    let rs := ls.map fun l => satLane (s32 l.1.1 * s32 l.1.2)
    issues 5 2 [0, 0xC, 0xD] t s x th w →
    w.dst < x.vregs →
    w.a < x.vregs →
    w.b < x.vregs →
    exec (.vMul t) s = .next (commit s (issuesTo 5 t x s fun s =>
      setThr s t (vecDone (
      if w.fmt = 0xD then { setVreg th w.dst (rs.map (·.1)) with accSat := th.accSat || rs.any (·.2) }
      else setVreg th w.dst (ls.map fun l => fmul l.1.1 l.1.2)))))) ∧
  (∀ (t : Thr) (s : State) (x : Ctx) (th : Thread) (w : Word64),
    let ls := ((vreg th w.a).zip (vreg th w.b)).zip (vreg th w.dst)
    let rs := ls.map fun l => satLane (max (s32 l.1.1) (s32 l.1.2))
    issues 5 3 [0, 0xC, 0xD] t s x th w →
    w.dst < x.vregs →
    w.a < x.vregs →
    w.b < x.vregs →
    exec (.vMax t) s = .next (commit s (issuesTo 5 t x s fun s =>
      setThr s t (vecDone (
      if w.fmt = 0xD then { setVreg th w.dst (rs.map (·.1)) with accSat := th.accSat || rs.any (·.2) }
      else setVreg th w.dst (ls.map fun l => fmax l.1.1 l.1.2)))))) ∧
  (∀ (t : Thr) (s : State) (x : Ctx) (th : Thread) (w : Word64),
    let ls := ((vreg th w.a).zip (vreg th w.b)).zip (vreg th w.dst)
    let rs := ls.map fun l => satLane (min (s32 l.1.1) (s32 l.1.2))
    issues 5 4 [0, 0xC, 0xD] t s x th w →
    w.dst < x.vregs →
    w.a < x.vregs →
    w.b < x.vregs →
    exec (.vMin t) s = .next (commit s (issuesTo 5 t x s fun s =>
      setThr s t (vecDone (
      if w.fmt = 0xD then { setVreg th w.dst (rs.map (·.1)) with accSat := th.accSat || rs.any (·.2) }
      else setVreg th w.dst (ls.map fun l => fmin l.1.1 l.1.2)))))) ∧
  (∀ (t : Thr) (s : State) (x : Ctx) (th : Thread) (w : Word64),
    issues 5 5 (List.range 14) t s x th w →
    w.dst < x.vregs →
    w.a < x.vregs →
    exec (.vCvt t) s = .next (commit s (issuesTo 5 t x s fun s =>
      setThr s t (vecDone (setVreg th w.dst ((vreg th w.a).map fun v =>
      if bit w.imm 0 then convertFrom w.fmt v else convertTo w.fmt v)))))) ∧
  (∀ (t : Thr) (s : State) (x : Ctx) (th : Thread) (w : Word64),
    let v : F32 := if (vreg th w.a).any isNan then nanBits
      else if bit w.imm 0 then (vreg th w.a).foldl fmax 0xFF800000 else fsumOpen (vreg th w.a)
    issues 5 6 [0, 0xC, 0xD] t s x th w →
    w.dst < x.vregs →
    w.a < x.vregs →
    w.fmt ≠ 0xD →
    exec (.vRed t) s = .next (commit s (issuesTo 5 t x s fun s =>
      setThr s t (vecDone (setVreg th w.dst (List.replicate 64 v)))))) ∧
  (∀ (t : Thr) (s : State) (x : Ctx) (th : Thread) (w : Word64),
    let v := if bit w.imm 0 then satLane ((vreg th w.a).foldl (fun m y => max m (s32 y)) (-2147483648))
      else satLane ((vreg th w.a).foldl (fun m y => m + s32 y) 0)
    issues 5 6 [0, 0xC, 0xD] t s x th w →
    w.dst < x.vregs →
    w.a < x.vregs →
    w.fmt = 0xD →
    exec (.vRed t) s = .next (commit s (issuesTo 5 t x s fun s =>
      setThr s t (vecDone
      { setVreg th w.dst (List.replicate 64 v.1) with accSat := th.accSat || v.2 })))) ∧
  (∀ (t : Thr) (s : State) (x : Ctx) (th : Thread) (w : Word64),
    issues 5 7 [0, 0xC] t s x th w →
    w.dst < x.vregs →
    w.a < x.vregs →
    exec (.vExp2 t) s = .next (commit s (issuesTo 5 t x s fun s =>
      setThr s t (vecDone (setVreg th w.dst ((vreg th w.a).map fexp2)))))) ∧
  (∀ (t : Thr) (s : State) (x : Ctx) (th : Thread) (w : Word64),
    issues 5 8 [0, 0xC] t s x th w →
    w.dst < x.vregs →
    w.a < x.vregs →
    exec (.vRcp t) s = .next (commit s (issuesTo 5 t x s fun s =>
      setThr s t (vecDone (setVreg th w.dst ((vreg th w.a).map fun v => fdiv fone v)))))) ∧
  (∀ (t : Thr) (s : State) (x : Ctx) (th : Thread) (w : Word64),
    issues 5 9 [0, 0xC] t s x th w →
    w.dst < x.vregs →
    w.a < x.vregs →
    exec (.vRsqrt t) s = .next (commit s (issuesTo 5 t x s fun s =>
      setThr s t (vecDone (setVreg th w.dst ((vreg th w.a).map fun v => frsqrt v)))))) ∧
  (∀ (t : Thr) (s : State) (x : Ctx) (th : Thread) (w : Word64),
    let s1 := setThr (tookPort s 6 t x) t { th with wait := .bar }
    let ts := (launchThreads t.ctx x).filter (fun h => t.arr == h.arr)
    issues 6 0 [0] t s x th w →
    ts.all (atBarrier s1 .bar) = true →
    exec (.syncBar t) s = .next (commit s (issuesTo 6 t x s fun _ => releaseAll .bar ts s1))) ∧
  (∀ (t : Thr) (s : State) (x : Ctx) (th : Thread) (w : Word64),
    let s1 := setThr (tookPort s 6 t x) t { th with wait := .xbar }
    let ts := (launchThreads t.ctx x).filter (fun _ => true)
    issues 6 1 [0] t s x th w →
    ts.all (atBarrier s1 .xbar) = true →
    exec (.syncXbar t) s = .next (commit s (issuesTo 6 t x s fun _ => releaseAll .xbar ts s1))) ∧
  (∀ (t : Thr) (s : State) (x : Ctx) (th : Thread) (w : Word64),
    let n := w.imm % 16
    let s1 := setThr (tookPort s 6 t x) t (next th)
    issues 6 2 [0] t s x th w →
    (launchThreads t.ctx x).find? (waitsSem s1 n) = none →
    exec (.semInc t) s = .next (commit s (issuesTo 6 t x s fun _ => setSem s1 t.ctx n (sem x n + 1)))) ∧
  (∀ (t : Thr) (s : State) (x : Ctx) (th : Thread) (w : Word64),
    issues 6 3 [0] t s x th w →
    exec (.semWait t) s = .next (commit s (issuesTo 6 t x s fun s =>
      if sem x (w.imm % 16) = 0 then setThr s t { th with wait := .sem (w.imm % 16) }
      else setSem (setThr s t (next th)) t.ctx (w.imm % 16) (sem x (w.imm % 16) - 1))))

/-- The step commands and what ends a step without a close (09 R242 to R252, R263 to R270), at an owner whose step's home is
here. A layer of an open step and the close of one run at the home, and the owner follows the home's answer; SPEC_DRAFT
opens a step of requests homed here in one codec slot; a step past its timeout is aborted at its home and at its owner; and
STEP_ABORT ends one request's part. What the spec leaves open in it is the model's choice, in log entry 31. -/
def Obligations.StepCommands : Prop :=
  (∀ (r : Nat) (d : Dma) (s s1 s2 : State) (c : Cmd) (o : OwnStep) (st : Step) (a : Ans) (outs : Option (List StepOut)),
    let h := stepHdr Op.attn c.pay
    taken 0x0801 [.operator, .tenant] r d s = some (c, s1) → h.isOpen = false → stepChecks Op.attn c h 0 = .ok () →
    getOwn s1 h.tag = some o → o.entries.all (entryMine c s1) = true → o.isOpen = true → o.closeTok = none → o.home = me s1 →
    getStep s1 h.tag = some st → st.owner = me s1 → layerStep (homeMsg s1 c Op.attn 0 []) h.tag st s1 = .ok (a, outs, s2) →
    let p := afterStep Op.attn h.tag c.tok a outs s2
    exec (.attnStep r d) s = .next (commit s (answer p.2 c.tok p.1))) ∧
  (∀ (r : Nat) (d : Dma) (s s1 s2 : State) (c : Cmd) (o : OwnStep) (st : Step) (a : Ans) (outs : Option (List StepOut)),
    let h := stepHdr Op.sample c.pay
    let m := homeMsg s1 c Op.sample 0 (o.taken.map (·.slot)) [.ok (), .ok ()]
    taken 0x0811 [.operator, .tenant] r d s = some (c, s1) → h.isOpen = false → isGiven c.pay = false →
    stepChecks Op.sample c h 0 = .ok () → getOwn s1 h.tag = some o → o.entries.all (entryMine c s1) = true → o.isOpen = true →
    o.closeTok = none → o.segment = false → ringRoom s1 o.bulletin = true → o.home = me s1 → getStep s1 h.tag = some st →
    st.owner = me s1 → closeStep m h.tag false st none s1 = .ok (a, outs, s2) →
    let p := afterStep Op.sample h.tag c.tok a outs s2
    exec (.sampleStep r d) s = .next (commit s (answer p.2 c.tok p.1))) ∧
  (∀ (r : Nat) (d : Dma) (s s1 s2 : State) (c : Cmd) (xs : List (LenEnt × Nat × Slot)) (e0 : LenEnt) (n0 : Nat) (x0 : Slot)
    (b : Bulletin) (a : Ans) (outs : Option (List StepOut)),
    let h := stepHdr Op.draft c.pay
    let t := takeAll Op.draft h.tag xs s1
    let o : OwnStep := ⟨me s1, h.ring, false, false, now s1, t.1, none, [], []⟩
    let s0 := setOwn t.2 h.tag o
    let m := { homeMsg s0 c Op.draft 0 (o.taken.map (·.slot)) [.ok (), .ok ()] with
      left := (t.1.filter fun e => e.st != St.ok).map (·.gid), codecSlot := x0.e.codecSlot }
    taken 0x0820 [.operator, .tenant] r d s = some (c, s1) → stepChecks Op.draft c h 0 = .ok () →
    (lenTable h c.pay).mapM (tableEntry c s1) = .ok xs → xs.head? = some (e0, n0, x0) → getOwn s1 h.tag = none →
    ((lenTable h c.pay).any fun e => e.seg) = false → homeOf s1 x0 = me s1 →
    (xs.all fun x => some (homeOf s1 x.2.2, x.2.2.e.codecSlot) == some (homeOf s1 x0, x0.e.codecSlot)) = true →
    Tbl.get s1.att.bulletins h.ring = some b → c.tenantOk b.tenant = true → h.count ≤ b.maxBatch → me s0 = me s1 → homeDraft m s0 = .ok (a, outs, s2) →
    let p := afterStep Op.draft h.tag c.tok a outs s2
    exec (.specDraft r d) s = .next (commit s (answer p.2 c.tok p.1))) ∧
  (∀ (r : Nat) (d : Dma) (s s1 s2 : State) (c : Cmd) (o : OwnStep) (st : Step) (a : Ans) (outs : Option (List StepOut)),
    let h := stepHdr Op.verify c.pay
    let m := homeMsg s1 c Op.verify 0 (o.taken.map (·.slot)) [.ok (), .ok ()]
    taken 0x0821 [.operator, .tenant] r d s = some (c, s1) → h.isOpen = false → isGiven c.pay = false →
    stepChecks Op.verify c h 0 = .ok () → getOwn s1 h.tag = some o → o.entries.all (entryMine c s1) = true → o.isOpen = true →
    o.closeTok = none → o.segment = false → ringRoom s1 o.bulletin = true → o.home = me s1 → getStep s1 h.tag = some st →
    st.owner = me s1 → closeStep m h.tag true st none s1 = .ok (a, outs, s2) →
    let p := afterStep Op.verify h.tag c.tok a outs s2
    exec (.specVerify r d) s = .next (commit s (answer p.2 c.tok p.1))) ∧
  (∀ (s : State) (owner tag : Nat) (st : Step), owner ≠ me s → getStep s tag = some st → st.owner = owner →
    st.openedAt + s.att.stepTimeout * ms ≤ now s →
    exec (.stepTimeout owner tag) s = .next (commit s (abortStep s tag))) ∧
  (∀ (s : State) (frm gid : Nat), exec (.stepAbort frm gid) s = .next (commit s (abortReq s gid)))

/-- The commands that set steps up and those of the pattern-search memory (09 R254, R257 to R262, R268; 11 R326 to R328),
taken and in order. SAMPLE_SET keeps the parameters and makes the block's count entries; BAN_LOAD replaces or extends a set;
ATTN_BIAS_LOAD keeps a table; LSE_MERGE writes the merged outputs and their log-sum-exps; BULLETIN_SET binds a ring;
SEARCH_WRITE places entries and answers their handles, SEARCH_DELETE removes them, SEARCH_QUERY answers the winners, and
SEARCH_SCRUB rewrites a bank's rows from their copies. What the spec leaves open in it is the model's choice, in log entry
32. -/
def Obligations.SamplingAndSearchCommands : Prop :=
  (∀ (r : Nat) (d : Dma) (s s1 s2 : State) (c : Cmd) (n id : Nat) (x : Slot),
    let cs := sampleCounts x (c.fld 140 140 == 1)
    let a : Aux := ⟨c.pay, max (capFor cs.length) ((x.aux.map (·.cap)).getD 64), (x.aux.map (·.draftPage)).getD noId, cs⟩
    taken 0x0810 [.operator, .tenant] r d s = some (c, s1) → sampleFields c = .ok () → c.entry s1 c.target = .ok (n, x) →
    (cs.all fun k => decide (k.token < c.fld 116 98)) = true → openEntry s1 n x = .ok () → x.e.state.terminal = false →
    x.e.state ≠ .handoff → x.e.inStep = false → (c.fld 140 140 = 1 → x.e.promptComplete = true) → cs.length ≤ 131008 →
    (auxLen (some a) ≤ auxLen x.aux ∨ serviceFits s1 (auxLen (some a) - auxLen x.aux) = true) →
    innerPage s1 x.aux.isNone = some (id, s2) →
    exec (.sampleSet r d) s = .next (commit s (answer
      (setSlot s2 n { x with aux := some a, e := { x.e with auxRoot := if x.aux.isNone = true then id else x.e.auxRoot } })
      c.tok okAns))) ∧
  (∀ (r : Nat) (d : Dma) (s s1 : State) (c : Cmd),
    let set := c.fld 127 116
    let n := c.fld 115 101
    let recs := c.recs 16 32 n
    let old : BanSet := Tbl.getD s1.att.bans set ⟨c.tenant, []⟩
    let base := if c.fld 100 100 = 1 then [] else old.items
    let gone := if c.fld 100 100 = 1 then old.items else []
    let items := recs.foldl (banAdd set) base
    let s2 := gone.foldl (fun t x => deleteEntry t x.idx) s1
    taken 0x0812 [.operator, .tenant] r d s = some (c, s1) → n ≤ 16384 → (c.fld 100 100 = 1 ∨ 1 ≤ n) →
    c.payLen = 16 + 32 * n → c.target = 0 → c.fld 99 0 = 0 → set ≠ 0 →
    checkEach (fun i x => need (decide (1 ≤ (banRec x).1) && decide ((banRec x).1 ≤ 8)) St.lengthRange (inPay (16 + 32 * i + 3)))
      0 recs = .ok () → checkEach banRecOk 0 recs = .ok () → c.tenantOk old.tenant = true → banInUse s1 set = false →
    items.length - base.length ≤ banksFree s1 0xF + gone.length → banBytes s1 set items ≤ 4194304 →
    exec (.banLoad r d) s = .next (commit s (answer
      (items.foldl (banStore set old.tenant) { s2 with att := { s2.att with bans := Tbl.del s2.att.bans set } }) c.tok okAns))) ∧
  (∀ (r : Nat) (d : Dma) (s s1 : State) (c : Cmd),
    let g := c.fld 12 6
    let vals := bf16sOf (c.pay.drop 16) (4096 * g)
    taken 0x0802 [.operator, .tenant] r d s = some (c, s1) → 1 ≤ g → g ≤ 64 → c.payLen = 16 + 8192 * g → c.target = 0 →
    c.fld 127 13 = 0 → (∀ i, ∀ v ∈ vals, need (isFinite (ofBf16 v) || v == 0xFF80) St.fieldRange (inPay (16 + 2 * i)) = .ok ()) →
    (∀ b, Tbl.get s1.att.bias (c.fld 5 0) = some b → c.tenantOk b.tenant = true) → biasInUse s1 (c.fld 5 0) = false →
    exec (.attnBiasLoad r d) s = .next (commit s (answer
      { s1 with att := { s1.att with bias := Tbl.set s1.att.bias (c.fld 5 0) ⟨c.tenant, g, vals⟩ } } c.tok okAns))) ∧
  (∀ (r : Nat) (d : Dma) (s s1 s2 s3 : State) (c : Cmd),
    let n := c.fld 108 104
    let rows := c.fld 127 111
    let dim := 64 <<< c.fld 110 109
    let outA := c.fld 255 192
    let lseA := c.fld 191 128
    let bf := c.fld 103 103 == 0
    let recs := c.recs 32 16 n
    let ins := recs.map fun x => (f32sOf (devRead s1 (bits x 127 64) (4 * (rows * dim))) (rows * dim),
      f32sOf (devRead s1 (bits x 63 0) (4 * rows)) rows)
    let out := (List.range rows).map fun k => mergeRow dim (ins.map fun i => ((i.1.drop (k * dim)).take dim, i.2.getD k 0))
    taken 0x0803 [.operator, .tenant] r d s = some (c, s1) → 2 ≤ n → n ≤ 16 → 1 ≤ rows → rows ≤ 65536 →
    c.payLen = 32 + 16 * n → c.target = 0 → c.fld 102 0 = 0 → c.fld 110 109 ≠ 3 → lseA ≠ 0 → lseA < objectBytes →
    outA < objectBytes → (∀ x ∈ recs, bits x 63 0 < objectBytes ∧ bits x 127 64 < objectBytes) →
    rangeMine s1 (c.priv == .tenant) c.tenant outA (rows * dim * outSize bf) = true →
    rangeMine s1 (c.priv == .tenant) c.tenant lseA (4 * rows) = true →
    (∀ x ∈ recs, rangeMine s1 (c.priv == .tenant) c.tenant (bits x 127 64) (4 * (rows * dim)) = true ∧
      rangeMine s1 (c.priv == .tenant) c.tenant (bits x 63 0) (4 * rows) = true) →
    (∀ x ∈ recs, canRead s1 (bits x 127 64) (4 * (rows * dim)) = .ok () ∧ canRead s1 (bits x 63 0) (4 * rows) = .ok ()) →
    canWrite s1 outA (rows * dim * outSize bf) = .ok () → canWrite s1 lseA (4 * rows) = .ok () →
    devWrite s1 outA ((out.flatMap (·.1)).flatMap (outBytes bf)) = some s2 →
    devWrite s2 lseA (f32Bytes (out.map (·.2))) = some s3 →
    exec (.lseMerge r d) s = .next (commit s (answer s3 c.tok okAns))) ∧
  (∀ (r : Nat) (d : Dma) (s s1 : State) (c : Cmd),
    let k := c.fld 167 164
    let p := c.fld 163 162
    let slots := c.fld 180 168
    taken 0x0830 [.operator, .tenant] r d s = some (c, s1) → c.payLen = 32 → 2 ≤ slots → slots ≤ 4096 → 1 ≤ c.fld 191 181 →
    c.fld 191 181 ≤ 1024 → c.target = 0 → c.fld 160 0 = 0 → (portMode s1 p = 1 ∨ portMode s1 p = 2) → isPow2 slots = true →
    c.fld 255 192 % 64 = 0 →
    (∀ b, Tbl.get s1.att.bulletins k = some b → c.tenantOk b.tenant = true ∧ ringInStep s1 k = false) →
    let bs := if c.fld 161 161 = 0 then Tbl.del s1.att.bulletins k
      else Tbl.set s1.att.bulletins k ⟨c.fld 255 192, c.fld 191 181, slots, p, c.tenant, 0, 0, true, 0, []⟩
    exec (.bulletinSet r d) s = .next (commit s (answer { s1 with att := { s1.att with bulletins := bs } } c.tok okAns))) ∧
  (∀ (r : Nat) (d : Dma) (s s1 : State) (c : Cmd),
    let n := c.fld 14 0
    let space := c.fld 27 22
    let banks := c.fld 31 28
    let recs := c.recs 16 48 n
    let empty := (spaceEntries s1 space).isEmpty
    let m := if empty = true then banks else spaceBanks s1 space
    let s0 := { s1 with tsu := { s1.tsu with spaces := Tbl.set s1.tsu.spaces space m } }
    let p := recs.foldl (fun (a : List Nat × State) x =>
      (a.1 ++ [searchHandle (placeEntry a.2 m (rowOf space x)).2 (placeEntry a.2 m (rowOf space x)).1],
        (placeEntry a.2 m (rowOf space x)).2)) ([], s0)
    taken 0x0A10 [.operator] r d s = some (c, s1) → 1 ≤ n → n ≤ 16384 → c.payLen = 16 + 48 * n → 4 * n ≤ c.resLen →
    c.target = 0 → c.fld 21 15 = 0 → space ≠ 0 → (empty = true → banks ≠ 0) →
    (empty = false → banks = 0 ∨ banks = spaceBanks s1 space) → c.fld 127 32 = 0 →
    (∀ x ∈ recs, bits x 15 0 = 0 ∧ bits x 383 224 &&& (2 ^ 160 - 1 - bits x 223 64) = 0) → n ≤ banksFree s1 m →
    exec (.searchWrite r d) s = .next (commit s (answer p.2 c.tok (okRes (p.1.flatMap (leBytes 4)))))) ∧
  (∀ (r : Nat) (d : Dma) (s s1 : State) (c : Cmd),
    let n := c.fld 14 0
    let hs := c.recs 8 4 n
    let spaces := distinct (hs.map fun h => ((findSearch s1 h).map (·.row.space)).getD 0)
    taken 0x0A11 [.operator] r d s = some (c, s1) → c.fld 15 15 = 0 → 1 ≤ n → n ≤ 16384 → c.payLen = 8 + 4 * n →
    c.target = 0 → c.fld 63 22 = 0 →
    (∀ h ∈ hs, h >>> 24 = 0 ∧ (findSearch s1 h).isSome = true ∧ ((findSearch s1 h).map (·.row.space)).getD 0 ≠ 0) →
    exec (.searchDelete r d) s = .next (commit s (answer
      (spaces.foldl settleSpace ((distinct hs).foldl (fun t h => deleteEntry t (h % 65536)) s1)) c.tok okAns))) ∧
  (∀ (r : Nat) (d : Dma) (s s1 : State) (c : Cmd),
    let n := c.fld 12 0
    let space := c.fld 21 16
    let recs := c.recs 8 24 n
    let p := recs.foldl (fun (a : Bytes × Nat × State) x =>
      let h := search a.2.2 space (bits x 191 32)
      (a.1 ++ hitRecord h.2 h.1, a.2.1 + b2n (h.1 == .check), h.2)) ([], 0, s1)
    taken 0x0A12 [.operator, .maintenance] r d s = some (c, s1) → 1 ≤ n → n ≤ 4096 → c.payLen = 8 + 24 * n →
    16 * n ≤ c.resLen → c.target = 0 → c.fld 15 13 = 0 → c.fld 63 22 = 0 → (∀ x ∈ recs, bits x 31 0 = 0) →
    exec (.searchQuery r d) s = .next (commit s (answer p.2.2 c.tok
      { st := some (if p.2.1 = 0 then St.ok else St.dataCheck), detail := p.2.1, result := p.1 }))) ∧
  (∀ (s : State) (bank i : Nat) (e : SEntry) (v : SRow), (s.tsu.search.filter fun kv => kv.1 / 16384 == bank) = [(i, e)] →
    e.copy = some v → exec (.searchScrub bank) s = .next (commit s
      (countUpdate { s with tsu := { s.tsu with search := Tbl.set s.tsu.search i ⟨v, some v, false⟩ } }))) ∧
  (∀ (s : State) (bank i : Nat) (e : SEntry), (s.tsu.search.filter fun kv => kv.1 / 16384 == bank) = [(i, e)] →
    e.copy = none → exec (.searchScrub bank) s = .next (commit s (dropEntry (searchEvent { s with tsu := { s.tsu with
      hardErrors := (s.tsu.hardErrors + 1) % 2 ^ 32 } } Ec.uncorrected 1 i) i)))

/-- The fabric's commands (10 R281, R288 to R292, R303 to R308; 12 R363), taken and in order, and descriptors of work rings.
PORT_CONFIG sets a port and moves its state; PORT_STATUS answers 18 records; KEY_REGISTER takes a key or gives one a new
generation, KEY_DEREGISTER retires it; CONN_OPEN takes a ring and sends OPEN, or is open at once in memory mode; CONN_CLOSE
stops fetching and ends once nothing is in flight; ERG_MAP and PTP_CONFIG replace what they set; DIAG_LOOPBACK runs for its
duration and its end answers the counts; ERR_INJECT arms an injection; a descriptor that passes its checks starts its
transfer; and one that may not start yet is fetched and waits, and starts when it may. What the spec leaves open in it is
the model's choice, in log entries 5 and 33. -/
def Obligations.FabricCommands : Prop :=
  (∀ (r : Nat) (d : Dma) (s s1 : State) (c : Cmd),
    let p := c.fld 4 0
    let x := portAt s1 p
    let st := configuredState s1 x (c.fld 5 5 == 1) (c.fld 8 8 == 1)
    taken 0x0901 [.operator] r d s = some (c, s1) → c.payLen = 32 → c.target = 0 → p ≤ 17 → c.fld 7 6 ≠ 0 →
    c.fld 122 9 = 0 → c.fld 130 123 ≠ 0 → c.fld 146 131 ≠ 0 → c.fld 159 148 ≠ 4095 →
    (c.fld 5 5 = 1 → me s1 ≠ 0xFFFE) → (inPair s1 = false ∨ p < 16) →
    exec (.portConfig r d) s = .next (commit s (answer (movePort s1 p { x with
      mac := c.fld 255 208, gateway := c.fld 207 160, vlan := c.fld 159 148, tagged := c.fld 147 147 == 1
      degradeSym := c.fld 146 131, degradeUnc := c.fld 130 123, modes := c.fld 7 6, enable := c.fld 5 5 == 1, st := st
      badLanes := if c.fld 8 8 = 1 then 0 else x.badLanes, retrainAt := if c.fld 8 8 = 1 then none else x.retrainAt
      peerNode := if st = x.st then x.peerNode else 0xFFFF }) c.tok okAns))) ∧
  (∀ (r : Nat) (d : Dma) (s s1 : State) (c : Cmd),
    taken 0x0902 [.operator, .maintenance] r d s = some (c, s1) → c.payLen = 0 → 576 ≤ c.resLen → c.target = 0 →
    exec (.portStatus r d) s = .next (commit s (answer s1 c.tok
      (okRes ((List.range 18).flatMap fun p => portRecord (portAt s1 p)))))) ∧
  (∀ (r : Nat) (d : Dma) (s s1 s2 : State) (c : Cmd) (k : Nat),
    let base := c.fld 191 128
    let len := c.fld 127 64
    taken 0x0910 [.operator, .tenant] r d s = some (c, s1) → c.payLen = 24 → 4096 ≤ len → len ≤ objectBytes → c.target = 0 →
    c.fld 47 2 = 0 → base % 4096 = 0 → len % 4096 = 0 → regionOk s1 c.priv c.tenant base len = true →
    newKey s1 base len c.tenant (c.fld 1 0) (c.fld 63 48) .no = some (k, s2) →
    exec (.keyRegister r d) s = .next (commit s (answer s2 c.tok (okR0 k)))) ∧
  (∀ (r : Nat) (d : Dma) (s s1 : State) (c : Cmd) (i : Nat) (x : Key),
    let base := c.fld 191 128
    let len := c.fld 127 64
    let g := (x.gen + 1) % 256
    taken 0x0910 [.operator, .tenant] r d s = some (c, s1) → c.payLen = 24 → 4096 ≤ len → len ≤ objectBytes → c.target ≠ 0 →
    c.target >>> 32 = 0 → c.fld 47 2 = 0 → base % 4096 = 0 → len % 4096 = 0 → regionOk s1 c.priv c.tenant base len = true →
    findKey s1 c.target = some (i, x) → x.tenant = c.tenant → x.landing = .no →
    exec (.keyRegister r d) s = .next (commit s (answer { s1 with fbe := { s1.fbe with
      keys := Tbl.set s1.fbe.keys i ⟨g, base, len, x.tenant, c.fld 1 0, c.fld 63 48, .no⟩
      keyGen := Tbl.set s1.fbe.keyGen i g } } c.tok (okR0 (keyOf i g))))) ∧
  (∀ (r : Nat) (d : Dma) (s s1 : State) (c : Cmd) (i : Nat) (x : Key),
    taken 0x0911 [.operator, .tenant] r d s = some (c, s1) → c.payLen = 0 → c.target >>> 32 = 0 →
    findKey s1 c.target = some (i, x) → x.tenant = c.tenant → x.landing = .no →
    exec (.keyDeregister r d) s = .next (commit s (answer (dropKey s1 i) c.tok okAns))) ∧
  (∀ (r : Nat) (d : Dma) (s s1 : State) (c : Cmd) (b i k : Nat),
    let R := newRing c.sess c.port b (c.fld 47 32) (c.fld 63 48) (c.fld 255 192) (c.fld 191 128) (c.fld 111 96) (c.fld 95 80)
      (c.fld 79 64) true
    let rate := max 1 (if c.fld 351 320 = 0 then pathRates s1 i (c.fld 302 299) else c.fld 351 320)
    let x := newConn .opening false (c.fld 383 368) 0 c.tenant k rate (c.fld 311 303) (c.fld 302 299) (c.fld 298 297)
      (c.fld 296 294) (pickEngine s1) (some c.tok) (now s1)
    taken 0x0920 [.operator, .tenant] r d s = some (c, s1) → c.payLen = 48 →
    ringFields s1 c.port (c.fld 47 32) (c.fld 63 48) (c.fld 79 64) (c.fld 95 80) (c.fld 111 96) (c.fld 191 128) (c.fld 255 192)
      [] [(c.fld 127 112 == 0, St.fieldRange, inPay 14)] 4 6 8 10 12 16 24 = .ok () → 16 ≤ c.fld 47 32 → c.fld 47 32 ≤ 4096 → 16 ≤ c.fld 63 48 → c.fld 63 48 ≤ 4096 →
    1 ≤ c.fld 79 64 → c.fld 79 64 ≤ 256 → 1 ≤ c.fld 302 299 → c.fld 302 299 ≤ 8 → 16 ≤ c.fld 311 303 → c.fld 311 303 ≤ 256 →
    c.target = 0 → c.fld 31 0 = 0 → c.fld 127 112 = 0 → c.fld 257 256 = 1 → c.fld 293 258 = 0 → c.fld 298 297 ≠ 3 →
    c.fld 319 312 = 0 → c.fld 351 320 ≤ 288000 → c.fld 367 352 = 0 → peerKnown s1 (c.fld 383 368) = true →
    Tbl.freeFrom s1.hcu.rings 252 4 = some k → k < 256 → freeRegion s1 (c.fld 47 32) = some b → freeConn s1 = some i →
    exec (.connOpen r d) s = .next (commit s (answer (sendOpen (setConn (addRing s1 k R) i x) i x) c.tok
      { st := some St.pending, r0 := k ||| (64 * b) <<< 32 }))) ∧
  (∀ (r : Nat) (d : Dma) (s s1 : State) (c : Cmd) (b i k : Nat),
    let R := newRing c.sess c.port b (c.fld 47 32) (c.fld 63 48) (c.fld 255 192) (c.fld 191 128) (c.fld 111 96) (c.fld 95 80)
      (c.fld 79 64) true
    let s2 := addRing s1 k R
    taken 0x0920 [.operator, .tenant] r d s = some (c, s1) → c.payLen = 48 →
    ringFields s1 c.port (c.fld 47 32) (c.fld 63 48) (c.fld 79 64) (c.fld 95 80) (c.fld 111 96) (c.fld 191 128) (c.fld 255 192)
      [] [(c.fld 127 112 == 0, St.fieldRange, inPay 14)] 4 6 8 10 12 16 24 = .ok () → 16 ≤ c.fld 47 32 → c.fld 47 32 ≤ 4096 → 16 ≤ c.fld 63 48 → c.fld 63 48 ≤ 4096 →
    1 ≤ c.fld 79 64 → c.fld 79 64 ≤ 256 → c.target = 0 → c.fld 31 0 = 0 → c.fld 127 112 = 0 → c.fld 257 256 = 2 →
    c.fld 293 258 = 0 → c.fld 298 297 ≠ 3 → c.fld 319 312 = 0 → c.fld 351 320 ≤ 288000 → c.fld 367 352 = 0 →
    c.fld 383 368 = 0xFFFF → s1.fbe.erg ≠ [] → Tbl.freeFrom s1.hcu.rings 252 4 = some k → k < 256 →
    freeRegion s1 (c.fld 47 32) = some b → freeConn s1 = some i →
    exec (.connOpen r d) s = .next (commit s (answer (setConn s2 i (newConn .opened true 0xFFFF 0 c.tenant k
      (max 1 (c.fld 351 320)) 0 1 (c.fld 298 297) (c.fld 296 294) (pickEngine s1) none (now s1))) c.tok
      (okR0 (k ||| (64 * b) <<< 32))))) ∧
  (∀ (r : Nat) (d : Dma) (s s1 : State) (c : Cmd) (i : Nat) (x : Conn),
    let k := c.target % 65536
    let s0 := if c.fld 0 0 = 1 then endWaiting s1 k St.state else s1
    let s2 := setConn s0 i { x with st := .closing, closeTok := some c.tok }
    let rs := Tbl.upd s2.hcu.rings k fun R => { R with fetching := false }
    taken 0x0921 [.operator, .tenant] r d s = some (c, s1) → c.payLen = 8 → c.target >>> 16 = 0 → c.fld 63 1 = 0 →
    connOfRing s1 k = some (i, x) → c.tenantOk x.tenant = true → x.st ≠ .opening → x.st ≠ .closing →
    exec (.connClose r d) s = .next (commit s (settleConn
      (complete { s2 with hcu := { s2.hcu with rings := rs } } c.tok St.pending 0 0 [] false) i))) ∧
  (∀ (r : Nat) (d : Dma) (s s1 : State) (c : Cmd),
    let n := c.fld 6 0
    let recs := c.recs 16 32 n
    taken 0x0930 [.operator] r d s = some (c, s1) → 1 ≤ n → n ≤ 64 → c.payLen = 16 + 32 * n → c.target = 0 → c.fld 127 7 = 0 →
    (∀ x ∈ recs, 4096 ≤ bits x 191 128 ∧ bits x 191 128 ≤ ergTop) → checkEach (ergFields s1) 0 recs = .ok () →
    (∃ x ∈ recs, (ergRec x).node = me s1) → (inPair s1 = false ∨ ∀ x ∈ recs, namesMirror s1 x = false) →
    exec (.ergMap r d) s = .next (commit s (answer { s1 with fbe := { s1.fbe with erg := recs.map ergRec } } c.tok okAns))) ∧
  (∀ (r : Nat) (d : Dma) (s s1 : State) (c : Cmd),
    taken 0x0940 [.operator] r d s = some (c, s1) → c.payLen = 16 → c.target = 0 → c.fld 79 0 = 0 → c.fld 85 82 ≤ 7 →
    (inPair s1 = true → c.fld 127 126 = 0) →
    exec (.ptpConfig r d) s = .next (commit s (answer { s1 with clk := { s1.clk with
      ptp := ⟨c.fld 127 110, c.fld 109 102, c.fld 101 94, c.fld 93 86, c.fld 85 82, c.fld 81 81, c.fld 80 80⟩ } } c.tok okAns))) ∧
  (∀ (r : Nat) (d : Dma) (s s1 : State) (c : Cmd),
    taken 0x0E12 [.maintenance] r d s = some (c, s1) → c.payLen = 8 → 64 ≤ c.resLen → c.target = 0 → c.fld 4 0 ≤ 17 →
    c.fld 21 5 = 0 → (c.fld 23 22 = 1 ∨ c.fld 23 22 = 2) → 1 ≤ c.fld 63 32 → c.fld 63 32 ≤ 10000 →
    (portAt s1 (c.fld 4 0)).st = .disabled →
    exec (.diagLoopback r d) s = .next (commit s (answer (setPort s1 (c.fld 4 0) { portAt s1 (c.fld 4 0) with
      st := .loopback, loopTok := some c.tok, loopUntil := now s1 + c.fld 63 32 * ms, loopLanes := c.fld 31 24 }) c.tok pendAns))) ∧
  (∀ (s : State) (port : Nat) (errs : List Nat), (portAt s port).st = .loopback → (portAt s port).loopUntil ≤ now s →
    exec (.loopbackDone port errs) s = .next (commit s (finishOpt
      (setPort s port { portAt s port with st := .disabled, loopTok := none }) (portAt s port).loopTok St.ok 0 0
      ((List.range 8).flatMap fun l => leBytes 8 (if bit (portAt s port).loopLanes l then errs.getD l 0 else 0))))) ∧
  (∀ (r : Nat) (d : Dma) (s s1 : State) (c : Cmd),
    taken 0x0E20 [.maintenance] r d s = some (c, s1) → c.payLen = 16 → 1 ≤ c.fld 63 48 → c.target = 0 → 1 ≤ c.fld 7 0 →
    c.fld 7 0 ≤ 5 → c.fld 47 8 = 0 → injectAddr s1 (c.fld 7 0) (c.fld 127 64) = true →
    exec (.errInject r d) s = .next (commit s (answer { s1 with mir := { s1.mir with inject := s1.mir.inject ++
      [⟨c.fld 7 0, c.fld 127 64, c.fld 63 48, if c.fld 7 0 = 3 then some (now s1 + 1000 * ms) else none⟩] } } c.tok okAns))) ∧
  (∀ (s : State) (r i : Nat) (R : Ring) (c : Conn),
    let h := slotHeader s R
    let t := startDesc (fetchedWork s r R h) i c (workTok r R h) h
    Tbl.get s.hcu.rings r = some R → connOfRing s r = some (i, c) → R.work = true → R.waiting = none → granted s r R = true →
    workReady s R c h = true → c.st ≠ .failed →
    descChecks (fetchedWork s r R h) R c h = .ok () →
    (wOp h = 1 → exec (.workWrite r) s = .next (commit s t)) ∧ (wOp h = 2 → exec (.workRead r) s = .next (commit s t)) ∧
    (wOp h = 3 → exec (.workAdd r) s = .next (commit s t)) ∧ (wOp h = 4 → exec (.workMin r) s = .next (commit s t)) ∧
    (wOp h = 5 → exec (.workMax r) s = .next (commit s t)) ∧ (wOp h = 6 → exec (.workCas r) s = .next (commit s t))) ∧
  (∀ (s : State) (r i : Nat) (R : Ring) (c : Conn),
    let h := slotHeader s R
    let t := fetchedOnly s r R h
    Tbl.get s.hcu.rings r = some R → connOfRing s r = some (i, c) → R.work = true → R.waiting = none → granted s r R = true →
    workReady s R c h = false →
    (wOp h = 1 → exec (.workWrite r) s = .next (commit s t)) ∧ (wOp h = 2 → exec (.workRead r) s = .next (commit s t)) ∧
    (wOp h = 3 → exec (.workAdd r) s = .next (commit s t)) ∧ (wOp h = 4 → exec (.workMin r) s = .next (commit s t)) ∧
    (wOp h = 5 → exec (.workMax r) s = .next (commit s t)) ∧ (wOp h = 6 → exec (.workCas r) s = .next (commit s t))) ∧
  (∀ (s : State) (r i : Nat) (R : Ring) (c : Conn) (h : Nat),
    let R1 := { R with waiting := none, outstanding := R.outstanding ++ [wCid h] }
    let t := settleConn (startDesc (setRing s r R1) i c (workTok r (unfetched R) h) h) i
    Tbl.get s.hcu.rings r = some R → connOfRing s r = some (i, c) → R.work = true → R.waiting = some h → serving s r = true →
    workReady s R c h = true → c.st ≠ .failed → descChecks (setRing s r R1) (unfetched R) c h = .ok () →
    (wOp h = 1 → exec (.workWrite r) s = .next (commit s t)) ∧ (wOp h = 2 → exec (.workRead r) s = .next (commit s t)) ∧
    (wOp h = 3 → exec (.workAdd r) s = .next (commit s t)) ∧ (wOp h = 4 → exec (.workMin r) s = .next (commit s t)) ∧
    (wOp h = 5 → exec (.workMax r) s = .next (commit s t)) ∧ (wOp h = 6 → exec (.workCas r) s = .next (commit s t)))

/-- What happens to fabric ports and to device time (10 R271 to R275, R303, R304). A trained port comes up, DEGRADED with
its event on four lanes, and sends DISCOVER; a lane that is lost joins the bad lanes; a quiet window only counts its errors;
DISCOVER and pause frames are kept and counted; neighbour discovery is answered; the first PTP_SYNC steps device time
forward and a later one leaves an offset; and the clock's events are posted once each. What the spec leaves open in it is
the model's choice, in log entries 8 and 35. -/
def Obligations.PortAndClockEvents : Prop :=
  (∀ (s : State) (port : Nat) (upper : Bool), port ≤ 17 → portsPowered s = true → (portAt s port).st = .training →
    halfFits (portAt s port) false upper = true →
    let s1 := movePort s port { portAt s port with st := .up, upperHalf := false, peerNode := 0xFFFF }
    exec (.linkUp port false upper) s = .next (commit s (sendFrame s1 port 8 true (discoverFrame s1 port)))) ∧
  (∀ (s : State) (port : Nat) (upper : Bool), port ≤ 17 → portsPowered s = true → (portAt s port).st = .training →
    halfFits (portAt s port) true upper = true →
    let s1 := post (movePort s port { portAt s port with st := .degraded, upperHalf := upper, peerNode := 0xFFFF })
      Un.fbe Ek.port Ec.stateChange 2 0 (objPort port) (portAt s port).badLanes
    exec (.linkUp port true upper) s = .next (commit s (sendFrame s1 port 8 true (discoverFrame s1 port)))) ∧
  (∀ (s : State) (port lane : Nat), port ≤ 17 → lane ≤ 7 → linked s port = true →
    exec (.laneLockLoss port lane) s = .next (commit s (judgeLanes s port ((portAt s port).badLanes ||| 2 ^ lane)))) ∧
  (∀ (s : State) (port unc : Nat) (corr : List Nat), port ≤ 17 → linked s port = true → s.mir.inject = [] →
    unc ≤ (portAt s port).degradeUnc → (∀ l, corr.getD l 0 ≤ (portAt s port).degradeSym) → (portAt s port).badLanes = 0 →
    let x := portAt s port
    exec (.fecWindow port corr unc) s = .next (commit s (setPort s port { x with
      fecCorr := (x.fecCorr + ((List.range 8).map fun l => corr.getD l 0).foldl (· + ·) 0) % 2 ^ 64
      fecUnc := satBits 32 (x.fecUnc + unc) }))) ∧
  (∀ (s : State) (port node peerPort mac : Nat), port ≤ 17 → linked s port = true →
    exec (.discover port node peerPort mac) s = .next (commit s (setPort s port
      { portAt s port with peerNode := node, peerPort := peerPort, peerMac := mac }))) ∧
  (∀ (s : State) (port : Nat), port ≤ 17 → linked s port = true →
    exec (.pauseFrame port) s = .next (commit s (setPort s port { portAt s port with pauses := (portAt s port).pauses + 1 }))) ∧
  (∀ (s : State) (port node : Nat), port ≤ 17 → linked s port = true → bit (portAt s port).modes 1 = true →
    mirrorPort s port = false → isUs s node = true → s.mru.st ≠ .fenced →
    exec (.neighborDiscovery port node) s = .next (commit s (emit s (.advert port node)))) ∧
  (∀ (s : State) (master : Nat), s.clk.synced = false →
    exec (.ptpSync master) s = .next (commit s { s with clk := { s.clk with
      now := max (now s) master, synced := true, bootSync := true, holdover := false, offset := min 0 ((master : Int) - (now s : Int))
      offsetSince := none } })) ∧
  (∀ (s : State) (master : Nat), s.clk.synced = true → (1000 < ((master : Int) - (now s : Int)).natAbs) →
    exec (.ptpSync master) s = .next (commit s { s with clk := { s.clk with
      bootSync := true, offset := (master : Int) - (now s : Int), holdover := false
      offsetSince := some (s.clk.offsetSince.getD (now s)) } })) ∧
  (∀ (s : State) (t : Nat), s.clk.offsetSince = some t → s.clk.alarmed = false → t + 1000 * ms ≤ now s →
    exec .ptpOffsetAlarm s = .next (commit s (clockEvent { s with clk := { s.clk with alarmed := true } } Ec.threshold 1
      s.clk.offset.natAbs))) ∧
  (∀ (s : State), s.clk.holdover = false → s.sbu.bootDone = true →
    exec .holdover s = .next (commit s (clockEvent { s with clk := { s.clk with holdover := true, holdoverAt := now s } }
      Ec.loss 2 0))) ∧
  (∀ (s : State), s.clk.synced = false → s.sbu.bootDone = true → s.clk.holdoverAt + 10000 * ms ≤ now s →
    exec .holdoverRepeat s = .next (commit s (clockEvent { s with clk := { s.clk with holdoverAt := now s } } Ec.loss 2 0))) ∧
  (∀ (s : State), s.sbu.bootDone = true → s.pin.extest = false → now s % 1000000000 < 100 * us →
    exec .ppsOut s = .next (commit s
      { s with pin := { s.pin with ppsUntil := some (now s / 1000000000 * 1000000000 + 100 * us) } }))

/-- Transfer mode at the receiver and the sender (10 R289 to R300). The first packet of a message in the window that passes
its key's checks is applied; a whole answer of one packet stores what a TREAD read; ACK takes the echo and ends what it
covers; a reassembly NAK has its message sent again; OPEN takes a connection and answers it, OPEN_ACK opens it, CLOSE ends
the peer's; a message whose timer has run is resent as a marked period, a message without packets is dropped and reported, a
CONN_OPEN without answer fails after 1 ms, and a rate period with nothing acknowledged changes no rate. What the spec leaves
open in it is the model's choice, in log entry 33. -/
def Obligations.TransferMode : Prop :=
  (∀ (s : State) (f : Frame) (c : Conn), arrives Fo.twrite s f → onConn s f c → startsMessage s f c →
    targetStatus (countRx s f) f = St.ok →
    exec (.twrite f) s = .next (commit s (applyPacket (countRx s f) f (newRx f)))) ∧
  (∀ (s : State) (f : Frame) (c : Conn), arrives Fo.tread s f → onConn s f c → startsMessage s f c →
    exec (.tread f) s = .next (commit s (applyPacket (countRx s f) f (newRx f)))) ∧
  (∀ (s : State) (f : Frame) (c : Conn), arrives Fo.tsend s f → onConn s f c → startsMessage s f c →
    exec (.tsend f) s = .next (commit s (applyPacket (countRx s f) f (newRx f)))) ∧
  (∀ (s s1 : State) (f : Frame) (c : Conn) (m : OutMsg), arrives Fo.treadResp s f → onConn s f c →
    (c.st = .opened ∨ c.st = .closing) → epochPasses s f.epoch = true →
    (c.sent.find? fun m => m.num == f.seq && m.op == Fo.tread) = some m → f.status = St.ok → f.off = 0 → f.last = true →
    f.len = m.len → 0 < f.len → m.units = [] → m.moved = 0 → storeLocal (countRx s f) m.loc f.pay = (St.ok, s1) →
    exec (.treadResp f) s = .next (commit s (endMsg (updMsg s1 f.conn m.num fun x =>
      { x with units := x.units ++ unitsOf f, moved := f.len, total := some f.len }) f.conn m.num St.ok f.len))) ∧
  (∀ (s : State) (f : Frame) (c : Conn), arrives Fo.ack s f → onConn s f c →
    exec (.ack f) s = .next (commit s (ackUpTo (takeEcho s f.conn f.addr) f.conn f.seq))) ∧
  (∀ (s s1 : State) (f : Frame) (c c1 : Conn) (m : OutMsg), arrives Fo.nak s f → onConn s f c → f.reason = Nr.reasm →
    s1 = ackUpTo (takeEcho s f.conn f.addr) f.conn f.seq → getConn s1 f.conn = some c1 →
    (c1.sent.find? fun m => m.num == f.key) = some m → m.resends < s1.fbe.ctl.retryLimit →
    exec (.nak f) s = .next (commit s (resend s1 f.conn c1 m false true))) ∧
  (∀ (s : State) (f : Frame) (i : Nat), arrives Fo.openMsg s f → mirrorPort s f.port = false → f.mem = false → toUs s f.dst = true →
    epochPasses s f.epoch = true → freeConn s = some i →
    let c := newConn .opened false f.src (subNat f.pay 0 2) (subNat f.pay 2 2) noRing (max 1 (pathRates s i 1)) (subNat f.pay 4 2) 1
      (subNat f.pay 6 1) f.tc (pickEngine s) none (now s)
    exec (.openMsg f) s = .next (commit s (openAnswer (setConn s i c) f i St.ok))) ∧
  (∀ (s : State) (f : Frame) (c : Conn) (t : Tok), arrives Fo.openAck s f → onConn s f c → c.tok = some t → f.status = St.ok →
    c.st = .opening →
    let c1 := { c with peerIdx := subNat f.pay 0 2, tok := none, st := .opened }
    exec (.openAck f) s = .next (commit s (settleConn
      (finish (setConn s f.conn c1) t St.ok (ringR0 s c.ring) 0) f.conn))) ∧
  (∀ (s : State) (f : Frame) (c : Conn), arrives Fo.close s f → onConn s f c → c.ring = noRing →
    exec (.closeMsg f) s = .next (commit s { s with fbe := { s.fbe with conns := Tbl.del s.fbe.conns f.conn } })) ∧
  (∀ (s : State) (i msn : Nat) (c : Conn) (m : OutMsg), getConn s i = some c → (c.sent.find? fun m => m.num == msn) = some m →
    c.memory = false → m.dueAt ≤ now s → m.why = 0 → m.resends < s.fbe.ctl.retryLimit →
    exec (.rtoExpiry i msn) s = .next (commit s (markedPeriod (resend s i c m true true) i))) ∧
  (∀ (s : State) (i msn : Nat) (c : Conn) (m : InMsg), getConn s i = some c → Tbl.get c.rx msn = some m → m.complete = false →
    m.failed = false → m.lastAt + s.fbe.ctl.reasm * us ≤ now s →
    exec (.reasmTimeout i msn) s = .next (commit s (nakOn (setConn s i { c with rx := Tbl.del c.rx msn }) i msn Nr.reasm 0))) ∧
  (∀ (s : State) (i : Nat) (c : Conn) (t : Tok), getConn s i = some c → c.tok = some t → c.openedAt + ms ≤ now s →
    exec (.openTimeout i) s = .next (commit s (openFails s i c St.peerLost))) ∧
  (∀ (s : State) (i : Nat) (c : Conn), getConn s i = some c → c.memory = false → c.rateAt + s.fbe.ctl.ratePeriod * us ≤ now s →
    c.acked ≠ 0 → exec (.rateUpdate i) s = .next (commit s (setConn s i
      { rateStep s c c.marked c.acked with rateAt := now s, acked := 0, marked := 0 }))) ∧
  (∀ (s : State) (i : Nat) (c : Conn), getConn s i = some c → c.memory = false → c.rateAt + s.fbe.ctl.ratePeriod * us ≤ now s →
    c.acked = 0 → exec (.rateUpdate i) s = .next (commit s (setConn s i { c with rateAt := now s, marked := 0 })))

/-- Memory mode and the erg aperture (10 R279 to R286). A request of an open sequence in its turn, of readable memory and no
flash granule, is performed, answered and its SEQ passed; its MRESP ends the request at the source; NAK WAIT goes out every
10 µs while a request waits; a source resends after MEM_TIMEOUT; and an aperture request that its tenant's rights allow is
issued, one of another kind is answered Unsupported Request, and one unanswered for 10 ms Completer Abort. What the spec
leaves open in it is the model's choice, in log entry 34. -/
def Obligations.MemoryMode : Prop :=
  (∀ (s s2 : State) (f : Frame) (q : SeqIn),
    let s1 := { s with fbe := { s.fbe with seqIn := Tbl.set s.fbe.seqIn f.src { q with queue := [f] } } }
    let left := Tbl.upd s2.fbe.seqIn f.src fun q => { q with queue := [], expect := (q.expect + 1) % 2 ^ 32 }
    let done := { s2 with fbe := { s2.fbe with seqIn := left } }
    fabricOpen s f.port = true → ordinary s f = true → memTurn s f q → s.tfm.rebuilding = false → flashIn s1 (ergAddr f.addr) (frameSpan f) = [] →
    serveMem s1 f = some s2 →
    (f.op = Fo.mwrite → exec (.mwrite f) s = .next (commit s done)) ∧ (f.op = Fo.mread → exec (.mread f) s = .next (commit s done)) ∧
    (f.op = Fo.madd → exec (.madd f) s = .next (commit s done)) ∧ (f.op = Fo.mmin → exec (.mmin f) s = .next (commit s done)) ∧
    (f.op = Fo.mmax → exec (.mmax f) s = .next (commit s done)) ∧ (f.op = Fo.mcas → exec (.mcas f) s = .next (commit s done))) ∧
  (∀ (s : State) (f : Frame) (m : OutMsg),
    let q := getSeqOut s f.src
    arrives Fo.mresp s f → mirrorPort s f.port = false → some f.dst = myDomain s → (q.reqs.find? fun m => m.num == f.seq && m.key == f.key) = some m →
    f.status ≠ St.epochStale → f.status ≠ St.accessViolation →
    exec (.mresp f) s = .next (commit s (settleEpochs (endMemReq
      (setSeqOut s f.src { q with reqs := q.reqs.filter fun x => x.num != m.num, rounds := 0, sentAt := now s })
      m f.status f.pay)))) ∧
  (∀ (s : State) (src : Nat) (q : SeqIn) (f : Frame) (rest : List Frame), Tbl.get s.fbe.seqIn src = some q → q.queue = f :: rest →
    q.waitAt + 10 * us ≤ now s →
    let s1 := nakMem s f Nr.wait ((q.expect + 2 ^ 32 - 1) % 2 ^ 32) f.seq
    exec (.nakWaitTimer src) s = .next (commit s (resumeMem
      { s1 with fbe := { s1.fbe with seqIn := Tbl.set s1.fbe.seqIn src { q with waitAt := now s } } } src))) ∧
  (∀ (s : State) (dst : Nat) (m : OutMsg) (rest : List OutMsg),
    let q := getSeqOut s dst
    q.reqs = m :: rest → m.why ≠ 2 → q.sentAt + s.fbe.ctl.memTimeout * us ≤ now s → q.rounds < s.fbe.ctl.retryLimit →
    exec (.memTimeout dst) s = .next (commit s (resendSeq
      (setSeqOut s dst { q with rounds := q.rounds + 1, sentAt := now s }) dst))) ∧
  (∀ (s : State) (p addr : Nat) (bs : Bytes),
    let m : OutMsg :=
      { num := 0, op := Fo.mwrite, key := 0, addr := addr, len := bs.length, loc := 0, data := bs, epoch := epochNum s
        ordered := false, size64 := false, signed := false, tc := 0, tok := none, aper := some (p, 0), parent := none
        routes := (0x1F, 0x1F), parts := 0, moved := 0, st := 0, dueAt := 0, why := 0, resends := 0, timer := 0, acked := false
        units := [], total := none }
    hostOpen s p = true → engineLoad s (aperEngine addr) < 384 → bs ≠ [] → bs.length ≤ 4096 →
    ergAllows s addr bs.length (s.sbu.set.apertureTenant.getD p 0) 1 = true →
    exec (.apertureWrite p addr bs) s = .next (commit s (issueMem s (aperEngine addr) m))) ∧
  (∀ (s : State) (p tag addr len : Nat),
    let s1 := { s with fbe := { s.fbe with aper := Tbl.set s.fbe.aper (aperKey p tag) (now s) } }
    let m : OutMsg :=
      { num := 0, op := Fo.mread, key := 0, addr := addr, len := len, loc := 0, data := [], epoch := epochNum s
        ordered := false, size64 := false, signed := false, tc := 0, tok := none, aper := some (p, tag), parent := none
        routes := (0x1F, 0x1F), parts := 0, moved := 0, st := 0, dueAt := 0, why := 0, resends := 0, timer := 0, acked := false
        units := [], total := none }
    hostOpen s p = true → engineLoad s (aperEngine addr) < 384 → 1 ≤ len → len ≤ 4096 →
    Tbl.has s.fbe.aper (aperKey p tag) = false → ergAllows s addr len (s.sbu.set.apertureTenant.getD p 0) 0 = true →
    exec (.apertureRead p tag addr len) s = .next (commit s (issueMem s1 (aperEngine addr) m))) ∧
  (∀ (s : State) (p tag addr cmp v : Nat) (size64 : Bool),
    let n := if size64 = true then 8 else 4
    let s1 := { s with fbe := { s.fbe with aper := Tbl.set s.fbe.aper (aperKey p tag) (now s) } }
    let m (op : Nat) (data : Bytes) : OutMsg :=
      { num := 0, op := op, key := 0, addr := addr, len := n, loc := 0, data := data, epoch := epochNum s
        ordered := false, size64 := size64, signed := false, tc := 0, tok := none, aper := some (p, tag), parent := none
        routes := (0x1F, 0x1F), parts := 0, moved := 0, st := 0, dueAt := 0, why := 0, resends := 0, timer := 0, acked := false
        units := [], total := none }
    hostOpen s p = true → engineLoad s (aperEngine addr) < 384 → atomicsOut s (ergDomain addr) < 64 →
    Tbl.has s.fbe.aper (aperKey p tag) = false → ergAllows s addr n (s.sbu.set.apertureTenant.getD p 0) 2 = true →
    exec (.apertureFetchAdd p tag addr size64 v) s = .next (commit s (issueMem s1 (aperEngine addr)
      (m Fo.madd (leBytes 8 v ++ zeros 8)))) ∧
    exec (.apertureCas p tag addr size64 cmp v) s = .next (commit s (issueMem s1 (aperEngine addr)
      (m Fo.mcas (leBytes 8 v ++ leBytes 8 cmp))))) ∧
  (∀ (s : State) (p tag : Nat), hostOpen s p = true →
    exec (.apertureUnsupported p tag) s = .next (commit s (emit s (.tlp p tag 3 [])))) ∧
  (∀ (s : State) (p tag t : Nat), Tbl.get s.fbe.aper (aperKey p tag) = some t → t + 10 * ms ≤ now s →
    exec (.apertureTimeout p tag) s = .next (commit s (emit
      { s with fbe := { s.fbe with aper := Tbl.del s.fbe.aper (aperKey p tag) } } (.tlp p tag 2 []))))

/-- The queue, event and telemetry commands and their timers (11 R312 to R338), taken and in order. QUEUE_CONFIG and
SHAPER_SET apply their records in turn; QUEUE_SAMPLE answers its records, and clears them when asked; ARB_FREEZE freezes
until it drains or releases; EVQ_CONFIG sets a queue and drops the oldest entries past its new capacity; TELEM_READ answers
the snapshot; a drained arbiter answers the core cycles it took, a freeze ends at its HOLD, a due interrupt leaves after its
gap, shapers refill each 1,000 ns and depths are sampled each 4,000 ns. What the spec leaves open in it is the model's
choice, in log entry 36. -/
def Obligations.QueueAndEventCommands : Prop :=
  (∀ (r : Nat) (d : Dma) (s s1 : State) (c : Cmd),
    let n := c.fld 11 0
    let recs := c.recs 8 24 n
    taken 0x0A01 [.operator] r d s = some (c, s1) → 1 ≤ n → n ≤ 2048 → c.payLen = 8 + 24 * n → c.target = 0 →
    c.fld 63 12 = 0 → checkEach configLen 0 recs = .ok () → checkEach (configRec s1) 0 recs = .ok () →
    (∀ x ∈ recs, bits x 174 171 ≠ 2 ∨ hasWorkRing s1 (bits x 109 102) = true) →
    exec (.queueConfig r d) s = .next (commit s (answer (recs.foldl applyConfig s1) c.tok okAns))) ∧
  (∀ (r : Nat) (d : Dma) (s s1 : State) (c : Cmd),
    let n := c.fld 11 0
    let recs := c.recs 8 16 n
    taken 0x0A02 [.operator] r d s = some (c, s1) → 1 ≤ n → n ≤ 2048 → c.payLen = 8 + 16 * n → c.target = 0 →
    c.fld 63 12 = 0 → checkEach (shaperRec s1) 0 recs = .ok () →
    exec (.shaperSet r d) s = .next (commit s (answer (recs.foldl applyShaper s1) c.tok okAns))) ∧
  (∀ (r : Nat) (d : Dma) (s s1 : State) (c : Cmd),
    let o := c.fld 63 59
    let n := c.fld 46 34
    let ks := (List.range n).map fun i => queueKey o (c.fld 58 47 + i)
    let cleared := Tbl.map s1.tsu.queues fun k x => if ks.contains k then clearSample x else x
    taken 0x0A03 [.operator, .maintenance] r d s = some (c, s1) → c.payLen = 8 → 1 ≤ n → n ≤ 4096 →
    c.fld 58 47 + n ≤ queuesOf o → 32 * n ≤ c.resLen → c.target = 0 → c.fld 33 1 = 0 → o ≤ 21 →
    exec (.queueSample r d) s = .next (commit s (answer
      (if c.fld 0 0 = 1 then { s1 with tsu := { s1.tsu with queues := cleared } } else s1) c.tok
      (okRes (ks.flatMap fun k => sampleRecord (queue s1 k)))))) ∧
  (∀ (r : Nat) (d : Dma) (s s1 : State) (c : Cmd),
    let a := c.fld 11 2
    taken 0x0A20 [.operator, .maintenance] r d s = some (c, s1) → c.payLen = 8 → c.target = 0 → c.fld 1 0 = 1 →
    freezable a = true → c.fld 31 12 = 0 → 1 ≤ c.fld 63 32 → c.fld 63 32 ≤ 10000 →
    (pairEgress a = false ∨ inPair s1 = false) → Tbl.has s1.tsu.frozen a = false →
    exec (.arbFreeze r d) s = .next (commit s (answer { s1 with tsu := { s1.tsu with
      frozen := Tbl.set s1.tsu.frozen a ⟨now s1, c.fld 63 32, some c.tok, false⟩ } } c.tok pendAns))) ∧
  (∀ (r : Nat) (d : Dma) (s s1 : State) (c : Cmd),
    taken 0x0A20 [.operator, .maintenance] r d s = some (c, s1) → c.payLen = 8 → c.target = 0 → c.fld 1 0 = 2 →
    freezable (c.fld 11 2) = true → c.fld 31 12 = 0 → 1 ≤ c.fld 63 32 → c.fld 63 32 ≤ 10000 →
    exec (.arbFreeze r d) s = .next (commit s (answer (unfreeze s1 (c.fld 11 2)) c.tok okAns))) ∧
  (∀ (r : Nat) (d : Dma) (s s1 : State) (c : Cmd),
    let q1 : EvQueue := { evqOf s1 0 with spill := c.fld 191 181 }
    taken 0x0A30 [.operator] r d s = some (c, s1) → c.payLen = 32 → c.fld 191 181 ≤ 1024 → c.target = 0 → c.fld 142 3 = 0 →
    c.fld 2 0 = 0 → c.isFw = true → spillFits s1 (evqOf s1 0).spill (c.fld 191 181) = true →
    exec (.evqConfig r d) s = .next (commit s (answer
      { s1 with tsu := { s1.tsu with evq := Tbl.set s1.tsu.evq 0 (evShrink (evCap q1) q1) } } c.tok okAns))) ∧
  (∀ (r : Nat) (d : Dma) (s s1 : State) (c : Cmd),
    let k := c.fld 2 0
    let q := evqOf s1 k
    let q1 : EvQueue := { q with
      enable := c.fld 143 143 == 1, notify := c.fld 255 192, spill := c.fld 191 181, unitMask := c.fld 180 169
      minSev := c.fld 168 167, irqSev := c.fld 166 165, irqGap := c.fld 164 155, vec := c.fld 154 146, port := c.fld 145 144
      irqDue := if c.fld 143 143 = 1 then q.irqDue else false }
    taken 0x0A30 [.operator] r d s = some (c, s1) → c.payLen = 32 → c.fld 191 181 ≤ 1024 → c.target = 0 → c.fld 142 3 = 0 →
    k ≠ 0 → (portMode s1 (c.fld 145 144) = 1 ∧ c.fld 255 192 % 4 = 0 ∨ portMode s1 (c.fld 145 144) = 2 ∧ c.fld 154 146 ≤ 511) →
    c.fld 164 155 ≤ 1000 → spillFits s1 q.spill (c.fld 191 181) = true →
    exec (.evqConfig r d) s = .next (commit s (answer { s1 with tsu := { s1.tsu with
      evq := Tbl.set s1.tsu.evq k (evShrink (if c.fld 143 143 = 1 then evCap q1 else 0) q1) } } c.tok okAns))) ∧
  (∀ (r : Nat) (d : Dma) (s s1 : State) (c : Cmd),
    taken 0x0E01 [.operator, .maintenance] r d s = some (c, s1) → c.payLen = 0 → 256 ≤ c.resLen → c.target = 0 →
    exec (.telemRead r d) s = .next (commit s (answer s1 c.tok (okRes (telemSnapshot s1))))) ∧
  (∀ (s : State) (a : Nat) (f : Frozen), Tbl.get s.tsu.frozen a = some f → f.drained = false → arbBusy s a = false →
    exec (.drained a) s = .next (commit s (finishOpt
      { s with tsu := { s.tsu with frozen := Tbl.set s.tsu.frozen a { f with drained := true, tok := none } } }
      f.tok St.ok (2 * (now s - f.since)) 0))) ∧
  (∀ (s : State) (a : Nat) (f : Frozen), Tbl.get s.tsu.frozen a = some f → f.since + f.hold * ms ≤ now s →
    exec (.holdExpiry a) s = .next (commit s (unfreeze s a))) ∧
  (∀ (s : State) (q t : Nat) (x : EvQueue), Tbl.get s.tsu.evq q = some x → x.irqDue = true → x.irqAt = some t →
    t + x.irqGap * us ≤ now s → exec (.eventIrqGap q) s = .next (commit s (evIrq s q x))) ∧
  (∀ (s : State), s.tsu.refillAt + 1000 ≤ now s → exec .shaperRefill s = .next (commit s (refill s))) ∧
  (∀ (s : State), s.tsu.sampleAt + 4000 ≤ now s →
    exec .depthSample s = .next (commit s ((Tbl.keys s.tsu.queues).foldl (sampleQueue (now s))
      { s with tsu := { s.tsu with sampleAt := s.tsu.sampleAt + 4000 } })))

/-- The pair's commands, joins and heartbeats (12 R340 to R356, R360 to R362), taken and in order. PAIR_JOIN starts a join;
PAIR_DISSOLVE tells the partner and ends the pair, as its DISSOLVE does; PAIR_STATUS answers the record; PAIR_PROMOTE makes
the pair; MIRROR_CLASS_SET sets the bit at a home here; a join without its partner ends after 1 s, its complete copy is
marked, ports become ordinary 1 ms after a pair's end, a heartbeat is taken, one is sent every 200 µs, a pair that does not
form after a restart is given up after 10 s, and 1 ms without a closed step ends a mirror step. What the spec leaves open in
it is the model's choice, in log entries 9 and 37. -/
def Obligations.PairCommands : Prop :=
  (∀ (r : Nat) (d : Dma) (s s1 : State) (c : Cmd) (n : NodeRec),
    let p := c.fld 223 192
    taken 0x0B01 [.operator] r d s = some (c, s1) → c.payLen = 32 → p ≤ 1000000 → c.target = 0 →
    (c.fld 1 0 = 1 ∨ c.fld 1 0 = 2) → (c.fld 3 2 = 1 ∨ c.fld 3 2 = 2) → c.fld 191 4 = 0 → c.fld 239 224 = 0 →
    nodeRec s1 (c.fld 255 240) = some n → c.fld 255 240 ≠ me s1 → n.lost = false → n.role = s1.hcu.role →
    (s1.mru.st = .solo ∨ (s1.mru.st = .takenOver ∧ c.fld 1 0 = 1)) →
    joinUnfit s1 = false → pairLinked s1 (c.fld 255 240) = true →
    (c.fld 1 0 = 1 ∨ (s1.rte.slots.all fun kv => kv.2.e.state == .free) = true) →
    exec (.pairJoin r d) s = .next (commit s (answer
      (startJoin s1 (c.fld 255 240) (if p = 0 then 10000 else p) (c.fld 3 2) (c.fld 1 0) c.tok) c.tok pendAns))) ∧
  (∀ (r : Nat) (d : Dma) (s s1 : State) (c : Cmd),
    taken 0x0B02 [.operator] r d s = some (c, s1) → c.payLen = 0 → c.target = 0 → holding s1 = true →
    exec (.pairDissolve r d) s = .next (commit s (answer (toSolo (emit s1 (.dissolve s1.mru.partner)) St.busy) c.tok okAns))) ∧
  (∀ (r : Nat) (d : Dma) (s s1 : State) (c : Cmd),
    taken 0x0B03 [.operator, .maintenance] r d s = some (c, s1) → c.payLen = 0 → 64 ≤ c.resLen → c.target = 0 →
    exec (.pairStatus r d) s = .next (commit s (answer s1 c.tok (okRes (leBytes 64 (pairRecord s1)))))) ∧
  (∀ (r : Nat) (d : Dma) (s s1 : State) (c : Cmd),
    taken 0x0B05 [.operator] r d s = some (c, s1) → c.payLen = 0 → c.target = 0 → inJoin s1 = true → s1.mru.copyDone = true →
    1 ≤ s1.mru.streak → exec (.pairPromote r d) s = .next (commit s (answer (toPaired s1) c.tok okAns))) ∧
  (∀ (r : Nat) (d : Dma) (s s1 : State) (c : Cmd) (n : Nat) (x : Slot) (v : Resv) (l : PList),
    taken 0x0B04 [.operator] r d s = some (c, s1) → c.payLen = 8 → c.target >>> 32 = 0 → c.fld 63 1 = 0 →
    c.entry s1 c.target = .ok (n, x) → getSlot s1 n = some x → openEntry s1 n x = .ok () → x.e.state.terminal = false →
    x.e.state ≠ .handoff → x.e.inStep = false → x.e.movePend = false → x.restoring = false → x.e.remoteHome = false →
    Tbl.get s1.rte.resv x.e.gid = some v → getList s1 x.e.gid = some l → mirroring s1 = false → c.fld 0 0 = 1 →
    exec (.mirrorClassSet r d) s = .next (commit s (answer (ownJob x.e.gid c.tok (setDurable s1 x.e.gid true)) c.tok okAns))) ∧
  (∀ (s : State), inJoin s = true → s.mru.partnerJoined = false → s.mru.joinAt + 1000 * ms ≤ now s →
    exec .joinTimeout s = .next (commit s (toSolo s St.peerLost))) ∧
  (∀ (s : State), s.mru.st = .shadow → s.mru.partnerJoined = true →
    exec .copyDone s = .next (commit s { s with mru := { s.mru with copyDone := true } })) ∧
  (∀ (s : State), holding s = true → exec (.dissolve s.mru.partner) s = .next (commit s (toSolo s St.busy))) ∧
  (∀ (s : State) (t : Nat), s.mir.dissolvedAt = some t → t + ms ≤ now s →
    exec .ordinaryPorts s = .next (commit s (takePorts s false))) ∧
  (∀ (s : State) (m : MirRec), m.kind = 15 → mirrorPort s m.port = true → fabricOpen s m.port = true → s.mru.partner ≠ 0xFFFF →
    recOk m = true → exec (.heartbeat m) s = .next (commit s (beatIn s m))) ∧
  (∀ (s : State), s.mir.portsMirror = true → s.mru.partner ≠ 0xFFFF → s.sbu.bootDone = true → s.mru.beatAt + 200 * us ≤ now s →
    holding s = false →
    let s1 := sendBeat (sendBeat s 16) 17
    exec .heartbeatTick s = .next (commit s { s1 with mru := { s1.mru with beatAt := now s } })) ∧
  (∀ (s : State), s.mru.st = .solo → s.mir.portsMirror = true → s.mru.partner ≠ 0xFFFF → s.mru.joinAt + 10000 * ms ≤ now s →
    exec .pairFormTimeout s = .next (commit s (pairEvent (takePorts { s with mru := { s.mru with partner := 0xFFFF } } false)
      Ec.timeout 1 0 s.mru.partner))) ∧
  (∀ (s : State), mirroring s = true → s.mru.stepAt + ms ≤ now s →
    exec .mirrorTick s = .next (commit s (mirrorStepEnd 0 [] s)))

/-- The mirror stream at its receiver and the loss of a partner (12 R344, R350 to R353). A record in its turn is applied as
its kind says, and acknowledged; a probe is answered and breaks the pair, as does the answer to one; without an answer
claims go to the witnesses; a witness grants the first claim and denies others for 10 s; a majority of grants takes the
partner over; and no majority within 1 ms fences this controller. What the spec leaves open in it is the model's choice, in
log entries 9 and 37. -/
def Obligations.MirrorStreamAndLoss : Prop :=
  (∀ (s : State) (m : MirRec),
    let s1 := applyRec { s with mir := { s.mir with applyQ := [] } } m
    let t := if s1.mru.mseqApplied = s.mru.mseqApplied then s1 else mirrorAckOut s1 m.port
    recTurn s m → (m.kind = 1 → exec (.mirEntry m) s = .next (commit s t)) ∧ (m.kind = 2 → exec (.mirTokens m) s = .next (commit s t)) ∧
    (m.kind = 3 → exec (.mirAux m) s = .next (commit s t)) ∧ (m.kind = 4 → exec (.mirCaravan m) s = .next (commit s t)) ∧
    (m.kind = 5 → exec (.mirPlist m) s = .next (commit s t)) ∧ (m.kind = 6 → exec (.mirPage m) s = .next (commit s t)) ∧
    (m.kind = 7 → exec (.mirJournal m) s = .next (commit s t)) ∧ (m.kind = 8 → exec (.mirStep m) s = .next (commit s t)) ∧
    (m.kind = 9 → exec (.mirCharge m) s = .next (commit s t))) ∧
  (∀ (s : State), s.mru.st = .paired → exec (.lossProbe s.mru.partner) s = .next (commit s (toBroken (emit s (.probeAns s.mru.partner))))) ∧
  (∀ (s : State), s.mru.st = .broken → exec (.lossProbe s.mru.partner) s = .next (commit s (emit s (.probeAns s.mru.partner)))) ∧
  (∀ (s : State) (l : Loss), lossAt s .probing = some l → now s < l.at' + 400 * us →
    exec (.lossProbeAnswer s.mru.partner) s = .next (commit s (toBroken s))) ∧
  (∀ (s : State) (l : Loss), lossAt s .probing = some l → l.at' + 400 * us ≤ now s → witnesses s = [] →
    exec .lossProbeTimeout s = .next (commit s (toBroken s))) ∧
  (∀ (s : State) (l : Loss), lossAt s .probing = some l → l.at' + 400 * us ≤ now s → witnesses s ≠ [] →
    exec .lossProbeTimeout s = .next (commit s ((witnesses s).foldl (fun a w => emit a (.claim w s.mru.partner))
      { s with mir := { s.mir with loss := some ⟨.claiming, now s, witnesses s, []⟩ } }))) ∧
  (∀ (s : State) (frm other : Nat), s.sbu.bootDone = true → shunned s = false →
    (∀ w ∈ s.mir.witness, ¬ (w.1 = min frm other ∧ w.2.1 = max frm other)) →
    exec (.claim frm other) s = .next (commit s (emit { s with mir := { s.mir with
      witness := s.mir.witness ++ [(min frm other, max frm other, frm, now s)] } } (.grantAns frm true)))) ∧
  (∀ (s : State) (frm other : Nat) (w : Nat × Nat × Nat × Nat), s.sbu.bootDone = true → shunned s = false → w ∈ s.mir.witness →
    w.1 = min frm other → w.2.1 = max frm other → now s < w.2.2.2 + 10000 * ms →
    exec (.claim frm other) s = .next (commit s (emit s (.grantAns frm false)))) ∧
  (∀ (s : State) (a b : Nat),
    exec (.grantHoldEnd a b) s = .next (commit s { s with mir := { s.mir with witness := s.mir.witness.filter fun w =>
      !(w.1 == min a b && w.2.1 == max a b && decide (w.2.2.2 + 10000 * ms ≤ now s)) } })) ∧
  (∀ (s : State) (w : Nat) (l : Loss), lossAt s .claiming = some l → w ∈ l.witnesses → w ∉ l.grants → now s < l.at' + ms →
    l.witnesses.length < 2 * (l.grants.length + 1) →
    exec (.grant w true) s = .next (commit s (takeover
      { s with mir := { s.mir with loss := some { l with grants := l.grants ++ [w] } } }))) ∧
  (∀ (s : State) (l : Loss), lossAt s .claiming = some l → l.at' + ms ≤ now s →
    exec .claimTimeout s = .next (commit s (fence s)))

/-- The plant unit (13 R365 to R384; 16 R434, R438). Its commands, taken and in order, set the cooling targets and the power
cap, start the hold-up test, which ends at its time with the measured values, and enter standby; samples of the store, the
coolant, the input and the temperatures act on the charger, the duties and the clamps; a pump fault is reported; power
failure and over-voltage begin the one sequence, a trip does so with the input switch closed, and the sequence's end turns
the rails off; input power comes back; standby is entered after 1 ms and left by a restart; EXTEST takes the pins and
TAP_RESET gives them back. What the spec leaves open in it is the model's choice, in log entries 21 and 22. -/
def Obligations.PlantRules : Prop :=
  (∀ (r : Nat) (d : Dma) (s s1 : State) (c : Cmd),
    taken 0x0C01 [.operator, .maintenance] r d s = some (c, s1) → c.payLen = 0 → 64 ≤ c.resLen → c.target = 0 →
    exec (.plantStatus r d) s = .next (commit s (answer s1 c.tok (okRes (plantRecord s1))))) ∧
  (∀ (r : Nat) (d : Dma) (s s1 : State) (c : Cmd),
    taken 0x0C02 [.operator] r d s = some (c, s1) → c.payLen = 8 → c.target = 0 → c.fld 39 0 = 0 → 85 ≤ c.fld 47 40 →
    c.fld 47 40 ≤ 105 → c.fld 55 48 < c.fld 47 40 → 60 ≤ c.fld 55 48 → c.fld 55 48 ≤ 100 → 25 ≤ c.fld 63 56 → c.fld 63 56 ≤ 55 →
    exec (.coolTargetSet r d) s = .next (commit s (answer (setDuty { s1 with plc := { s1.plc with
      tOutTarget := c.fld 63 56, tDieTarget := c.fld 55 48, tClamp := c.fld 47 40 } }) c.tok okAns))) ∧
  (∀ (r : Nat) (d : Dma) (s s1 : State) (c : Cmd),
    taken 0x0C03 [.maintenance] r d s = some (c, s1) → c.payLen = 8 → c.target = 0 → c.fld 55 0 = 0 → 20 ≤ c.fld 63 56 →
    c.fld 63 56 ≤ 200 → s1.plc.test = none → s1.jnl.saving = false → 40000 ≤ s1.plu.vin → s1.plu.vin ≤ 60000 →
    s1.sbu.set.storeVmax * 1000 - 500 ≤ s1.plu.vstore →
    exec (.holdupTest r d) s = .next (commit s (answer (setCharger { s1 with
      plc := { s1.plc with test := some (now s1, c.fld 63 56, c.tok) }, plu := { s1.plu with phase := .test }
      pin := { s1.pin with inputSwitch := false, storeSwitch := true } }) c.tok pendAns))) ∧
  (∀ (r : Nat) (d : Dma) (s s1 : State) (c : Cmd),
    taken 0x0C04 [.operator] r d s = some (c, s1) → c.payLen = 8 → c.target = 0 → c.fld 47 0 = 0 → 420 ≤ c.fld 63 48 →
    c.fld 63 48 ≤ 1650 →
    exec (.powerCapSet r d) s = .next (commit s (answer { s1 with plc := { s1.plc with cap := c.fld 63 48 } } c.tok okAns))) ∧
  (∀ (r : Nat) (d : Dma) (s s1 : State) (c : Cmd),
    taken 0x0C05 [.operator] r d s = some (c, s1) → c.payLen = 16 → c.target = 0 → c.fld 63 0 = 0 → idleForReset s1 = true →
    (s1.cax.ctxs.all fun kv => decide (61 ≤ kv.1)) = true →
    exec (.standbyEnter r d) s = .next (commit s (answer (commitJournal
      { s1 with plc := { s1.plc with standby := some (now s1, c.fld 127 64) } }) c.tok okAns))) ∧
  (∀ (s : State) (mv : Nat) (ca : Int), mv ≤ s.sbu.set.storeVmax * 1000 + 2000 →
    let vmax := s.sbu.set.storeVmax * 1000
    exec (.storeSample mv ca) s = .next (commit s (judgeStore (setCharger { s with
      plu := { s.plu with vstore := mv, istore := ca }
      plc := { s.plc with
        chgFull := decide (vmax ≤ mv) || (s.plc.chgFull && decide (vmax - 500 < mv)), overVmax := false } })))) ∧
  (∀ (s : State) (tIn tOut : Int), clocked s = true → thermBad tIn = false → thermBad tOut = false →
    exec (.coolantSample tIn tOut) s = .next (settle s (setDuty
      { s with plu := { s.plu with tIn := tIn, tOut := tOut }, plc := { s.plc with thermFault := false } }))) ∧
  (∀ (s : State), 0 < s.sbu.set.pumpCount → s.plc.pumpFault0 = false →
    exec (.pumpFault 0) s = .next (commit s (setFlag (pluEvent (setDuty { s with plc := { s.plc with pumpFault0 := true } })
      Ec.threshold 0 Sn.pump 0) Fl.pumpFault))) ∧
  (∀ (s : State) (stepMv stepCa chargeMc fallMv t n : Nat) (tok : Tok), s.plc.test = some (t, n, tok) → 42000 < s.plu.vstore →
    t + n * ms ≤ now s →
    let esr := measured s.draws (1000 * stepMv) stepCa
    let cap := measured (s.draws + 1) (1000 * chargeMc) fallMv
    let s1 := setCharger { s with
      plc := { s.plc with test := none }, plu := { s.plu with phase := .run }
      pin := { s.pin with inputSwitch := true, storeSwitch := false } }
    exec (.holdupTestEnd stepMv stepCa chargeMc fallMv) s = .next (commit s (finish
      (drawn (drawn { s1 with plu := { s1.plu with cEst := cap, esrEst := esr, tested := true } })) tok St.ok
      (cap <<< 48 ||| esr <<< 32 ||| satBits 16 (fFloor (eUsable cap (s.sbu.set.storeVmax * 1000))) <<< 16) 0))) ∧
  (∀ (s : State) (mv ca : Nat),
    let p := mv * ca
    let hist := (s.plu.pinHist ++ [p]).drop (s.plu.pinHist.length + 1 - 100)
    let sum := hist.foldl (· + ·) 0
    let s1 := { s with plu := { s.plu with vin := mv, iin := ca, pinHist := hist, pin := sum / (watts 1 * hist.length) } }
    exec (.powerSample mv ca) s = .next (commit s (reclock (capStep
      (burstStep s1 p (decide (sum < watts s.plc.cap * hist.length))) sum hist.length)))) ∧
  (∀ (s : State) (ts : List Int), clocked s = true → ts.length = 12 →
    exec (.dieTempSample ts) s = .next (settle s (reclock ([0, 1, 2, 3, 4, 5, 6, 7].foldl
      (fun u g => clampGroup u g (ts.getD g 0)) { s with plu := { s.plu with tDie := ts } })))) ∧
  (∀ (s : State) (ts : List Int), ts.length = 12 →
    exec (.hbmTempSample ts) s = .next (commit s ((List.range 12).foldl
      (fun u k => throttleStack u k (ts.getD k 0)) { s with plu := { s.plu with tHbm := ts } }))) ∧
  (∀ (s : State), clocked s = true → s.plu.phase ≠ .powerFail →
    exec .powerFail s = .next (settle s (startSequence s Rc.power)) ∧
    exec .overVoltage s = .next (settle s (startSequence s Rc.overVoltage))) ∧
  (∀ (s : State), s.plu.phase = .off →
    exec .powerUp s = .next (settle s { s with
      plu := { s.plu with island := true, phase := .stopped }
      pin := { s.pin with
        inputSwitch := true, storeSwitch := false, nextCause := if s.plu.island = true then s.pin.nextCause else Rc.cold } })) ∧
  (∀ (s : State), closingDown s = true → exec .openRowsProgrammed s = .next (commit s (programOpenRows s))) ∧
  (∀ (s : State), sequenceDone s = true → s.plu.phase = .powerFail → 4 ≤ s.plu.pfStep →
    exec .sequenceEnd s = .next (settle s
      { s with plu := { s.plu with phase := if s.pin.nextCause = Rc.thermal then .trip else .off } })) ∧
  (∀ (s : State), (s.plu.phase = .off ∨ s.plu.phase = .trip) →
    exec .islandOff s = .next (settle s { s with plu := { s.plu with island := false, phase := .off } })) ∧
  (∀ (s : State) (k : Nat), tripReads s k = true → s.plu.phase ≠ .powerFail →
    let ts := tripsHour s ++ [now s]
    let s1 := startSequence s Rc.thermal
    exec (.thermalTrip k) s = .next (commit s
      { s1 with pin := { s1.pin with tripSensor := k, trips := ts, tripLock := decide (3 ≤ ts.length) } })) ∧
  (∀ (s : State), s.plu.phase = .trip → s.pin.tripLock = false → diesCool s = true → s.plu.tOut < 16 * (s.plc.tOutTarget + 5) →
    exec .tripRestart s = .next (settle s (beginBoot s Rc.thermal))) ∧
  (∀ (s : State) (t a : Nat), s.plc.standby = some (t, a) → t + ms ≤ now s → s.plu.phase = .run →
    let s1 := downLinks s
    exec .standbyEntry s = .next (commit s
      { s1 with plu := { s1.plu with phase := .standby }, pin := { s1.pin with pwrGood := false } })) ∧
  (∀ (s : State), s.plu.phase = .standby → exec .standbyWake s = .next (settle s (beginBoot s Rc.wake))) ∧
  (∀ (s : State),
    exec .extest s = .next (settle s { s with pin := { s.pin with extest := true } }) ∧
    exec .tapReset s = .next (settle s { s with pin := { s.pin with extest := false } }))

/-- The security and boot unit's commands (01 R23 to R26; 14 R396 to R403; 16 R437), taken and in order. IMAGE_WRITE moves
the slot's pointer and leaves its data to be programmed; IMAGE_VERIFY and FW_LOAD start, IMAGE_SELECT gives the slot the
newest sequence or asks the factory image once, DEVICE_RESET starts a reset, KEY_PROVISION queues its change, DEVICE_ATTEST
answers the certificate chain or a signed record, and ROLE_SET switches at once, marks what lives, or cancels the switch
that waits. What the spec leaves open in it is the model's choice, in log entry 23. -/
def Obligations.SecurityCommands : Prop :=
  (∀ (r : Nat) (d : Dma) (s s1 : State) (c : Cmd),
    let k := c.fld 0 0 + 1
    let len := c.fld 47 24
    let off := c.fld 71 48
    let x := imgSlot s1 k
    let y : ImgSlot := if c.fld 1 1 = 1 then ⟨0, .empty, x.tries, 0⟩ else x
    let z : ImgSlot := if len = 0 then y else { y with st := .written, wptr := off + len }
    taken 0x0D01 [.maintenance] r d s = some (c, s1) → len ≤ 1048560 → c.payLen = 16 + len → off + len ≤ 0x1000000 →
    c.target = 0 → c.fld 23 2 = 0 → c.fld 127 72 = 0 → off = (if c.fld 1 1 = 1 then 0 else x.wptr) → s1.sbu.bootedSlot ≠ k →
    slotBusy s1 k = false →
    exec (.imageWrite r d) s = .next (commit s (answer
      (addJob (setImgSlot s1 k z) ⟨k, false, off, c.pay.drop 16, c.fld 1 1 == 1, c.tok⟩) c.tok pendAns))) ∧
  (∀ (r : Nat) (d : Dma) (s s1 : State) (c : Cmd),
    taken 0x0D02 [.operator, .maintenance] r d s = some (c, s1) → c.payLen = 8 → c.target = 0 → c.fld 1 0 ≠ 3 →
    c.fld 63 2 = 0 → slotBusy s1 (c.fld 1 0) = false →
    exec (.imageVerify r d) s = .next (commit s (answer (addJob s1 ⟨c.fld 1 0, true, 0, [], false, c.tok⟩) c.tok pendAns))) ∧
  (∀ (r : Nat) (d : Dma) (s s1 : State) (c : Cmd),
    let k := c.fld 1 0
    taken 0x0D03 [.maintenance] r d s = some (c, s1) → c.payLen = 8 → c.target = 0 → (k = 1 ∨ k = 2) → c.fld 63 2 = 0 →
    slotBusy s1 k = false → ((imgSlot s1 k).st = .verified ∨ (imgSlot s1 k).st = .confirmed) →
    exec (.imageSelect r d) s = .next (commit s (answer (setImgSlot s1 k
      { imgSlot s1 k with seq := ((imgSlot s1 (3 - k)).seq + 1) % 2 ^ 32, tries := 0 }) c.tok okAns))) ∧
  (∀ (r : Nat) (d : Dma) (s s1 : State) (c : Cmd),
    taken 0x0D03 [.maintenance] r d s = some (c, s1) → c.payLen = 8 → c.target = 0 → c.fld 1 0 = 3 → c.fld 63 2 = 0 →
    exec (.imageSelect r d) s = .next (commit s (answer { s1 with sbu := { s1.sbu with factoryOnce := true } } c.tok okAns))) ∧
  (∀ (r : Nat) (d : Dma) (s s1 : State) (c : Cmd),
    let s2 := startFirmware s1 c.pay s1.sec.fwImage
    taken 0x0D10 [.maintenance] r d s = some (c, s1) → fwFault s1 c.pay = none → c.target = 0 → s1.sec.fwLoad = none →
    s1.sec.resetting = false → (∀ j ∈ s1.sec.imgJobs, j.verify = true) →
    exec (.fwLoad r d) s = .next (commit s (answer { s2 with sec := { s2.sec with fwLoad := some (now s1, c.tok) } } c.tok pendAns))) ∧
  (∀ (r : Nat) (d : Dma) (s s1 : State) (c : Cmd),
    taken 0x0D30 [.operator, .maintenance] r d s = some (c, s1) → c.payLen = 8 → c.target = 0 → c.fld 63 1 = 0 →
    s1.sec.fwLoad = none → (c.fld 0 0 = 1 ∨ idleForReset s1 = true) →
    exec (.deviceReset r d) s = .next (commit s (if c.ring < 256 then startReset s1 Rc.deviceReset
      else answer (startReset s1 Rc.deviceReset) c.tok okAns))) ∧
  (∀ (r : Nat) (d : Dma) (s s1 : State) (c : Cmd),
    taken 0x0D11 [.maintenance] r d s = some (c, s1) → keyFields c = .ok () →
    ((applyKey (keysAfter s1) (keyChangeOf s1 c)).any fun kv => kv.2.priv == .maintenance) = true →
    exec (.keyProvision r d) s = .next (commit s (answer
      { s1 with sec := { s1.sec with keyJobs := s1.sec.keyJobs ++ [(keyChangeOf s1 c, c.tok)] } } c.tok pendAns))) ∧
  (∀ (r : Nat) (d : Dma) (s s1 : State) (c : Cmd),
    taken 0x0D12 [.operator, .tenant, .maintenance] r d s = some (c, s1) → c.payLen = 40 → 16384 ≤ c.resLen → c.target = 0 →
    c.fld 319 257 = 0 → c.fld 256 256 = 1 →
    exec (.deviceAttest r d) s = .next (commit s (answer s1 c.tok (okRes (s1.sec.certChain.take 16384))))) ∧
  (∀ (r : Nat) (d : Dma) (s s1 : State) (c : Cmd),
    let rec' := leBytes 256 (Config.attestRecord (attestParts s1 (c.pay.take 32))).toNat
    taken 0x0D12 [.operator, .tenant, .maintenance] r d s = some (c, s1) → c.payLen = 40 → 352 ≤ c.resLen → c.target = 0 →
    c.fld 319 257 = 0 → c.fld 256 256 = 0 →
    exec (.deviceAttest r d) s = .next (commit s (answer (drawn s1) c.tok
      (okRes (rec' ++ beBytes 96 (Config.attest s1.draws rec').toNat))))) ∧
  (∀ (r : Nat) (d : Dma) (s s1 : State) (c : Cmd),
    let role := c.fld 3 0
    taken 0x0D20 [.operator] r d s = some (c, s1) → c.payLen = 8 → c.target = 0 → 1 ≤ role → role ≤ 3 →
    (role = 3 → s1.sbu.set.portMode.contains 2 = true) → c.fld 7 4 = 0 → c.fld 63 9 = 0 → inPair s1 = false →
    (role = s1.hcu.role → s1.hcu.pendingRole = 0 →
      exec (.roleSet r d) s = .next (commit s (answer (roleEnds s1 St.ok) c.tok okAns))) ∧
    (role ≠ s1.hcu.role → s1.hcu.pendingRole = 0 → c.fld 8 8 = 0 → noneLive s1 = true →
      exec (.roleSet r d) s = .next (commit s (answer (roleEnds (switchRole s1 role) St.ok) c.tok okAns))) ∧
    (role ≠ s1.hcu.role → s1.hcu.pendingRole = 0 → c.fld 8 8 = 1 →
      exec (.roleSet r d) s = .next (commit s (answer ((Tbl.keys s1.rte.slots).foldl markEntry
        { s1 with hcu := { s1.hcu with pendingRole := role, roleTok := some c.tok, roleStatus := St.pending } }) c.tok pendAns))))

/-- Boot, trials, keys and policy firmware's heartbeat (01 R26, R28; 14 R396 to R403; 15 R419; 16 R437). An image's data is
programmed and its check answered; a FW_LOAD without heartbeat goes back; a heartbeat ends a lapse and a load, its absence
for 100 ms is a lapse; a trial without one resets, one that held for 60 s is confirmed; I3C restarts and wakes; the oldest
key change stands, a locked slot opens again; a role switches once every entry is FREE; a stopped controller restarts, boot
goes on without time synchronization after 1 s, and ends. What the spec leaves open in it is the model's choice, in log
entries 19 and 23. -/
def Obligations.BootAndFirmwareEvents : Prop :=
  (∀ (s : State) (slot : Nat) (j : ImgJob) (rest : List ImgJob),
    takeJob (fun j => !j.verify && j.which == slot + 1) s.sec.imgJobs = some (j, rest) → j.erase = false →
    exec (.imageProgrammed slot) s = .next (commit s (finish { s with
      sec := { s.sec with imgJobs := rest }
      sbu := { s.sbu with nor := memWriteN s.sbu.nor (slotBase j.which + j.off) j.data } } j.tok St.ok 0 0))) ∧
  (∀ (s : State) (k : Nat) (j : ImgJob) (rest : List ImgJob), k ≠ 0 →
    takeJob (fun j => j.verify && j.which == k) s.sec.imgJobs = some (j, rest) →
    let v := imgCheck s k
    exec (.imageVerifyDone k) s = .next (commit s (finish (markChecked { s with sec := { s.sec with imgJobs := rest } } k v) j.tok
      v.1 (if v.1 = St.ok then subNat (imgHeader s k) 8 2 <<< 48 else 0) v.2))) ∧
  (∀ (s : State) (t : Nat) (tok : Tok), s.sec.fwLoad = some (t, tok) → t + 1000 * ms ≤ now s →
    let s1 := startFirmware s s.sec.fwPrev []
    exec .fwLoadTimeout s = .next (commit s (finish { s1 with sec := { s1.sec with fwLoad := none } } tok St.state 0 0))) ∧
  (∀ (s : State) (v : Nat), 7 ≤ s.sbu.stage → s.sbu.stage ≠ 0xF0 →
    exec (.firmwareHeartbeat v) s = .next (commit s (heartbeat s))) ∧
  (∀ (s : State), s.rte.lapseTold = false → s.sec.fwLoad = none → lapseDue s = true →
    let s1 := setCharger (setDuty { s with rte := { s.rte with lapsed := true, lapseTold := true } })
    exec .heartbeatLapse s = .next (commit s (setFlag
      (post s1 Un.sbu Ek.device Ec.timeout 0 0 (me s <<< 48) s.rte.beatAt) Fl.fwLapse))) ∧
  (∀ (s : State), s.sbu.bootDone = true → s.sbu.trial = true → s.sbu.trialBeat = false → closingDown s = false →
    s.sbu.doneAt + 10000 * ms ≤ now s → exec .trialTimeout s = .next (commit s (startReset s Rc.trial))) ∧
  (∀ (s : State), s.sbu.bootDone = true → s.sbu.trial = true → s.sbu.trialBeat = true → s.rte.lapsed = false →
    s.rte.beatsSince + 60000 * ms ≤ now s →
    let k := s.sbu.bootedSlot
    let s1 := setImgSlot { s with sbu := { s.sbu with trial := false } } k { imgSlot s k with st := .confirmed, tries := 0 }
    exec .slotConfirm s = .next (commit s (raiseSvn s1 k))) ∧
  (∀ (s : State), (s.plu.phase = .booting ∨ s.plu.phase = .run ∨ s.plu.phase = .test) →
    exec (.i3cRestart 0xA5) s = .next (settle s (startReset s Rc.i3c))) ∧
  (∀ (s : State), s.plu.phase = .standby → exec (.i3cWake 0xA5) s = .next (settle s (beginBoot s Rc.wake))) ∧
  (∀ (s : State) (n : Nat) (x : KeySlot) (tok : Tok) (rest : List (KeyChange × Tok)),
    s.sec.keyJobs = (.setSession n x, tok) :: rest →
    exec .keyAreaWritten s = .next (commit s (closeBySlot (finish { s with
      sec := { s.sec with keyJobs := rest }, hcu := { s.hcu with keySlots := Tbl.set s.hcu.keySlots n x }
      sbu := { s.sbu with keyAreaSeq := (s.sbu.keyAreaSeq + 1) % 2 ^ 32 } } tok St.ok 0 0) n))) ∧
  (∀ (s : State) (n : Nat) (x : VerKey) (tok : Tok) (rest : List (KeyChange × Tok)),
    s.sec.keyJobs = (.setVerify n x, tok) :: rest →
    exec .keyAreaWritten s = .next (commit s (finish { s with
      sec := { s.sec with keyJobs := rest }
      sbu := { s.sbu with
        keyAreaSeq := (s.sbu.keyAreaSeq + 1) % 2 ^ 32, verKeys := Tbl.set s.sbu.verKeys n x } } tok St.ok 0 0))) ∧
  (∀ (s : State) (n : Nat) (k : KeySlot), Tbl.get s.hcu.keySlots n = some k → k.lockedUntil.isSome = true →
    slotLocked s k = false →
    exec (.keySlotUnlock n) s = .next (commit s
      { s with hcu := { s.hcu with keySlots := Tbl.set s.hcu.keySlots n { k with lockedUntil := none } } })) ∧
  (∀ (s : State), s.hcu.pendingRole ≠ 0 → noneLive s = true →
    exec .roleSwitch s = .next (commit s (finishOpt (roleEnds (switchRole s s.hcu.pendingRole) St.ok) s.hcu.roleTok St.ok 0 0))) ∧
  (∀ (s : State), s.plu.phase = .stopped → exec .restart s = .next (settle s (beginBoot s s.pin.nextCause))) ∧
  (∀ (s : State), s.plu.phase = .booting → s.sbu.stage = 8 → s.clk.bootSync = false → s.clk.holdover = false →
    s.sbu.mapRebuiltAt + 1000 * ms ≤ now s →
    exec .ptpWaitTimeout s = .next (commit s (post { s with clk := { s.clk with holdover := true, holdoverAt := now s } }
      Un.fbe Ek.device Ec.loss 2 0 (me s <<< 48) 0))) ∧
  (∀ (s : State), s.plu.phase = .booting → s.sbu.stage = 8 → (s.clk.bootSync = true ∨ s.clk.holdover = true) →
    s.sbu.set.partner = 0xFFFF →
    exec .bootDone s = .next (commit s (setFlag (respread { s with
      sbu := { s.sbu with stage := 9, bootDone := true, doneAt := now s }, plu := { s.plu with phase := .run }
      mru := { s.mru with partner := 0xFFFF, joinAt := now s }, mir := { s.mir with portsMirror := false } }) Fl.bootDone)))

/-- The tier and flash manager at work (06 R146 to R172; 01 R18). A .mem read of readable HBM answers its data and a write
is stored piece by piece; a flash read's data goes to its waiters and a slow one is rebuilt from its row; journal pages are
written, commit and checkpoint, and a save is sealed; the demoter and idle placement start moves, heat halves each period, a
committed demotion switches; rows are programmed, bands collected, erased and freed; failed blocks and dies are retired and
told, a lost stack loses its granules, and the scrubber counts a word it corrects and acts on one it cannot. What the spec
leaves open in it is the model's choice, in log entries 20, 26 and 48. -/
def Obligations.FlashAndJournalRules : Prop :=
  (∀ (s : State) (p a n : Nat), hostOpen s p = true → 1 ≤ n → n ≤ 4096 → inWin (memWin s p) a n = true → winBad s a n = false →
    s.tfm.rebuilding = false → flashIn s a n = [] →
    exec (.memWindowRead p a n) s = .next (commit s (emit (touchAll (viewReads s a n) a n)
      (.readAns (.pcie p) true (winRead s a n))))) ∧
  (∀ (s : State) (p a : Nat) (bs : Bytes), hostOpen s p = true → bs ≠ [] → bs.length ≤ 4096 →
    inWin (memWin s p) a bs.length = true → writesDead s = false →
    exec (.memWindowWrite p a bs) s = .next (commit s ((piecesOf a bs).foldl (winWrite p) s))) ∧
  (∀ (s : State) (id : Nat) (r : FRead), Tbl.get s.tfm.reads id = some r → r.got = false →
    (r.redirected = true ∨ frozenSince s (0x50 + r.die / 16) r.at' = false) →
    exec (.flashReadDone id true) s = .next (commit s ((s.tfm.reads.filter fun kv => kv.2.granule == r.granule && !kv.2.got).foldl
      serveRead s))) ∧
  (∀ (s : State) (id : Nat) (r : FRead), Tbl.get s.tfm.reads id = some r → r.got = false → r.redirected = false →
    r.at' + s.tfm.ctl.readRedirect * us ≤ now s → otherDown s r.die = false → (dieAt s r.die).second + 1000 * ms ≤ now s →
    let x := dieAt s r.die
    let s0 := (s.tfm.reads.filter fun kv => kv.1 == id).foldl (fun a kv => readOthers a (tmap s kv.2.granule).loc) s
    let reads := Tbl.map s0.tfm.reads fun k y =>
      if k == id then { y with redirected := true, at' := now s, left := y.left + 1 } else y
    exec (.readRedirect id) s = .next (commit s (setDie { s0 with tfm := { s0.tfm with reads := reads } } r.die
      { x with redirects := 1, total := x.total + 1, second := now s }))) ∧
  (∀ (s : State), s.jnl.flight = [] → (512 ≤ s.jnl.buf.length ∨ s.jnl.buf ≠ [] ∧ s.jnl.firstAt + ms ≤ now s) →
    exec .journalPageWrite s = .next (commit s { s with jnl := { s.jnl with
      flight := s.jnl.buf.take 512, buf := s.jnl.buf.drop 512, firstAt := now s } })) ∧
  (∀ (s : State) (z : JRec), s.jnl.flight.getLast? = some z →
    let l := s.jnl.flight
    let s0 := putJournal s (l.flatMap jrecBytes)
    let q := passPages s s.jnl.pages.length (s.jnl.pages ++ [l.length]) (s.jnl.done ++ l)
    exec .journalCommit s = .next (commit s (l.foldl commitOne { s0 with jnl := { s0.jnl with
      flight := [], committed := z.seq, pages := q.1, done := q.2 } }))) ∧
  (∀ (s : State) (leaf : Nat), s.plu.phase ≠ .powerFail → Tbl.has s.jnl.ckptPend leaf = false →
    Tbl.getD s.jnl.ckpt leaf [] ≠ leafEntries s leaf → leafMoving s leaf = false →
    let s1 := putCheckpoint s (leafCells leaf (leafEntries s leaf))
    exec (.checkpointWrite leaf) s = .next (commit s (journal { s1 with jnl := { s1.jnl with
      ckptPend := Tbl.set s1.jnl.ckptPend leaf (leafEntries s leaf) } } .checkpoint leaf 1 zeroEntry 0))) ∧
  (∀ (s : State), s.jnl.saving = true → exec .saveSeal s = .next (commit s (doSave s))) ∧
  (∀ (s : State), belowLow s = true → readMostly s = false → programsRun s = true →
    let leaving := s.tfm.moves.countP fun kv => kv.2.toFlash && kv.2.kind != .gc && paidByObject s kv.1
    let want := ceilDiv (s.tfm.ctl.demoteHigh * (s.ppm.objectCap * 16)) 1000
    exec .demotion s = .next (commit s (fillRow 0
      (demoteSome s (want - objectFree s - leaving) (flashRoom s) (demoteCandidates s))))) ∧
  (∀ (s : State) (g : Nat), (tmap s g).place = .hbm → (tmap s g).hint = 3 → s.rte.lapsed = false → (tmap s g).moving = false →
    movable s g = true → readMostly s = false → programsRun s = true → s.tfm.moves = [] → (wholeOf g).length ≤ flashRoom s →
    exec (.idlePlacement g) s = .next (commit s (fillRow 0 ((wholeOf g).foldl (startMove .demote true) s)))) ∧
  (∀ (s : State), s.tfm.heatAt + s.tfm.ctl.heatPeriod * 10 * ms ≤ now s →
    exec .heatSweep s = .next (commit s { s with tfm := { s.tfm with
      heatAt := now s, map := Tbl.map s.tfm.map fun _ t => { t with heat := t.heat / 2 } } })) ∧
  (∀ (s : State) (g : Nat) (m : Move), Tbl.get s.tfm.moves g = some m → m.kind = .demote → m.toFlash = true → m.committed = true →
    exec (.migrationSwitch g) s = .next (commit s (retryWrites (settleJobs (switchToFlash s g))))) ∧
  (∀ (s s1 : State) (g : Nat) (m : Move), Tbl.get s.tfm.moves g = some m → m.kind = .promote → m.toFlash = false →
    promote (readMedia s g) g = some s1 → exec (.migrationSwitch g) s = .next (commit s (settleJobs s1))) ∧
  (∀ (s : State) (k b : Nat), k ≤ 2 → (gcNow s).urgent ≤ freeBands s → programsRun s = true → openBand s k = some b →
    exec (.rowProgrammed k) s = .next (commit s (fillRow k (programRow s b)))) ∧
  (∀ (s : State) (b : Nat), programsRun s = true → (∀ kv ∈ s.tfm.moves, kv.2.kind ≠ .gc) → gcPick s = some b →
    exec .gcCollect s = .next (commit s (fillRow 2 (((validIn s b).filter fun g => !(tmap s g).moving).foldl
      (startMove .gc true) s)))) ∧
  (∀ (s : State) (b : Nat), mayErase s b = true → s.plu.phase ≠ .powerFail →
    exec (.bandErase b) s = .next (commit s (setBand s b { bandAt s b with st := .erasing }))) ∧
  (∀ (s : State) (b : Nat), (bandAt s b).st = .erasing →
    exec (.bandErased b) s = .next (commit s (flashHealthStep s
      (replaceRetired
      (setBand (wipeBand s b) b { newBand b with blks := (bandAt (wipeBand s b) b).blks, st := .free }) b)))) ∧
  (∀ (s : State) (b die : Nat), (bandAt s b).st = .erasing → die % 16 = b % 16 → die < 256 →
    let s2 := retireBlock (wipeBand s b) b die
    exec (.eraseFail b die) s = .next (commit s (flashHealthStep s (replaceBlock
      (setBand s2 b { newBand b with blks := (bandAt s2 b).blks, st := .free }) b (die / 16))))) ∧
  (∀ (s : State) (k b die : Nat), k ≤ 2 → openBand s k = some b → die % 16 = b % 16 → die < 256 →
    let two := otherFailed s die || otherRetired s b die
    exec (.programFail k die) s = .next (commit s (flashHealthStep s (fillRow k
      (loseBandIf two b (abandonBand b (retireBlock s b die))))))) ∧
  (∀ (s : State) (k b die : Nat), 2 < k → openBand s k = some b → die % 16 = b % 16 → die < 256 →
    exec (.programFail k die) s = .next (commit s (flashHealthStep s (nextReserved (retireBlock s b die) k)))) ∧
  (∀ (s : State) (b ch : Nat), (bandAt s b).st = .closed → (bandAt s b).first = false → ch < 16 →
    150000 ≤ (blockAt s (bandBlock b (bandAt s b) ch)).reads →
    exec (.readRelocate b) s = .next (commit s (setBand s b { bandAt s b with first := true }))) ∧
  (∀ (s : State) (b ch : Nat), (bandAt s b).st = .opened → (bandAt s b).first = false → ch < 16 →
    150000 ≤ (blockAt s (bandBlock b (bandAt s b) ch)).reads →
    exec (.readRelocate b) s = .next (commit s (closeBand s b true))) ∧
  (∀ (s : State) (die : Nat), die < 256 → (dieAt s die).st ≠ .failed →
    let s1 := flashEvent (setDie s die { dieAt s die with st := .failed }) Ec.stateChange 1 St.mediaFail (diePage die) 2
    exec (.dieFailed die) s = .next (commit s (s1.tfm.bands.foldl (bandOfFailed die (otherFailed s die)) s1))) ∧
  (∀ (s : State) (die : Nat), (dieAt s die).st = .slow → (dieAt s die).slowAt + 60000 * ms ≤ now s →
    exec (.dieRetry die) s = .next (commit s (setDie s die { dieAt s die with st := .ok, redirects := 0, second := now s }))) ∧
  (∀ (s : State) (k : Nat), k < 12 → k ∉ s.tfm.stacksLost →
    (∀ g ∈ stackGranules s k, g < apGranule ∧ isDurable s g = false) →
    exec (.stackRetire k) s = .next (commit s ((stackGranules s k).foldl (loseGranule false) (post
      { s with tfm := { s.tfm with stacksLost := s.tfm.stacksLost ++ [k], rebuilding := true } }
      Un.tfm Ek.device Ec.loss 1 0 (me s <<< 48) k)))) ∧
  (∀ (s : State),
    let s1 := retryWrites { s with tfm := { s.tfm with rebuilding := false } }
    exec .parityRebuildDone s = .next (commit s (s1.fbe.seqIn.foldl (fun a kv => resumeMem a kv.1) s1))) ∧
  (∀ (s : State) (a : Nat) (fixed : Bool),
    exec (.scrubPass a fixed false) s = .next (commit s (scrubCount s a fixed false))) ∧
  (∀ (s : State) (a : Nat) (fixed : Bool), a < sramBase →
    exec (.scrubPass a fixed true) s = .next (commit s (spoilHbm (scrubCount s a fixed true) a))) ∧
  (∀ (s : State) (a : Nat) (fixed : Bool), sramBase ≤ a →
    exec (.scrubPass a fixed true) s = .next (commit s (spoilSram (scrubCount s a fixed true) a)))

/-- The register space, interrupts and pins (02 R31, R33, R37, R47; 11 R336; 15 R406 to R421; 16 R433, R437). A head
window's read latches its entry and answers it; half a register latches the other half; a doorbell in range moves its tail
or its head; a due interrupt leaves at its timer; an admin ring is enabled over an aligned base and disabled; flags clear in
the writer's copy and tell after their gap; POP takes a head entry; a bulletin head moves; a capacity in range stands; an
aligned write acts and any other is REG_ERR; a port writes the ring region; the I3C status read clears ALERT; and PERST#
resets its port's function. What the spec leaves open in it is the model's choice, in log entry 18. -/
def Obligations.RegisterRules : Prop :=
  (∀ (s : State) (src : Src) (q : Nat), regOpen s src = true → q < 8 →
    let s1 := latchHead s q src
    exec (.headWindowRead src q) s = .next (commit s (emit s1
      (.readAns src true (leBytes 8 (regValue s1 src (0x7000 + 0x80 * q))))))) ∧
  (∀ (s : State) (src : Src) (off : Nat), regOpen s src = true → off % 8 = 0 → (off < 0x7000 ∨ 0x7400 ≤ off) →
    let v := regValue s src off
    let half := Tbl.set s.reg.half (srcKey src) (off, v / 2 ^ 32)
    exec (.halfReadLatch src off) s = .next (commit s (emit { s with reg := { s.reg with half := half } }
      (.readAns src true (leBytes 4 v))))) ∧
  (∀ (s : State) (src : Src) (off h : Nat), regOpen s src = true → off % 8 = 4 →
    Tbl.get s.reg.half (srcKey src) = some (off / 8 * 8, h) →
    exec (.halfReadLatch src off) s = .next (commit s (emit
      { s with reg := { s.reg with half := Tbl.del s.reg.half (srcKey src) } } (.readAns src true (leBytes 4 h))))) ∧
  (∀ (s : State) (src : Src) (r v : Nat) (R : Ring), regOpen s src = true → doorbellRing s src r = some R → v < R.sqEntries →
    v < 2 ^ 32 → exec (.sqTailWrite src r v) s = .next (commit s (setRing s r { R with tail := v }))) ∧
  (∀ (s : State) (src : Src) (r v : Nat) (R : Ring), regOpen s src = true → doorbellRing s src r = some R → R.sqEntries ≤ v →
    v < 2 ^ 32 → exec (.sqTailWrite src r v) s = .next (commit s (doorbellErr
      (post s Un.hcu Ek.ring Ec.refused 2 0 (objRing R.owner r) v) src))) ∧
  (∀ (s : State) (src : Src) (r v : Nat) (R : Ring), regOpen s src = true → doorbellRing s src r = some R → v < R.cqEntries →
    headPast R v = false → v < 2 ^ 32 →
    exec (.cqHeadWrite src r v) s = .next (commit s (flushHeld r R.held.length (setRing s r { R with cqHead := v })))) ∧
  (∀ (s : State) (r : Nat) (R : Ring), Tbl.get s.hcu.rings r = some R → R.irqPend ≠ 0 → R.irqTime ≠ 0 →
    R.irqFirst + R.irqTime * us ≤ now s →
    exec (.irqTimer r) s = .next (commit s (irqPort (setRing s r { R with irqPend := 0 }) R.port R.vec R.notify R.cqTail))) ∧
  (∀ (s : State) (p v : Nat), regOpen s (.pcie p) = true → p < 4 → v < 2 ^ 64 → bit v 0 = true → (adminReg s p).base % 4096 = 0 →
    bits v 63 48 ≤ 511 → bits v 47 32 ≤ 1000 → 1 ≤ bits v 31 16 → bits v 31 16 ≤ 64 →
    exec (.adminRingEnable (.pcie p) p v) s = .next (commit s (adminRingFollows (setAdmin s p { adminReg s p with
      vec := bits v 63 48, irqTime := bits v 47 32, irqCount := bits v 31 16, enable := true }) p))) ∧
  (∀ (s : State) (p v : Nat), regOpen s (.pcie p) = true → p < 4 → v < 2 ^ 64 → bit v 0 = false → bits v 63 48 ≤ 511 →
    bits v 47 32 ≤ 1000 → 1 ≤ bits v 31 16 → bits v 31 16 ≤ 64 →
    exec (.adminRingDisable (.pcie p) p v) s = .next (commit s (adminRingFollows (setAdmin s p { adminReg s p with
      vec := bits v 63 48, irqTime := bits v 47 32, irqCount := bits v 31 16, enable := false }) p))) ∧
  (∀ (s : State) (p v : Nat), regOpen s (.pcie p) = true →
    let old := Tbl.getD s.reg.flags p 0
    exec (.flagClear (.pcie p) v) s = .next (commit s
      { s with reg := { s.reg with flags := Tbl.set s.reg.flags p (old - (old &&& v)) } })) ∧
  (∀ (s : State) (p : Nat), p ∈ s.reg.flagDue → Tbl.getD s.reg.flagLast p 0 + 10 * us ≤ now s →
    exec (.flagIrqGap p) s = .next (commit s (flagIrq
      { s with reg := { s.reg with flagDue := s.reg.flagDue.filter (· != p) } } p))) ∧
  (∀ (s : State) (src : Src) (k v : Nat),
    let q := evqOf s k
    regOpen s src = true → k < 8 → (src = .core → k = 0) → v < 2 ^ 32 → evServed q k src = true → (headSeqs q).contains v = true →
    exec (.pop src k v) s = .next (commit s (setEvq s k
      { q with entries := q.entries.filter (fun e => e.seq != v), shown := q.shown.filter (· != v) }))) ∧
  (∀ (s : State) (p r v : Nat) (b : Bulletin), regOpen s (.pcie p) = true → Tbl.get s.att.bulletins r = some b → b.port = p →
    v < b.slots → v < 2 ^ 16 → (v + b.slots - b.head) % b.slots ≤ (b.tail + b.slots - b.head) % b.slots →
    exec (.bulletinHeadWrite (.pcie p) r v) s = .next (commit s (flushBulletins r b.waiting.length
      { s with att := { s.att with bulletins := Tbl.set s.att.bulletins r { b with head := v } } }))) ∧
  (∀ (s : State) (v : Nat), regOpen s .core = true → v < 2 ^ 64 →
    exec (.capacityWrite .core 0x3010 v) s = .next (commit s (prefixWrite s v)) ∧
    exec (.capacityWrite .core 0x3018 v) s = .next (commit s (objectWrite s v)) ∧
    exec (.capacityWrite .core 0x3020 v) s = .next (commit s (serviceWrite s v))) ∧
  (∀ (s : State) (src : Src) (off len v : Nat), regOpen s src = true → s.sbu.stage ≠ 0xF0 → (len = 4 ∨ len = 8) →
    (off % len = 0 → exec (.registerWrite src off len v) s = .next (commit s (regWrite s src off len v))) ∧
    (off % len ≠ 0 → exec (.registerWrite src off len v) s = .next (commit s (regErr s src)))) ∧
  (∀ (s : State) (p off : Nat) (bs : Bytes), regOpen s (.pcie p) = true → off + bs.length ≤ 0x400000 →
    ringMeets s off bs.length (fun R => R.port != p) = false →
    exec (.ringRegionWrite (.pcie p) off bs) s = .next (commit s
      { s with hcu := { s.hcu with ringMem := memWriteN s.hcu.ringMem off bs } })) ∧
  (∀ (s : State), s.plu.island = true →
    exec .i3cStatusRead s = .next (settle s (emit { s with pin := { s.pin with alert := false } } (.i3c (i3cStatus s))))) ∧
  (∀ (s : State) (p : Nat), p < 4 → portMode s p = 2 →
    let s1 := adminRingFollows (setAdmin s p { adminReg s p with enable := false }) p
    exec (.perstAssert p) s = .next (commit s ((s1.hcu.sessions.filter fun kv => carriedBy s1 p kv.1 kv.2).foldl
      (fun a kv => closeSession a kv.1) s1)))

/-- One step takes the command at the front of the queue and runs it on the state with the queue's rest; on an empty queue
the block ticks: a nanosecond of device time passes, and what falls due in it happens (log entry 11, the model's choice). -/
def Obligations.StepRunsTheFront : Prop :=
  (∀ (c : Instr) (rest : List Instr) (s : State), s.pending = c :: rest → step s = exec c { s with pending := rest }) ∧
  (∀ (s : State), s.pending = [] → step s = .next (tick s)) ∧
  (∀ (s : State), tick s = settle s (if clocked (passTime s) = true then tickUnits (passTime s) else passTime s))

/-- No command and no step ends in a fault or a refusal: every one of them goes on. -/
def Obligations.EveryCommandGoesOn : Prop :=
  (∀ (i : Instr) (s : State), ∃ t, exec i s = .next t) ∧ (∀ (s : State), goesOn s)

/-- Every step keeps the mirror unit's promise (12 R347): while records are sent, every report that is held waits for a
record that has been sent, and without a stream no report is held. -/
def Obligations.HeldReportsWaitForRecords : Prop :=
  ∀ (s t : State), heldOk s = true → step s = .next t → heldOk t = true

/-- The machine after reset holds no report, and its memories are in their canonical form. -/
def Obligations.ResetMeetsTheInvariants : Prop := heldOk State.reset = true ∧ memoryOk State.reset = true

/-- What the spec says of reset: no command waits, no session, request, caravan, page, context or connection stands, nothing
is frozen, event queue 0 is enabled with SPILL 1,024 and the others are disabled (11 R337), the power cap is 1,650 W (13
R367), an array's MHZ_SET is 1,600 (15 R417), an output's OVERHEAD is 20 (11 R313), BEATS is 0 (15 R419), and boot is not
done. What the spec leaves open in it is the model's choice, in log entry 2. -/
def Obligations.ResetLeaves : Prop :=
  let z := State.reset
  z.pending = [] ∧ z.hcu.sessions = [] ∧ z.rte.slots = [] ∧ z.cve.recs = [] ∧ z.ppm.pages = [] ∧ z.cax.ctxs = [] ∧
  z.fbe.conns = [] ∧ z.tsu.frozen = [] ∧ z.plc.cap = 1650 ∧ (∀ a, (arr z a).mhzSet = 1600) ∧
  (∀ p, (output z p).overhead = 20) ∧ z.rte.beats = 0 ∧ z.sbu.bootDone = false ∧
  (evqOf z 0).enable = true ∧ evCap (evqOf z 0) = 1048704 ∧
  (∀ k, k ≠ 0 → (evqOf z k).enable = false ∧ (evqOf z k).spill = 0)

/-- With the fast clocks stopped a command's effect does not happen (13 R382), and without a partner the end of a step sends
no record and holds nothing back (12 R347): the effect stands as it is, but for the void grants that it brings (11 R330):
for each ring that an arbiter was about to grant and whose request falls instead, the counter advances by one and the
pointer moves past it. What the spec leaves open in it is the model's choice, in log entry 36. -/
def Obligations.EffectsStand : Prop :=
  (∀ (s s1 : State), clocked s = false → commit s s1 = s) ∧
  (∀ (s s1 : State), alone s1 = true → settle s s1 = s1) ∧
  (∀ (s s1 : State), clocked s = true → alone s1 = true → commit s s1 = voidFalls s s1) ∧
  (∀ (s s1 : State), ∃ ptr v, voidFalls s s1 = { s1 with tsu := { s1.tsu with arbPtr := ptr, voidGrants := v, took := [] } }) ∧
  (∀ (s s1 : State), (∀ kv ∈ s.hcu.rings, fallsVoid s s1 kv.1 kv.2 = false) →
    voidFalls s s1 = { s1 with tsu := { s1.tsu with took := [] } }) ∧
  (∀ (s s1 : State) (r : Nat) (R : Ring), (s.hcu.rings.filter fun kv => fallsVoid s s1 kv.1 kv.2) = [(r, R)] →
    voidFalls s s1 = { s1 with tsu := { s1.tsu with
      arbPtr := Tbl.set s1.tsu.arbPtr (ringArb r R) (pastRing r), voidGrants := (s1.tsu.voidGrants + 1) % 2 ^ 64, took := [] } })

/-- A ring's command starts only when the arbiter grants its ring (02 R32, R34; 11 R329) and only as what its slot held at
the fetch: where the ring does not exist, is a work ring, is not granted, or its head slot holds another command, a row that
names it does nothing. A granted command that has to wait (FENCE behind an earlier command, 02 R34; a rebuild of what it
reaches, 06 R171) is fetched once and waits, and while it waits nothing starts from its ring but it, once nothing holds it
any longer. -/
def Obligations.CommandsWaitForTheirRing : Prop :=
  ∀ (r : Nat) (d : Dma) (s : State), ∀ x ∈ ([
    (0x0101, .sessHello r d), (0x0102, .sessProve r d), (0x0103, .sessClose r d), (0x0110, .ringCreate r d),
    (0x0111, .ringDestroy r d), (0x0130, .nop r d), (0x0202, .reqQuery r d), (0x0203, .reqSetDeadline r d),
    (0x0204, .reqSetPriority r d), (0x0205, .reqTokensAppend r d), (0x0206, .reqComplete r d), (0x0207, .reqCancel r d),
    (0x0208, .reqPark r d), (0x0209, .reqUnpark r d), (0x020a, .reqList r d), (0x0301, .cvnOffer r d),
    (0x0302, .cvnWithdraw r d), (0x0303, .cvnStatus r d), (0x0310, .mapInstall r d), (0x0311, .mapQuery r d),
    (0x0401, .pageAlloc r d), (0x0402, .pageFree r d), (0x0403, .plistAppend r d), (0x0404, .plistTruncate r d),
    (0x0405, .plistQuery r d), (0x0410, .prefixLookup r d), (0x0411, .prefixInsert r d), (0x0412, .prefixEvict r d),
    (0x0420, .pageShare r d), (0x0430, .pageStats r d), (0x0501, .tierHint r d), (0x0502, .tierMigrate r d),
    (0x0503, .rangeTrim r d), (0x0504, .tierStats r d), (0x0510, .gcSetWeights r d), (0x0511, .flashHealth r d),
    (0x0512, .durableFlush r d), (0x0601, .codecTableLoad r d), (0x0602, .codecTableQuery r d),
    (0x0603, .codecCompress r d), (0x0604, .codecDecompress r d), (0x0605, .codecQuantize r d),
    (0x0606, .codecDequantize r d), (0x0607, .codecScaleFind r d), (0x0608, .codecRecode r d), (0x0701, .kernelLoad r d),
    (0x0702, .kernelUnload r d), (0x0710, .ctxCreate r d), (0x0711, .ctxDestroy r d), (0x0712, .ctxLaunch r d),
    (0x0720, .schedSet r d), (0x0721, .arraySlowdown r d), (0x0722, .arrayExclude r d), (0x0e10, .diagArrayTest r d),
    (0x0801, .attnStep r d), (0x0802, .attnBiasLoad r d), (0x0803, .lseMerge r d), (0x0810, .sampleSet r d),
    (0x0811, .sampleStep r d), (0x0812, .banLoad r d), (0x0820, .specDraft r d), (0x0821, .specVerify r d),
    (0x0830, .bulletinSet r d), (0x0901, .portConfig r d), (0x0902, .portStatus r d), (0x0910, .keyRegister r d),
    (0x0911, .keyDeregister r d), (0x0920, .connOpen r d), (0x0921, .connClose r d), (0x0930, .ergMap r d),
    (0x0940, .ptpConfig r d), (0x0a01, .queueConfig r d), (0x0a02, .shaperSet r d), (0x0a03, .queueSample r d),
    (0x0a10, .searchWrite r d), (0x0a11, .searchDelete r d), (0x0a12, .searchQuery r d), (0x0a20, .arbFreeze r d),
    (0x0a30, .evqConfig r d), (0x0e01, .telemRead r d), (0x0b01, .pairJoin r d), (0x0b02, .pairDissolve r d),
    (0x0b03, .pairStatus r d), (0x0b04, .mirrorClassSet r d), (0x0b05, .pairPromote r d), (0x0c01, .plantStatus r d),
    (0x0c02, .coolTargetSet r d), (0x0c03, .holdupTest r d), (0x0c04, .powerCapSet r d), (0x0c05, .standbyEnter r d),
    (0x0d01, .imageWrite r d), (0x0d02, .imageVerify r d), (0x0d03, .imageSelect r d), (0x0d10, .fwLoad r d),
    (0x0d11, .keyProvision r d), (0x0d12, .deviceAttest r d), (0x0d20, .roleSet r d), (0x0d30, .deviceReset r d),
    (0x0e11, .diagMemScrub r d), (0x0e12, .diagLoopback r d), (0x0e20, .errInject r d)] : List (Nat × Instr)),
    ((Tbl.get s.hcu.rings r = none ∨ ∃ R, Tbl.get s.hcu.rings r = some R ∧
      (R.work = true ∨
        (R.waiting = none ∧ (granted s r R = false ∨
          (knownOp (hOpcode (slotHeader s R)) = true ∧ hOpcode (slotHeader s R) ≠ x.1))) ∨
        ∃ h, R.waiting = some h ∧ (serving s r = false ∨ heldBack s R h = true ∨
          (knownOp (hOpcode h) = true ∧ hOpcode h ≠ x.1)))) →
      exec x.2 s = .next (commit s s)) ∧
    (∀ R, Tbl.get s.hcu.rings r = some R → R.work = false → R.waiting = none → granted s r R = true →
      heldBack s R (slotHeader s R) = true → hOpcode (slotHeader s R) = x.1 →
      exec x.2 s = .next (commit s (fetchedOnly s r R (slotHeader s R))))

/-- The checks of 02 R50 come in order, and the first that fails decides: the session, the addresses and lengths, then
payload, tag and SEQ, the CID, the header's version and reserved fields, the opcode, and the privilege; a command that
passes all of them goes on as the session's privilege and tenant. -/
def Obligations.ChecksComeInOrder : Prop :=
  ∀ (privs : List Priv) (r h : Nat) (R : Ring) (d : Dma) (s : State),
    (∀ e, step1 r h R s = .error e → check privs r R h d s = .error e) ∧
    (∀ x e, step1 r h R s = .ok x → step2 r h s = .error e → check privs r R h d s = .error e) ∧
    (∀ x e, step1 r h R s = .ok x → step2 r h s = .ok () → step34 r h x d s = .error e → check privs r R h d s = .error e) ∧
    (∀ x pay s1, step1 r h R s = .ok x → step2 r h s = .ok () → step34 r h x d s = .ok (pay, s1) →
      (hCid h ∈ R.outstanding → check privs r R h d s = .error (St.busy, 0, s1)) ∧
      (∀ e, hCid h ∉ R.outstanding → step6 h s1 = .error e → check privs r R h d s = .error e) ∧
      (hCid h ∉ R.outstanding → step6 h s1 = .ok () →
        (knownOp (hOpcode h) = false ∨ ringAllows r (hOpcode h) = false ∨ roleAllows s1.hcu.role (hOpcode h) = false →
          check privs r R h d s = .error (St.badOpcode, 0, s1)) ∧
        (knownOp (hOpcode h) = true → ringAllows r (hOpcode h) = true → roleAllows s1.hcu.role (hOpcode h) = true →
          (privOk privs (who r x).1 = false → check privs r R h d s = .error (St.privilege, 0, s1)) ∧
          (privOk privs (who r x).1 = true → ∃ c, check privs r R h d s = .ok (c, s1) ∧ c.pay = pay ∧
            c.priv = (who r x).1 ∧ c.tenant = (who r x).2))))

/-- A command that the checks turn away has no effect (02 R52) but the bookkeeping of sessions and SEQ, the rings and
connections of a session that closes with what they had fetched completed, the arbiter's pointer, and the payload that the
management cores put into the firmware memory: everything else of the state stays as it was, the handshakes' key slots among
it. What the spec leaves open in it is the model's choice, in log entry 43. -/
def Obligations.RejectionsHaveNoEffect : Prop :=
  ∀ (privs : List Priv) (r h : Nat) (R : Ring) (d : Dma) (s s0 t : State) (st det : Nat),
    begins s r = some (R, h, s0) → check privs r R h d (stored r h d s0) = .error (st, det, t) →
    ∃ rings sessions gens seqs fw conns ptr tk held out, t = { s with
      hcu := { s.hcu with rings := rings, sessions := sessions, sessGen := gens, seqs := seqs, fwMem := fw }
      fbe := { s.fbe with conns := conns }
      tsu := { s.tsu with arbPtr := ptr, took := tk }
      mru := { s.mru with held := held }, out := out }

/-- A command that the checks pass has changed the ring's head and outstanding CIDs (or ended its wait), the arbiter's
pointer, its session's count of failed tags, its own SEQ, and the payload in the firmware memory (02 R34, R46, R446; 11
R329), and nothing else: the expected SEQ of its session and ring is one more, the others stand. A SEQ that is not the
expected one is turned away, and DETAIL tells the expected one. What the spec leaves open in it is the model's choice, in
log entry 43. -/
def Obligations.TakenCommandsAdvanceTheRing : Prop :=
  (∀ (op r : Nat) (privs : List Priv) (d : Dma) (s s1 : State) (c : Cmd), taken op privs r d s = some (c, s1) →
    (∃ rings sessions seqs fw ptr tk, s1 = { s with
      hcu := { s.hcu with rings := rings, sessions := sessions, seqs := seqs, fwMem := fw }
      tsu := { s.tsu with arbPtr := ptr, took := tk } }) ∧
    (∀ R, Tbl.get s.hcu.rings r = some R → R.waiting = none →
      Tbl.get s1.hcu.rings r = some { R with
        head := (R.head + 1) % R.sqEntries, outstanding := R.outstanding ++ [hCid (slotHeader s R)] }) ∧
    (∀ R h, Tbl.get s.hcu.rings r = some R → R.waiting = some h →
      Tbl.get s1.hcu.rings r = some { R with waiting := none, outstanding := R.outstanding ++ [hCid h] }) ∧
    (∀ k, k ≠ r → Tbl.get s1.hcu.rings k = Tbl.get s.hcu.rings k) ∧
    (r < 256 → op ≠ 0x0101 → op ≠ 0x0102 → seqExp s1 (sessIdx c.sess) r = seqExp s (sessIdx c.sess) r + 1) ∧
    (∀ i k, seqKey i k ≠ seqKey (sessIdx c.sess) r → seqExp s1 i k = seqExp s i k)) ∧
  (∀ (r h : Nat) (x : Session) (d : Dma) (s : State) (pay : Bytes), payload s r h d = some pay → isProve h = false →
    tagOf x.key h pay = hTag h → seqExp s (sessIdx (hSession h)) r ≤ 0xFFFFFFFE →
    hSeq h ≠ seqExp s (sessIdx (hSession h)) r → ∃ t,
      step34 r h (some x) d s = .error (St.sequence, seqExp s (sessIdx (hSession h)) r, t) ∧ t.hcu.seqs = s.hcu.seqs)

/-- Closing a session (02 R42, R45, R47): its index is free and its generation has advanced, wrapping after 1,022; the other
sessions stand; its created rings fetch no more; what it had fetched and not started completes with ST_SESSION_CLOSED; rings
of other sessions, requests, pages, contexts and tables outlive it. The sixteenth tag in a row that fails closes it. What
the spec leaves open in it is the model's choice, in log entry 17. -/
def Obligations.SessionClose : Prop :=
  (∀ (s : State) (i : Nat) (x : Session), Tbl.get s.hcu.sessions i = some x →
    let t := closeSession s i
    t.hcu.sessions = Tbl.del s.hcu.sessions i ∧
    (∀ k, k ≠ i → Tbl.get t.hcu.sessions k = Tbl.get s.hcu.sessions k) ∧
    Tbl.getD t.hcu.sessGen i 0 = (x.gen + 1) % 1023 ∧
    ((Tbl.keys s.hcu.rings).Nodup → ∀ (r : Nat) (R : Ring), Tbl.get s.hcu.rings r = some R →
      (R.owner ≠ i + 64 * x.gen → R.waiting = none → Tbl.get t.hcu.rings r = some R) ∧
      (R.owner = i + 64 * x.gen → 4 ≤ r → r < 256 → ∀ Q, Tbl.get t.hcu.rings r = some Q → Q.fetching = false)) ∧
    t.rte = s.rte ∧ t.ppm = s.ppm ∧ t.tfm = s.tfm ∧ t.cve = s.cve ∧ t.cdu = s.cdu ∧ t.cax = s.cax ∧ t.att = s.att) ∧
  (∀ (s : State) (i : Nat) (x : Session), Tbl.get s.hcu.sessions i = some x →
    (x.tagFails = 15 → tagFail s i x = closeSession s i) ∧
    (x.tagFails < 15 → tagFail s i x = { s with hcu := { s.hcu with
      sessions := Tbl.set s.hcu.sessions i { x with tagFails := x.tagFails + 1 } } })) ∧
  (∀ (s : State) (id r h : Nat) (R : Ring), R.waiting = some h → R.work = false → r < 256 → hSession h = id →
    closeWaiting id s (r, R) = complete (released s r R h) (mkTok r (unfetched R) h) St.sessionClosed 0 0 [] true)

/-- A full completion ring (02 R36): it is full when the controller's tail + 1 equals the head; while it is full nothing is
fetched from the submission ring of its number, and a completion goes into internal storage, after those that wait there;
once the head has advanced the stored ones are written in order, from the oldest. -/
def Obligations.CompletionRingFull : Prop :=
  (∀ (R : Ring), cqFull R = true ↔ (R.cqTail + 1) % R.cqEntries = R.cqHead) ∧
  (∀ (s : State) (r : Nat) (R : Ring), cqFull R = true → granted s r R = false) ∧
  (∀ (s : State) (c : Cpl) (R : Ring), Tbl.get s.hcu.rings c.tok.ring = some R → cqFull R = true →
    deliverCpl s c = setRing s c.tok.ring { R with held := R.held ++ [c] }) ∧
  (∀ (s : State) (c : Cpl) (R : Ring), Tbl.get s.hcu.rings c.tok.ring = some R → cqFull R = false → R.held = [] →
    deliverCpl s c = writeCpl s R c) ∧
  (∀ (s : State) (r n : Nat) (c : Cpl) (rest : List Cpl) (R : Ring), Tbl.get s.hcu.rings r = some R → R.held = c :: rest →
    cqFull R = false →
    flushHeld r (n + 1) s = flushHeld r n (writeCpl (setRing s r { R with held := rest }) { R with held := rest } c)) ∧
  (∀ (s : State) (src : Src) (r v : Nat) (R : Ring), regOpen s src = true → doorbellRing s src r = some R → v < R.cqEntries →
    headPast R v = false → v < 2 ^ 32 →
    exec (.cqHeadWrite src r v) s = .next (commit s (flushHeld r R.held.length (setRing s r { R with cqHead := v }))))

/-- Doorbell values out of range (02 R33): a tail of N or more, a completion head of N or more, and a head past the last
entry written, are discarded: the ring keeps its values, and a severity-2 event names the ring (and DOORBELL_ERR is set, 15
R414). -/
def Obligations.DoorbellsOutOfRange : Prop :=
  (∀ (s : State) (src : Src) (r v : Nat) (R : Ring), regOpen s src = true → doorbellRing s src r = some R → v < 2 ^ 32 →
    let t := doorbellErr (post s Un.hcu Ek.ring Ec.refused 2 0 (objRing R.owner r) v) src
    (R.sqEntries ≤ v → exec (.sqTailWrite src r v) s = .next (commit s t)) ∧
    (R.cqEntries ≤ v → exec (.cqHeadWrite src r v) s = .next (commit s t)) ∧
    ((R.cqTail + R.cqEntries - R.cqHead) % R.cqEntries < (v + R.cqEntries - R.cqHead) % R.cqEntries →
      exec (.cqHeadWrite src r v) s = .next (commit s t)) ∧
    t.hcu = s.hcu)

/-- PAIR_PROMOTE (12 R362): it carries no payload; in JOINING or SHADOW with COPY_DONE and STREAK of at least 1 it promotes
the pair at once, as STREAK = PROMOTE_STEPS would; otherwise ST_STATE. -/
def Obligations.PairPromoteRule : Prop :=
  (∀ (r : Nat) (d : Dma) (s s1 : State) (c : Cmd), taken 0x0B05 [.operator] r d s = some (c, s1) → c.target = 0 →
    (c.payLen ≠ 0 → exec (.pairPromote r d) s = .next (commit s (answer s1 c.tok { st := some St.lengthRange, detail := 24 }))) ∧
    (c.payLen = 0 → inJoin s1 = true ∧ s1.mru.copyDone = true ∧ 1 ≤ s1.mru.streak →
      exec (.pairPromote r d) s = .next (commit s (answer (toPaired s1) c.tok okAns))) ∧
    (c.payLen = 0 → ¬ (inJoin s1 = true ∧ s1.mru.copyDone = true ∧ 1 ≤ s1.mru.streak) →
      exec (.pairPromote r d) s = .next (commit s (answer s1 c.tok { st := some St.state })))) ∧
  (∀ (s : State), inJoin s = true ↔ s.mru.st = .joining ∨ s.mru.st = .shadow) ∧
  (∀ (s : State), inJoin s = true → s.mru.copyDone = true → s.mru.streak = s.mru.promote → promoteIfDue s = toPaired s)

/-- POWER_CAP_SET (13 R367): a payload of exactly 8 bytes, CAP from 420 to 1,650 W in [63:48], [47:0] reserved; out of range
is ST_FIELD_RANGE and changes nothing; the cap stands at once; it resets to 1,650 and a restart returns it there. -/
def Obligations.PowerCapRule : Prop :=
  (∀ (r : Nat) (d : Dma) (s s1 : State) (c : Cmd), taken 0x0C04 [.operator] r d s = some (c, s1) →
    (c.payLen ≠ 8 → exec (.powerCapSet r d) s = .next (commit s (answer s1 c.tok { st := some St.lengthRange, detail := 24 }))) ∧
    (c.payLen = 8 → c.target = 0 → c.fld 47 0 ≠ 0 → exec (.powerCapSet r d) s =
      .next (commit s (answer s1 c.tok { st := some St.fieldRange, detail := inPay 0 }))) ∧
    (c.payLen = 8 → c.target = 0 → c.fld 47 0 = 0 → (c.fld 63 48 < 420 ∨ 1650 < c.fld 63 48) → exec (.powerCapSet r d) s =
      .next (commit s (answer s1 c.tok { st := some St.fieldRange, detail := inPay 6 }))) ∧
    (c.payLen = 8 → c.target = 0 → c.fld 47 0 = 0 → 420 ≤ c.fld 63 48 → c.fld 63 48 ≤ 1650 → exec (.powerCapSet r d) s =
      .next (commit s (answer { s1 with plc := { s1.plc with cap := c.fld 63 48 } } c.tok okAns)))) ∧
  State.reset.plc.cap = 1650 ∧
  (∀ (s : State) (cause : Nat), (beginBoot s cause).plc.cap = 1650)

/-- The firmware heartbeat register (15 R419): each write of any value by a management core is one heartbeat of 01 R28 and
adds one to BEATS; from PCIe the register is read only; BEATS resets to 0, and bits [63:32] read as zero. -/
def Obligations.HeartbeatRegister : Prop :=
  (∀ (s : State) (v : Nat), 7 ≤ s.sbu.stage → s.sbu.stage ≠ 0xF0 → exec (.firmwareHeartbeat v) s = .next (commit s (heartbeat s))) ∧
  (∀ (s : State), (heartbeat s).rte.beats = (s.rte.beats + 1) % 2 ^ 32 ∧ (heartbeat s).rte.lapsed = false ∧
    (heartbeat s).rte.beatAt = now s) ∧
  (∀ (s : State) (v len off : Nat), regOpen s .core = true → s.sbu.stage ≠ 0xF0 → (len = 4 ∨ len = 8) → off % len = 0 →
    off / 8 * 8 = 0x3058 → exec (.registerWrite .core off len v) s = .next (commit s (heartbeat s))) ∧
  (∀ (s t : State) (p off len v : Nat), off / 8 * 8 = 0x3058 → exec (.registerWrite (.pcie p) off len v) s = .next t →
    t.rte = s.rte) ∧
  State.reset.rte.beats = 0 ∧
  (∀ (s : State) (src : Src), s.sbu.stage ≠ 0xF0 → regValue s src 0x3058 = s.rte.beats ∧
    bits (regValue (heartbeat s) src 0x3058) 63 32 = 0)

/-- The codes of STATE (03 R61), and no state has a reserved one. -/
def Obligations.RequestStateCodes : Prop :=
  RState.code .free = 0x0 ∧ RState.code .admitted = 0x1 ∧ RState.code .prefill = 0x2 ∧ RState.code .handoff = 0x3 ∧
  RState.code .generate = 0x4 ∧ RState.code .parked = 0x5 ∧ RState.code .draining = 0x6 ∧ RState.code .done = 0x7 ∧
  RState.code .expired = 0x8 ∧ RState.code .failed = 0x9 ∧ (∀ st, RState.code st < 0xA) ∧ (∀ st, RState.ofCode (RState.code st) = st)

/-- The reservation of a request (03 R66), in exact arithmetic: whole pages of its class, in 64 KiB units at its home and in
2 MiB units of flash, and its token history in 64 KiB units. -/
def Obligations.ReservationFormula : Prop :=
  (∀ (a : Admit),
    let tokens := a.prompt + a.maxNew + a.spec - a.shared
    let bytes := tokens * a.kv
    let psize := 4096 <<< a.cls
    let pages := (bytes + psize - 1) / psize
    admitHbm a = (pages * psize + 65535) / 65536 ∧ admitFlash a = (pages * psize + 2097151) / 2097152) ∧
  (∀ (a : Admit), histUnitsOf (a.prompt + a.maxNew + a.spec) = ((a.prompt + a.maxNew + a.spec) * 4 + 65535) / 65536)

/-- A query of the search engine (11 R322): an entry matches when its SPACE is the query's and ((k XOR key) AND mask) is
zero; the winner matches, none that matches has a higher PRIO, none of its PRIO has a lower index, and there is none only
where nothing matches. The entries stand in rising order of their indexes. -/
def Obligations.SearchWinner : Prop :=
  (∀ (r : SRow) (space k : Nat), rowHits r space k = true ↔ r.space = space ∧ (k ^^^ r.key) &&& r.mask = 0) ∧
  (∀ (s : State) (space k i : Nat) (e : SEntry), s.tsu.search.Pairwise (fun a b => a.1 < b.1) →
    winner s space k [] = some (i, e) →
    (i, e) ∈ s.tsu.search ∧ rowHits e.row space k = true ∧
    ∀ j f, (j, f) ∈ s.tsu.search → rowHits f.row space k = true →
      f.row.prio ≤ e.row.prio ∧ (f.row.prio = e.row.prio → i ≤ j)) ∧
  (∀ (s : State) (space k : Nat), winner s space k [] = none ↔ ∀ kv ∈ s.tsu.search, rowHits kv.2.row space k = false)

/-- The arbiter in front of the rings' fetch (02 R34; 11 R329): a ring is granted only where it stands and its arbiter is
not frozen; no two host rings of one port, and no two internal rings, are granted at once; and a fetch moves the pointer
past the ring. -/
def Obligations.OneRingIsGranted : Prop :=
  (∀ (s : State) (r : Nat) (R : Ring), granted s r R = true → standing s r R = true ∧ Tbl.has s.tsu.frozen (ringArb r R) = false) ∧
  (∀ (s : State) (a b : Nat) (A B : Ring), Tbl.get s.hcu.rings a = some A → Tbl.get s.hcu.rings b = some B →
    granted s a A = true → granted s b B = true → ringArb a A = ringArb b B →
    ((a < 256 ∧ b < 256) ∨ (256 ≤ a ∧ 256 ≤ b ∧ a < 272 ∧ b < 272)) →
    Tbl.getD s.tsu.arbPtr (ringArb a A) 0 < (if a < 256 then 256 else 16) → a = b) ∧
  (∀ (s : State) (r h : Nat) (R : Ring), Tbl.get (fetched s r R h).tsu.arbPtr (ringArb r R) =
    some ((r % 256 + 1) % (if r < 256 then 256 else 16)))

/-- A posted event (11 R334, R335): it takes the present time and the next EVSEQ, which advances by one and wraps; a queue
that accepts it has it last among its entries, one that does not is unchanged; a full queue loses its oldest entry, whatever
its severity, and counts it under that entry's severity; and the next entry to read is the oldest of the most severe
present. -/
def Obligations.EventsArePlaced : Prop :=
  (∀ (s : State) (unit kind cause sev st object arg : Nat),
    (post s unit kind cause sev st object arg).tsu.evSeq = (s.tsu.evSeq + 1) % 2 ^ 32) ∧
  (∀ (s : State) (unit kind cause sev st object arg k : Nat) (q : EvQueue),
    let e : Event := ⟨now s, object, arg, s.tsu.evSeq, st, unit, kind, cause, sev⟩
    k < 8 → Tbl.get s.tsu.evq k = some q →
    ∃ q1, Tbl.get (post s unit kind cause sev st object arg).tsu.evq k = some q1 ∧
      (evAccepts k q e = false → q1 = q) ∧
      (evAccepts k q e = true → q.entries.length < evCap q → q1.entries = q.entries ++ [e] ∧ q1.lost = q.lost) ∧
      (∀ old rest, evAccepts k q e = true → q.entries = old :: rest → evCap q ≤ q.entries.length →
        q1.entries = rest ++ [e] ∧ q1.lost = q.lost.set old.sev ((q.lost.getD old.sev 0 + 1) % 2 ^ 32))) ∧
  (∀ (q : EvQueue) (e : Event) (t : List Event), readOrder q = e :: t → (∀ x ∈ q.entries, e.sev ≤ x.sev) ∧
    ∃ a b, q.entries = a ++ e :: b ∧ ∀ x ∈ a, e.sev < x.sev)

/-- A hardware set of flag `k` (15 R411): it sets the bit in every port's copy and leaves the other bits as they were, and
adds one to the flag's count, which wraps modulo 2^64; the other counts stand, and nothing else changes but what is sent and
the gap of the flag interrupts (15 R412). A set in one port's copy touches no other port's. -/
def Obligations.FlagsAreSet : Prop :=
  (∀ (s : State) (k p : Nat), p < 4 →
    Tbl.getD (setFlag s k).reg.flags p 0 = Tbl.getD s.reg.flags p 0 ||| 2 ^ k) ∧
  (∀ (s : State) (k : Nat), Tbl.getD (setFlag s k).reg.flagCount k 0 = (Tbl.getD s.reg.flagCount k 0 + 1) % 2 ^ 64) ∧
  (∀ (s : State) (k j : Nat), j ≠ k → Tbl.get (setFlag s k).reg.flagCount j = Tbl.get s.reg.flagCount j) ∧
  (∀ (s : State) (k : Nat), ∃ flags count last due out, setFlag s k = { s with
    reg := { s.reg with flags := flags, flagCount := count, flagLast := last, flagDue := due }, out := out }) ∧
  (∀ (s : State) (k p q : Nat), q ≠ p → Tbl.get (setSrcFlag s (.pcie p) k).reg.flags q = Tbl.get s.reg.flags q)

/-- The completion of a command touches its ring, what is sent, the reports held for a partner, the firmware memory where an
internal ring's result goes and, for ST_DATA_CHECK, the armed injections (02 R35 to R38, R446; 12 R347, R363); everything
else, the other rings among it, stays as it was. A command answered later changes nothing. -/
def Obligations.CompletionsTouchTheirRing : Prop :=
  (∀ (s : State) (t : Tok) (a : Ans), ∃ rings fw held inject out, answer s t a = { s with
    hcu := { s.hcu with rings := rings, fwMem := fw }, mru := { s.mru with held := held }, mir := { s.mir with inject := inject }, out := out }) ∧
  (∀ (s : State) (t : Tok) (a : Ans) (r : Nat), r ≠ t.ring → Tbl.get (answer s t a).hcu.rings r = Tbl.get s.hcu.rings r) ∧
  (∀ (s : State) (t : Tok), answer s t laterAns = s) ∧
  (∀ (s : State) (t : Tok) (st r0 det : Nat) (res : Bytes) (final : Bool), mirroring s = true →
    (complete s t st r0 det res final).out = s.out) ∧
  (∀ (s : State) (R : Ring) (c : Cpl), c.tok.ring < 256 → (writeCpl s R c).hcu.fwMem = s.hcu.fwMem)

/-- Bytes of memory. A byte stored in an HBM granule reads back, and every other device address reads as before, provided
that no two granules have the same frame; a byte stored elsewhere changes nothing (06 R140 to R147). A port's write of the
ring region changes the bytes it names and no other (02 R31). Every write keeps a memory's canonical form. -/
def Obligations.BytesOfMemory : Prop :=
  (∀ (s : State) (a : Nat) (b : Byte), memWf s.tfm.hbm = true → (tmap s (a / 4096)).place = .hbm → peek (poke s a b) a = b) ∧
  (∀ (s : State) (a c : Nat) (b : Byte), memWf s.tfm.hbm = true → c ≠ a →
    (∀ g k, g ≠ k → (tmap s g).place = .hbm → (tmap s k).place = .hbm → (tmap s g).loc ≠ (tmap s k).loc) →
    peek (poke s a b) c = peek s c) ∧
  (∀ (s : State) (a : Nat) (b : Byte), (tmap s (a / 4096)).place ≠ .hbm → poke s a b = s) ∧
  (∀ (s t : State) (p off a : Nat) (bs : Bytes), exec (.ringRegionWrite (.pcie p) off bs) s = .next t → alone s = true →
    memWf s.hcu.ringMem = true →
    ((a < off ∨ off + bs.length ≤ a) → memRead t.hcu.ringMem a = memRead s.hcu.ringMem a) ∧ memWf t.hcu.ringMem = true) ∧
  (∀ (m : List Host.Cell) (off a : Nat) (bs : Bytes), memWf m = true →
    memRead (memWriteN m off bs) a = if off ≤ a ∧ a < off + bs.length then bs.getD (a - off) 0 else memRead m a)

/-- The registers and shares of array threads (08 R212, R213). s0 reads as zero and ignores writes; a write of another
scalar register is read back and leaves the rest. A scalar or store instruction that issues changes its own thread, the
pointers of the arbiters (11 R329, R330) and, for a store, the bytes it names in its own share and which of its words are
bad, and nothing else of a machine without a partner: every other thread, share and byte stands. -/
def Obligations.ThreadFrames : Prop :=
  (∀ (x : Thread) (v : Nat), reg x 0 = 0 ∧ setReg x 0 v = x) ∧
  (∀ (x : Thread) (i k v : Nat), i ≠ 0 → v < 2 ^ 64 → reg (setReg x i v) i = v ∧ (k ≠ i → reg (setReg x i v) k = reg x k)) ∧
  (∀ (t : Thr) (s u : State) (x : Ctx) (th : Thread) (w : Word64), alone s = true → clocked s = true →
    ∀ i ∈ ([(0, .aAdd t), (1, .aSub t), (2, .aMul t), (3, .aAnd t), (4, .aOr t), (5, .aXor t), (6, .aShl t), (7, .aShr t),
      (8, .aSra t), (9, .aMovi t), (10, .aCmp t), (11, .aRdstat t)] : List (Nat × Instr)),
      issues 1 i.1 [0] t s x th w → exec i.2 s = .next u → ∃ th1 ptr v,
        u = { setThr s t th1 with tsu := { s.tsu with arbPtr := ptr, voidGrants := v, took := [] } } ∧ th1.pc = th.pc + 8 ∧
        ∀ q, thrKey q ≠ thrKey t → getThr u q = getThr s q) ∧
  (∀ (t : Thr) (s u : State) (x : Ctx) (th : Thread) (w : Word64) (a : Nat), issues 2 1 [0] t s x th w →
    alone s = true → clocked s = true → lsuAddr th w + 8 ≤ shareLen x → memWf (share s t.ctx t.arr) = true →
    exec (.aSt t) s = .next u →
      ((a < lsuAddr th w ∨ lsuAddr th w + 8 ≤ a) → memRead (share u t.ctx t.arr) a = memRead (share s t.ctx t.arr) a) ∧
      (∀ c b, localKey c b ≠ localKey t.ctx t.arr → share u c b = share s c b ∧ badWordsOf u c b = badWordsOf s c b) ∧
      (∀ q, thrKey q ≠ thrKey t → getThr u q = getThr s q) ∧
      (∃ cax ptr v, u = { s with cax := cax, tsu := { s.tsu with arbPtr := ptr, voidGrants := v, took := [] } }))

/-- Handles of requests (03 R58): a handle names the slot in bits [31:15] and its generation in [14:0]; a FREE slot, or
another generation, is not found; an entry that goes to FREE leaves its slot at the end of the free ones, one generation on,
wrapping after 32,766. -/
def Obligations.RequestHandles : Prop :=
  (∀ (s : State) (h n : Nat) (x : Slot), findEntry s h = some (n, x) ↔
    n = h / 2 ^ 15 ∧ getSlot s n = some x ∧ x.e.slotGen = h % 2 ^ 15 ∧ h < 2 ^ 32) ∧
  (∀ (c : Cmd) (s : State) (h : Nat), findEntry s h = none → c.entry s h = .error { st := some St.notFound }) ∧
  (∀ (s : State) (n : Nat) (x : Slot), getSlot s n = some x → x.e.tokRoot = noId → x.e.auxRoot = noId →
    (freeEntry s n).rte.slots = Tbl.del s.rte.slots n ∧ (freeEntry s n).rte.freed = s.rte.freed ++ [n] ∧
      slotGenOf (freeEntry s n) n = (slotGenOf s n + 1) % 32767)

/-- The commands that only answer (NOP, the lists, the statistics and the status records) leave everything as it was but the
rings and sessions, the pair's stream, the bulletin rings, what is sent, the arbiters' pointers and count of void grants,
and the connections of a session that sixteen failed tags have closed: answered, turned away or not started. -/
def Obligations.QueriesChangeNothing : Prop :=
  ∀ (r : Nat) (d : Dma) (s t : State),
    ∀ i ∈ [Instr.nop r d, .reqList r d, .tierStats r d, .flashHealth r d, .pageStats r d, .cvnStatus r d, .mapQuery r d,
      .codecTableQuery r d, .portStatus r d, .telemRead r d, .pairStatus r d, .plantStatus r d],
    exec i s = .next t → ∃ hcu att mru mir conns ptr v tk out, t = { s with
      hcu := hcu, att := att, mru := mru, mir := mir, out := out
      fbe := { s.fbe with conns := conns }, tsu := { s.tsu with arbPtr := ptr, voidGrants := v, took := tk } }

/-- The frame of the session, ring, queue and limit commands: whatever they answer, no request, caravan, page, granule,
journal record, codec table or array changes, nor the device time. -/
def Obligations.SettingsLeaveServing : Prop :=
  ∀ (r : Nat) (d : Dma) (s t : State),
    ∀ i ∈ [Instr.sessHello r d, .sessProve r d, .sessClose r d, .ringCreate r d, .ringDestroy r d, .queueConfig r d,
      .shaperSet r d, .queueSample r d, .evqConfig r d, .arbFreeze r d, .powerCapSet r d, .coolTargetSet r d],
    exec i s = .next t → t.rte = s.rte ∧ t.cve = s.cve ∧ t.ppm = s.ppm ∧ t.tfm = s.tfm ∧ t.jnl = s.jnl ∧ t.cdu = s.cdu ∧
      t.cax = s.cax ∧ t.clk = s.clk

/-- Commands whose list is at a remote home are forwarded there with the owner's check of the entry's state, and answered
later (05 R122, R136, R137; 09 R242): the list commands, PAGE_SHARE, PREFIX_INSERT and PREFIX_LOOKUP, REQ_PARK and
REQ_UNPARK with the entry marked, MIRROR_CLASS_SET, the codec commands on a list, and a later command of a step whose home
is remote. A step opened by ATTN_STEP or SAMPLE_STEP answers what its opening does. Generated tokens appended to a request
at rest count and start GENERATE (03 R64), and TIER_HINT with OWN gives the range to the tenant it names. What the spec
leaves open in it is the model's choice, in log entries 24 and 31. -/
def Obligations.OtherFormsOfCommands : Prop :=
  (∀ (r : Nat) (d : Dma) (s s1 : State) (c : Cmd) (n : Nat) (x : Slot),
    taken 0x0403 [.operator, .tenant] r d s = some (c, s1) → c.payLen = 16 → c.fld 42 26 ≤ 65536 → c.fld 63 43 ≤ 1048576 →
    4 * (c.fld 42 26 + 1) ≤ c.resLen → c.target >>> 32 = 0 → c.fld 24 0 = 0 → c.entry s1 c.target = .ok (n, x) → x.e.remoteHome = true → x.e.state.terminal = false →
    exec (.plistAppend r d) s = .next (commit s (sendForward s1 c 0x0403 x.e.home 0 [n] [listState s1 n x]))) ∧
  (∀ (r : Nat) (d : Dma) (s s1 : State) (c : Cmd) (n : Nat) (x : Slot),
    taken 0x0404 [.operator, .tenant] r d s = some (c, s1) → c.payLen = 8 → c.target >>> 32 = 0 → c.fld 63 21 = 0 →
    c.entry s1 c.target = .ok (n, x) → x.e.remoteHome = true → x.e.state.terminal = false →
    exec (.plistTruncate r d) s = .next (commit s (sendForward s1 c 0x0404 x.e.home 0 [n] [listState s1 n x]))) ∧
  (∀ (r : Nat) (d : Dma) (s s1 : State) (c : Cmd) (n k : Nat) (x y : Slot),
    taken 0x0420 [.operator, .tenant] r d s = some (c, s1) → c.payLen = 16 → c.fld 63 43 ≠ 0 → c.target >>> 32 = 0 →
    c.fld 42 0 = 0 → c.fld 95 64 = 0 → restsThere s1 c c.target n x → restsThere s1 c (c.fld 127 96) k y →
    c.fld 63 43 ≤ y.e.ctxLen → x.e.home = y.e.home → x.e.kvPerTok = y.e.kvPerTok → x.e.pageClass = y.e.pageClass →
    x.e.codecSlot = y.e.codecSlot →
    exec (.pageShare r d) s = .next (commit s (sendForward s1 c 0x0420 x.e.home 0 [n, k] [.ok (), .ok ()]))) ∧
  (∀ (r : Nat) (d : Dma) (s s1 : State) (c : Cmd) (n : Nat) (x : Slot),
    taken 0x0411 [.operator, .tenant] r d s = some (c, s1) → (c.priv ≠ .tenant ∨ c.fld 32 32 = 0) → c.payLen = 8 →
    16 ≤ c.fld 16 0 → c.fld 16 0 ≤ 65536 → c.target >>> 32 = 0 → c.fld 16 0 % 16 = 0 → c.fld 31 17 = 0 → c.fld 63 33 = 0 →
    c.entry s1 c.target = .ok (n, x) → x.e.remoteHome = true → x.e.state.terminal = false →
    exec (.prefixInsert r d) s = .next (commit s (sendForward s1 c 0x0411 x.e.home 0 [n] [listState s1 n x]))) ∧
  (∀ (r : Nat) (d : Dma) (s s1 : State) (c : Cmd),
    taken 0x0410 [.operator, .tenant] r d s = some (c, s1) → 1 ≤ c.fld 16 0 → c.fld 16 0 ≤ 65536 →
    c.payLen = 16 + 4 * c.fld 16 0 → c.target = 0 → c.fld 63 17 = 0 → c.fld 95 64 ≠ 0 →
    checkEach (fun i t => need (decide (t < 2 ^ 18)) St.fieldRange (inPay (16 + 4 * i + 2))) 0 (c.recs 16 4 (c.fld 16 0))
      = .ok () → c.fld 127 112 ≠ me s1 →
    exec (.prefixLookup r d) s = .next (commit s (sendForward s1 c 0x0410 (c.fld 127 112) 0 []))) ∧
  (∀ (r : Nat) (d : Dma) (s s1 : State) (c : Cmd) (n : Nat) (x : Slot),
    taken 0x0208 [.operator, .tenant] r d s = some (c, s1) → c.payLen = 0 → c.target >>> 32 = 0 →
    c.entry s1 c.target = .ok (n, x) → x.e.remoteHome = true → openEntry s1 n x = .ok () → x.e.inStep = false →
    x.e.movePend = false → x.restoring = false → (x.e.state = .admitted ∨ x.e.state = .generate) →
    exec (.reqPark r d) s = .next (commit s (sendForward (ownMove n c.tok s1) c 0x0208 x.e.home 0 [n]))) ∧
  (∀ (r : Nat) (d : Dma) (s s1 : State) (c : Cmd) (n : Nat) (x : Slot),
    taken 0x0209 [.operator, .tenant] r d s = some (c, s1) → c.payLen = 0 → c.target >>> 32 = 0 →
    c.entry s1 c.target = .ok (n, x) → x.e.remoteHome = true → openEntry s1 n x = .ok () → x.e.inStep = false →
    x.e.movePend = false → x.restoring = false → x.e.state = .parked →
    exec (.reqUnpark r d) s = .next (commit s (sendForward (ownMove n c.tok s1) c 0x0209 x.e.home 0 [n]))) ∧
  (∀ (r : Nat) (d : Dma) (s s1 : State) (c : Cmd) (n : Nat) (x : Slot),
    taken 0x0B04 [.operator] r d s = some (c, s1) → c.payLen = 8 → c.target >>> 32 = 0 → c.fld 63 1 = 0 →
    restsThere s1 c c.target n x → x.e.state.terminal = false → x.e.state ≠ .handoff →
    exec (.mirrorClassSet r d) s = .next (commit s (sendForward s1 c 0x0B04 x.e.home (c.fld 0 0) [n]))) ∧
  (∀ (r : Nat) (d : Dma) (s s1 : State) (c : Cmd) (n : Nat) (x : Slot),
    let p := qpay (leNat c.pay)
    p.kv = true → c.entry s1 c.target = .ok (n, x) → x.e.remoteHome = true → openEntry s1 n x = .ok () →
    x.e.state.terminal = false →
    (taken 0x0606 [.operator, .tenant] r d s = some (c, s1) → qpayChecks c .dequantize p = .ok () →
      exec (.codecDequantize r d) s = .next (commit s (sendForward s1 c 0x0606 x.e.home 0 [n] [.ok ()]))) ∧
    (taken 0x0607 [.operator, .tenant] r d s = some (c, s1) → qpayChecks c .scaleFind p = .ok () →
      exec (.codecScaleFind r d) s = .next (commit s (sendForward s1 c 0x0607 x.e.home 0 [n] [.ok ()])))) ∧
  (∀ (r : Nat) (d : Dma) (s s1 : State) (c : Cmd) (o : OwnStep),
    let h := stepHdr Op.attn c.pay
    taken 0x0801 [.operator, .tenant] r d s = some (c, s1) → h.isOpen = false → stepChecks Op.attn c h 0 = .ok () →
    getOwn s1 h.tag = some o → o.entries.all (entryMine c s1) = true → o.isOpen = true → o.closeTok = none → o.home ≠ me s1 →
    exec (.attnStep r d) s = .next (commit s (sendForward s1 c Op.attn o.home h.tag []))) ∧
  (∀ (r : Nat) (d : Dma) (s s1 s2 : State) (c : Cmd) (a : Ans),
    let h := stepHdr Op.attn c.pay
    taken 0x0801 [.operator, .tenant] r d s = some (c, s1) → h.isOpen = true → stepChecks Op.attn c h 0 = .ok () →
    openCmd Op.attn homeAttn c h s1 = .ok (a, s2) →
    exec (.attnStep r d) s = .next (commit s (answer s2 c.tok a))) ∧
  (∀ (r : Nat) (d : Dma) (s s1 s2 : State) (c : Cmd) (a : Ans),
    let h := stepHdr Op.sample c.pay
    taken 0x0811 [.operator, .tenant] r d s = some (c, s1) → h.isOpen = true →
    stepChecks Op.sample c h (if isGiven c.pay then h.count else 0) = .ok () →
    openCmd Op.sample (homeClose Op.sample) c h s1 = .ok (a, s2) →
    exec (.sampleStep r d) s = .next (commit s (answer s2 c.tok a))) ∧
  (∀ (r : Nat) (d : Dma) (s s1 : State) (c : Cmd) (n : Nat) (x : Slot) (aux : Option Aux),
    let toks := c.recs 8 4 (c.fld 31 0)
    let x1 := acceptTokens x toks aux
    taken 0x0205 [.operator, .tenant] r d s = some (c, s1) → 1 ≤ c.fld 31 0 → c.fld 31 0 ≤ 65536 →
    c.payLen = 8 + 4 * c.fld 31 0 → c.target >>> 32 = 0 → c.fld 47 32 = 0 → c.fld 63 49 = 0 →
    checkEach (fun i t => need (decide (t < 2 ^ 18)) St.fieldRange (inPay (8 + 4 * i + 2))) 0 toks = .ok () →
    bit (c.fld 48 48) 0 = true → c.entry s1 c.target = .ok (n, x) → x.e.genLen + c.fld 31 0 ≤ x.e.maxNew →
    auxAfter x toks = some aux → openEntry s1 n x = .ok () →
    [RState.admitted, .prefill, .generate, .draining].contains x.e.state = true → x.e.inStep = false →
    x.e.promptComplete = true → auxLen aux ≤ auxLen x.aux →
    exec (.reqTokensAppend r d) s = .next (commit s (answer (setSlot s1 n { x1 with
      e := if x1.e.state = .admitted ∨ x1.e.state = .prefill then { x1.e with state := .generate, stateTime := now s1 }
        else x1.e }) c.tok okAns))) ∧
  (∀ (r : Nat) (d : Dma) (s s1 : State) (c : Cmd),
    let base := c.fld 191 128
    let len := c.fld 127 64
    let s2 := { s1 with tfm := { s1.tfm with
      extTenant := (extentsOf base len).foldl (fun t e => Tbl.set t e (c.fld 63 48)) s1.tfm.extTenant } }
    taken 0x0501 [.operator, .tenant] r d s = some (c, s1) → c.payLen = 24 → c.target = 0 → bit (c.fld 4 4) 0 = true →
    c.isOp = true → rangeLen base len = true → rangeBase base = true → len % 2 ^ 30 = 0 → base % 2 ^ 30 = 0 →
    c.fld 2 0 ≠ 2 → c.fld 2 0 ≠ 4 → c.fld 2 0 ≤ 4 → c.fld 3 3 = 0 → c.fld 47 5 = 0 → c.extentsOk s1 base len = true →
    exec (.tierHint r d) s = .next (commit s (answer (setHints (hintWins s2 base len (c.fld 2 0)) base len (c.fld 2 0)) c.tok okAns)))

/-- The headers of caravan messages (04 R83), of Jalnal frames (10 R276) and of mirror records (12 R346), each one
little-endian number (00 R8): every well-formed header is what its bytes spell, no field of it lost and none read from
another's place, and the bytes of a caravan header are those that its fields spell. (The byte forms are the model's reading
of the layouts, log entry 43.) -/
def Obligations.HeadersAreTheirBytes : Prop :=
  (∀ (m : CvnMsg), m.wf = true → (caravanBytes m).length = 64 ∧ caravanOfBytes m.frm (caravanBytes m) = m) ∧
  (∀ (frm : Nat) (bs : Bytes), bs.length = 64 → caravanBytes (caravanOfBytes frm bs) = bs) ∧
  (∀ (f : Frame), f.wf = true → jalnalOfBytes f.port f.mem f.bad f.ce (jalnalBytes f) = f) ∧
  (∀ (m : MirRec), m.wf = true → mirrorOfBytes m.port (mirrorBytes m) = m)
end

