-- ==== Sys2Proof/Laws/Commit.lean ====
section
/-! SUPPORT. What a report, a completion and the end of a step leave unchanged (02 R35 to R38; 12 R343 to R347). -/

namespace Sys2Proof.Machine

variable {α β : Type} {s s0 s1 : State}

/-- A step over a list keeps what each element keeps. -/
theorem foldl_keeps {P : State → α} {f : State → β → State} (h : ∀ s x, P (f s x) = P s) (l : List β) (s : State) :
    P (l.foldl f s) = P s := by
  induction l generalizing s with
  | nil => rfl
  | cons x t ih => rw [List.foldl_cons, ih, h]

/-- What a delivered report cannot touch: all but the command unit, the bulletin rings and what is sent. -/
def pastReports (s : State) : State := { s with hcu := State.reset.hcu, att := State.reset.att, out := [] }

@[simp] theorem emit_pastReports (x : Sent) : pastReports (emit s x) = pastReports s := rfl

@[simp] theorem setRing_pastReports (r : Nat) (R : Ring) : pastReports (setRing s r R) = pastReports s := rfl

@[simp] theorem irqPort_pastReports (p v a w : Nat) : pastReports (irqPort s p v a w) = pastReports s := by
  unfold irqPort
  split
  · rfl
  · split <;> rfl

@[simp] theorem reapRing_pastReports (r : Nat) : pastReports (reapRing s r) = pastReports s := by
  unfold reapRing
  split
  · rfl
  · split
    · rfl
    · split <;> rfl

@[simp] theorem cplIrq_pastReports (r : Nat) (b : Bool) : pastReports (cplIrq s r b) = pastReports s := by
  unfold cplIrq
  split
  · rfl
  · split
    · rfl
    · dsimp only
      split <;> simp

@[simp] theorem putResult_pastReports (r a : Nat) (bs : Bytes) : pastReports (putResult r a bs s) = pastReports s := by
  unfold putResult
  split <;> rfl

@[simp] theorem writeCpl_pastReports (R : Ring) (c : Cpl) : pastReports (writeCpl s R c) = pastReports s := by
  unfold writeCpl
  dsimp only
  split <;> simp

@[simp] theorem deliverCpl_pastReports (c : Cpl) : pastReports (deliverCpl s c) = pastReports s := by
  unfold deliverCpl
  split
  · rfl
  · split <;> simp

@[simp] theorem deliverBulletin_pastReports (r : Nat) (bs : Bytes) : pastReports (deliverBulletin s r bs) = pastReports s := by
  unfold deliverBulletin
  split
  · rfl
  · split
    · rfl
    · rfl

@[simp] theorem deliver_pastReports (r : Report) : pastReports (deliver s r) = pastReports s := by
  cases r <;> simp [deliver]

/-- Releasing held reports only empties the list of those held. -/
theorem releaseHeld_pastReports :
    pastReports (releaseHeld s) = pastReports { s with mru := { s.mru with held := [] } } := by
  unfold releaseHeld
  exact foldl_keeps (P := pastReports) (by simp) _ _

/-- What a mirror record cannot touch: all but the mirror unit and what is sent; the state of the pair stands. -/
def pastMirror (s : State) : State × PairSt × Bool × List Held :=
  ({ s with mru := State.reset.mru, mir := State.reset.mir, out := [] }, s.mru.st, s.mir.resync, s.mru.held)

@[simp] theorem mirrorSend_pastMirror (k o f : Nat) (b : Bytes) : pastMirror (mirrorSend s k o f b) = pastMirror s := rfl

@[simp] theorem mirrorParts_pastMirror (k o u n f : Nat) (b : Bytes) :
    pastMirror (mirrorParts k o u n f b s) = pastMirror s := by
  induction n generalizing f b s with
  | zero => rfl
  | succ n ih =>
    unfold mirrorParts
    split
    · rfl
    · rw [ih, mirrorSend_pastMirror]

@[simp] theorem mirrorBody_pastMirror (k o u f : Nat) (b : Bytes) : pastMirror (mirrorBody s k o u f b) = pastMirror s := by
  simp [mirrorBody]

@[simp] theorem mirrorEntry_pastMirror (e : Entry) : pastMirror (mirrorEntry s e) = pastMirror s := rfl

@[simp] theorem mirrorPlist_pastMirror (l : PList) (n f : Nat) (ps : List Nat) :
    pastMirror (mirrorPlist l n f ps s) = pastMirror s := by
  induction n generalizing f ps s with
  | zero => rfl
  | succ n ih =>
    unfold mirrorPlist
    dsimp only
    split
    · rfl
    · rw [ih, mirrorSend_pastMirror]

@[simp] theorem mirrorSlot_pastMirror (kv : Nat × Slot) : pastMirror (mirrorSlot s0 s kv) = pastMirror s := by
  unfold mirrorSlot
  dsimp only
  repeat' split
  all_goals first | rfl | simp

@[simp] theorem mirrorGone_pastMirror (kv : Nat × Slot) : pastMirror (mirrorGone s1 s kv) = pastMirror s := by
  unfold mirrorGone
  repeat' split
  all_goals rfl

@[simp] theorem mirrorCvn_pastMirror (kv : Nat × Caravan) : pastMirror (mirrorCvn s0 s kv) = pastMirror s := by
  unfold mirrorCvn
  repeat' split
  all_goals rfl

@[simp] theorem mirrorList_pastMirror (kv : Nat × PList) : pastMirror (mirrorList s0 s kv) = pastMirror s := by
  unfold mirrorList mirrorListFrom
  repeat' split
  all_goals first | rfl | simp

@[simp] theorem mirrorListGone_pastMirror (kv : Nat × PList) : pastMirror (mirrorListGone s1 s kv) = pastMirror s := by
  unfold mirrorListGone
  split <;> rfl

@[simp] theorem mirrorPage_pastMirror (id : Nat) : pastMirror (mirrorPage s id) = pastMirror s := by
  simp [mirrorPage]

@[simp] theorem mirrorPages_pastMirror (kv : Nat × PList) : pastMirror (mirrorPages s0 s1 s kv) = pastMirror s := by
  have k (l : List Nat) (f : State) : pastMirror
      (l.foldl (fun a id => if pageCells s0 id = pageCells s1 id then a else mirrorPage a id) f) = pastMirror f :=
    foldl_keeps (P := pastMirror) (fun a id => by by_cases e : pageCells s0 id = pageCells s1 id <;> simp [e]) _ _
  unfold mirrorPages
  repeat' split
  all_goals first | rfl | exact k _ _

@[simp] theorem mirrorJournal_pastMirror : pastMirror (mirrorJournal s0 s1 s) = pastMirror s :=
  foldl_keeps (P := pastMirror) (by simp) _ _

/-- The records of a step's changes touch nothing but the mirror unit. -/
theorem mirrorChanges_pastMirror : pastMirror (mirrorChanges s0 s1) = pastMirror s1 := by
  unfold mirrorChanges
  simp only [mirrorJournal_pastMirror]
  rw [foldl_keeps (P := pastMirror) (by simp), foldl_keeps (P := pastMirror) (by simp),
    foldl_keeps (P := pastMirror) (by simp), foldl_keeps (P := pastMirror) (by simp),
    foldl_keeps (P := pastMirror) (by simp), foldl_keeps (P := pastMirror) (by simp)]

@[simp] theorem mirrorStepRec_pastMirror (o g n : Nat) (b : Bytes) : pastMirror (mirrorStepRec o g n b s) = pastMirror s := by
  induction n generalizing b s with
  | zero => rfl
  | succ n ih =>
    unfold mirrorStepRec
    dsimp only
    split
    · rfl
    · rw [ih, mirrorSend_pastMirror]

@[simp] theorem mirrorStepEnd_pastMirror (g : Nat) (b : Bytes) : pastMirror (mirrorStepEnd g b s) = pastMirror s := by
  have h : pastMirror (mirrorStepEnd g b s) = pastMirror (mirrorStepRec (g <<< 32 ||| crc32c b) s.mir.digestSent 2 b s) := rfl
  rw [h, mirrorStepRec_pastMirror]

/-- So do the STEP records of the closed steps. -/
theorem mirrorCloses_pastMirror : pastMirror (mirrorCloses s) = pastMirror s :=
  foldl_keeps (P := pastMirror) (by simp) _ _

/-- What the end of a step cannot touch: all but the command unit, the bulletin rings, the mirror unit and what is sent. -/
def pastSettle (s : State) : State × PairSt × Bool :=
  ({ s with hcu := State.reset.hcu, att := State.reset.att, mru := State.reset.mru, mir := State.reset.mir, out := [] },
    s.mru.st, s.mir.resync)

theorem pastSettle_of_reports {a b : State} (h : pastReports a = pastReports b) : pastSettle a = pastSettle b := by
  have e : ∀ s, pastSettle s = pastSettle (pastReports s) := fun _ => rfl
  rw [e a, e b, h]

theorem pastSettle_of_mirror {a b : State} (h : pastMirror a = pastMirror b) : pastSettle a = pastSettle b := by
  simp only [pastMirror, Prod.mk.injEq] at h
  obtain ⟨h1, h2, h3, _⟩ := h
  have e : ∀ s : State, pastSettle s = ({ ({ s with mru := State.reset.mru, mir := State.reset.mir, out := [] } : State) with
    hcu := State.reset.hcu, att := State.reset.att }, s.mru.st, s.mir.resync) := fun _ => rfl
  rw [e a, e b, h1, h2, h3]

/-- The end of a step touches only the command unit, the bulletin rings, the mirror unit and what is sent; the pair keeps its
state. -/
theorem settle_pastSettle : pastSettle (settle s0 s1) = pastSettle s1 := by
  unfold settle
  split
  · dsimp only
    have k : pastSettle (mirrorCloses (mirrorChanges s0 s1)) = pastSettle s1 :=
      (pastSettle_of_mirror mirrorCloses_pastMirror).trans (pastSettle_of_mirror mirrorChanges_pastMirror)
    generalize mirrorCloses (mirrorChanges s0 s1) = s2 at *
    have f (l : List Held) (a : State) : pastSettle (l.foldl (fun a h => deliver a h.what) a) = pastSettle a :=
      foldl_keeps (P := pastSettle) (fun a h => pastSettle_of_reports (by simp)) _ _
    split
    · rw [if_pos rfl, f]
      exact k
    · split
      · rw [f]
        exact k
      · exact k
  · exact (pastSettle_of_reports releaseHeld_pastReports).trans rfl

/-- Whether records are sent, before and after. -/
@[simp] theorem settle_streaming : streaming (settle s0 s1) = streaming s1 := by
  have h : pastSettle (settle s0 s1) = pastSettle s1 := settle_pastSettle
  simp only [pastSettle, Prod.mk.injEq] at h
  simp only [streaming, mirroring, h.2.1, h.2.2]

/-- What the void grants of a step cannot touch: all but the arbiters' pointers, the counter and the step's grants. -/
def pastGrants (s : State) : State := { s with tsu := { s.tsu with arbPtr := [], took := [], voidGrants := 0 } }

@[simp] theorem voidGrant_pastGrants (a p : Nat) : pastGrants (voidGrant s a p) = pastGrants s := rfl

@[simp] theorem voidFalls_pastGrants : pastGrants (voidFalls s0 s1) = pastGrants s1 := by
  have e (t : State) : pastGrants { t with tsu := { t.tsu with took := [] } } = pastGrants t := rfl
  unfold voidFalls
  dsimp only
  rw [e, foldl_keeps (P := pastGrants) (by simp)]

/-- Where no ring's request falls, the void grants of a step only forget its grants. -/
theorem voidFalls_none (h : s0.hcu.rings.filter (fun kv => fallsVoid s0 s1 kv.1 kv.2) = []) :
    voidFalls s0 s1 = { s1 with tsu := { s1.tsu with took := [] } } := by
  simp [voidFalls, h]

end Sys2Proof.Machine
end

