-- ==== Sys2Proof/Laws/Exec.lean ====
section
/-! SUPPORT. Which meaning `exec` gives each command: one equation per constructor, so that no proof unfolds the match. -/

namespace Sys2Proof.Machine

variable (s : State)

theorem exec_sessHello (r : Nat) (d : Dma) : exec (.sessHello r d) s = execSessHello r d s := rfl
theorem exec_sessProve (r : Nat) (d : Dma) : exec (.sessProve r d) s = execSessProve r d s := rfl
theorem exec_sessClose (r : Nat) (d : Dma) : exec (.sessClose r d) s = execSessClose r d s := rfl
theorem exec_ringCreate (r : Nat) (d : Dma) : exec (.ringCreate r d) s = execRingCreate r d s := rfl
theorem exec_ringDestroy (r : Nat) (d : Dma) : exec (.ringDestroy r d) s = execRingDestroy r d s := rfl
theorem exec_nop (r : Nat) (d : Dma) : exec (.nop r d) s = execNop r d s := rfl
theorem exec_reqAdmit (r : Nat) (d : Dma) : exec (.reqAdmit r d) s = execReqAdmit r d s := rfl
theorem exec_reqQuery (r : Nat) (d : Dma) : exec (.reqQuery r d) s = execReqQuery r d s := rfl
theorem exec_reqSetDeadline (r : Nat) (d : Dma) : exec (.reqSetDeadline r d) s = execReqSetDeadline r d s := rfl
theorem exec_reqSetPriority (r : Nat) (d : Dma) : exec (.reqSetPriority r d) s = execReqSetPriority r d s := rfl
theorem exec_reqTokensAppend (r : Nat) (d : Dma) : exec (.reqTokensAppend r d) s = execReqTokensAppend r d s := rfl
theorem exec_reqComplete (r : Nat) (d : Dma) : exec (.reqComplete r d) s = execReqComplete r d s := rfl
theorem exec_reqCancel (r : Nat) (d : Dma) : exec (.reqCancel r d) s = execReqCancel r d s := rfl
theorem exec_reqPark (r : Nat) (d : Dma) : exec (.reqPark r d) s = execReqPark r d s := rfl
theorem exec_reqUnpark (r : Nat) (d : Dma) : exec (.reqUnpark r d) s = execReqUnpark r d s := rfl
theorem exec_reqList (r : Nat) (d : Dma) : exec (.reqList r d) s = execReqList r d s := rfl
theorem exec_cvnOffer (r : Nat) (d : Dma) : exec (.cvnOffer r d) s = execCvnOffer r d s := rfl
theorem exec_cvnWithdraw (r : Nat) (d : Dma) : exec (.cvnWithdraw r d) s = execCvnWithdraw r d s := rfl
theorem exec_cvnStatus (r : Nat) (d : Dma) : exec (.cvnStatus r d) s = execCvnStatus r d s := rfl
theorem exec_mapInstall (r : Nat) (d : Dma) : exec (.mapInstall r d) s = execMapInstall r d s := rfl
theorem exec_mapQuery (r : Nat) (d : Dma) : exec (.mapQuery r d) s = execMapQuery r d s := rfl
theorem exec_pageAlloc (r : Nat) (d : Dma) : exec (.pageAlloc r d) s = execPageAlloc r d s := rfl
theorem exec_pageFree (r : Nat) (d : Dma) : exec (.pageFree r d) s = execPageFree r d s := rfl
theorem exec_plistAppend (r : Nat) (d : Dma) : exec (.plistAppend r d) s = execPlistAppend r d s := rfl
theorem exec_plistTruncate (r : Nat) (d : Dma) : exec (.plistTruncate r d) s = execPlistTruncate r d s := rfl
theorem exec_plistQuery (r : Nat) (d : Dma) : exec (.plistQuery r d) s = execPlistQuery r d s := rfl
theorem exec_prefixLookup (r : Nat) (d : Dma) : exec (.prefixLookup r d) s = execPrefixLookup r d s := rfl
theorem exec_prefixInsert (r : Nat) (d : Dma) : exec (.prefixInsert r d) s = execPrefixInsert r d s := rfl
theorem exec_prefixEvict (r : Nat) (d : Dma) : exec (.prefixEvict r d) s = execPrefixEvict r d s := rfl
theorem exec_pageShare (r : Nat) (d : Dma) : exec (.pageShare r d) s = execPageShare r d s := rfl
theorem exec_pageStats (r : Nat) (d : Dma) : exec (.pageStats r d) s = execPageStats r d s := rfl
theorem exec_reclaim : exec (.reclaim) s = execReclaim s := rfl
theorem exec_tierHint (r : Nat) (d : Dma) : exec (.tierHint r d) s = execTierHint r d s := rfl
theorem exec_tierMigrate (r : Nat) (d : Dma) : exec (.tierMigrate r d) s = execTierMigrate r d s := rfl
theorem exec_homeMoveCommit (slot : Nat) (newRoot : Nat) : exec (.homeMoveCommit slot newRoot) s = execHomeMoveCommit slot newRoot s := rfl
theorem exec_rangeTrim (r : Nat) (d : Dma) : exec (.rangeTrim r d) s = execRangeTrim r d s := rfl
theorem exec_tierStats (r : Nat) (d : Dma) : exec (.tierStats r d) s = execTierStats r d s := rfl
theorem exec_gcSetWeights (r : Nat) (d : Dma) : exec (.gcSetWeights r d) s = execGcSetWeights r d s := rfl
theorem exec_flashHealth (r : Nat) (d : Dma) : exec (.flashHealth r d) s = execFlashHealth r d s := rfl
theorem exec_durableFlush (r : Nat) (d : Dma) : exec (.durableFlush r d) s = execDurableFlush r d s := rfl
theorem exec_codecTableLoad (r : Nat) (d : Dma) : exec (.codecTableLoad r d) s = execCodecTableLoad r d s := rfl
theorem exec_codecTableQuery (r : Nat) (d : Dma) : exec (.codecTableQuery r d) s = execCodecTableQuery r d s := rfl
theorem exec_codecCompress (r : Nat) (d : Dma) : exec (.codecCompress r d) s = execCodecCompress r d s := rfl
theorem exec_codecDecompress (r : Nat) (d : Dma) : exec (.codecDecompress r d) s = execCodecDecompress r d s := rfl
theorem exec_codecQuantize (r : Nat) (d : Dma) : exec (.codecQuantize r d) s = execCodecQuantize r d s := rfl
theorem exec_codecDequantize (r : Nat) (d : Dma) : exec (.codecDequantize r d) s = execCodecDequantize r d s := rfl
theorem exec_codecScaleFind (r : Nat) (d : Dma) : exec (.codecScaleFind r d) s = execCodecScaleFind r d s := rfl
theorem exec_codecRecode (r : Nat) (d : Dma) : exec (.codecRecode r d) s = execCodecRecode r d s := rfl
theorem exec_kernelLoad (r : Nat) (d : Dma) : exec (.kernelLoad r d) s = execKernelLoad r d s := rfl
theorem exec_kernelUnload (r : Nat) (d : Dma) : exec (.kernelUnload r d) s = execKernelUnload r d s := rfl
theorem exec_ctxCreate (r : Nat) (d : Dma) : exec (.ctxCreate r d) s = execCtxCreate r d s := rfl
theorem exec_ctxDestroy (r : Nat) (d : Dma) : exec (.ctxDestroy r d) s = execCtxDestroy r d s := rfl
theorem exec_ctxLaunch (r : Nat) (d : Dma) : exec (.ctxLaunch r d) s = execCtxLaunch r d s := rfl
theorem exec_schedSet (r : Nat) (d : Dma) : exec (.schedSet r d) s = execSchedSet r d s := rfl
theorem exec_schedSwitch : exec (.schedSwitch) s = execSchedSwitch s := rfl
theorem exec_arraySlowdown (r : Nat) (d : Dma) : exec (.arraySlowdown r d) s = execArraySlowdown r d s := rfl
theorem exec_arrayExclude (r : Nat) (d : Dma) : exec (.arrayExclude r d) s = execArrayExclude r d s := rfl
theorem exec_diagArrayTest (r : Nat) (d : Dma) : exec (.diagArrayTest r d) s = execDiagArrayTest r d s := rfl
theorem exec_diagArrayTestDone (failed : Nat) : exec (.diagArrayTestDone failed) s = execDiagArrayTestDone failed s := rfl
theorem exec_attnStep (r : Nat) (d : Dma) : exec (.attnStep r d) s = execAttnStep r d s := rfl
theorem exec_attnBiasLoad (r : Nat) (d : Dma) : exec (.attnBiasLoad r d) s = execAttnBiasLoad r d s := rfl
theorem exec_lseMerge (r : Nat) (d : Dma) : exec (.lseMerge r d) s = execLseMerge r d s := rfl
theorem exec_sampleSet (r : Nat) (d : Dma) : exec (.sampleSet r d) s = execSampleSet r d s := rfl
theorem exec_sampleStep (r : Nat) (d : Dma) : exec (.sampleStep r d) s = execSampleStep r d s := rfl
theorem exec_banLoad (r : Nat) (d : Dma) : exec (.banLoad r d) s = execBanLoad r d s := rfl
theorem exec_specDraft (r : Nat) (d : Dma) : exec (.specDraft r d) s = execSpecDraft r d s := rfl
theorem exec_specVerify (r : Nat) (d : Dma) : exec (.specVerify r d) s = execSpecVerify r d s := rfl
theorem exec_bulletinSet (r : Nat) (d : Dma) : exec (.bulletinSet r d) s = execBulletinSet r d s := rfl
theorem exec_stepTimeout (owner tag : Nat) : exec (.stepTimeout owner tag) s = execStepTimeout owner tag s := rfl
theorem exec_stepAbort (frm gid : Nat) : exec (.stepAbort frm gid) s = execStepAbort frm gid s := rfl
theorem exec_portConfig (r : Nat) (d : Dma) : exec (.portConfig r d) s = execPortConfig r d s := rfl
theorem exec_portStatus (r : Nat) (d : Dma) : exec (.portStatus r d) s = execPortStatus r d s := rfl
theorem exec_keyRegister (r : Nat) (d : Dma) : exec (.keyRegister r d) s = execKeyRegister r d s := rfl
theorem exec_keyDeregister (r : Nat) (d : Dma) : exec (.keyDeregister r d) s = execKeyDeregister r d s := rfl
theorem exec_connOpen (r : Nat) (d : Dma) : exec (.connOpen r d) s = execConnOpen r d s := rfl
theorem exec_connClose (r : Nat) (d : Dma) : exec (.connClose r d) s = execConnClose r d s := rfl
theorem exec_ergMap (r : Nat) (d : Dma) : exec (.ergMap r d) s = execErgMap r d s := rfl
theorem exec_ptpConfig (r : Nat) (d : Dma) : exec (.ptpConfig r d) s = execPtpConfig r d s := rfl
theorem exec_queueConfig (r : Nat) (d : Dma) : exec (.queueConfig r d) s = execQueueConfig r d s := rfl
theorem exec_shaperSet (r : Nat) (d : Dma) : exec (.shaperSet r d) s = execShaperSet r d s := rfl
theorem exec_queueSample (r : Nat) (d : Dma) : exec (.queueSample r d) s = execQueueSample r d s := rfl
theorem exec_searchWrite (r : Nat) (d : Dma) : exec (.searchWrite r d) s = execSearchWrite r d s := rfl
theorem exec_searchDelete (r : Nat) (d : Dma) : exec (.searchDelete r d) s = execSearchDelete r d s := rfl
theorem exec_searchQuery (r : Nat) (d : Dma) : exec (.searchQuery r d) s = execSearchQuery r d s := rfl
theorem exec_searchScrub (bank : Nat) : exec (.searchScrub bank) s = execSearchScrub bank s := rfl
theorem exec_arbFreeze (r : Nat) (d : Dma) : exec (.arbFreeze r d) s = execArbFreeze r d s := rfl
theorem exec_drained (arb : Nat) : exec (.drained arb) s = execDrained arb s := rfl
theorem exec_holdExpiry (arb : Nat) : exec (.holdExpiry arb) s = execHoldExpiry arb s := rfl
theorem exec_evqConfig (r : Nat) (d : Dma) : exec (.evqConfig r d) s = execEvqConfig r d s := rfl
theorem exec_eventIrqGap (q : Nat) : exec (.eventIrqGap q) s = execEventIrqGap q s := rfl
theorem exec_telemRead (r : Nat) (d : Dma) : exec (.telemRead r d) s = execTelemRead r d s := rfl
theorem exec_pairJoin (r : Nat) (d : Dma) : exec (.pairJoin r d) s = execPairJoin r d s := rfl
theorem exec_joinTimeout : exec (.joinTimeout) s = execJoinTimeout s := rfl
theorem exec_copyDone : exec (.copyDone) s = execCopyDone s := rfl
theorem exec_pairDissolve (r : Nat) (d : Dma) : exec (.pairDissolve r d) s = execPairDissolve r d s := rfl
theorem exec_dissolve (frm : Nat) : exec (.dissolve frm) s = execDissolve frm s := rfl
theorem exec_pairStatus (r : Nat) (d : Dma) : exec (.pairStatus r d) s = execPairStatus r d s := rfl
theorem exec_mirrorClassSet (r : Nat) (d : Dma) : exec (.mirrorClassSet r d) s = execMirrorClassSet r d s := rfl
theorem exec_pairPromote (r : Nat) (d : Dma) : exec (.pairPromote r d) s = execPairPromote r d s := rfl
theorem exec_plantStatus (r : Nat) (d : Dma) : exec (.plantStatus r d) s = execPlantStatus r d s := rfl
theorem exec_coolTargetSet (r : Nat) (d : Dma) : exec (.coolTargetSet r d) s = execCoolTargetSet r d s := rfl
theorem exec_holdupTest (r : Nat) (d : Dma) : exec (.holdupTest r d) s = execHoldupTest r d s := rfl
theorem exec_holdupTestEnd (stepMv stepCa chargeMc fallMv : Nat) : exec (.holdupTestEnd stepMv stepCa chargeMc fallMv) s = execHoldupTestEnd stepMv stepCa chargeMc fallMv s := rfl
theorem exec_powerCapSet (r : Nat) (d : Dma) : exec (.powerCapSet r d) s = execPowerCapSet r d s := rfl
theorem exec_standbyEnter (r : Nat) (d : Dma) : exec (.standbyEnter r d) s = execStandbyEnter r d s := rfl
theorem exec_standbyEntry : exec (.standbyEntry) s = execStandbyEntry s := rfl
theorem exec_standbyWake : exec (.standbyWake) s = execStandbyWake s := rfl
theorem exec_imageWrite (r : Nat) (d : Dma) : exec (.imageWrite r d) s = execImageWrite r d s := rfl
theorem exec_imageProgrammed (slot : Nat) : exec (.imageProgrammed slot) s = execImageProgrammed slot s := rfl
theorem exec_imageVerify (r : Nat) (d : Dma) : exec (.imageVerify r d) s = execImageVerify r d s := rfl
theorem exec_imageSelect (r : Nat) (d : Dma) : exec (.imageSelect r d) s = execImageSelect r d s := rfl
theorem exec_fwLoad (r : Nat) (d : Dma) : exec (.fwLoad r d) s = execFwLoad r d s := rfl
theorem exec_fwLoadTimeout : exec (.fwLoadTimeout) s = execFwLoadTimeout s := rfl
theorem exec_keyProvision (r : Nat) (d : Dma) : exec (.keyProvision r d) s = execKeyProvision r d s := rfl
theorem exec_keyAreaWritten : exec (.keyAreaWritten) s = execKeyAreaWritten s := rfl
theorem exec_deviceAttest (r : Nat) (d : Dma) : exec (.deviceAttest r d) s = execDeviceAttest r d s := rfl
theorem exec_roleSet (r : Nat) (d : Dma) : exec (.roleSet r d) s = execRoleSet r d s := rfl
theorem exec_roleSwitch : exec (.roleSwitch) s = execRoleSwitch s := rfl
theorem exec_deviceReset (r : Nat) (d : Dma) : exec (.deviceReset r d) s = execDeviceReset r d s := rfl
theorem exec_diagMemScrub (r : Nat) (d : Dma) : exec (.diagMemScrub r d) s = execDiagMemScrub r d s := rfl
theorem exec_diagLoopback (r : Nat) (d : Dma) : exec (.diagLoopback r d) s = execDiagLoopback r d s := rfl
theorem exec_loopbackDone (port : Nat) (errs : List Nat) : exec (.loopbackDone port errs) s = execLoopbackDone port errs s := rfl
theorem exec_errInject (r : Nat) (d : Dma) : exec (.errInject r d) s = execErrInject r d s := rfl
theorem exec_workWrite (r : Nat) : exec (.workWrite r) s = execWorkWrite r s := rfl
theorem exec_workRead (r : Nat) : exec (.workRead r) s = execWorkRead r s := rfl
theorem exec_workAdd (r : Nat) : exec (.workAdd r) s = execWorkAdd r s := rfl
theorem exec_workMin (r : Nat) : exec (.workMin r) s = execWorkMin r s := rfl
theorem exec_workMax (r : Nat) : exec (.workMax r) s = execWorkMax r s := rfl
theorem exec_workCas (r : Nat) : exec (.workCas r) s = execWorkCas r s := rfl
theorem exec_aBr (t : Thr) : exec (.aBr t) s = execABr t s := rfl
theorem exec_aBrp (t : Thr) : exec (.aBrp t) s = execABrp t s := rfl
theorem exec_aLoop (t : Thr) : exec (.aLoop t) s = execALoop t s := rfl
theorem exec_aYield (t : Thr) : exec (.aYield t) s = execAYield t s := rfl
theorem exec_aHalt (t : Thr) : exec (.aHalt t) s = execAHalt t s := rfl
theorem exec_aAdd (t : Thr) : exec (.aAdd t) s = execAAdd t s := rfl
theorem exec_aSub (t : Thr) : exec (.aSub t) s = execASub t s := rfl
theorem exec_aMul (t : Thr) : exec (.aMul t) s = execAMul t s := rfl
theorem exec_aAnd (t : Thr) : exec (.aAnd t) s = execAAnd t s := rfl
theorem exec_aOr (t : Thr) : exec (.aOr t) s = execAOr t s := rfl
theorem exec_aXor (t : Thr) : exec (.aXor t) s = execAXor t s := rfl
theorem exec_aShl (t : Thr) : exec (.aShl t) s = execAShl t s := rfl
theorem exec_aShr (t : Thr) : exec (.aShr t) s = execAShr t s := rfl
theorem exec_aSra (t : Thr) : exec (.aSra t) s = execASra t s := rfl
theorem exec_aMovi (t : Thr) : exec (.aMovi t) s = execAMovi t s := rfl
theorem exec_aCmp (t : Thr) : exec (.aCmp t) s = execACmp t s := rfl
theorem exec_aRdstat (t : Thr) : exec (.aRdstat t) s = execARdstat t s := rfl
theorem exec_aLd (t : Thr) : exec (.aLd t) s = execALd t s := rfl
theorem exec_aSt (t : Thr) : exec (.aSt t) s = execASt t s := rfl
theorem exec_aVld (t : Thr) : exec (.aVld t) s = execAVld t s := rfl
theorem exec_aVst (t : Thr) : exec (.aVst t) s = execAVst t s := rfl
theorem exec_aDmaRd (t : Thr) : exec (.aDmaRd t) s = execADmaRd t s := rfl
theorem exec_aDmaWr (t : Thr) : exec (.aDmaWr t) s = execADmaWr t s := rfl
theorem exec_aDmaQld (t : Thr) : exec (.aDmaQld t) s = execADmaQld t s := rfl
theorem exec_aDmaWait (t : Thr) : exec (.aDmaWait t) s = execADmaWait t s := rfl
theorem exec_dmaDone (t : Thr) : exec (.dmaDone t) s = execDmaDone t s := rfl
theorem exec_gridMm (t : Thr) : exec (.gridMm t) s = execGridMm t s := rfl
theorem exec_passEnd (t : Thr) : exec (.passEnd t) s = execPassEnd t s := rfl
theorem exec_gridWait (t : Thr) : exec (.gridWait t) s = execGridWait t s := rfl
theorem exec_cbLoad (t : Thr) : exec (.cbLoad t) s = execCbLoad t s := rfl
theorem exec_vFma (t : Thr) : exec (.vFma t) s = execVFma t s := rfl
theorem exec_vAdd (t : Thr) : exec (.vAdd t) s = execVAdd t s := rfl
theorem exec_vMul (t : Thr) : exec (.vMul t) s = execVMul t s := rfl
theorem exec_vMax (t : Thr) : exec (.vMax t) s = execVMax t s := rfl
theorem exec_vMin (t : Thr) : exec (.vMin t) s = execVMin t s := rfl
theorem exec_vCvt (t : Thr) : exec (.vCvt t) s = execVCvt t s := rfl
theorem exec_vRed (t : Thr) : exec (.vRed t) s = execVRed t s := rfl
theorem exec_vExp2 (t : Thr) : exec (.vExp2 t) s = execVExp2 t s := rfl
theorem exec_vRcp (t : Thr) : exec (.vRcp t) s = execVRcp t s := rfl
theorem exec_vRsqrt (t : Thr) : exec (.vRsqrt t) s = execVRsqrt t s := rfl
theorem exec_syncBar (t : Thr) : exec (.syncBar t) s = execSyncBar t s := rfl
theorem exec_syncXbar (t : Thr) : exec (.syncXbar t) s = execSyncXbar t s := rfl
theorem exec_semInc (t : Thr) : exec (.semInc t) s = execSemInc t s := rfl
theorem exec_semWait (t : Thr) : exec (.semWait t) s = execSemWait t s := rfl
theorem exec_arrayGate (a : Nat) : exec (.arrayGate a) s = execArrayGate a s := rfl
theorem exec_cvnMsgOffer (m : CvnMsg) : exec (.cvnMsgOffer m) s = execCvnMsgOffer m s := rfl
theorem exec_cvnMsgPull (m : CvnMsg) : exec (.cvnMsgPull m) s = execCvnMsgPull m s := rfl
theorem exec_cvnMsgManifest (m : CvnMsg) : exec (.cvnMsgManifest m) s = execCvnMsgManifest m s := rfl
theorem exec_cvnMsgReceipt (m : CvnMsg) : exec (.cvnMsgReceipt m) s = execCvnMsgReceipt m s := rfl
theorem exec_cvnMsgRelease (m : CvnMsg) : exec (.cvnMsgRelease m) s = execCvnMsgRelease m s := rfl
theorem exec_cvnMsgDecline (m : CvnMsg) : exec (.cvnMsgDecline m) s = execCvnMsgDecline m s := rfl
theorem exec_cvnMsgWithdraw (m : CvnMsg) : exec (.cvnMsgWithdraw m) s = execCvnMsgWithdraw m s := rfl
theorem exec_cvnMsgProbe (m : CvnMsg) : exec (.cvnMsgProbe m) s = execCvnMsgProbe m s := rfl
theorem exec_cvnMsgProbeAnswer (m : CvnMsg) : exec (.cvnMsgProbeAnswer m) s = execCvnMsgProbeAnswer m s := rfl
theorem exec_offerTimeout (cvn : Nat) : exec (.offerTimeout cvn) s = execOfferTimeout cvn s := rfl
theorem exec_receiptTimeout (src cvn : Nat) : exec (.receiptTimeout src cvn) s = execReceiptTimeout src cvn s := rfl
theorem exec_pulledTimeout (cvn : Nat) : exec (.pulledTimeout cvn) s = execPulledTimeout cvn s := rfl
theorem exec_probeInterval (src cvn : Nat) : exec (.probeInterval src cvn) s = execProbeInterval src cvn s := rfl
theorem exec_releaseTimeout (src cvn : Nat) : exec (.releaseTimeout src cvn) s = execReleaseTimeout src cvn s := rfl
theorem exec_epochActivate : exec (.epochActivate) s = execEpochActivate s := rfl
theorem exec_drainTimeout (epoch : Nat) : exec (.drainTimeout epoch) s = execDrainTimeout epoch s := rfl
theorem exec_bounceRetry (src cvn : Nat) : exec (.bounceRetry src cvn) s = execBounceRetry src cvn s := rfl
theorem exec_reservationRequest (m : ResvMsg) : exec (.reservationRequest m) s = execReservationRequest m s := rfl
theorem exec_reservationAnswer (frm gid st root key : Nat) : exec (.reservationAnswer frm gid st root key) s = execReservationAnswer frm gid st root key s := rfl
theorem exec_homeAnswerTimeout (gid : Nat) : exec (.homeAnswerTimeout gid) s = execHomeAnswerTimeout gid s := rfl
theorem exec_admissionRelease (frm gid : Nat) : exec (.admissionRelease frm gid) s = execAdmissionRelease frm gid s := rfl
theorem exec_releaseResend (gid : Nat) : exec (.releaseResend gid) s = execReleaseResend gid s := rfl
theorem exec_homeRelease (frm gid : Nat) : exec (.homeRelease frm gid) s = execHomeRelease frm gid s := rfl
theorem exec_forward (m : FwdMsg) : exec (.forward m) s = execForward m s := rfl
theorem exec_forwardAnswer (a : FwdAns) : exec (.forwardAnswer a) s = execForwardAnswer a s := rfl
theorem exec_forwardTimeout (id : Nat) : exec (.forwardTimeout id) s = execForwardTimeout id s := rfl
theorem exec_pageLossReport (frm gid st : Nat) (charged : Bool) : exec (.pageLossReport frm gid st charged) s = execPageLossReport frm gid st charged s := rfl
theorem exec_deadlineExpiry (slot : Nat) : exec (.deadlineExpiry slot) s = execDeadlineExpiry slot s := rfl
theorem exec_lingerEnd (slot : Nat) : exec (.lingerEnd slot) s = execLingerEnd slot s := rfl
theorem exec_parkCommit (gid : Nat) : exec (.parkCommit gid) s = execParkCommit gid s := rfl
theorem exec_unparkDone (gid : Nat) : exec (.unparkDone gid) s = execUnparkDone gid s := rfl
theorem exec_memWindowRead (p addr len : Nat) : exec (.memWindowRead p addr len) s = execMemWindowRead p addr len s := rfl
theorem exec_memWindowWrite (p addr : Nat) (bs : Bytes) : exec (.memWindowWrite p addr bs) s = execMemWindowWrite p addr bs s := rfl
theorem exec_flashReadDone (id : Nat) (ok : Bool) : exec (.flashReadDone id ok) s = execFlashReadDone id ok s := rfl
theorem exec_readRedirect (id : Nat) : exec (.readRedirect id) s = execReadRedirect id s := rfl
theorem exec_dieRetry (die : Nat) : exec (.dieRetry die) s = execDieRetry die s := rfl
theorem exec_demotion : exec (.demotion) s = execDemotion s := rfl
theorem exec_migrationSwitch (g : Nat) : exec (.migrationSwitch g) s = execMigrationSwitch g s := rfl
theorem exec_heatSweep : exec (.heatSweep) s = execHeatSweep s := rfl
theorem exec_journalPageWrite : exec (.journalPageWrite) s = execJournalPageWrite s := rfl
theorem exec_journalCommit : exec (.journalCommit) s = execJournalCommit s := rfl
theorem exec_checkpointWrite (leaf : Nat) : exec (.checkpointWrite leaf) s = execCheckpointWrite leaf s := rfl
theorem exec_gcCollect : exec (.gcCollect) s = execGcCollect s := rfl
theorem exec_programFail (stream die : Nat) : exec (.programFail stream die) s = execProgramFail stream die s := rfl
theorem exec_bandErase (b : Nat) : exec (.bandErase b) s = execBandErase b s := rfl
theorem exec_eraseFail (b die : Nat) : exec (.eraseFail b die) s = execEraseFail b die s := rfl
theorem exec_readRelocate (b : Nat) : exec (.readRelocate b) s = execReadRelocate b s := rfl
theorem exec_dieFailed (die : Nat) : exec (.dieFailed die) s = execDieFailed die s := rfl
theorem exec_stackRetire (k : Nat) : exec (.stackRetire k) s = execStackRetire k s := rfl
theorem exec_parityRebuildDone : exec (.parityRebuildDone) s = execParityRebuildDone s := rfl
theorem exec_scrubPass (addr : Nat) (corrected uncorrectable : Bool) : exec (.scrubPass addr corrected uncorrectable) s = execScrubPass addr corrected uncorrectable s := rfl
theorem exec_powerUp : exec (.powerUp) s = execPowerUp s := rfl
theorem exec_powerFail : exec (.powerFail) s = execPowerFail s := rfl
theorem exec_overVoltage : exec (.overVoltage) s = execOverVoltage s := rfl
theorem exec_openRowsProgrammed : exec (.openRowsProgrammed) s = execOpenRowsProgrammed s := rfl
theorem exec_saveSeal : exec (.saveSeal) s = execSaveSeal s := rfl
theorem exec_sequenceEnd : exec (.sequenceEnd) s = execSequenceEnd s := rfl
theorem exec_storeSample (mv : Nat) (ca : Int) : exec (.storeSample mv ca) s = execStoreSample mv ca s := rfl
theorem exec_powerSample (mv ca : Nat) : exec (.powerSample mv ca) s = execPowerSample mv ca s := rfl
theorem exec_dieTempSample (ts : List Int) : exec (.dieTempSample ts) s = execDieTempSample ts s := rfl
theorem exec_hbmTempSample (ts : List Int) : exec (.hbmTempSample ts) s = execHbmTempSample ts s := rfl
theorem exec_coolantSample (tIn tOut : Int) : exec (.coolantSample tIn tOut) s = execCoolantSample tIn tOut s := rfl
theorem exec_pumpFault (n : Nat) : exec (.pumpFault n) s = execPumpFault n s := rfl
theorem exec_thermalTrip (sensor : Nat) : exec (.thermalTrip sensor) s = execThermalTrip sensor s := rfl
theorem exec_tripRestart : exec (.tripRestart) s = execTripRestart s := rfl
theorem exec_islandOff : exec (.islandOff) s = execIslandOff s := rfl
theorem exec_restart : exec (.restart) s = execRestart s := rfl
theorem exec_ptpWaitTimeout : exec (.ptpWaitTimeout) s = execPtpWaitTimeout s := rfl
theorem exec_bootDone : exec (.bootDone) s = execBootDone s := rfl
theorem exec_trialTimeout : exec (.trialTimeout) s = execTrialTimeout s := rfl
theorem exec_slotConfirm : exec (.slotConfirm) s = execSlotConfirm s := rfl
theorem exec_firmwareHeartbeat (v : Nat) : exec (.firmwareHeartbeat v) s = execFirmwareHeartbeat v s := rfl
theorem exec_heartbeatLapse : exec (.heartbeatLapse) s = execHeartbeatLapse s := rfl
theorem exec_keySlotUnlock (slot : Nat) : exec (.keySlotUnlock slot) s = execKeySlotUnlock slot s := rfl
theorem exec_sqTailWrite (src : Src) (ring v : Nat) : exec (.sqTailWrite src ring v) s = execSqTailWrite src ring v s := rfl
theorem exec_cqHeadWrite (src : Src) (ring v : Nat) : exec (.cqHeadWrite src ring v) s = execCqHeadWrite src ring v s := rfl
theorem exec_irqTimer (ring : Nat) : exec (.irqTimer ring) s = execIrqTimer ring s := rfl
theorem exec_adminRingEnable (src : Src) (p v : Nat) : exec (.adminRingEnable src p v) s = execAdminRingEnable src p v s := rfl
theorem exec_adminRingDisable (src : Src) (p v : Nat) : exec (.adminRingDisable src p v) s = execAdminRingDisable src p v s := rfl
theorem exec_flagClear (src : Src) (v : Nat) : exec (.flagClear src v) s = execFlagClear src v s := rfl
theorem exec_flagIrqGap (p : Nat) : exec (.flagIrqGap p) s = execFlagIrqGap p s := rfl
theorem exec_pop (src : Src) (q v : Nat) : exec (.pop src q v) s = execPop src q v s := rfl
theorem exec_headWindowRead (src : Src) (q : Nat) : exec (.headWindowRead src q) s = execHeadWindowRead src q s := rfl
theorem exec_halfReadLatch (src : Src) (off : Nat) : exec (.halfReadLatch src off) s = execHalfReadLatch src off s := rfl
theorem exec_bulletinHeadWrite (src : Src) (ring v : Nat) : exec (.bulletinHeadWrite src ring v) s = execBulletinHeadWrite src ring v s := rfl
theorem exec_capacityWrite (src : Src) (off v : Nat) : exec (.capacityWrite src off v) s = execCapacityWrite src off v s := rfl
theorem exec_registerWrite (src : Src) (off len v : Nat) : exec (.registerWrite src off len v) s = execRegisterWrite src off len v s := rfl
theorem exec_i3cStatusRead : exec (.i3cStatusRead) s = execI3cStatusRead s := rfl
theorem exec_i3cRestart (key : Nat) : exec (.i3cRestart key) s = execI3cRestart key s := rfl
theorem exec_i3cWake (key : Nat) : exec (.i3cWake key) s = execI3cWake key s := rfl
theorem exec_perstAssert (p : Nat) : exec (.perstAssert p) s = execPerstAssert p s := rfl
theorem exec_mwrite (f : Frame) : exec (.mwrite f) s = execMwrite f s := rfl
theorem exec_mread (f : Frame) : exec (.mread f) s = execMread f s := rfl
theorem exec_madd (f : Frame) : exec (.madd f) s = execMadd f s := rfl
theorem exec_mmin (f : Frame) : exec (.mmin f) s = execMmin f s := rfl
theorem exec_mmax (f : Frame) : exec (.mmax f) s = execMmax f s := rfl
theorem exec_mcas (f : Frame) : exec (.mcas f) s = execMcas f s := rfl
theorem exec_mresp (f : Frame) : exec (.mresp f) s = execMresp f s := rfl
theorem exec_twrite (f : Frame) : exec (.twrite f) s = execTwrite f s := rfl
theorem exec_tread (f : Frame) : exec (.tread f) s = execTread f s := rfl
theorem exec_treadResp (f : Frame) : exec (.treadResp f) s = execTreadResp f s := rfl
theorem exec_openMsg (f : Frame) : exec (.openMsg f) s = execOpenMsg f s := rfl
theorem exec_openAck (f : Frame) : exec (.openAck f) s = execOpenAck f s := rfl
theorem exec_openTimeout (conn : Nat) : exec (.openTimeout conn) s = execOpenTimeout conn s := rfl
theorem exec_closeMsg (f : Frame) : exec (.closeMsg f) s = execCloseMsg f s := rfl
theorem exec_ack (f : Frame) : exec (.ack f) s = execAck f s := rfl
theorem exec_nak (f : Frame) : exec (.nak f) s = execNak f s := rfl
theorem exec_discover (port node peerPort mac : Nat) : exec (.discover port node peerPort mac) s = execDiscover port node peerPort mac s := rfl
theorem exec_pauseFrame (port : Nat) : exec (.pauseFrame port) s = execPauseFrame port s := rfl
theorem exec_neighborDiscovery (port node : Nat) : exec (.neighborDiscovery port node) s = execNeighborDiscovery port node s := rfl
theorem exec_ptpSync (master : Nat) : exec (.ptpSync master) s = execPtpSync master s := rfl
theorem exec_ptpOffsetAlarm : exec (.ptpOffsetAlarm) s = execPtpOffsetAlarm s := rfl
theorem exec_holdoverRepeat : exec (.holdoverRepeat) s = execHoldoverRepeat s := rfl
theorem exec_reasmTimeout (conn msn : Nat) : exec (.reasmTimeout conn msn) s = execReasmTimeout conn msn s := rfl
theorem exec_rtoExpiry (conn msn : Nat) : exec (.rtoExpiry conn msn) s = execRtoExpiry conn msn s := rfl
theorem exec_memTimeout (dst : Nat) : exec (.memTimeout dst) s = execMemTimeout dst s := rfl
theorem exec_nakWaitTimer (src : Nat) : exec (.nakWaitTimer src) s = execNakWaitTimer src s := rfl
theorem exec_rateUpdate (conn : Nat) : exec (.rateUpdate conn) s = execRateUpdate conn s := rfl
theorem exec_shaperRefill : exec (.shaperRefill) s = execShaperRefill s := rfl
theorem exec_depthSample : exec (.depthSample) s = execDepthSample s := rfl
theorem exec_apertureRead (p tag addr len : Nat) : exec (.apertureRead p tag addr len) s = execApertureRead p tag addr len s := rfl
theorem exec_apertureWrite (p addr : Nat) (bs : Bytes) : exec (.apertureWrite p addr bs) s = execApertureWrite p addr bs s := rfl
theorem exec_apertureFetchAdd (p tag addr : Nat) (size64 : Bool) (v : Nat) : exec (.apertureFetchAdd p tag addr size64 v) s = execApertureFetchAdd p tag addr size64 v s := rfl
theorem exec_apertureCas (p tag addr : Nat) (size64 : Bool) (cmp v : Nat) : exec (.apertureCas p tag addr size64 cmp v) s = execApertureCas p tag addr size64 cmp v s := rfl
theorem exec_apertureUnsupported (p tag : Nat) : exec (.apertureUnsupported p tag) s = execApertureUnsupported p tag s := rfl
theorem exec_apertureTimeout (p tag : Nat) : exec (.apertureTimeout p tag) s = execApertureTimeout p tag s := rfl
theorem exec_linkUp (port : Nat) (four upper : Bool) : exec (.linkUp port four upper) s = execLinkUp port four upper s := rfl
theorem exec_laneLockLoss (port lane : Nat) : exec (.laneLockLoss port lane) s = execLaneLockLoss port lane s := rfl
theorem exec_fecWindow (port : Nat) (corr : List Nat) (unc : Nat) : exec (.fecWindow port corr unc) s = execFecWindow port corr unc s := rfl
theorem exec_mirEntry (m : MirRec) : exec (.mirEntry m) s = execMirEntry m s := rfl
theorem exec_mirTokens (m : MirRec) : exec (.mirTokens m) s = execMirTokens m s := rfl
theorem exec_mirAux (m : MirRec) : exec (.mirAux m) s = execMirAux m s := rfl
theorem exec_mirCaravan (m : MirRec) : exec (.mirCaravan m) s = execMirCaravan m s := rfl
theorem exec_mirPlist (m : MirRec) : exec (.mirPlist m) s = execMirPlist m s := rfl
theorem exec_mirPage (m : MirRec) : exec (.mirPage m) s = execMirPage m s := rfl
theorem exec_mirJournal (m : MirRec) : exec (.mirJournal m) s = execMirJournal m s := rfl
theorem exec_mirStep (m : MirRec) : exec (.mirStep m) s = execMirStep m s := rfl
theorem exec_mirCharge (m : MirRec) : exec (.mirCharge m) s = execMirCharge m s := rfl
theorem exec_heartbeat (m : MirRec) : exec (.heartbeat m) s = execHeartbeat m s := rfl
theorem exec_heartbeatTick : exec (.heartbeatTick) s = execHeartbeatTick s := rfl
theorem exec_pairFormTimeout : exec (.pairFormTimeout) s = execPairFormTimeout s := rfl
theorem exec_lossProbe (frm : Nat) : exec (.lossProbe frm) s = execLossProbe frm s := rfl
theorem exec_lossProbeAnswer (frm : Nat) : exec (.lossProbeAnswer frm) s = execLossProbeAnswer frm s := rfl
theorem exec_lossProbeTimeout : exec (.lossProbeTimeout) s = execLossProbeTimeout s := rfl
theorem exec_claim (frm other : Nat) : exec (.claim frm other) s = execClaim frm other s := rfl
theorem exec_grant (witness : Nat) (granted : Bool) : exec (.grant witness granted) s = execGrant witness granted s := rfl
theorem exec_claimTimeout : exec (.claimTimeout) s = execClaimTimeout s := rfl
theorem exec_grantHoldEnd (a b : Nat) : exec (.grantHoldEnd a b) s = execGrantHoldEnd a b s := rfl
theorem exec_ringRegionWrite (src : Src) (off : Nat) (bs : Bytes) : exec (.ringRegionWrite src off bs) s = execRingRegionWrite src off bs s := rfl
theorem exec_tsend (f : Frame) : exec (.tsend f) s = execTsend f s := rfl
theorem exec_rowProgrammed (stream : Nat) : exec (.rowProgrammed stream) s = execRowProgrammed stream s := rfl
theorem exec_bandErased (b : Nat) : exec (.bandErased b) s = execBandErased b s := rfl
theorem exec_idlePlacement (g : Nat) : exec (.idlePlacement g) s = execIdlePlacement g s := rfl
theorem exec_codecCommandDone (id : Nat) : exec (.codecCommandDone id) s = execCodecCommandDone id s := rfl
theorem exec_diagScrubDone : exec (.diagScrubDone) s = execDiagScrubDone s := rfl
theorem exec_imageVerifyDone (which : Nat) : exec (.imageVerifyDone which) s = execImageVerifyDone which s := rfl
theorem exec_arrayWake (a : Nat) : exec (.arrayWake a) s = execArrayWake a s := rfl
theorem exec_holdover : exec (.holdover) s = execHoldover s := rfl
theorem exec_ppsOut : exec (.ppsOut) s = execPpsOut s := rfl
theorem exec_mirrorTick : exec (.mirrorTick) s = execMirrorTick s := rfl
theorem exec_ordinaryPorts : exec (.ordinaryPorts) s = execOrdinaryPorts s := rfl
theorem exec_extest : exec (.extest) s = execExtest s := rfl
theorem exec_tapReset : exec (.tapReset) s = execTapReset s := rfl

end Sys2Proof.Machine
end

