-- ==== Sys2Proof/Laws/HostCmd.lean ====
section
/-! SUPPORT. A host command that is taken runs its meaning and answers (02 R50 to R52); `commit` and `settle` without a
partner. -/

namespace Sys2Proof.Machine

variable {op : Nat} {privs : List Priv} {r : Nat} {d : Dma} {s s1 s2 : State} {c : Cmd} {body : Meaning} {a : Ans}

theorem rej_ok {α : Type} {b : Bool} {st det : Nat} {k : Except Rej α} {x : α} (h : rej b st det s k = .ok x) :
    b = false ∧ k = .ok x := by
  unfold rej at h
  cases b <;> simp_all

/-- What `check` leaves of a command: its token is that of the slot. -/
theorem check_tok {R : Ring} {h : Nat} (hc : check privs r R h d s = .ok (c, s1)) : c.tok = mkTok r R h := by
  unfold check at hc
  simp only [bind, Except.bind] at hc
  repeat' split at hc
  all_goals cases hc
  all_goals simp_all

theorem hostCmd_taken (ht : taken op privs r d s = some (c, s1)) :
    hostCmd op privs r d body s = match body c s1 with
      | .error a => answer s1 c.tok a
      | .ok (a, s2) => answer s2 c.tok a := by
  unfold taken at ht
  unfold hostCmd
  split at ht
  · cases ht
  · rename_i R h s0 hb
    try simp only [hb]
    split at ht
    · cases ht
    · rename_i hk
      simp only [Bool.or_eq_true, not_or, bne_iff_ne, ne_eq, Bool.not_eq_true', Decidable.not_not,
        Bool.not_eq_false] at hk
      split at ht
      · rename_i x hx
        cases ht
        simp [hk.2, hx, check_tok hx] <;> rfl
      · cases ht

/-- A taken command whose meaning succeeds answers from the state that the meaning leaves. -/
theorem hostCmd_ok (ht : taken op privs r d s = some (c, s1)) (hb : body c s1 = .ok (a, s2)) :
    hostCmd op privs r d body s = answer s2 c.tok a := by
  rw [hostCmd_taken ht, hb]

/-- A taken command that its meaning turns away is answered from the state that the checks left. -/
theorem hostCmd_error (ht : taken op privs r d s = some (c, s1)) (hb : body c s1 = .error a) :
    hostCmd op privs r d body s = answer s1 c.tok a := by
  rw [hostCmd_taken ht, hb]

/-- A caravan message that is heard is handled. -/
theorem cvnIn_heard {msg : Nat} {m : CvnMsg} {handle : State → State} (h : cvnHeard s msg m) :
    cvnIn msg m s handle = handle s := by
  obtain ⟨h1, h2, h3, h4⟩ := h
  have h5 : ((s.cve.selfLost && m.epoch == epochNum s) || s.mru.st == .fenced) = false := by
    cases hs : s.cve.selfLost <;> simp_all
  simp [cvnIn, h5, h3, h4]

/-- A word that issues acts as its operation says. -/
theorem issue_of_issues {cls o : Nat} {fmts : List Nat} {f : Meaning64} {t : Thr} {x : Ctx} {th : Thread} {w : Word64}
    (h : issues cls o fmts t s x th w) : issue cls o fmts f t s = issuesTo cls t x s (f t x th w) := by
  obtain ⟨h1, h2, h3, h4, h5, h6, h7, h8, h9, h10, h11⟩ := h
  subst h8
  have a : ¬ opCount w.cls ≤ w.op := by omega
  have b : ¬ 5 ≤ w.pred := by omega
  subst h9
  simp only [issue, issued, issuesTo, h1, h2, h3, h4, h5, a, b, h10, h11]
  simp

/-- Checks that hold of every record hold of the records in order. -/
theorem checkEach_ok {α : Type} {f : Nat → α → Except Ans Unit} {l : List α} (h : ∀ i, ∀ x ∈ l, f i x = .ok ()) (i : Nat) :
    checkEach f i l = .ok () := by
  induction l generalizing i with
  | nil => rfl
  | cons x t ih =>
    simp only [checkEach, h i x (by simp)]
    exact ih (fun j y hy => h j y (by simp [hy])) (i + 1)

/-- A command answered later has no completion yet. -/
@[simp] theorem answer_later (s : State) (t : Tok) : answer s t laterAns = s := rfl

end Sys2Proof.Machine
end

