-- ==== Sys2Proof/Laws/Frame.lean ====
section
/-! SUPPORT. What a host command leaves unchanged besides its own effect: its checks, its answer and the end of its step (02 R34,
R36, R44 to R47, R50 to R52; 12 R347). -/

namespace Sys2Proof.Machine

variable {α : Type} {s s1 s2 : State}

/-- What no host command touches but by its own effect: the command unit, the bulletin rings, the mirror unit, what is sent, the
connections that a closing session ends, and the arbiters' pointers, grants and count of void ones are left out. -/
def pastCommand (s : State) : State :=
  { s with
    hcu := State.reset.hcu, att := State.reset.att, mru := State.reset.mru, mir := State.reset.mir, out := []
    fbe := { s.fbe with conns := [] }, tsu := { s.tsu with arbPtr := [], took := [], voidGrants := 0 } }

theorem pastCommand_of_reports {a b : State} (h : pastReports a = pastReports b) : pastCommand a = pastCommand b := by
  have e : ∀ s, pastCommand s = pastCommand (pastReports s) := fun _ => rfl
  rw [e a, e b, h]

theorem pastCommand_of_settle {a b : State} (h : pastSettle a = pastSettle b) : pastCommand a = pastCommand b := by
  have e : ∀ s, pastCommand s = pastCommand (pastSettle s).1 := fun _ => rfl
  rw [e a, e b, h]

@[simp] theorem settle_pastCommand : pastCommand (settle s s1) = pastCommand s1 := pastCommand_of_settle settle_pastSettle

theorem pastCommand_of_grants {a b : State} (h : pastGrants a = pastGrants b) : pastCommand a = pastCommand b := by
  have e : ∀ s, pastCommand s = pastCommand (pastGrants s) := fun _ => rfl
  rw [e a, e b, h]

@[simp] theorem voidFalls_pastCommand : pastCommand (voidFalls s s1) = pastCommand s1 := pastCommand_of_grants voidFalls_pastGrants

theorem commit_pastCommand (h : pastCommand s1 = pastCommand s) : pastCommand (commit s s1) = pastCommand s := by
  unfold commit
  split
  · rw [settle_pastCommand, voidFalls_pastCommand, h]
  · rfl

@[simp] theorem setRing_pastCommand (r : Nat) (R : Ring) : pastCommand (setRing s r R) = pastCommand s := rfl

@[simp] theorem reapRing_pastCommand (r : Nat) : pastCommand (reapRing s r) = pastCommand s :=
  pastCommand_of_reports (reapRing_pastReports r)

@[simp] theorem destroyRing_pastCommand (r : Nat) : pastCommand (destroyRing s r) = pastCommand s := by
  unfold destroyRing
  split
  · rfl
  · simp

@[simp] theorem closeRing_pastCommand (r : Nat) : pastCommand (closeRing s r) = pastCommand s := by
  unfold closeRing
  split
  · rfl
  · simp

@[simp] theorem stopWork_pastCommand (r : Nat) : pastCommand (stopWork s r) = pastCommand s := rfl

@[simp] theorem fetched_pastCommand (r : Nat) (R : Ring) (h : Nat) : pastCommand (fetched s r R h) = pastCommand s := rfl

@[simp] theorem stored_pastCommand (r h : Nat) (d : Dma) : pastCommand (stored r h d s) = pastCommand s := by
  unfold stored
  split
  · rfl
  · split <;> rfl

/-- Starting a command, or fetching one that waits, touches the command unit and the pointers alone. -/
theorem begins_keeps {r h : Nat} {R : Ring} (hb : begins s r = some (R, h, s1)) : pastCommand s1 = pastCommand s := by
  unfold begins at hb
  dsimp only at hb
  repeat' split at hb
  all_goals simp only [reduceCtorEq, Option.some.injEq, Prod.mk.injEq] at hb
  all_goals obtain ⟨-, -, rfl⟩ := hb
  all_goals first
    | (rw [released]; exact setRing_pastCommand ..)
    | rfl

@[simp] theorem holdBack_pastCommand (op r : Nat) : pastCommand (holdBack op r s) = pastCommand s := by
  unfold holdBack
  split
  · rfl
  · dsimp only
    split <;> rfl

@[simp] theorem markPended_pastCommand (t : Tok) : pastCommand (markPended s t) = pastCommand s := by
  unfold markPended
  split
  · rfl
  · split <;> rfl

@[simp] theorem reportCpl_pastCommand (c : Cpl) : pastCommand (reportCpl s c) = pastCommand s := by
  unfold reportCpl
  split
  · rfl
  · exact pastCommand_of_reports (deliverCpl_pastReports c)

@[simp] theorem complete_pastCommand (t : Tok) (st r0 det : Nat) (res : Bytes) (f : Bool) :
    pastCommand (complete s t st r0 det res f) = pastCommand s := by
  unfold complete
  rw [reportCpl_pastCommand]
  split <;> simp

@[simp] theorem closeWaiting_pastCommand (id : Nat) (kv : Nat × Ring) : pastCommand (closeWaiting id s kv) = pastCommand s := by
  unfold closeWaiting
  repeat' split
  all_goals first | rfl | simp [released]

@[simp] theorem closeSession_pastCommand (i : Nat) : pastCommand (closeSession s i) = pastCommand s := by
  unfold closeSession
  split
  · rfl
  · dsimp only
    rw [foldl_keeps (P := pastCommand) (fun a kv => by split <;> simp), foldl_keeps (P := pastCommand) (by simp)]
    rfl

@[simp] theorem tagFail_pastCommand (i : Nat) (x : Session) : pastCommand (tagFail s i x) = pastCommand s := by
  unfold tagFail
  split
  · simp
  · rfl

@[simp] theorem injectHit_pastCommand : pastCommand (injectHit s) = pastCommand s := by
  unfold injectHit
  split <;> rfl

@[simp] theorem answer_pastCommand (t : Tok) (a : Ans) : pastCommand (answer s t a) = pastCommand s := by
  unfold answer
  split
  · rfl
  · rw [complete_pastCommand]
    split <;> simp

@[simp] theorem discard_pastCommand (t : Tok) : pastCommand (discard s t) = pastCommand s := by
  unfold discard
  split
  · rfl
  · simp

@[simp] theorem finish_pastCommand (t : Tok) (st r0 det : Nat) (res : Bytes) :
    pastCommand (finish s t st r0 det res) = pastCommand s := by
  unfold finish
  split
  · rfl
  · split
    · rfl
    · split <;> simp

@[simp] theorem finishOpt_pastCommand (t : Option Tok) (st r0 det : Nat) (res : Bytes) :
    pastCommand (finishOpt s t st r0 det res) = pastCommand s := by
  cases t <;> simp [finishOpt]

theorem rej_error {b : Bool} {st det : Nat} {k : Except Rej α} {e : Rej} (h : rej b st det s k = .error e) :
    e = (st, det, s) ∨ k = .error e := by
  unfold rej at h
  split at h
  · cases h; exact .inl rfl
  · exact .inr h

theorem step1_error {r h : Nat} {R : Ring} {e : Rej} (he : step1 r h R s = .error e) : pastCommand e.2.2 = pastCommand s := by
  unfold step1 at he
  repeat' split at he
  all_goals cases he
  all_goals simp

theorem step2_error {r h : Nat} {e : Rej} (he : step2 r h s = .error e) : e.2.2 = s := by
  unfold step2 at he
  rcases rej_error he with rfl | he
  · rfl
  rcases rej_error he with rfl | he
  · rfl
  rcases rej_error he with rfl | he
  · rfl
  rcases rej_error he with rfl | he
  · rfl
  rcases rej_error he with rfl | he
  · rfl
  rcases rej_error he with rfl | he
  · rfl
  cases he

theorem step34_keeps {r h : Nat} {x : Option Session} {d : Dma} :
    (∀ e, step34 r h x d s = .error e → pastCommand e.2.2 = pastCommand s) ∧
    (∀ p, step34 r h x d s = .ok p → pastCommand p.2 = pastCommand s) := by
  unfold step34
  constructor <;> intro e he <;> dsimp only at he
  all_goals repeat' split at he
  all_goals cases he
  all_goals first | rfl | simp

theorem step6_error {h : Nat} {e : Rej} (he : step6 h s = .error e) : e.2.2 = s := by
  unfold step6 at he
  rcases rej_error he with rfl | he
  · rfl
  rcases rej_error he with rfl | he
  · rfl
  rcases rej_error he with rfl | he
  · rfl
  rcases rej_error he with rfl | he
  · rfl
  rcases rej_error he with rfl | he
  · rfl
  rcases rej_error he with rfl | he
  · rfl
  cases he

/-- The checks of a command, passed or not, touch nothing but the command unit. -/
theorem check_keeps {privs : List Priv} {r h : Nat} {R : Ring} {d : Dma} :
    (∀ e, check privs r R h d s = .error e → pastCommand e.2.2 = pastCommand s) ∧
    (∀ p, check privs r R h d s = .ok p → pastCommand p.2 = pastCommand s) := by
  unfold check
  simp only [bind, Except.bind]
  rcases h1 : step1 r h R s with e | x
  · exact ⟨fun e' he => by simp only at he; cases he; exact step1_error h1, fun p hp => by simp at hp⟩
  rcases h2 : step2 r h s with e | u
  · exact ⟨fun e' he => by simp only at he; cases he; rw [step2_error h2], fun p hp => by simp at hp⟩
  rcases h3 : step34 r h x d s with e | p
  · exact ⟨fun e' he => by simp only [h3] at he; cases he; exact step34_keeps.1 _ h3, fun p hp => by simp [h3] at hp⟩
  have k := step34_keeps.2 _ h3
  constructor
  · intro e he
    simp only [h3] at he
    repeat' split at he
    all_goals cases he
    all_goals rename_i hh
    all_goals first
      | (rcases rej_error hh with rfl | hh
         · exact k
         · cases hh)
      | (rw [step6_error hh]; exact k)
  · intro q hq
    simp only [h3] at hq
    repeat' split at hq
    all_goals cases hq
    all_goals exact k

/-- A host command keeps what its meaning keeps, for every view that does not look at what all commands touch. -/
theorem hostCmd_keeps {f : State → α} (hf : ∀ a b, pastCommand a = pastCommand b → f a = f b) {op : Nat} {privs : List Priv}
    {r : Nat} {d : Dma} {body : Meaning} (hb : ∀ c s a s2, body c s = .ok (a, s2) → f s2 = f s) :
    f (hostCmd op privs r d body s) = f s := by
  unfold hostCmd
  split
  · exact hf _ _ (holdBack_pastCommand ..)
  · rename_i R h s0 hb0
    have k0 : pastCommand (stored r h d s0) = pastCommand s := (stored_pastCommand ..).trans (begins_keeps hb0)
    split
    · rfl
    · split
      · rename_i h
        exact hf _ _ ((complete_pastCommand ..).trans ((check_keeps.1 _ h).trans k0))
      · rename_i c s1 h
        have k : f s1 = f s := hf _ _ ((check_keeps.2 _ h).trans k0)
        split
        · exact (hf _ _ (answer_pastCommand ..)).trans k
        · rename_i a s2 h2
          exact (hf _ _ (answer_pastCommand ..)).trans ((hb _ _ _ _ h2).trans k)

/-- So does its step. -/
theorem commit_keeps {f : State → α} (hf : ∀ a b, pastCommand a = pastCommand b → f a = f b) (h : f s1 = f s) :
    f (commit s s1) = f s := by
  unfold commit
  split
  · exact (hf _ _ (settle_pastCommand.trans voidFalls_pastCommand)).trans h
  · rfl

end Sys2Proof.Machine
end

