-- ==== Sys2Proof/Laws/State.lean ====
section
/-! SUPPORT. What each elementary update of the state leaves in each of its fields: one lemma per field per update, so that
no proof unfolds a record update. -/

namespace Sys2Proof.Machine

/-! ### `setArr` changes `cax` alone -/

section

variable (s : State) (a : Nat) (x : Arr)

@[simp] theorem setArr_clk : (setArr s a x).clk = s.clk := rfl
@[simp] theorem setArr_hcu : (setArr s a x).hcu = s.hcu := rfl
@[simp] theorem setArr_rte : (setArr s a x).rte = s.rte := rfl
@[simp] theorem setArr_cve : (setArr s a x).cve = s.cve := rfl
@[simp] theorem setArr_ppm : (setArr s a x).ppm = s.ppm := rfl
@[simp] theorem setArr_tfm : (setArr s a x).tfm = s.tfm := rfl
@[simp] theorem setArr_jnl : (setArr s a x).jnl = s.jnl := rfl
@[simp] theorem setArr_cdu : (setArr s a x).cdu = s.cdu := rfl
@[simp] theorem setArr_cax : (setArr s a x).cax = { s.cax with arrays := Tbl.set s.cax.arrays a x } := rfl
@[simp] theorem setArr_att : (setArr s a x).att = s.att := rfl
@[simp] theorem setArr_fbe : (setArr s a x).fbe = s.fbe := rfl
@[simp] theorem setArr_tsu : (setArr s a x).tsu = s.tsu := rfl
@[simp] theorem setArr_mru : (setArr s a x).mru = s.mru := rfl
@[simp] theorem setArr_mir : (setArr s a x).mir = s.mir := rfl
@[simp] theorem setArr_plu : (setArr s a x).plu = s.plu := rfl
@[simp] theorem setArr_plc : (setArr s a x).plc = s.plc := rfl
@[simp] theorem setArr_pin : (setArr s a x).pin = s.pin := rfl
@[simp] theorem setArr_sbu : (setArr s a x).sbu = s.sbu := rfl
@[simp] theorem setArr_sec : (setArr s a x).sec = s.sec := rfl
@[simp] theorem setArr_reg : (setArr s a x).reg = s.reg := rfl
@[simp] theorem setArr_draws : (setArr s a x).draws = s.draws := rfl
@[simp] theorem setArr_out : (setArr s a x).out = s.out := rfl
@[simp] theorem setArr_pending : (setArr s a x).pending = s.pending := rfl

end

/-! ### `setCtx` changes `cax` alone -/

section

variable (s : State) (id : Nat) (x : Ctx)

@[simp] theorem setCtx_clk : (setCtx s id x).clk = s.clk := rfl
@[simp] theorem setCtx_hcu : (setCtx s id x).hcu = s.hcu := rfl
@[simp] theorem setCtx_rte : (setCtx s id x).rte = s.rte := rfl
@[simp] theorem setCtx_cve : (setCtx s id x).cve = s.cve := rfl
@[simp] theorem setCtx_ppm : (setCtx s id x).ppm = s.ppm := rfl
@[simp] theorem setCtx_tfm : (setCtx s id x).tfm = s.tfm := rfl
@[simp] theorem setCtx_jnl : (setCtx s id x).jnl = s.jnl := rfl
@[simp] theorem setCtx_cdu : (setCtx s id x).cdu = s.cdu := rfl
@[simp] theorem setCtx_cax : (setCtx s id x).cax = { s.cax with ctxs := Tbl.set s.cax.ctxs id x } := rfl
@[simp] theorem setCtx_att : (setCtx s id x).att = s.att := rfl
@[simp] theorem setCtx_fbe : (setCtx s id x).fbe = s.fbe := rfl
@[simp] theorem setCtx_tsu : (setCtx s id x).tsu = s.tsu := rfl
@[simp] theorem setCtx_mru : (setCtx s id x).mru = s.mru := rfl
@[simp] theorem setCtx_mir : (setCtx s id x).mir = s.mir := rfl
@[simp] theorem setCtx_plu : (setCtx s id x).plu = s.plu := rfl
@[simp] theorem setCtx_plc : (setCtx s id x).plc = s.plc := rfl
@[simp] theorem setCtx_pin : (setCtx s id x).pin = s.pin := rfl
@[simp] theorem setCtx_sbu : (setCtx s id x).sbu = s.sbu := rfl
@[simp] theorem setCtx_sec : (setCtx s id x).sec = s.sec := rfl
@[simp] theorem setCtx_reg : (setCtx s id x).reg = s.reg := rfl
@[simp] theorem setCtx_draws : (setCtx s id x).draws = s.draws := rfl
@[simp] theorem setCtx_out : (setCtx s id x).out = s.out := rfl
@[simp] theorem setCtx_pending : (setCtx s id x).pending = s.pending := rfl

end

/-! ### `setThr` changes `cax` alone -/

section

variable (s : State) (t : Thr) (x : Thread)

@[simp] theorem setThr_clk : (setThr s t x).clk = s.clk := rfl
@[simp] theorem setThr_hcu : (setThr s t x).hcu = s.hcu := rfl
@[simp] theorem setThr_rte : (setThr s t x).rte = s.rte := rfl
@[simp] theorem setThr_cve : (setThr s t x).cve = s.cve := rfl
@[simp] theorem setThr_ppm : (setThr s t x).ppm = s.ppm := rfl
@[simp] theorem setThr_tfm : (setThr s t x).tfm = s.tfm := rfl
@[simp] theorem setThr_jnl : (setThr s t x).jnl = s.jnl := rfl
@[simp] theorem setThr_cdu : (setThr s t x).cdu = s.cdu := rfl
@[simp] theorem setThr_cax : (setThr s t x).cax = { s.cax with threads := Tbl.set s.cax.threads (thrKey t) x } := rfl
@[simp] theorem setThr_att : (setThr s t x).att = s.att := rfl
@[simp] theorem setThr_fbe : (setThr s t x).fbe = s.fbe := rfl
@[simp] theorem setThr_tsu : (setThr s t x).tsu = s.tsu := rfl
@[simp] theorem setThr_mru : (setThr s t x).mru = s.mru := rfl
@[simp] theorem setThr_mir : (setThr s t x).mir = s.mir := rfl
@[simp] theorem setThr_plu : (setThr s t x).plu = s.plu := rfl
@[simp] theorem setThr_plc : (setThr s t x).plc = s.plc := rfl
@[simp] theorem setThr_pin : (setThr s t x).pin = s.pin := rfl
@[simp] theorem setThr_sbu : (setThr s t x).sbu = s.sbu := rfl
@[simp] theorem setThr_sec : (setThr s t x).sec = s.sec := rfl
@[simp] theorem setThr_reg : (setThr s t x).reg = s.reg := rfl
@[simp] theorem setThr_draws : (setThr s t x).draws = s.draws := rfl
@[simp] theorem setThr_out : (setThr s t x).out = s.out := rfl
@[simp] theorem setThr_pending : (setThr s t x).pending = s.pending := rfl

end

/-! ### `setRec` changes `cve` alone -/

section

variable (s : State) (k : Nat) (r : Caravan)

@[simp] theorem setRec_clk : (setRec s k r).clk = s.clk := rfl
@[simp] theorem setRec_hcu : (setRec s k r).hcu = s.hcu := rfl
@[simp] theorem setRec_rte : (setRec s k r).rte = s.rte := rfl
@[simp] theorem setRec_cve : (setRec s k r).cve = { s.cve with recs := Tbl.set s.cve.recs k r } := rfl
@[simp] theorem setRec_ppm : (setRec s k r).ppm = s.ppm := rfl
@[simp] theorem setRec_tfm : (setRec s k r).tfm = s.tfm := rfl
@[simp] theorem setRec_jnl : (setRec s k r).jnl = s.jnl := rfl
@[simp] theorem setRec_cdu : (setRec s k r).cdu = s.cdu := rfl
@[simp] theorem setRec_cax : (setRec s k r).cax = s.cax := rfl
@[simp] theorem setRec_att : (setRec s k r).att = s.att := rfl
@[simp] theorem setRec_fbe : (setRec s k r).fbe = s.fbe := rfl
@[simp] theorem setRec_tsu : (setRec s k r).tsu = s.tsu := rfl
@[simp] theorem setRec_mru : (setRec s k r).mru = s.mru := rfl
@[simp] theorem setRec_mir : (setRec s k r).mir = s.mir := rfl
@[simp] theorem setRec_plu : (setRec s k r).plu = s.plu := rfl
@[simp] theorem setRec_plc : (setRec s k r).plc = s.plc := rfl
@[simp] theorem setRec_pin : (setRec s k r).pin = s.pin := rfl
@[simp] theorem setRec_sbu : (setRec s k r).sbu = s.sbu := rfl
@[simp] theorem setRec_sec : (setRec s k r).sec = s.sec := rfl
@[simp] theorem setRec_reg : (setRec s k r).reg = s.reg := rfl
@[simp] theorem setRec_draws : (setRec s k r).draws = s.draws := rfl
@[simp] theorem setRec_out : (setRec s k r).out = s.out := rfl
@[simp] theorem setRec_pending : (setRec s k r).pending = s.pending := rfl

end

/-! ### `setConn` changes `fbe` alone -/

section

variable (s : State) (i : Nat) (c : Conn)

@[simp] theorem setConn_clk : (setConn s i c).clk = s.clk := rfl
@[simp] theorem setConn_hcu : (setConn s i c).hcu = s.hcu := rfl
@[simp] theorem setConn_rte : (setConn s i c).rte = s.rte := rfl
@[simp] theorem setConn_cve : (setConn s i c).cve = s.cve := rfl
@[simp] theorem setConn_ppm : (setConn s i c).ppm = s.ppm := rfl
@[simp] theorem setConn_tfm : (setConn s i c).tfm = s.tfm := rfl
@[simp] theorem setConn_jnl : (setConn s i c).jnl = s.jnl := rfl
@[simp] theorem setConn_cdu : (setConn s i c).cdu = s.cdu := rfl
@[simp] theorem setConn_cax : (setConn s i c).cax = s.cax := rfl
@[simp] theorem setConn_att : (setConn s i c).att = s.att := rfl
@[simp] theorem setConn_fbe : (setConn s i c).fbe = { s.fbe with conns := Tbl.set s.fbe.conns i c } := rfl
@[simp] theorem setConn_tsu : (setConn s i c).tsu = s.tsu := rfl
@[simp] theorem setConn_mru : (setConn s i c).mru = s.mru := rfl
@[simp] theorem setConn_mir : (setConn s i c).mir = s.mir := rfl
@[simp] theorem setConn_plu : (setConn s i c).plu = s.plu := rfl
@[simp] theorem setConn_plc : (setConn s i c).plc = s.plc := rfl
@[simp] theorem setConn_pin : (setConn s i c).pin = s.pin := rfl
@[simp] theorem setConn_sbu : (setConn s i c).sbu = s.sbu := rfl
@[simp] theorem setConn_sec : (setConn s i c).sec = s.sec := rfl
@[simp] theorem setConn_reg : (setConn s i c).reg = s.reg := rfl
@[simp] theorem setConn_draws : (setConn s i c).draws = s.draws := rfl
@[simp] theorem setConn_out : (setConn s i c).out = s.out := rfl
@[simp] theorem setConn_pending : (setConn s i c).pending = s.pending := rfl

end

/-! ### `updConn` changes `fbe` alone -/

section

variable (s : State) (i : Nat) (f : Conn → Conn)

@[simp] theorem updConn_clk : (updConn s i f).clk = s.clk := rfl
@[simp] theorem updConn_hcu : (updConn s i f).hcu = s.hcu := rfl
@[simp] theorem updConn_rte : (updConn s i f).rte = s.rte := rfl
@[simp] theorem updConn_cve : (updConn s i f).cve = s.cve := rfl
@[simp] theorem updConn_ppm : (updConn s i f).ppm = s.ppm := rfl
@[simp] theorem updConn_tfm : (updConn s i f).tfm = s.tfm := rfl
@[simp] theorem updConn_jnl : (updConn s i f).jnl = s.jnl := rfl
@[simp] theorem updConn_cdu : (updConn s i f).cdu = s.cdu := rfl
@[simp] theorem updConn_cax : (updConn s i f).cax = s.cax := rfl
@[simp] theorem updConn_att : (updConn s i f).att = s.att := rfl
@[simp] theorem updConn_fbe : (updConn s i f).fbe = { s.fbe with conns := Tbl.upd s.fbe.conns i f } := rfl
@[simp] theorem updConn_tsu : (updConn s i f).tsu = s.tsu := rfl
@[simp] theorem updConn_mru : (updConn s i f).mru = s.mru := rfl
@[simp] theorem updConn_mir : (updConn s i f).mir = s.mir := rfl
@[simp] theorem updConn_plu : (updConn s i f).plu = s.plu := rfl
@[simp] theorem updConn_plc : (updConn s i f).plc = s.plc := rfl
@[simp] theorem updConn_pin : (updConn s i f).pin = s.pin := rfl
@[simp] theorem updConn_sbu : (updConn s i f).sbu = s.sbu := rfl
@[simp] theorem updConn_sec : (updConn s i f).sec = s.sec := rfl
@[simp] theorem updConn_reg : (updConn s i f).reg = s.reg := rfl
@[simp] theorem updConn_draws : (updConn s i f).draws = s.draws := rfl
@[simp] theorem updConn_out : (updConn s i f).out = s.out := rfl
@[simp] theorem updConn_pending : (updConn s i f).pending = s.pending := rfl

end

/-! ### `setSeqOut` changes `fbe` alone -/

section

variable (s : State) (d : Nat) (q : SeqOut)

@[simp] theorem setSeqOut_clk : (setSeqOut s d q).clk = s.clk := rfl
@[simp] theorem setSeqOut_hcu : (setSeqOut s d q).hcu = s.hcu := rfl
@[simp] theorem setSeqOut_rte : (setSeqOut s d q).rte = s.rte := rfl
@[simp] theorem setSeqOut_cve : (setSeqOut s d q).cve = s.cve := rfl
@[simp] theorem setSeqOut_ppm : (setSeqOut s d q).ppm = s.ppm := rfl
@[simp] theorem setSeqOut_tfm : (setSeqOut s d q).tfm = s.tfm := rfl
@[simp] theorem setSeqOut_jnl : (setSeqOut s d q).jnl = s.jnl := rfl
@[simp] theorem setSeqOut_cdu : (setSeqOut s d q).cdu = s.cdu := rfl
@[simp] theorem setSeqOut_cax : (setSeqOut s d q).cax = s.cax := rfl
@[simp] theorem setSeqOut_att : (setSeqOut s d q).att = s.att := rfl
@[simp] theorem setSeqOut_fbe : (setSeqOut s d q).fbe = { s.fbe with seqOut := Tbl.set s.fbe.seqOut d q } := rfl
@[simp] theorem setSeqOut_tsu : (setSeqOut s d q).tsu = s.tsu := rfl
@[simp] theorem setSeqOut_mru : (setSeqOut s d q).mru = s.mru := rfl
@[simp] theorem setSeqOut_mir : (setSeqOut s d q).mir = s.mir := rfl
@[simp] theorem setSeqOut_plu : (setSeqOut s d q).plu = s.plu := rfl
@[simp] theorem setSeqOut_plc : (setSeqOut s d q).plc = s.plc := rfl
@[simp] theorem setSeqOut_pin : (setSeqOut s d q).pin = s.pin := rfl
@[simp] theorem setSeqOut_sbu : (setSeqOut s d q).sbu = s.sbu := rfl
@[simp] theorem setSeqOut_sec : (setSeqOut s d q).sec = s.sec := rfl
@[simp] theorem setSeqOut_reg : (setSeqOut s d q).reg = s.reg := rfl
@[simp] theorem setSeqOut_draws : (setSeqOut s d q).draws = s.draws := rfl
@[simp] theorem setSeqOut_out : (setSeqOut s d q).out = s.out := rfl
@[simp] theorem setSeqOut_pending : (setSeqOut s d q).pending = s.pending := rfl

end

/-! ### `setBand` changes `tfm` alone -/

section

variable (s : State) (b : Nat) (x : Band)

@[simp] theorem setBand_clk : (setBand s b x).clk = s.clk := rfl
@[simp] theorem setBand_hcu : (setBand s b x).hcu = s.hcu := rfl
@[simp] theorem setBand_rte : (setBand s b x).rte = s.rte := rfl
@[simp] theorem setBand_cve : (setBand s b x).cve = s.cve := rfl
@[simp] theorem setBand_ppm : (setBand s b x).ppm = s.ppm := rfl
@[simp] theorem setBand_tfm : (setBand s b x).tfm = { s.tfm with bands := Tbl.set s.tfm.bands b x } := rfl
@[simp] theorem setBand_jnl : (setBand s b x).jnl = s.jnl := rfl
@[simp] theorem setBand_cdu : (setBand s b x).cdu = s.cdu := rfl
@[simp] theorem setBand_cax : (setBand s b x).cax = s.cax := rfl
@[simp] theorem setBand_att : (setBand s b x).att = s.att := rfl
@[simp] theorem setBand_fbe : (setBand s b x).fbe = s.fbe := rfl
@[simp] theorem setBand_tsu : (setBand s b x).tsu = s.tsu := rfl
@[simp] theorem setBand_mru : (setBand s b x).mru = s.mru := rfl
@[simp] theorem setBand_mir : (setBand s b x).mir = s.mir := rfl
@[simp] theorem setBand_plu : (setBand s b x).plu = s.plu := rfl
@[simp] theorem setBand_plc : (setBand s b x).plc = s.plc := rfl
@[simp] theorem setBand_pin : (setBand s b x).pin = s.pin := rfl
@[simp] theorem setBand_sbu : (setBand s b x).sbu = s.sbu := rfl
@[simp] theorem setBand_sec : (setBand s b x).sec = s.sec := rfl
@[simp] theorem setBand_reg : (setBand s b x).reg = s.reg := rfl
@[simp] theorem setBand_draws : (setBand s b x).draws = s.draws := rfl
@[simp] theorem setBand_out : (setBand s b x).out = s.out := rfl
@[simp] theorem setBand_pending : (setBand s b x).pending = s.pending := rfl

end

/-! ### `setBlock` changes `tfm` alone -/

section

variable (s : State) (i : Nat) (x : Block)

@[simp] theorem setBlock_clk : (setBlock s i x).clk = s.clk := rfl
@[simp] theorem setBlock_hcu : (setBlock s i x).hcu = s.hcu := rfl
@[simp] theorem setBlock_rte : (setBlock s i x).rte = s.rte := rfl
@[simp] theorem setBlock_cve : (setBlock s i x).cve = s.cve := rfl
@[simp] theorem setBlock_ppm : (setBlock s i x).ppm = s.ppm := rfl
@[simp] theorem setBlock_tfm : (setBlock s i x).tfm = { s.tfm with blocks := Tbl.set s.tfm.blocks i x } := rfl
@[simp] theorem setBlock_jnl : (setBlock s i x).jnl = s.jnl := rfl
@[simp] theorem setBlock_cdu : (setBlock s i x).cdu = s.cdu := rfl
@[simp] theorem setBlock_cax : (setBlock s i x).cax = s.cax := rfl
@[simp] theorem setBlock_att : (setBlock s i x).att = s.att := rfl
@[simp] theorem setBlock_fbe : (setBlock s i x).fbe = s.fbe := rfl
@[simp] theorem setBlock_tsu : (setBlock s i x).tsu = s.tsu := rfl
@[simp] theorem setBlock_mru : (setBlock s i x).mru = s.mru := rfl
@[simp] theorem setBlock_mir : (setBlock s i x).mir = s.mir := rfl
@[simp] theorem setBlock_plu : (setBlock s i x).plu = s.plu := rfl
@[simp] theorem setBlock_plc : (setBlock s i x).plc = s.plc := rfl
@[simp] theorem setBlock_pin : (setBlock s i x).pin = s.pin := rfl
@[simp] theorem setBlock_sbu : (setBlock s i x).sbu = s.sbu := rfl
@[simp] theorem setBlock_sec : (setBlock s i x).sec = s.sec := rfl
@[simp] theorem setBlock_reg : (setBlock s i x).reg = s.reg := rfl
@[simp] theorem setBlock_draws : (setBlock s i x).draws = s.draws := rfl
@[simp] theorem setBlock_out : (setBlock s i x).out = s.out := rfl
@[simp] theorem setBlock_pending : (setBlock s i x).pending = s.pending := rfl

end

/-! ### `setDie` changes `tfm` alone -/

section

variable (s : State) (d : Nat) (x : Die)

@[simp] theorem setDie_clk : (setDie s d x).clk = s.clk := rfl
@[simp] theorem setDie_hcu : (setDie s d x).hcu = s.hcu := rfl
@[simp] theorem setDie_rte : (setDie s d x).rte = s.rte := rfl
@[simp] theorem setDie_cve : (setDie s d x).cve = s.cve := rfl
@[simp] theorem setDie_ppm : (setDie s d x).ppm = s.ppm := rfl
@[simp] theorem setDie_tfm : (setDie s d x).tfm = { s.tfm with dies := Tbl.set s.tfm.dies d x } := rfl
@[simp] theorem setDie_jnl : (setDie s d x).jnl = s.jnl := rfl
@[simp] theorem setDie_cdu : (setDie s d x).cdu = s.cdu := rfl
@[simp] theorem setDie_cax : (setDie s d x).cax = s.cax := rfl
@[simp] theorem setDie_att : (setDie s d x).att = s.att := rfl
@[simp] theorem setDie_fbe : (setDie s d x).fbe = s.fbe := rfl
@[simp] theorem setDie_tsu : (setDie s d x).tsu = s.tsu := rfl
@[simp] theorem setDie_mru : (setDie s d x).mru = s.mru := rfl
@[simp] theorem setDie_mir : (setDie s d x).mir = s.mir := rfl
@[simp] theorem setDie_plu : (setDie s d x).plu = s.plu := rfl
@[simp] theorem setDie_plc : (setDie s d x).plc = s.plc := rfl
@[simp] theorem setDie_pin : (setDie s d x).pin = s.pin := rfl
@[simp] theorem setDie_sbu : (setDie s d x).sbu = s.sbu := rfl
@[simp] theorem setDie_sec : (setDie s d x).sec = s.sec := rfl
@[simp] theorem setDie_reg : (setDie s d x).reg = s.reg := rfl
@[simp] theorem setDie_draws : (setDie s d x).draws = s.draws := rfl
@[simp] theorem setDie_out : (setDie s d x).out = s.out := rfl
@[simp] theorem setDie_pending : (setDie s d x).pending = s.pending := rfl

end

/-! ### `setMove` changes `tfm` alone -/

section

variable (s : State) (g : Nat) (m : Move)

@[simp] theorem setMove_clk : (setMove s g m).clk = s.clk := rfl
@[simp] theorem setMove_hcu : (setMove s g m).hcu = s.hcu := rfl
@[simp] theorem setMove_rte : (setMove s g m).rte = s.rte := rfl
@[simp] theorem setMove_cve : (setMove s g m).cve = s.cve := rfl
@[simp] theorem setMove_ppm : (setMove s g m).ppm = s.ppm := rfl
@[simp] theorem setMove_tfm : (setMove s g m).tfm = { s.tfm with moves := Tbl.set s.tfm.moves g m } := rfl
@[simp] theorem setMove_jnl : (setMove s g m).jnl = s.jnl := rfl
@[simp] theorem setMove_cdu : (setMove s g m).cdu = s.cdu := rfl
@[simp] theorem setMove_cax : (setMove s g m).cax = s.cax := rfl
@[simp] theorem setMove_att : (setMove s g m).att = s.att := rfl
@[simp] theorem setMove_fbe : (setMove s g m).fbe = s.fbe := rfl
@[simp] theorem setMove_tsu : (setMove s g m).tsu = s.tsu := rfl
@[simp] theorem setMove_mru : (setMove s g m).mru = s.mru := rfl
@[simp] theorem setMove_mir : (setMove s g m).mir = s.mir := rfl
@[simp] theorem setMove_plu : (setMove s g m).plu = s.plu := rfl
@[simp] theorem setMove_plc : (setMove s g m).plc = s.plc := rfl
@[simp] theorem setMove_pin : (setMove s g m).pin = s.pin := rfl
@[simp] theorem setMove_sbu : (setMove s g m).sbu = s.sbu := rfl
@[simp] theorem setMove_sec : (setMove s g m).sec = s.sec := rfl
@[simp] theorem setMove_reg : (setMove s g m).reg = s.reg := rfl
@[simp] theorem setMove_draws : (setMove s g m).draws = s.draws := rfl
@[simp] theorem setMove_out : (setMove s g m).out = s.out := rfl
@[simp] theorem setMove_pending : (setMove s g m).pending = s.pending := rfl

end

/-! ### `setPark` changes `tfm` alone -/

section

variable (s : State) (gid : Nat) (p : ParkJob)

@[simp] theorem setPark_clk : (setPark s gid p).clk = s.clk := rfl
@[simp] theorem setPark_hcu : (setPark s gid p).hcu = s.hcu := rfl
@[simp] theorem setPark_rte : (setPark s gid p).rte = s.rte := rfl
@[simp] theorem setPark_cve : (setPark s gid p).cve = s.cve := rfl
@[simp] theorem setPark_ppm : (setPark s gid p).ppm = s.ppm := rfl
@[simp] theorem setPark_tfm : (setPark s gid p).tfm = { s.tfm with parks := Tbl.set s.tfm.parks gid p } := rfl
@[simp] theorem setPark_jnl : (setPark s gid p).jnl = s.jnl := rfl
@[simp] theorem setPark_cdu : (setPark s gid p).cdu = s.cdu := rfl
@[simp] theorem setPark_cax : (setPark s gid p).cax = s.cax := rfl
@[simp] theorem setPark_att : (setPark s gid p).att = s.att := rfl
@[simp] theorem setPark_fbe : (setPark s gid p).fbe = s.fbe := rfl
@[simp] theorem setPark_tsu : (setPark s gid p).tsu = s.tsu := rfl
@[simp] theorem setPark_mru : (setPark s gid p).mru = s.mru := rfl
@[simp] theorem setPark_mir : (setPark s gid p).mir = s.mir := rfl
@[simp] theorem setPark_plu : (setPark s gid p).plu = s.plu := rfl
@[simp] theorem setPark_plc : (setPark s gid p).plc = s.plc := rfl
@[simp] theorem setPark_pin : (setPark s gid p).pin = s.pin := rfl
@[simp] theorem setPark_sbu : (setPark s gid p).sbu = s.sbu := rfl
@[simp] theorem setPark_sec : (setPark s gid p).sec = s.sec := rfl
@[simp] theorem setPark_reg : (setPark s gid p).reg = s.reg := rfl
@[simp] theorem setPark_draws : (setPark s gid p).draws = s.draws := rfl
@[simp] theorem setPark_out : (setPark s gid p).out = s.out := rfl
@[simp] theorem setPark_pending : (setPark s gid p).pending = s.pending := rfl

end

/-! ### `setCSlot` changes `cdu` alone -/

section

variable (s : State) (k : Nat) (x : CSlot)

@[simp] theorem setCSlot_clk : (setCSlot s k x).clk = s.clk := rfl
@[simp] theorem setCSlot_hcu : (setCSlot s k x).hcu = s.hcu := rfl
@[simp] theorem setCSlot_rte : (setCSlot s k x).rte = s.rte := rfl
@[simp] theorem setCSlot_cve : (setCSlot s k x).cve = s.cve := rfl
@[simp] theorem setCSlot_ppm : (setCSlot s k x).ppm = s.ppm := rfl
@[simp] theorem setCSlot_tfm : (setCSlot s k x).tfm = s.tfm := rfl
@[simp] theorem setCSlot_jnl : (setCSlot s k x).jnl = s.jnl := rfl
@[simp] theorem setCSlot_cdu : (setCSlot s k x).cdu = { s.cdu with slots := Tbl.set s.cdu.slots k x } := rfl
@[simp] theorem setCSlot_cax : (setCSlot s k x).cax = s.cax := rfl
@[simp] theorem setCSlot_att : (setCSlot s k x).att = s.att := rfl
@[simp] theorem setCSlot_fbe : (setCSlot s k x).fbe = s.fbe := rfl
@[simp] theorem setCSlot_tsu : (setCSlot s k x).tsu = s.tsu := rfl
@[simp] theorem setCSlot_mru : (setCSlot s k x).mru = s.mru := rfl
@[simp] theorem setCSlot_mir : (setCSlot s k x).mir = s.mir := rfl
@[simp] theorem setCSlot_plu : (setCSlot s k x).plu = s.plu := rfl
@[simp] theorem setCSlot_plc : (setCSlot s k x).plc = s.plc := rfl
@[simp] theorem setCSlot_pin : (setCSlot s k x).pin = s.pin := rfl
@[simp] theorem setCSlot_sbu : (setCSlot s k x).sbu = s.sbu := rfl
@[simp] theorem setCSlot_sec : (setCSlot s k x).sec = s.sec := rfl
@[simp] theorem setCSlot_reg : (setCSlot s k x).reg = s.reg := rfl
@[simp] theorem setCSlot_draws : (setCSlot s k x).draws = s.draws := rfl
@[simp] theorem setCSlot_out : (setCSlot s k x).out = s.out := rfl
@[simp] theorem setCSlot_pending : (setCSlot s k x).pending = s.pending := rfl

end

/-! ### `setShadow` changes `mir` alone -/

section

variable (s : State) (h : Shadow)

@[simp] theorem setShadow_clk : (setShadow s h).clk = s.clk := rfl
@[simp] theorem setShadow_hcu : (setShadow s h).hcu = s.hcu := rfl
@[simp] theorem setShadow_rte : (setShadow s h).rte = s.rte := rfl
@[simp] theorem setShadow_cve : (setShadow s h).cve = s.cve := rfl
@[simp] theorem setShadow_ppm : (setShadow s h).ppm = s.ppm := rfl
@[simp] theorem setShadow_tfm : (setShadow s h).tfm = s.tfm := rfl
@[simp] theorem setShadow_jnl : (setShadow s h).jnl = s.jnl := rfl
@[simp] theorem setShadow_cdu : (setShadow s h).cdu = s.cdu := rfl
@[simp] theorem setShadow_cax : (setShadow s h).cax = s.cax := rfl
@[simp] theorem setShadow_att : (setShadow s h).att = s.att := rfl
@[simp] theorem setShadow_fbe : (setShadow s h).fbe = s.fbe := rfl
@[simp] theorem setShadow_tsu : (setShadow s h).tsu = s.tsu := rfl
@[simp] theorem setShadow_mru : (setShadow s h).mru = s.mru := rfl
@[simp] theorem setShadow_mir : (setShadow s h).mir = { s.mir with shadow := h } := rfl
@[simp] theorem setShadow_plu : (setShadow s h).plu = s.plu := rfl
@[simp] theorem setShadow_plc : (setShadow s h).plc = s.plc := rfl
@[simp] theorem setShadow_pin : (setShadow s h).pin = s.pin := rfl
@[simp] theorem setShadow_sbu : (setShadow s h).sbu = s.sbu := rfl
@[simp] theorem setShadow_sec : (setShadow s h).sec = s.sec := rfl
@[simp] theorem setShadow_reg : (setShadow s h).reg = s.reg := rfl
@[simp] theorem setShadow_draws : (setShadow s h).draws = s.draws := rfl
@[simp] theorem setShadow_out : (setShadow s h).out = s.out := rfl
@[simp] theorem setShadow_pending : (setShadow s h).pending = s.pending := rfl

end

/-! ### `emit` changes `out` alone -/

section

variable (s : State) (x : Sent)

@[simp] theorem emit_clk : (emit s x).clk = s.clk := rfl
@[simp] theorem emit_hcu : (emit s x).hcu = s.hcu := rfl
@[simp] theorem emit_rte : (emit s x).rte = s.rte := rfl
@[simp] theorem emit_cve : (emit s x).cve = s.cve := rfl
@[simp] theorem emit_ppm : (emit s x).ppm = s.ppm := rfl
@[simp] theorem emit_tfm : (emit s x).tfm = s.tfm := rfl
@[simp] theorem emit_jnl : (emit s x).jnl = s.jnl := rfl
@[simp] theorem emit_cdu : (emit s x).cdu = s.cdu := rfl
@[simp] theorem emit_cax : (emit s x).cax = s.cax := rfl
@[simp] theorem emit_att : (emit s x).att = s.att := rfl
@[simp] theorem emit_fbe : (emit s x).fbe = s.fbe := rfl
@[simp] theorem emit_tsu : (emit s x).tsu = s.tsu := rfl
@[simp] theorem emit_mru : (emit s x).mru = s.mru := rfl
@[simp] theorem emit_mir : (emit s x).mir = s.mir := rfl
@[simp] theorem emit_plu : (emit s x).plu = s.plu := rfl
@[simp] theorem emit_plc : (emit s x).plc = s.plc := rfl
@[simp] theorem emit_pin : (emit s x).pin = s.pin := rfl
@[simp] theorem emit_sbu : (emit s x).sbu = s.sbu := rfl
@[simp] theorem emit_sec : (emit s x).sec = s.sec := rfl
@[simp] theorem emit_reg : (emit s x).reg = s.reg := rfl
@[simp] theorem emit_draws : (emit s x).draws = s.draws := rfl
@[simp] theorem emit_out : (emit s x).out = s.out ++ [x] := rfl
@[simp] theorem emit_pending : (emit s x).pending = s.pending := rfl

end

/-! ### `setRing` changes `hcu` alone -/

section

variable (s : State) (r : Nat) (R : Ring)

@[simp] theorem setRing_clk : (setRing s r R).clk = s.clk := rfl
@[simp] theorem setRing_hcu : (setRing s r R).hcu = { s.hcu with rings := Tbl.set s.hcu.rings r R } := rfl
@[simp] theorem setRing_rte : (setRing s r R).rte = s.rte := rfl
@[simp] theorem setRing_cve : (setRing s r R).cve = s.cve := rfl
@[simp] theorem setRing_ppm : (setRing s r R).ppm = s.ppm := rfl
@[simp] theorem setRing_tfm : (setRing s r R).tfm = s.tfm := rfl
@[simp] theorem setRing_jnl : (setRing s r R).jnl = s.jnl := rfl
@[simp] theorem setRing_cdu : (setRing s r R).cdu = s.cdu := rfl
@[simp] theorem setRing_cax : (setRing s r R).cax = s.cax := rfl
@[simp] theorem setRing_att : (setRing s r R).att = s.att := rfl
@[simp] theorem setRing_fbe : (setRing s r R).fbe = s.fbe := rfl
@[simp] theorem setRing_tsu : (setRing s r R).tsu = s.tsu := rfl
@[simp] theorem setRing_mru : (setRing s r R).mru = s.mru := rfl
@[simp] theorem setRing_mir : (setRing s r R).mir = s.mir := rfl
@[simp] theorem setRing_plu : (setRing s r R).plu = s.plu := rfl
@[simp] theorem setRing_plc : (setRing s r R).plc = s.plc := rfl
@[simp] theorem setRing_pin : (setRing s r R).pin = s.pin := rfl
@[simp] theorem setRing_sbu : (setRing s r R).sbu = s.sbu := rfl
@[simp] theorem setRing_sec : (setRing s r R).sec = s.sec := rfl
@[simp] theorem setRing_reg : (setRing s r R).reg = s.reg := rfl
@[simp] theorem setRing_draws : (setRing s r R).draws = s.draws := rfl
@[simp] theorem setRing_out : (setRing s r R).out = s.out := rfl
@[simp] theorem setRing_pending : (setRing s r R).pending = s.pending := rfl

end

/-! ### `setPage` changes `ppm` alone -/

section

variable (s : State) (id : Nat) (p : Page)

@[simp] theorem setPage_clk : (setPage s id p).clk = s.clk := rfl
@[simp] theorem setPage_hcu : (setPage s id p).hcu = s.hcu := rfl
@[simp] theorem setPage_rte : (setPage s id p).rte = s.rte := rfl
@[simp] theorem setPage_cve : (setPage s id p).cve = s.cve := rfl
@[simp] theorem setPage_ppm : (setPage s id p).ppm = { s.ppm with pages := Tbl.set s.ppm.pages id p } := rfl
@[simp] theorem setPage_tfm : (setPage s id p).tfm = s.tfm := rfl
@[simp] theorem setPage_jnl : (setPage s id p).jnl = s.jnl := rfl
@[simp] theorem setPage_cdu : (setPage s id p).cdu = s.cdu := rfl
@[simp] theorem setPage_cax : (setPage s id p).cax = s.cax := rfl
@[simp] theorem setPage_att : (setPage s id p).att = s.att := rfl
@[simp] theorem setPage_fbe : (setPage s id p).fbe = s.fbe := rfl
@[simp] theorem setPage_tsu : (setPage s id p).tsu = s.tsu := rfl
@[simp] theorem setPage_mru : (setPage s id p).mru = s.mru := rfl
@[simp] theorem setPage_mir : (setPage s id p).mir = s.mir := rfl
@[simp] theorem setPage_plu : (setPage s id p).plu = s.plu := rfl
@[simp] theorem setPage_plc : (setPage s id p).plc = s.plc := rfl
@[simp] theorem setPage_pin : (setPage s id p).pin = s.pin := rfl
@[simp] theorem setPage_sbu : (setPage s id p).sbu = s.sbu := rfl
@[simp] theorem setPage_sec : (setPage s id p).sec = s.sec := rfl
@[simp] theorem setPage_reg : (setPage s id p).reg = s.reg := rfl
@[simp] theorem setPage_draws : (setPage s id p).draws = s.draws := rfl
@[simp] theorem setPage_out : (setPage s id p).out = s.out := rfl
@[simp] theorem setPage_pending : (setPage s id p).pending = s.pending := rfl

end

/-! ### `setSlot` changes `rte` alone -/

section

variable (s : State) (n : Nat) (x : Slot)

@[simp] theorem setSlot_clk : (setSlot s n x).clk = s.clk := rfl
@[simp] theorem setSlot_hcu : (setSlot s n x).hcu = s.hcu := rfl
@[simp] theorem setSlot_rte : (setSlot s n x).rte = { s.rte with slots := Tbl.set s.rte.slots n x } := rfl
@[simp] theorem setSlot_cve : (setSlot s n x).cve = s.cve := rfl
@[simp] theorem setSlot_ppm : (setSlot s n x).ppm = s.ppm := rfl
@[simp] theorem setSlot_tfm : (setSlot s n x).tfm = s.tfm := rfl
@[simp] theorem setSlot_jnl : (setSlot s n x).jnl = s.jnl := rfl
@[simp] theorem setSlot_cdu : (setSlot s n x).cdu = s.cdu := rfl
@[simp] theorem setSlot_cax : (setSlot s n x).cax = s.cax := rfl
@[simp] theorem setSlot_att : (setSlot s n x).att = s.att := rfl
@[simp] theorem setSlot_fbe : (setSlot s n x).fbe = s.fbe := rfl
@[simp] theorem setSlot_tsu : (setSlot s n x).tsu = s.tsu := rfl
@[simp] theorem setSlot_mru : (setSlot s n x).mru = s.mru := rfl
@[simp] theorem setSlot_mir : (setSlot s n x).mir = s.mir := rfl
@[simp] theorem setSlot_plu : (setSlot s n x).plu = s.plu := rfl
@[simp] theorem setSlot_plc : (setSlot s n x).plc = s.plc := rfl
@[simp] theorem setSlot_pin : (setSlot s n x).pin = s.pin := rfl
@[simp] theorem setSlot_sbu : (setSlot s n x).sbu = s.sbu := rfl
@[simp] theorem setSlot_sec : (setSlot s n x).sec = s.sec := rfl
@[simp] theorem setSlot_reg : (setSlot s n x).reg = s.reg := rfl
@[simp] theorem setSlot_draws : (setSlot s n x).draws = s.draws := rfl
@[simp] theorem setSlot_out : (setSlot s n x).out = s.out := rfl
@[simp] theorem setSlot_pending : (setSlot s n x).pending = s.pending := rfl

end

/-! ### `updEntry` changes `rte` alone -/

section

variable (s : State) (n : Nat) (f : Entry → Entry)

@[simp] theorem updEntry_clk : (updEntry s n f).clk = s.clk := rfl
@[simp] theorem updEntry_hcu : (updEntry s n f).hcu = s.hcu := rfl
@[simp] theorem updEntry_rte : (updEntry s n f).rte = { s.rte with slots := Tbl.upd s.rte.slots n fun x => { x with e := f x.e } } := rfl
@[simp] theorem updEntry_cve : (updEntry s n f).cve = s.cve := rfl
@[simp] theorem updEntry_ppm : (updEntry s n f).ppm = s.ppm := rfl
@[simp] theorem updEntry_tfm : (updEntry s n f).tfm = s.tfm := rfl
@[simp] theorem updEntry_jnl : (updEntry s n f).jnl = s.jnl := rfl
@[simp] theorem updEntry_cdu : (updEntry s n f).cdu = s.cdu := rfl
@[simp] theorem updEntry_cax : (updEntry s n f).cax = s.cax := rfl
@[simp] theorem updEntry_att : (updEntry s n f).att = s.att := rfl
@[simp] theorem updEntry_fbe : (updEntry s n f).fbe = s.fbe := rfl
@[simp] theorem updEntry_tsu : (updEntry s n f).tsu = s.tsu := rfl
@[simp] theorem updEntry_mru : (updEntry s n f).mru = s.mru := rfl
@[simp] theorem updEntry_mir : (updEntry s n f).mir = s.mir := rfl
@[simp] theorem updEntry_plu : (updEntry s n f).plu = s.plu := rfl
@[simp] theorem updEntry_plc : (updEntry s n f).plc = s.plc := rfl
@[simp] theorem updEntry_pin : (updEntry s n f).pin = s.pin := rfl
@[simp] theorem updEntry_sbu : (updEntry s n f).sbu = s.sbu := rfl
@[simp] theorem updEntry_sec : (updEntry s n f).sec = s.sec := rfl
@[simp] theorem updEntry_reg : (updEntry s n f).reg = s.reg := rfl
@[simp] theorem updEntry_draws : (updEntry s n f).draws = s.draws := rfl
@[simp] theorem updEntry_out : (updEntry s n f).out = s.out := rfl
@[simp] theorem updEntry_pending : (updEntry s n f).pending = s.pending := rfl

end

/-! ### `setResv` changes `rte` alone -/

section

variable (s : State) (gid : Nat) (r : Resv)

@[simp] theorem setResv_clk : (setResv s gid r).clk = s.clk := rfl
@[simp] theorem setResv_hcu : (setResv s gid r).hcu = s.hcu := rfl
@[simp] theorem setResv_rte : (setResv s gid r).rte = { s.rte with resv := Tbl.set s.rte.resv gid r } := rfl
@[simp] theorem setResv_cve : (setResv s gid r).cve = s.cve := rfl
@[simp] theorem setResv_ppm : (setResv s gid r).ppm = s.ppm := rfl
@[simp] theorem setResv_tfm : (setResv s gid r).tfm = s.tfm := rfl
@[simp] theorem setResv_jnl : (setResv s gid r).jnl = s.jnl := rfl
@[simp] theorem setResv_cdu : (setResv s gid r).cdu = s.cdu := rfl
@[simp] theorem setResv_cax : (setResv s gid r).cax = s.cax := rfl
@[simp] theorem setResv_att : (setResv s gid r).att = s.att := rfl
@[simp] theorem setResv_fbe : (setResv s gid r).fbe = s.fbe := rfl
@[simp] theorem setResv_tsu : (setResv s gid r).tsu = s.tsu := rfl
@[simp] theorem setResv_mru : (setResv s gid r).mru = s.mru := rfl
@[simp] theorem setResv_mir : (setResv s gid r).mir = s.mir := rfl
@[simp] theorem setResv_plu : (setResv s gid r).plu = s.plu := rfl
@[simp] theorem setResv_plc : (setResv s gid r).plc = s.plc := rfl
@[simp] theorem setResv_pin : (setResv s gid r).pin = s.pin := rfl
@[simp] theorem setResv_sbu : (setResv s gid r).sbu = s.sbu := rfl
@[simp] theorem setResv_sec : (setResv s gid r).sec = s.sec := rfl
@[simp] theorem setResv_reg : (setResv s gid r).reg = s.reg := rfl
@[simp] theorem setResv_draws : (setResv s gid r).draws = s.draws := rfl
@[simp] theorem setResv_out : (setResv s gid r).out = s.out := rfl
@[simp] theorem setResv_pending : (setResv s gid r).pending = s.pending := rfl

end

/-! ### `delResv` changes `rte` alone -/

section

variable (s : State) (gid : Nat)

@[simp] theorem delResv_clk : (delResv s gid).clk = s.clk := rfl
@[simp] theorem delResv_hcu : (delResv s gid).hcu = s.hcu := rfl
@[simp] theorem delResv_rte : (delResv s gid).rte = { s.rte with resv := Tbl.del s.rte.resv gid } := rfl
@[simp] theorem delResv_cve : (delResv s gid).cve = s.cve := rfl
@[simp] theorem delResv_ppm : (delResv s gid).ppm = s.ppm := rfl
@[simp] theorem delResv_tfm : (delResv s gid).tfm = s.tfm := rfl
@[simp] theorem delResv_jnl : (delResv s gid).jnl = s.jnl := rfl
@[simp] theorem delResv_cdu : (delResv s gid).cdu = s.cdu := rfl
@[simp] theorem delResv_cax : (delResv s gid).cax = s.cax := rfl
@[simp] theorem delResv_att : (delResv s gid).att = s.att := rfl
@[simp] theorem delResv_fbe : (delResv s gid).fbe = s.fbe := rfl
@[simp] theorem delResv_tsu : (delResv s gid).tsu = s.tsu := rfl
@[simp] theorem delResv_mru : (delResv s gid).mru = s.mru := rfl
@[simp] theorem delResv_mir : (delResv s gid).mir = s.mir := rfl
@[simp] theorem delResv_plu : (delResv s gid).plu = s.plu := rfl
@[simp] theorem delResv_plc : (delResv s gid).plc = s.plc := rfl
@[simp] theorem delResv_pin : (delResv s gid).pin = s.pin := rfl
@[simp] theorem delResv_sbu : (delResv s gid).sbu = s.sbu := rfl
@[simp] theorem delResv_sec : (delResv s gid).sec = s.sec := rfl
@[simp] theorem delResv_reg : (delResv s gid).reg = s.reg := rfl
@[simp] theorem delResv_draws : (delResv s gid).draws = s.draws := rfl
@[simp] theorem delResv_out : (delResv s gid).out = s.out := rfl
@[simp] theorem delResv_pending : (delResv s gid).pending = s.pending := rfl

end

/-! ### `setQueue` changes `tsu` alone -/

section

variable (s : State) (k : Nat) (x : Queue)

@[simp] theorem setQueue_clk : (setQueue s k x).clk = s.clk := rfl
@[simp] theorem setQueue_hcu : (setQueue s k x).hcu = s.hcu := rfl
@[simp] theorem setQueue_rte : (setQueue s k x).rte = s.rte := rfl
@[simp] theorem setQueue_cve : (setQueue s k x).cve = s.cve := rfl
@[simp] theorem setQueue_ppm : (setQueue s k x).ppm = s.ppm := rfl
@[simp] theorem setQueue_tfm : (setQueue s k x).tfm = s.tfm := rfl
@[simp] theorem setQueue_jnl : (setQueue s k x).jnl = s.jnl := rfl
@[simp] theorem setQueue_cdu : (setQueue s k x).cdu = s.cdu := rfl
@[simp] theorem setQueue_cax : (setQueue s k x).cax = s.cax := rfl
@[simp] theorem setQueue_att : (setQueue s k x).att = s.att := rfl
@[simp] theorem setQueue_fbe : (setQueue s k x).fbe = s.fbe := rfl
@[simp] theorem setQueue_tsu : (setQueue s k x).tsu = { s.tsu with queues := Tbl.set s.tsu.queues k x } := rfl
@[simp] theorem setQueue_mru : (setQueue s k x).mru = s.mru := rfl
@[simp] theorem setQueue_mir : (setQueue s k x).mir = s.mir := rfl
@[simp] theorem setQueue_plu : (setQueue s k x).plu = s.plu := rfl
@[simp] theorem setQueue_plc : (setQueue s k x).plc = s.plc := rfl
@[simp] theorem setQueue_pin : (setQueue s k x).pin = s.pin := rfl
@[simp] theorem setQueue_sbu : (setQueue s k x).sbu = s.sbu := rfl
@[simp] theorem setQueue_sec : (setQueue s k x).sec = s.sec := rfl
@[simp] theorem setQueue_reg : (setQueue s k x).reg = s.reg := rfl
@[simp] theorem setQueue_draws : (setQueue s k x).draws = s.draws := rfl
@[simp] theorem setQueue_out : (setQueue s k x).out = s.out := rfl
@[simp] theorem setQueue_pending : (setQueue s k x).pending = s.pending := rfl

end

/-! ### `setOutput` changes `tsu` alone -/

section

variable (s : State) (o : Nat) (x : Output)

@[simp] theorem setOutput_clk : (setOutput s o x).clk = s.clk := rfl
@[simp] theorem setOutput_hcu : (setOutput s o x).hcu = s.hcu := rfl
@[simp] theorem setOutput_rte : (setOutput s o x).rte = s.rte := rfl
@[simp] theorem setOutput_cve : (setOutput s o x).cve = s.cve := rfl
@[simp] theorem setOutput_ppm : (setOutput s o x).ppm = s.ppm := rfl
@[simp] theorem setOutput_tfm : (setOutput s o x).tfm = s.tfm := rfl
@[simp] theorem setOutput_jnl : (setOutput s o x).jnl = s.jnl := rfl
@[simp] theorem setOutput_cdu : (setOutput s o x).cdu = s.cdu := rfl
@[simp] theorem setOutput_cax : (setOutput s o x).cax = s.cax := rfl
@[simp] theorem setOutput_att : (setOutput s o x).att = s.att := rfl
@[simp] theorem setOutput_fbe : (setOutput s o x).fbe = s.fbe := rfl
@[simp] theorem setOutput_tsu : (setOutput s o x).tsu = { s.tsu with outputs := Tbl.set s.tsu.outputs o x } := rfl
@[simp] theorem setOutput_mru : (setOutput s o x).mru = s.mru := rfl
@[simp] theorem setOutput_mir : (setOutput s o x).mir = s.mir := rfl
@[simp] theorem setOutput_plu : (setOutput s o x).plu = s.plu := rfl
@[simp] theorem setOutput_plc : (setOutput s o x).plc = s.plc := rfl
@[simp] theorem setOutput_pin : (setOutput s o x).pin = s.pin := rfl
@[simp] theorem setOutput_sbu : (setOutput s o x).sbu = s.sbu := rfl
@[simp] theorem setOutput_sec : (setOutput s o x).sec = s.sec := rfl
@[simp] theorem setOutput_reg : (setOutput s o x).reg = s.reg := rfl
@[simp] theorem setOutput_draws : (setOutput s o x).draws = s.draws := rfl
@[simp] theorem setOutput_out : (setOutput s o x).out = s.out := rfl
@[simp] theorem setOutput_pending : (setOutput s o x).pending = s.pending := rfl

end

/-! ### `setEvq` changes `tsu` alone -/

section

variable (s : State) (k : Nat) (q : EvQueue)

@[simp] theorem setEvq_clk : (setEvq s k q).clk = s.clk := rfl
@[simp] theorem setEvq_hcu : (setEvq s k q).hcu = s.hcu := rfl
@[simp] theorem setEvq_rte : (setEvq s k q).rte = s.rte := rfl
@[simp] theorem setEvq_cve : (setEvq s k q).cve = s.cve := rfl
@[simp] theorem setEvq_ppm : (setEvq s k q).ppm = s.ppm := rfl
@[simp] theorem setEvq_tfm : (setEvq s k q).tfm = s.tfm := rfl
@[simp] theorem setEvq_jnl : (setEvq s k q).jnl = s.jnl := rfl
@[simp] theorem setEvq_cdu : (setEvq s k q).cdu = s.cdu := rfl
@[simp] theorem setEvq_cax : (setEvq s k q).cax = s.cax := rfl
@[simp] theorem setEvq_att : (setEvq s k q).att = s.att := rfl
@[simp] theorem setEvq_fbe : (setEvq s k q).fbe = s.fbe := rfl
@[simp] theorem setEvq_tsu : (setEvq s k q).tsu = { s.tsu with evq := Tbl.set s.tsu.evq k q } := rfl
@[simp] theorem setEvq_mru : (setEvq s k q).mru = s.mru := rfl
@[simp] theorem setEvq_mir : (setEvq s k q).mir = s.mir := rfl
@[simp] theorem setEvq_plu : (setEvq s k q).plu = s.plu := rfl
@[simp] theorem setEvq_plc : (setEvq s k q).plc = s.plc := rfl
@[simp] theorem setEvq_pin : (setEvq s k q).pin = s.pin := rfl
@[simp] theorem setEvq_sbu : (setEvq s k q).sbu = s.sbu := rfl
@[simp] theorem setEvq_sec : (setEvq s k q).sec = s.sec := rfl
@[simp] theorem setEvq_reg : (setEvq s k q).reg = s.reg := rfl
@[simp] theorem setEvq_draws : (setEvq s k q).draws = s.draws := rfl
@[simp] theorem setEvq_out : (setEvq s k q).out = s.out := rfl
@[simp] theorem setEvq_pending : (setEvq s k q).pending = s.pending := rfl

end

/-! ### `setOwn` changes `att` alone -/

section

variable (s : State) (tag : Nat) (o : OwnStep)

@[simp] theorem setOwn_clk : (setOwn s tag o).clk = s.clk := rfl
@[simp] theorem setOwn_hcu : (setOwn s tag o).hcu = s.hcu := rfl
@[simp] theorem setOwn_rte : (setOwn s tag o).rte = s.rte := rfl
@[simp] theorem setOwn_cve : (setOwn s tag o).cve = s.cve := rfl
@[simp] theorem setOwn_ppm : (setOwn s tag o).ppm = s.ppm := rfl
@[simp] theorem setOwn_tfm : (setOwn s tag o).tfm = s.tfm := rfl
@[simp] theorem setOwn_jnl : (setOwn s tag o).jnl = s.jnl := rfl
@[simp] theorem setOwn_cdu : (setOwn s tag o).cdu = s.cdu := rfl
@[simp] theorem setOwn_cax : (setOwn s tag o).cax = s.cax := rfl
@[simp] theorem setOwn_att : (setOwn s tag o).att = { s.att with owned := Tbl.set s.att.owned tag o } := rfl
@[simp] theorem setOwn_fbe : (setOwn s tag o).fbe = s.fbe := rfl
@[simp] theorem setOwn_tsu : (setOwn s tag o).tsu = s.tsu := rfl
@[simp] theorem setOwn_mru : (setOwn s tag o).mru = s.mru := rfl
@[simp] theorem setOwn_mir : (setOwn s tag o).mir = s.mir := rfl
@[simp] theorem setOwn_plu : (setOwn s tag o).plu = s.plu := rfl
@[simp] theorem setOwn_plc : (setOwn s tag o).plc = s.plc := rfl
@[simp] theorem setOwn_pin : (setOwn s tag o).pin = s.pin := rfl
@[simp] theorem setOwn_sbu : (setOwn s tag o).sbu = s.sbu := rfl
@[simp] theorem setOwn_sec : (setOwn s tag o).sec = s.sec := rfl
@[simp] theorem setOwn_reg : (setOwn s tag o).reg = s.reg := rfl
@[simp] theorem setOwn_draws : (setOwn s tag o).draws = s.draws := rfl
@[simp] theorem setOwn_out : (setOwn s tag o).out = s.out := rfl
@[simp] theorem setOwn_pending : (setOwn s tag o).pending = s.pending := rfl

end

/-! ### `delOwn` changes `att` alone -/

section

variable (s : State) (tag : Nat)

@[simp] theorem delOwn_clk : (delOwn s tag).clk = s.clk := rfl
@[simp] theorem delOwn_hcu : (delOwn s tag).hcu = s.hcu := rfl
@[simp] theorem delOwn_rte : (delOwn s tag).rte = s.rte := rfl
@[simp] theorem delOwn_cve : (delOwn s tag).cve = s.cve := rfl
@[simp] theorem delOwn_ppm : (delOwn s tag).ppm = s.ppm := rfl
@[simp] theorem delOwn_tfm : (delOwn s tag).tfm = s.tfm := rfl
@[simp] theorem delOwn_jnl : (delOwn s tag).jnl = s.jnl := rfl
@[simp] theorem delOwn_cdu : (delOwn s tag).cdu = s.cdu := rfl
@[simp] theorem delOwn_cax : (delOwn s tag).cax = s.cax := rfl
@[simp] theorem delOwn_att : (delOwn s tag).att = { s.att with owned := Tbl.del s.att.owned tag } := rfl
@[simp] theorem delOwn_fbe : (delOwn s tag).fbe = s.fbe := rfl
@[simp] theorem delOwn_tsu : (delOwn s tag).tsu = s.tsu := rfl
@[simp] theorem delOwn_mru : (delOwn s tag).mru = s.mru := rfl
@[simp] theorem delOwn_mir : (delOwn s tag).mir = s.mir := rfl
@[simp] theorem delOwn_plu : (delOwn s tag).plu = s.plu := rfl
@[simp] theorem delOwn_plc : (delOwn s tag).plc = s.plc := rfl
@[simp] theorem delOwn_pin : (delOwn s tag).pin = s.pin := rfl
@[simp] theorem delOwn_sbu : (delOwn s tag).sbu = s.sbu := rfl
@[simp] theorem delOwn_sec : (delOwn s tag).sec = s.sec := rfl
@[simp] theorem delOwn_reg : (delOwn s tag).reg = s.reg := rfl
@[simp] theorem delOwn_draws : (delOwn s tag).draws = s.draws := rfl
@[simp] theorem delOwn_out : (delOwn s tag).out = s.out := rfl
@[simp] theorem delOwn_pending : (delOwn s tag).pending = s.pending := rfl

end

/-! ### `setStep` changes `att` alone -/

section

variable (s : State) (tag : Nat) (st : Step)

@[simp] theorem setStep_clk : (setStep s tag st).clk = s.clk := rfl
@[simp] theorem setStep_hcu : (setStep s tag st).hcu = s.hcu := rfl
@[simp] theorem setStep_rte : (setStep s tag st).rte = s.rte := rfl
@[simp] theorem setStep_cve : (setStep s tag st).cve = s.cve := rfl
@[simp] theorem setStep_ppm : (setStep s tag st).ppm = s.ppm := rfl
@[simp] theorem setStep_tfm : (setStep s tag st).tfm = s.tfm := rfl
@[simp] theorem setStep_jnl : (setStep s tag st).jnl = s.jnl := rfl
@[simp] theorem setStep_cdu : (setStep s tag st).cdu = s.cdu := rfl
@[simp] theorem setStep_cax : (setStep s tag st).cax = s.cax := rfl
@[simp] theorem setStep_att : (setStep s tag st).att = { s.att with steps := Tbl.set s.att.steps tag st } := rfl
@[simp] theorem setStep_fbe : (setStep s tag st).fbe = s.fbe := rfl
@[simp] theorem setStep_tsu : (setStep s tag st).tsu = s.tsu := rfl
@[simp] theorem setStep_mru : (setStep s tag st).mru = s.mru := rfl
@[simp] theorem setStep_mir : (setStep s tag st).mir = s.mir := rfl
@[simp] theorem setStep_plu : (setStep s tag st).plu = s.plu := rfl
@[simp] theorem setStep_plc : (setStep s tag st).plc = s.plc := rfl
@[simp] theorem setStep_pin : (setStep s tag st).pin = s.pin := rfl
@[simp] theorem setStep_sbu : (setStep s tag st).sbu = s.sbu := rfl
@[simp] theorem setStep_sec : (setStep s tag st).sec = s.sec := rfl
@[simp] theorem setStep_reg : (setStep s tag st).reg = s.reg := rfl
@[simp] theorem setStep_draws : (setStep s tag st).draws = s.draws := rfl
@[simp] theorem setStep_out : (setStep s tag st).out = s.out := rfl
@[simp] theorem setStep_pending : (setStep s tag st).pending = s.pending := rfl

end

end Sys2Proof.Machine
end

