-- ==== Sys2Proof/Laws/Table.lean ====
section
/-! SUPPORT. Sparse tables and memories: what one operation leaves under every key, and that it keeps the canonical form. -/

namespace Sys2Proof

variable {α : Type} {t : Tbl α} {n k : Nat} {v : α} {f : α → α}

@[simp] theorem Tbl.get_set_same : Tbl.get (Tbl.set t n v) n = some v := by
  induction t with
  | nil => simp [Tbl.set, Tbl.get]
  | cons p t ih =>
    obtain ⟨a, w⟩ := p
    simp only [Tbl.set]
    split
    · simp [Tbl.get]
    · split
      · simp [Tbl.get]
      · rename_i h; simp [Tbl.get, Ne.symm h, ih]

theorem Tbl.get_set_ne (h : k ≠ n) : Tbl.get (Tbl.set t n v) k = Tbl.get t k := by
  induction t with
  | nil => simp [Tbl.set, Tbl.get, Ne.symm h]
  | cons p t ih =>
    obtain ⟨a, w⟩ := p
    simp only [Tbl.set]
    split
    · simp [Tbl.get, Ne.symm h]
    · split
      · rename_i e; subst e; simp [Tbl.get, Ne.symm h]
      · simp [Tbl.get, ih]

/-- The table's value under every key after one `set`. -/
theorem Tbl.get_set : Tbl.get (Tbl.set t n v) k = if k = n then some v else Tbl.get t k := by
  split
  · rename_i h; subst h; exact Tbl.get_set_same
  · exact Tbl.get_set_ne ‹_›

theorem Tbl.get_del_ne (h : k ≠ n) : Tbl.get (Tbl.del t n) k = Tbl.get t k := by
  induction t with
  | nil => rfl
  | cons p t ih =>
    obtain ⟨a, w⟩ := p
    simp only [Tbl.del]
    split
    · rename_i e; subst e; simp [Tbl.get, Ne.symm h]
    · simp [Tbl.get, ih]

/-- The table's value under every key after one `upd`. -/
theorem Tbl.get_upd : Tbl.get (Tbl.upd t n f) k = if k = n then (Tbl.get t k).map f else Tbl.get t k := by
  induction t with
  | nil => simp [Tbl.upd, Tbl.get]
  | cons p t ih =>
    obtain ⟨a, w⟩ := p
    simp only [Tbl.upd]
    by_cases e : a = n
    · subst e
      by_cases h : a = k
      · subst h; simp [Tbl.get]
      · simp [Tbl.get, h, Ne.symm h]
    · by_cases h : a = k
      · subst h; simp [Tbl.get, e]
      · simp [Tbl.get, e, h, ih]

namespace Machine

variable {m : List Host.Cell} {a : Nat} {b : Byte}

/-- All addresses of a canonical memory are above a bound that its first is above. -/
def aboveAll (a : Nat) (m : List Host.Cell) : Prop := ∀ c ∈ m, a < c.1

theorem memWf_cons {c : Host.Cell} {m : List Host.Cell} :
    memWf (c :: m) = true ↔ c.2 ≠ unlisted ∧ aboveAll c.1 m ∧ memWf m = true := by
  induction m generalizing c with
  | nil => simp [memWf, aboveAll]
  | cons d m ih =>
    constructor
    · intro h
      simp only [memWf, Bool.and_eq_true, bne_iff_ne, ne_eq, decide_eq_true_eq] at h
      obtain ⟨⟨h1, h2⟩, h3⟩ := h
      refine ⟨h1, ?_, h3⟩
      intro e he
      rcases List.mem_cons.mp he with rfl | he
      · exact h2
      · exact Nat.lt_trans h2 ((ih.mp h3).2.1 e he)
    · rintro ⟨h1, h2, h3⟩
      simp only [memWf, Bool.and_eq_true, bne_iff_ne, ne_eq, decide_eq_true_eq]
      exact ⟨⟨h1, h2 d (by simp)⟩, h3⟩

theorem mem_set {m : List Host.Cell} {c : Host.Cell} (h : c ∈ Tbl.set m a b) : c = (a, b) ∨ c ∈ m := by
  induction m with
  | nil => simpa [Tbl.set] using h
  | cons p t ih =>
    obtain ⟨k, w⟩ := p
    simp only [Tbl.set] at h
    split at h
    · simpa using h
    · split at h
      · rcases List.mem_cons.mp h with h | h
        · exact .inl h
        · exact .inr (by simp [h])
      · rcases List.mem_cons.mp h with h | h
        · exact .inr (by simp [h])
        · rcases ih h with h | h
          · exact .inl h
          · exact .inr (by simp [h])

theorem mem_del {m : List Host.Cell} {c : Host.Cell} (h : c ∈ Tbl.del m a) : c ∈ m := by
  induction m with
  | nil => exact h
  | cons p t ih =>
    obtain ⟨k, w⟩ := p
    simp only [Tbl.del] at h
    split at h
    · simp [h]
    · rcases List.mem_cons.mp h with h | h
      · simp [h]
      · simp [ih h]

theorem set_memWf (hb : b ≠ unlisted) (h : memWf m = true) : memWf (Tbl.set m a b) = true := by
  induction m with
  | nil => simp [Tbl.set, memWf, hb]
  | cons p t ih =>
    obtain ⟨k, w⟩ := p
    obtain ⟨h1, h2, h3⟩ := memWf_cons.mp h
    simp only [Tbl.set]
    split
    · rename_i hlt
      refine memWf_cons.mpr ⟨hb, ?_, h⟩
      intro c hc
      rcases List.mem_cons.mp hc with rfl | hc
      · exact hlt
      · exact Nat.lt_trans hlt (h2 c hc)
    · split
      · rename_i e
        subst e
        exact memWf_cons.mpr ⟨hb, h2, h3⟩
      · rename_i h4 h5
        refine memWf_cons.mpr ⟨h1, ?_, ih h3⟩
        intro c hc
        rcases mem_set hc with rfl | hc
        · simp only; omega
        · exact h2 c hc

theorem del_memWf (h : memWf m = true) : memWf (Tbl.del m a) = true := by
  induction m with
  | nil => rfl
  | cons p t ih =>
    obtain ⟨k, w⟩ := p
    obtain ⟨h1, h2, h3⟩ := memWf_cons.mp h
    simp only [Tbl.del]
    split
    · exact h3
    · exact memWf_cons.mpr ⟨h1, fun c hc => h2 c (mem_del hc), ih h3⟩

/-- A write keeps the canonical form. -/
theorem memWrite_memWf (h : memWf m = true) : memWf (memWrite m a b) = true := by
  unfold memWrite
  split
  · exact del_memWf h
  · exact set_memWf ‹_› h

/-- So does a write of several bytes. -/
theorem memWriteN_memWf {bs : Bytes} (h : memWf m = true) : memWf (memWriteN m a bs) = true := by
  induction bs generalizing m a with
  | nil => exact h
  | cons b bs ih => exact ih (memWrite_memWf h)

theorem filter_memWf {p : Host.Cell → Bool} (h : memWf m = true) : memWf (m.filter p) = true := by
  induction m with
  | nil => rfl
  | cons c t ih =>
    obtain ⟨h1, h2, h3⟩ := memWf_cons.mp h
    simp only [List.filter_cons]
    split
    · exact memWf_cons.mpr ⟨h1, fun d hd => h2 d (List.mem_filter.mp hd).1, ih h3⟩
    · exact ih h3

/-- So does clearing a range. -/
theorem memClear_memWf {n : Nat} (h : memWf m = true) : memWf (memClear m a n) = true := filter_memWf h

/-- So does pasting cells. -/
theorem memPaste_memWf {src : List Host.Cell} (h : memWf m = true) : memWf (memPaste m a src) = true := by
  induction src generalizing m with
  | nil => exact h
  | cons c cs ih => exact ih (memWrite_memWf h)

/-- So does combining cells. -/
theorem memXor_memWf {src : List Host.Cell} (h : memWf m = true) : memWf (memXor m a src) = true := by
  induction src generalizing m with
  | nil => exact h
  | cons c cs ih => exact ih (memWrite_memWf h)

/-- The cells of bytes lie where the bytes lie, and are canonical. -/
theorem cellsFrom_memWf {bs : Bytes} {a : Nat} :
    (∀ c ∈ cellsFrom a bs, a ≤ c.1 ∧ c.1 < a + bs.length) ∧ memWf (cellsFrom a bs) = true := by
  induction bs generalizing a with
  | nil => simp [cellsFrom, memWf]
  | cons b bs ih =>
    obtain ⟨h1, h2⟩ := @ih (a + 1)
    have k : ∀ c ∈ cellsFrom (a + 1) bs, a ≤ c.1 ∧ c.1 < a + (b :: bs).length := by
      intro c hc
      have := h1 c hc
      simp only [List.length_cons]
      omega
    simp only [cellsFrom]
    split
    · exact ⟨k, h2⟩
    · refine ⟨?_, memWf_cons.mpr ⟨‹_›, fun c hc => (h1 c hc).1, h2⟩⟩
      intro c hc
      rcases List.mem_cons.mp hc with rfl | hc
      · simp
      · exact k c hc

/-- Canonical memories one after the other are canonical where the first lies below the second. -/
theorem append_memWf {m n : List Host.Cell} (hm : memWf m = true) (hn : memWf n = true) (h : ∀ c ∈ m, ∀ d ∈ n, c.1 < d.1) :
    memWf (m ++ n) = true := by
  induction m with
  | nil => exact hn
  | cons c t ih =>
    obtain ⟨h1, h2, h3⟩ := memWf_cons.mp hm
    refine memWf_cons.mpr ⟨h1, ?_, ih h3 fun c hc => h c (by simp [hc])⟩
    intro d hd
    rcases List.mem_append.mp hd with hd | hd
    · exact h2 d hd
    · exact h c (by simp) d hd

/-- So does a write of bytes in one pass. -/
theorem memPut_memWf {bs : Bytes} (h : memWf m = true) : memWf (memPut m a bs) = true := by
  obtain ⟨h1, h2⟩ := @cellsFrom_memWf bs a
  refine append_memWf (append_memWf (filter_memWf h) h2 ?_) (filter_memWf h) ?_
  · intro c hc d hd
    have := of_decide_eq_true (List.mem_filter.mp hc).2
    have := (h1 d hd).1
    omega
  · intro c hc d hd
    have k := of_decide_eq_true (List.mem_filter.mp hd).2
    rcases List.mem_append.mp hc with hc | hc
    · have := of_decide_eq_true (List.mem_filter.mp hc).2
      omega
    · have := (h1 c hc).2
      omega

/-- So does a write at a position of a row, with its parity. -/
theorem putRow_memWf {b r j : Nat} {x : Band} {cells : List Host.Cell} (h : memWf m = true) :
    memWf (putRow m b x r j cells) = true := memXor_memWf (memPaste_memWf (memClear_memWf h))

end Machine

end Sys2Proof
end

