-- ==== Sys2Proof/Tests/Slice0.lean ====
section
/-! SUPPORT. Tests: ill-formed commands, the manual's worked examples, single steps, and for each obligation with hypotheses
the states and operands that meet them, clause by clause. -/

namespace Sys2Proof.Tests

open Machine

set_option maxRecDepth 8000
set_option linter.unusedVariables false
set_option Elab.async false

/-! ### Small states -/

/-- A controller at run, one second after reset, as node 1, whose firmware lives. -/
def up : State :=
  let s := State.reset
  { s with
    clk := { s.clk with now := 1000000000, synced := true }
    plu := { s.plu with phase := .run }
    rte := { s.rte with lapsed := false, beatAt := 1000000000 }
    sbu := { s.sbu with stage := 8, bootDone := true, set := { s.sbu.set with nodeId := 1 } } }

/-- A command header (02 R39). -/
def hdr (op sess seq payLen resLen target : Nat) : Nat :=
  op ||| 1 <<< 24 ||| sess <<< 32 ||| 7 <<< 48 ||| seq <<< 64 ||| payLen <<< 192 ||| resLen <<< 224 ||| target <<< 320

/-- The header stands in the head slot of ring `r`. -/
def onRing (r owner : Nat) (h : Nat) (s : State) : State :=
  { s with hcu := { s.hcu with
      ringMem := memWriteN s.hcu.ringMem 0 (leBytes 64 h)
      rings := Tbl.set s.hcu.rings r
        { internalRing 0 with owner := owner, port := if r < 256 then 0 else 4, base := 0, tail := 1 } } }

/-- A command of policy firmware, on internal ring 0. -/
def fw (op payLen resLen target : Nat) (s : State) : State := onRing 256 0xFFFF (hdr op 0 0 payLen resLen target) s

/-- A payload that is a number. -/
def pay (n v : Nat) : Dma := .data (leBytes n v)

def noCmd : Cmd := ⟨0, 0, 0, [], .tenant, 0, 0, ⟨0, 0, 0, 0, false, 0⟩⟩

/-- The command taken, and the state that its checks leave. -/
def cmd (op : Nat) (privs : List Priv) (r : Nat) (d : Dma) (s : State) : Cmd := ((taken op privs r d s).map (·.1)).getD noCmd
def rest (op : Nat) (privs : List Priv) (r : Nat) (d : Dma) (s : State) : State := ((taken op privs r d s).map (·.2)).getD s

theorem is_taken {op : Nat} {privs : List Priv} {r : Nat} {d : Dma} {s : State} (h : (taken op privs r d s).isSome = true) :
    taken op privs r d s = some (cmd op privs r d s, rest op privs r d s) := by
  unfold cmd rest
  cases ht : taken op privs r d s with
  | none => simp [ht] at h
  | some x => rfl

/-- A pair that is there, in its parts. -/
theorem is_pair {α β : Type} {o : Option (α × β)} (d : α × β) (h : o.isSome = true) : o = some ((o.getD d).1, (o.getD d).2) := by
  cases o with
  | none => simp at h
  | some x => rfl

theorem is_triple {α β γ : Type} {o : Option (α × β × γ)} (d : α × β × γ) (h : o.isSome = true) :
    o = some ((o.getD d).1, (o.getD d).2.1, (o.getD d).2.2) := by
  cases o with
  | none => simp at h
  | some x => rfl

/-- Session 0 as SESS_HELLO leaves it. -/
def challenged : Session :=
  ⟨0, false, 0, .maintenance, 0, List.replicate 16 0, List.replicate 32 0, 0, 1000000000, List.replicate 32 0, 0⟩

def withSession (isOpen : Bool) (s : State) : State :=
  { s with hcu := { s.hcu with sessions := [(0, { challenged with isOpen := isOpen })] } }

/-- A command of session 0 on the admin ring with its tag. -/
def signed (h : Nat) (pay : Bytes) (s : State) : State :=
  onRing 0 0xFFFF (h ||| tagOf (List.replicate 32 0) h pay <<< 384) s

def ring4 : Ring := { internalRing 0 with owner := 0, port := 0, base := 256, sqEntries := 16, cqEntries := 16 }

def withRing4 (s : State) : State := { s with hcu := { s.hcu with rings := Tbl.set s.hcu.rings 4 ring4 } }

/-- A request of tenant 0, slot 0, owned and homed here, with its list and reservation. -/
def ent : Entry := { noEntry with
  gid := 9, plistRoot := 0, tokRoot := noId, auxRoot := noId, resHbm := 1, resFlash := 1, kvPerTok := 64, promptLen := 16
  maxNew := 8, home := 1, state := .admitted, prevOwner := 0xFFFF }

def lst : PList := ⟨0, 9, 0, 1, 0, 0, 0, 64, 0, 0, 0, 1, 1, 0, 0, [], [0]⟩

def withSlot (x : Slot) (s : State) : State :=
  { s with
    rte := { s.rte with fresh := 1, slots := [(0, x)], resv := [(9, ⟨0, 0, 1, 1, false, false, false⟩)] }
    ppm := { s.ppm with lists := [(9, lst)] } }

def withReq (e : Entry) (s : State) : State := withSlot (newSlot e) s

/-- The same with every class open and a block of origin sequences marked. -/
def ready : State := { up with rte := { up.rte with
  classRows := [(0, ⟨true, 1000, 0⟩)], tenantRows := [(0, (0, 1000))], markEnd := 2097152, markAsked := 2097152 } }

def aTok : Tok := ⟨256, 7, 1, 0xFFFF, false, 0⟩

/-- An admission that waits for its remote home, node 2, since reset. -/
def waitOf (p : HomePhase) : HomeWait := ⟨0, { ent with gid := 8, home := 2, remoteHome := true }, aTok, 0, p, false⟩

def withWait (p : HomePhase) : State := { up with rte := { up.rte with homeWaits := [(8, waitOf p)] } }

theorem isOne {α : Type} {o : Option α} (d : α) (h : o.isSome = true) : o = some (o.getD d) := by
  cases o with
  | none => simp at h
  | some x => rfl

/-- Object granule 0 in HBM frame 0. -/
def backed (p : Place) (s : State) : State := { s with tfm := { s.tfm with map := [(0, ⟨p, false, 0, 0, 0, 0⟩)] } }

/-! Messages, frames and records of zeros. -/

def cvn0 : CvnMsg := ⟨0, 0, 0, 0, 0, 0, 0, 0, 0, 0, 0, 0, 0, 0, 0, 0, 0, 0, 0, 0, 0, 0, 0, 0, 0⟩
def resv0 : ResvMsg := ⟨0, 0, 0, 0, 0, 0, false, false, 0, 0, 0, false, 0, 0, 0⟩
def fwd0 : FwdMsg := ⟨0, 0, 0, 0, false, 0, 0, [], [], [], 0, 0, []⟩
def ans0 : FwdAns := ⟨0, 0, 0, 0, 0, [], 0, 0, 0, none⟩
def frame0 : Frame := ⟨0, false, false, false, 0, 0, 0, 0, 0, 0, 0, 0, 0, 0, false, false, false, false, 0, 0, 0, 0, 0, []⟩
def rec0 : MirRec := ⟨16, 0, 0, 0, 0, 0, 0, 0, []⟩

/-- The map of nodes 1 and 2 in force. -/
def mapped (s : State) : State := { s with cve := { s.cve with
  epochs := [⟨1, .current, 0, 2000, 0, [⟨1, 0xFFFF, 0, 3, 0, true, false⟩, ⟨2, 0xFFFF, 0, 3, 1, true, false⟩], [], none⟩] } }

/-- A caravan of request 9 from one node to another, and its message. -/
def cvn (st : CState) (src dst : Nat) : Caravan where
  gid := 9
  startTime := 0
  lastTime := 0
  cvnId := 1
  src := src
  dst := dst
  epoch := 1
  status := 0
  pageUnits := 0
  probes := 0
  cstate := st
  kind := 0
  slot := 0
  tok := none
  stamp := 0
  timeout := 500
  probedAt := 0
  home := 1
  tenant := 0
  prio := 0
  durable := false
  deadline := 0
  histTokens := 1
  auxBytes := 0
  codecFp := 0
  key := 0
  offerLife := 200
  probeUs := 100
  relUs := 1000
  unans := 0
  cslot := 0
  tags := []
  bounceUntil := none
  bounceAt := 0
  loss := none

def withCvn (v : Caravan) (s : State) : State :=
  { s with cve := { s.cve with recs := [(cvnKey v.src v.cvnId, v)] } }

/-- A node of the prefix index for sixteen tokens 0. -/
def pnode : PNode := ⟨nextKey (nsKey 1) (List.replicate 16 0), noNode, noIndex, 1, 0, 16, 0, 0, 0, List.replicate 16 0⟩

def withNode (s : State) : State :=
  { s with ppm := { s.ppm with nodes := [(0, pnode)], heads := [(bucketOf pnode.key, 0)] } }

/-- A QUANT table of sixteen levels with a layout (1 layer, 1 head of 64), and a LOSSLESS one, each the one generation of
slot 0. -/
def qGen : Gen :=
  ⟨0, 2 ||| 0x1FF <<< 386 ||| 1 <<< 410 ||| 1 <<< 415 ||| 1 <<< 423, (List.range 16).map fun i => BitVec.ofNat 8 (248 + i), 77, 1, 0⟩

def lGen : Gen := ⟨0, 1 ||| 1 <<< 381, [], 78, 1, 0⟩

def withGen (c : SlotCond) (g : Gen) (s : State) : State :=
  { s with cdu := { s.cdu with loadSeq := 1, slots := [(0, ⟨c, 0, [g], false, 0, 0⟩)] } }

/-- Object granules 0 and 1 in HBM, and a coded object of one block: its index at 0, the block at 4096. -/
def backed2 (s : State) : State :=
  { s with tfm := { s.tfm with map := [(0, ⟨.hbm, false, 0, 0, 0, 0⟩), (1, ⟨.hbm, false, 0, 0, 0, 1⟩)] } }

def withObject (total kind : Nat) (b : Bytes) (s : State) : State :=
  ((writeObject (backed2 s) 4096 0 total 0 0 kind [some b]).map (·.2)).getD s

/-- A block of the byte 5 as it is, and one of 32 elements 0. -/
def rawBlock : Bytes := blkBytes true 1 0 0 1 0 (crc32c [5]) [5]
def zeroBlock : Bytes := quantBlock 0 (qtab qGen) (encodeBlock (qtab qGen) (List.replicate 32 0) [0]).1 64

def rawObject : State := withObject 1 1 rawBlock (withGen .lossless lGen up)
def zeroObject : State := withObject 64 2 zeroBlock (withGen .quant qGen up)

/-- Request 9 with one token's record in its one page. -/
def kvList : PList := { lst with kvPerTok := 88, pages := [0], ctxLen := 1, blocks := [1] }

def withKv (s : State) : State :=
  let s1 := withReq { ent with kvPerTok := 88 } (withGen .quant qGen s)
  { s1 with
    ppm := { s1.ppm with lists := [(9, kvList)], pages := [(0, ⟨0, 1, 0, .live, false, false, 0, 0, false⟩)] }
    tfm := { s1.tfm with map := [(apGranule, ⟨.hbm, false, 0, 1, 0, 0⟩)] } }

/-- A kernel of one HALT, and a context of it on array 0. -/
def kern (code : Bytes) : Kernel := ⟨0, 0, code, [], 1, 1, 0, 1, [0], false⟩

def ctx (l : Option LaunchCmd) : Ctx := ⟨0, 0, 0, 1, 1, 1, 1, 1, 0, l, 1, true, 0, [], []⟩

def withKernel (s : State) : State := { s with cax := { s.cax with kernels := [(0, kern (leBytes 8 0))] } }
def withCtx (x : Ctx) (s : State) : State := { withKernel s with cax := { (withKernel s).cax with ctxs := [(0, x)] } }

def aLaunch : LaunchCmd := ⟨none, [], 0, false⟩

/-- Context 0 runs one thread on array 0, at the first word of a kernel of one word. -/
def thr : Thr := ⟨0, 0, 0⟩

def fresh : Thread := newThread 0 [] 0 1 0

def running (w : Nat) (th : Thread) (s : State) : State :=
  { s with cax := { s.cax with
      kernels := [(0, kern (leBytes 8 w))], ctxs := [(0, ctx (some aLaunch))], threads := [(thrKey thr, th)] } }

/-- The word of an operation of a class, with a format and IMM. -/
def word (cls op fmt imm : Nat) : Nat := imm ||| fmt <<< 32 ||| op <<< 54 ||| cls <<< 60

/-- A pass of one vector, its descriptor at 0 of the share. -/
def aPassDesc : Nat := 256 <<< 235 ||| 8192 <<< 214 ||| 16384 <<< 193 ||| 1 <<< 161

def pass0 : Pass := ⟨16384, [0], true, false, 1, 0⟩

/-- Step 1 of node `n`, with nothing in its table, and bulletin ring 0. -/
def withStep (n : Nat) (op : Opener) (s : State) : State :=
  { s with cax := { s.cax with builtins := true }, att := { s.att with
      steps := [(1, ⟨n, op, false, 0, some 0, 1, 0, 0, 0, [], false, []⟩)]
      owned := [(1, ⟨1, 0, false, true, 0, [], none, [], []⟩)]
      bias := [(0, ⟨0, 1, List.replicate 4096 0⟩)]
      bulletins := [(0, ⟨0, 16, 16, 0, 0, 0, 0, true, 0, []⟩)] } }

/-- A draft model's descriptor (09 R263), its parameters at 0x2000. -/
def draftDesc : Bytes :=
  ascii "TFDR" ++ leBytes 2 1 ++ leBytes 2 256 ++ leBytes 2 4 ++ leBytes 2 512 ++ leBytes 4 128 ++ leBytes 2 16 ++ leBytes 46 0

theorem is_ok3 {ε α β γ : Type} {e : Except ε (α × β × γ)} (d : α × β × γ) (h : e.toOption.isSome = true) :
    e = .ok ((e.toOption.getD d).1, (e.toOption.getD d).2.1, (e.toOption.getD d).2.2) := by
  cases e with
  | error x => simp [Except.toOption] at h
  | ok x => rfl

theorem is_ok {ε α : Type} {e : Except ε α} (d : α) (h : e.toOption.isSome = true) : e = .ok (e.toOption.getD d) := by
  cases e with
  | error x => simp [Except.toOption] at h
  | ok x => rfl

/-- A state in which a draft's descriptor stands at 128, request 0 is left out, and ring 0 takes its bulletin. -/
def withDraft : State :=
  { (devWrite (withReq ent (withGen .quant qGen (backed .hbm up))) 128 draftDesc).getD up with
    att := (withStep 2 .spec up).att, cax := (withStep 2 .spec up).cax }

/-- A search entry of space 1 whose row and copy agree. -/
def sent0 : SEntry := ⟨⟨5, 0, 0, 7, 1⟩, some ⟨5, 0, 0, 7, 1⟩, false⟩

def withSearch (e : SEntry) (s : State) : State := { s with tsu := { s.tsu with search := [(0, e)] } }

theorem leNat_zero (bs : Bytes) (h : ∀ b ∈ bs, b = 0) : leNat bs = 0 := by
  induction bs with
  | nil => rfl
  | cons b t ih => simp [leNat, h b (by simp), ih fun x hx => h x (by simp [hx])]

/-- BF16 values read from bytes that are all zero. -/
theorem zeros_hold (bs : Bytes) (n : Nat) (f : Nat → Nat) (h : (bs.all fun b => b == 0) = true) :
    ∀ i, ∀ v ∈ bf16sOf bs n, need (isFinite (ofBf16 v) || v == 0xFF80) St.fieldRange (f i) = .ok () := by
  intro i v hv
  obtain ⟨j, -, rfl⟩ := List.mem_map.mp hv
  have hz : subNat bs (2 * j) 2 = 0 := leNat_zero _ fun b hb => by
    have hb' := List.mem_of_mem_drop (List.mem_of_mem_take hb)
    simpa using List.all_eq_true.mp h b hb'
  rw [hz]
  have h0 : (isFinite (ofBf16 (BitVec.ofNat 16 0)) || BitVec.ofNat 16 0 == 0xFF80) = true := by decide
  rw [h0]; rfl

/-- Connection 0 to node 2, on work ring 5 with one descriptor, and the one global range, of node 2. -/
def aConn (memory : Bool) : Conn := newConn .opened memory 2 0 0 5 1000 64 1 4 0 4 none 0

def ring5 : Ring := { internalRing 0 with owner := 0xFFFF, port := 0, base := 0, tail := 1, work := true }

def withConn (c : Conn) (h : Nat) (s : State) : State :=
  { s with
    hcu := { s.hcu with ringMem := memWriteN s.hcu.ringMem 0 (leBytes 64 h), rings := [(5, ring5)] }
    fbe := { s.fbe with conns := [(0, c)], erg := [⟨0, 1048576, 2, 0, 3, 31, 7, 1⟩] } }

def withKey (s : State) : State := { s with fbe := { s.fbe with keyFresh := 1, keys := [(0, ⟨1, 0, 4096, 0, 3, 2, .no⟩)] } }

def withPort (p : PortSt) (s : State) : State := { s with fbe := { s.fbe with ports := [(0, { bootPort s with st := p })] } }

/-- Port 0 up, the map in force, connection 0 open to node 2 and key 1 over the first granule. -/
def wired (c : Conn) : State := withPort .up (withKey (withConn c 0 (mapped (backed .hbm up))))

/-- A transfer frame from node 2 to node 1, and a memory frame from domain 1 to domain 0. -/
def aFrame (op key : Nat) (last : Bool) (bs : Bytes) : Frame :=
  { blankFrame with op := op, key := key, dst := 1, src := 2, epoch := 1, last := last, len := bs.length, pay := bs }

def mFrame (op : Nat) (bs : Bytes) : Frame :=
  { blankFrame with mem := true, op := op, src := 1, epoch := 1, last := op == 7, len := bs.length, pay := bs }

/-- A message sent and not complete. -/
def aMsg (op len : Nat) : OutMsg := { workMsg up (aConn false) aTok 0 op len with tok := none, dueAt := 0 }

def sending (op len : Nat) : Conn := { aConn false with sent := [aMsg op len] }

/-- A message being received. -/
def inMsg : InMsg := ⟨Fo.twrite, 1, 0, false, [], 0, none, [], 0, false, false⟩

/-- Requests of domain 1 in turn, and one of this node toward domain 1. -/
def inTurn : SeqIn := ⟨0, true, [], [], 0⟩

def seqs (q : SeqIn) (o : SeqOut) : State :=
  let s := wired (aConn false)
  { s with fbe := { s.fbe with seqIn := [(1, q)], seqOut := [(1, o)], aper := [(aperKey 0 7, 0)] } }

/-- Ports 16 and 17 up toward node 2, which is of this node's role, and in use by the mirror unit. -/
def pairLines (s : State) : State :=
  let p : FPort := { bootPort s with st := .up, peerNode := 2 }
  { s with fbe := { s.fbe with ports := [(16, p), (17, p)] } }

def paired (st : PairSt) (s : State) : State :=
  let s1 := pairLines s
  { s1 with mru := { s1.mru with st := st, partner := 2, side := 2 }, mir := { s1.mir with portsMirror := true } }

/-- The map of the pair and of a third node. -/
def mappedPair (s : State) : State := { s with cve := { s.cve with
  epochs := [⟨1, .current, 0, 2000, 0,
    [⟨1, 2, 0, s.hcu.role, 0, true, false⟩, ⟨2, 1, 0, s.hcu.role, 1, true, false⟩, ⟨3, 0xFFFF, 0, 3, 2, true, false⟩], [], none⟩] } }

/-- A pair whose loss procedure stands at a stage since `t`. -/
def losing (st : LossStage) (t : Nat) (ws gs : List Nat) : State :=
  let s := paired .paired (mappedPair up)
  { s with mir := { s.mir with loss := some ⟨st, t, ws, gs⟩ } }

/-- A record of the mirror stream on port 16. -/
def mirRec (kind mseq : Nat) (bs : Bytes) : MirRec := ⟨16, 0, mseq, crc32c bs, 0, bs.length, 0, kind, bs⟩

def frozenQ (drained : Bool) : State := { up with tsu := { up.tsu with frozen := [(0x20, ⟨0, 1, some aTok, drained⟩)] } }

def phase (p : Phase) (s : State) : State := { s with plu := { s.plu with phase := p } }

/-- Band 560 in a state, listed first for collection. -/
def band (st : BandSt) (first : Bool) (s : State) : State :=
  setBand s 560 { newBand 560 with st := st, first := first, lastOff := 0 }

/-- Object granule 0 in flash, in row 0 of band 560. -/
def inFlash (s : State) : State :=
  { s with tfm := { s.tfm with map := [(0, ⟨.flash, false, 0, 0, 0, rowLoc 560 (newBand 560) 0 0⟩)] } }

def moving (k : MoveKind) (toFlash committed : Bool) (s : State) : State :=
  { s with tfm := { s.tfm with moves := [(0, ⟨k, toFlash, 0, true, 0, committed⟩)] } }

def reading (g : Nat) (s : State) : State := { s with tfm := { s.tfm with reads := [(0, ⟨g, .fabric 2, 0, false, 0, false, 1⟩)] } }

/-- A journal record of object granule 0. -/
def jrec : JRec := ⟨1, .map, 0, 1, ⟨.hbm, false, 0, 0, 0, 0⟩, 0⟩

/-- Image slot A in a state, booted or not. -/
def imaged (st : ImgSt) (s : State) : State := { s with sbu := { s.sbu with slotA := ⟨1, st, 0, 0⟩ } }

def imgJob (verify : Bool) (s : State) : State :=
  { s with sec := { s.sec with imgJobs := [⟨1, verify, 0, [5], false, aTok⟩] } }

def aKey (p : Priv) : KeySlot := ⟨List.replicate 32 0, p, 0, 0, none⟩

def keyJob (k : KeyChange) (s : State) : State := { s with sec := { s.sec with keyJobs := [(k, aTok)] } }

/-- A port that sees registers: a ring of port 0 and a bulletin ring. -/
def withRings (s : State) : State :=
  { s with
    hcu := { s.hcu with rings := [(4, ring4)] }
    att := { s.att with bulletins := [(0, ⟨0, 16, 16, 0, 0, 0, 3, true, 0, []⟩)] } }

/-- A NOP with FENCE of session 0, behind an earlier command of ring 4, fetched or not. -/
def fenced : Nat := hdr 0x0130 0 1 0 0 0 ||| 1 <<< 16

def behindFence (wait : Bool) : State :=
  let R := { ring4 with outstanding := [9], waiting := if wait then some fenced else none, tail := if wait then 0 else 1 }
  { up with hcu := { up.hcu with ringMem := memWriteN [] 16384 (leBytes 64 fenced), rings := [(4, R)] } }

def errOf {ε α : Type} (d : ε) (e : Except ε α) : ε :=
  match e with
  | .error x => x
  | .ok _ => d

theorem is_err {β α γ δ : Type} {e : Except (α × γ × δ) β} (d : α × γ × δ) (h : e.toOption.isSome = false) :
    e = .error ((errOf d e).1, (errOf d e).2.1, (errOf d e).2.2) := by
  cases e with
  | error x => rfl
  | ok x => simp [Except.toOption] at h

/-- A completion of ring 4. -/
def aCpl : Cpl := ⟨0, 0, 0, true, ⟨4, 7, 1, 0, false, 0⟩, 0, []⟩

theorem is_okPair {ε α β : Type} {e : Except ε (α × β)} (d : α × β) (h : e.toOption.isSome = true) :
    e = .ok ((e.toOption.getD d).1, (e.toOption.getD d).2) := by
  cases e with
  | error x => simp [Except.toOption] at h
  | ok x => rfl

/-- The public key of a private key of this test's, in verification slot 1 with every use. -/
def testKey : Bytes := beBytes 48 0x88ab6602a3791d26e4c8312949fc7856cbaf2bded82369035a8b40633cd9bbf3947a71416f38a36e00627d923fdfc613 ++
  beBytes 48 0x3981b3146d01f65668243e7bd9dbe79ebb269685cb4b30356f6a06d386275e4d514472475859edd1cb39e85a6a81bf8e

def withVerKey (s : State) : State := { s with sbu := { s.sbu with verKeys := [(0, ⟨[], 7⟩), (1, ⟨testKey, 7⟩)] } }

/-- A kernel image of one HALT, and a firmware image of 256 zero bytes, signed with it. -/
def kernelImage : Bytes :=
  leBytes 160 0x1000100010000000100010000000000000008000000014e4b4654 ++
    beBytes 48 0x7ae9e1db1160794c70c1ef071be5191f6c66240f4608fbe8a44ecd36c3ed5db97500f2e4d84e3fb45850fd6f4303302b ++
    beBytes 48 0x54347e286fa6c00573a0b0f7494d4472997b9d9db1a380b6f9aad2d1cdb679dc6588d28fc65fcb5d9e95cadc4a54a2f ++ leBytes 8 0

def firmwareImage : Bytes :=
  leBytes 160 0x1000001000000000157464654 ++
    beBytes 48 0x8568a35a879b0d506132993c6d911d3136a731409ab8c5d26fd7a01e81425281453a6c6adf4cd2f38c77a5042815ea48 ++
    beBytes 48 0x154f2cdf6e9046c831577f02e5a74372fd80cb35ab60abd08bafec1e1ff5d2fcd25c67c30a2d8e13d7d475b6b6ff6372 ++ leBytes 256 0

/-- A block of one byte, whatever frame the compressor makes of it: the byte as it is, or a frame no longer. -/
theorem one_byte_block (P : Bytes → Prop) (slot : Nat) (g : Gen) (b : Byte)
    (hraw : P (blkBytes true 1 0 0 1 0 (crc32c [b]) [b])) (hnone : P (blkBytes false 1 g.tag slot 1 g.tableId (crc32c [b]) []))
    (hframe : ∀ x : Byte, P (blkBytes false 1 g.tag slot 1 g.tableId (crc32c [b]) [x])) : P (losslessBlock slot g [b]) := by
  unfold losslessBlock
  generalize zstdFrame _ _ _ = f
  match f with
  | none => simpa using hraw
  | some [] => simpa using hnone
  | some [x] => simpa using hframe x
  | some (x :: y :: t) => simpa using hraw

/-- The coded object of one byte fits whatever the compressor does. -/
def compressPay : Dma := pay 40 (1024 <<< 256 ||| 4096 <<< 192 ||| 2048 <<< 128 ||| 1 <<< 88 ||| 65552 <<< 48)
def compressState : State := fw 0x0603 40 8 0 (backed2 (withGen .lossless lGen up))

theorem compress_fits (c : Cmd) (s1 : State) (hc : c = cmd 0x0603 [.operator, .tenant] 256 compressPay compressState)
    (hs : s1 = rest 0x0603 [.operator, .tenant] 256 compressPay compressState) :
    (writeObject (readAll s1 (c.fld 319 256) (c.fld 127 88)) (c.fld 255 192) (c.fld 191 128) (c.fld 127 88) 0 (c.fld 5 0) 1
      ((chunks 65536 (blocksOf (c.fld 127 88)) (devRead s1 (c.fld 319 256) (c.fld 127 88))).map
        fun b => some (losslessBlock (c.fld 5 0) lGen b))).isSome = true := by
  have h1 : chunks 65536 (blocksOf (c.fld 127 88)) (devRead s1 (c.fld 319 256) (c.fld 127 88)) = [[0]] := by
    subst hc hs; decide +kernel
  rw [h1]
  refine one_byte_block (fun x => (writeObject _ _ _ _ 0 _ 1 [some x]).isSome = true) _ _ 0 ?_ ?_ ?_
  · subst hc hs; decide +kernel
  · subst hc hs; decide +kernel
  · subst hc hs; decide +kernel

/-! ### Well-formedness: an ill-formed term for each check, which it refuses -/

/-- The terms from which the ill-formed ones differ in one place are well formed. -/
theorem wf_holds :
    ([.cvnMsgOffer cvn0, .reservationRequest resv0, .forward fwd0, .forwardAnswer ans0, .mwrite frame0, .mirEntry rec0,
      .nop 271 .error, .workWrite 255, .aAdd ⟨65535, 95, 127⟩, .drained 0x21F, .deadlineExpiry 131071, .imageVerifyDone 2,
      .sqTailWrite (.pcie 3) 271 0, .thermalTrip 255, .scrubPass 0 false false] : List Instr).all Instr.wf = true := by
  decide +kernel

/-- Each field of a caravan message. -/
theorem wf_refuses_caravans :
    ([.cvnMsgOffer { cvn0 with frm := 65536 }, .cvnMsgOffer { cvn0 with gid := 2 ^ 64 },
      .cvnMsgOffer { cvn0 with deadline := 2 ^ 64 }, .cvnMsgOffer { cvn0 with cvnId := 2 ^ 32 },
      .cvnMsgOffer { cvn0 with key := 2 ^ 32 }, .cvnMsgOffer { cvn0 with src := 65536 },
      .cvnMsgOffer { cvn0 with dst := 65536 }, .cvnMsgOffer { cvn0 with epoch := 2 ^ 16 },
      .cvnMsgOffer { cvn0 with home := 65536 }, .cvnMsgOffer { cvn0 with tenant := 65536 },
      .cvnMsgOffer { cvn0 with status := 2 ^ 16 }, .cvnMsgOffer { cvn0 with pageUnits := 2 ^ 24 },
      .cvnMsgOffer { cvn0 with histTokens := 2 ^ 21 }, .cvnMsgOffer { cvn0 with auxBytes := 2 ^ 21 },
      .cvnMsgOffer { cvn0 with rsvA := 2 ^ 30 }, .cvnMsgOffer { cvn0 with check := 2 ^ 32 },
      .cvnMsgOffer { cvn0 with offerLife := 2 ^ 16 }, .cvnMsgOffer { cvn0 with codecFp := 2 ^ 32 },
      .cvnMsgOffer { cvn0 with rsvB := 2 ^ 32 }, .cvnMsgOffer { cvn0 with cver := 2 ^ 4 },
      .cvnMsgOffer { cvn0 with msg := 2 ^ 4 }, .cvnMsgOffer { cvn0 with kind := 2 ^ 2 },
      .cvnMsgOffer { cvn0 with prio := 2 ^ 3 }, .cvnMsgOffer { cvn0 with durable := 2 ^ 1 },
      .cvnMsgOffer { cvn0 with outcome := 2 ^ 2 }] : List Instr).all (fun i => !i.wf) = true := by
  decide +kernel

/-- Each field of a reservation. -/
theorem wf_refuses_reservations :
    ([.reservationRequest { resv0 with frm := 65536 }, .reservationRequest { resv0 with gid := 2 ^ 64 },
      .reservationRequest { resv0 with tenant := 2 ^ 16 }, .reservationRequest { resv0 with prio := 2 ^ 3 },
      .reservationRequest { resv0 with resHbm := 2 ^ 32 }, .reservationRequest { resv0 with resFlash := 2 ^ 32 },
      .reservationRequest { resv0 with kvPerTok := 2 ^ 32 }, .reservationRequest { resv0 with pageClass := 2 ^ 4 },
      .reservationRequest { resv0 with codecSlot := 2 ^ 8 }, .reservationRequest { resv0 with ctxLen := 2 ^ 21 },
      .reservationRequest { resv0 with ns := 2 ^ 32 },
      .reservationRequest { resv0 with epoch := 2 ^ 16 }] : List Instr).all (fun i => !i.wf) = true := by
  decide +kernel

/-- Each field of a forward and of its answer. -/
theorem wf_refuses_forwards :
    ([.forward { fwd0 with frm := 65536 }, .forward { fwd0 with id := 2 ^ 32 },
      .forward { fwd0 with op := 2 ^ 16 }, .forward { fwd0 with tenant := 2 ^ 16 },
      .forward { fwd0 with target := 2 ^ 64 }, .forward { fwd0 with resultLen := 2 ^ 32 }, .forward { fwd0 with epoch := 2 ^ 16 },
      .forward { fwd0 with reqs := List.replicate 1025 ⟨0, 0, 0, 0, 0, [], []⟩ },
      .forwardAnswer { ans0 with frm := 65536 }, .forwardAnswer { ans0 with id := 2 ^ 32 },
      .forwardAnswer { ans0 with st := 2 ^ 16 }, .forwardAnswer { ans0 with r0 := 2 ^ 64 },
      .forwardAnswer { ans0 with detail := 2 ^ 32 }, .forwardAnswer { ans0 with ctxLen := 2 ^ 21 },
      .forwardAnswer { ans0 with usedHbm := 2 ^ 32 }, .forwardAnswer { ans0 with resHbm := 2 ^ 32 }] : List Instr).all (fun i => !i.wf) = true := by
  decide +kernel

/-- Each field of a frame. -/
theorem wf_refuses_frames :
    ([.mwrite { frame0 with port := 18 }, .mwrite { frame0 with addr := 2 ^ 64 },
      .mwrite { frame0 with key := 2 ^ 32 }, .mwrite { frame0 with seq := 2 ^ 32 },
      .mwrite { frame0 with epoch := 2 ^ 16 }, .mwrite { frame0 with dst := 65536 },
      .mwrite { frame0 with src := 65536 }, .mwrite { frame0 with conn := 2 ^ 14 },
      .mwrite { frame0 with off := 2 ^ 12 }, .mwrite { frame0 with len := 2 ^ 13 },
      .mwrite { frame0 with op := 2 ^ 5 }, .mwrite { frame0 with ver := 2 ^ 4 },
      .mwrite { frame0 with tc := 2 ^ 3 }, .mwrite { frame0 with reason := 2 ^ 4 },
      .mwrite { frame0 with hops := 2 ^ 5 }, .mwrite { frame0 with status := 2 ^ 16 },
      .mwrite { frame0 with pay := zeros 4097 }] : List Instr).all (fun i => !i.wf) = true := by
  decide +kernel

/-- Each field of a mirror record. -/
theorem wf_refuses_records :
    ([.mirEntry { rec0 with object := 2 ^ 64 }, .mirEntry { rec0 with mseq := 2 ^ 48 },
      .mirEntry { rec0 with check := 2 ^ 32 }, .mirEntry { rec0 with offset := 2 ^ 23 },
      .mirEntry { rec0 with len := 2 ^ 17 }, .mirEntry { rec0 with rsv := 2 ^ 68 },
      .mirEntry { rec0 with kind := 2 ^ 4 }, .mirEntry { rec0 with port := 15 }, .mirEntry { rec0 with len := 1 }] : List Instr).all (fun i => !i.wf) = true := by
  decide +kernel

/-- Rings, threads, arrays, slots, steps, banks, arbiters, queues and members. -/
theorem wf_refuses_units :
    ([.nop 272 .error, .workWrite 3, .workWrite 256, .aAdd ⟨65536, 0, 0⟩, .aAdd ⟨0, 96, 0⟩, .aAdd ⟨0, 0, 128⟩,
      .arrayGate 96, .homeMoveCommit 131072 0, .homeMoveCommit 0 (2 ^ 32), .diagArrayTestDone (2 ^ 96),
      .stepTimeout 65536 0, .stepTimeout 0 (2 ^ 32), .stepAbort 65536 0, .stepAbort 0 (2 ^ 64), .searchScrub 4,
      .drained 1024, .eventIrqGap 8, .dissolve 65536] : List Instr).all (fun i => !i.wf) = true := by
  decide +kernel

/-- Operands of messages and timers. -/
theorem wf_refuses_messages :
    ([.holdupTestEnd (2 ^ 32) 0 0 0, .holdupTestEnd 0 (2 ^ 32) 0 0, .holdupTestEnd 0 0 (2 ^ 32) 0,
      .holdupTestEnd 0 0 0 (2 ^ 32), .imageProgrammed 2, .loopbackDone 18 [], .loopbackDone 0 [2 ^ 64],
      .offerTimeout (2 ^ 32), .receiptTimeout 65536 0, .receiptTimeout 0 (2 ^ 32), .drainTimeout (2 ^ 32),
      .reservationAnswer 65536 0 0 0 0, .reservationAnswer 0 (2 ^ 64) 0 0 0, .reservationAnswer 0 0 65536 0 0,
      .reservationAnswer 0 0 0 (2 ^ 32) 0, .reservationAnswer 0 0 0 0 (2 ^ 64), .homeAnswerTimeout (2 ^ 64),
      .forwardTimeout (2 ^ 32), .pageLossReport 65536 0 0 false, .pageLossReport 0 (2 ^ 64) 0 false,
      .pageLossReport 0 0 65536 false, .deadlineExpiry 131072] : List Instr).all (fun i => !i.wf) = true := by
  decide +kernel

/-- Addresses, dies, bands, stacks and samples. -/
theorem wf_refuses_media_and_plant :
    ([.memWindowRead 4 0 0, .memWindowRead 0 (2 ^ 64) 0, .memWindowRead 0 0 (2 ^ 32), .memWindowWrite 4 0 [],
      .memWindowWrite 0 (2 ^ 64) [], .dieRetry 256, .migrationSwitch (2 ^ 34), .checkpointWrite (2 ^ 26),
      .programFail 65536 0, .programFail 0 256, .bandErase 65536, .eraseFail 65536 0, .eraseFail 0 256,
      .stackRetire 12, .scrubPass (2 ^ 64) false false, .storeSample (2 ^ 32) 0, .storeSample 0 2147483648,
      .storeSample 0 (-2147483649), .powerSample (2 ^ 32) 0, .powerSample 0 (2 ^ 32), .dieTempSample [32768],
      .hbmTempSample [-32769], .coolantSample 32768 0, .coolantSample 0 (-32769), .pumpFault 2, .thermalTrip 256,
      .rowProgrammed 65536] : List Instr).all (fun i => !i.wf) = true := by
  decide +kernel

/-- Sources, offsets and values of register accesses. -/
theorem wf_refuses_registers :
    ([.firmwareHeartbeat (2 ^ 64), .keySlotUnlock 16, .sqTailWrite (.pcie 4) 0 0, .sqTailWrite .core 272 0,
      .sqTailWrite .core 0 (2 ^ 64), .irqTimer 272, .adminRingEnable (.pcie 4) 0 0, .adminRingEnable .core 4 0,
      .adminRingEnable .core 0 (2 ^ 64), .flagClear (.pcie 4) 0, .flagClear .core (2 ^ 64), .flagIrqGap 4,
      .pop (.pcie 4) 0 0, .pop .core 8 0, .pop .core 0 (2 ^ 64), .headWindowRead (.pcie 4) 0,
      .headWindowRead .core 8, .halfReadLatch (.pcie 4) 0, .halfReadLatch .core (2 ^ 24),
      .bulletinHeadWrite (.pcie 4) 0 0, .bulletinHeadWrite .core 16 0, .bulletinHeadWrite .core 0 (2 ^ 64),
      .capacityWrite (.pcie 4) 0 0, .capacityWrite .core (2 ^ 24) 0, .capacityWrite .core 0 (2 ^ 64),
      .registerWrite (.pcie 4) 0 0 0, .registerWrite .core (2 ^ 24) 0 0, .registerWrite .core 0 (2 ^ 32) 0,
      .registerWrite .core 0 0 (2 ^ 64), .i3cRestart (2 ^ 64), .ringRegionWrite (.pcie 4) 0 [],
      .ringRegionWrite .core (2 ^ 25) [], .imageVerifyDone 3] : List Instr).all (fun i => !i.wf) = true := by
  decide +kernel

/-- Ports, nodes, connections, tags and addresses of the fabric. -/
theorem wf_refuses_fabric :
    ([.openTimeout 65536, .discover 18 0 0 0, .discover 0 65536 0 0, .discover 0 0 256 0, .discover 0 0 0 (2 ^ 48),
      .pauseFrame 18, .neighborDiscovery 18 0, .neighborDiscovery 0 65536, .ptpSync (2 ^ 64),
      .reasmTimeout 65536 0, .reasmTimeout 0 (2 ^ 32), .memTimeout 65536, .nakWaitTimer 65536,
      .apertureRead 4 0 0 0, .apertureRead 0 (2 ^ 32) 0 0, .apertureRead 0 0 (2 ^ 64) 0,
      .apertureRead 0 0 0 (2 ^ 32), .apertureFetchAdd 4 0 0 false 0, .apertureFetchAdd 0 (2 ^ 32) 0 false 0,
      .apertureFetchAdd 0 0 (2 ^ 64) false 0, .apertureFetchAdd 0 0 0 false (2 ^ 64), .apertureCas 4 0 0 false 0 0,
      .apertureCas 0 (2 ^ 32) 0 false 0 0, .apertureCas 0 0 (2 ^ 64) false 0 0,
      .apertureCas 0 0 0 false (2 ^ 64) 0, .apertureCas 0 0 0 false 0 (2 ^ 64), .apertureUnsupported 4 0,
      .apertureUnsupported 0 (2 ^ 32), .laneLockLoss 18 0, .laneLockLoss 0 8, .fecWindow 18 [] 0,
      .fecWindow 0 [2 ^ 64] 0, .fecWindow 0 [] (2 ^ 32), .claim 65536 0, .claim 0 65536, .grant 65536 false,
      .grantHoldEnd 65536 0, .grantHoldEnd 0 65536] : List Instr).all (fun i => !i.wf) = true := by
  decide +kernel

/-- A burst or a payload of more than 1 MiB. -/
theorem wf_refuses_long_bursts (bs : Bytes) (h : bs.length = 0x100001) :
    Instr.wf (.memWindowWrite 0 0 bs) = false ∧ Instr.wf (.ringRegionWrite .core 0 bs) = false ∧
    FwdMsg.wf { fwd0 with pay := bs } = false ∧ FwdAns.wf { ans0 with result := bs } = false := by
  have hb : bytesWf bs = false := by simp [bytesWf, h]
  simp [Instr.wf, FwdMsg.wf, FwdAns.wf, hb]

/-- An outcome is a next state, and that state passes a check. -/
def nextIs (o : Host.Outcome State Fault Refusal) (p : State → Bool) : Bool :=
  match o with
  | .next t => p t
  | _ => false

/-! ### The manual's worked examples and the published values of the functions it names -/

/-- The captioning item of 03 (after R79): 524 tokens of 53,248 bytes take 426 units, and its history one. -/
theorem test_reservation_of_the_captioning_item :
    admitHbm ⟨600, 48, 128, 53248, 4, 4⟩ = 426 ∧ histUnitsOf 652 = 1 := by decide +kernel

/-- The handle of slot 18,988 and generation 7 (03, the same example). -/
theorem test_handle_of_the_captioning_item : handleOf 18988 7 = 0x25160007 := by decide

/-- The lists of 05 and 09: P(600) − P(128) is 384 pages, P(611) is 497, P(616) is 501, and P(614) is 499. -/
theorem test_pages_of_the_captioning_item :
    pagesFor 53248 4 472 = 384 ∧ pagesFor 53248 4 611 = 497 ∧ pagesFor 53248 4 616 = 501 ∧ pagesFor 53248 4 614 = 499 := by
  decide

/-- The landing buffer of 04's example. -/
theorem test_landing_buffer : landingLen 1 600 0 488 = 32047104 := by decide

/-- The captioning slot of 07 R195: its levels, and the table that holds them. -/
def captionLevels : List Int := [-120, -88, -64, -45, -30, -18, -8, 0, 8, 18, 30, 45, 64, 88, 120]

def captionTab : QTab where
  tag := 2
  tableId := 0
  w := 4
  group := 128
  grouped := false
  esc := some 15
  sideMax := 0
  outlierT := 96
  window := 4
  layers := 48
  kvHeads := 8
  headDim := 128
  sideInline := 0
  sidePool := 254
  levels := captionLevels ++ [0]

theorem test_record_length : captionTab.groups = 768 ∧ captionTab.recLen = 53248 := by decide

/-- The clip point 0.8984375 gives the scale 246 × 2⁻¹⁵, and 0.41015625 takes code 0xC. -/
theorem test_scale_and_code :
    scaleOf captionTab 0x3F660000 = 0x3BF6 ∧ nearest captionTab 0x3BF6 0x3ED20000 = 0xC := by decide +kernel

/-- A logit of 6.2 with GEN_COUNT 2 becomes 4.936 (09's example; the bounds are 4.936 and 4.937). -/
theorem test_penalties :
    let a : Aux := ⟨leBytes 48 (0x3E99999A <<< 160 ||| 0x3E4CCCCD <<< 192 ||| 0x3F8CCCCD <<< 224), 64, noId, []⟩
    let y := penalize a (some ⟨5, false, 2⟩) 0x40C66666
    (flt 0x409DF3B6 y && flt y 0x409DFBE7) = true := by decide +kernel

/-- e_need of a 64 GiB durable region is 937.4 J and e_req, at HOLDUP_MARGIN 16, 1,874.8 J (13's example). -/
theorem test_holdup_energy :
    let s := { up with jnl := { up.jnl with durLen := 64 * gib }, sbu := { up.sbu with set := { up.sbu.set with margin := 16 } } }
    (flt 0x446A58F6 (eNeed s) && flt (eNeed s) 0x446A5A3D && flt 0x44EA5948 (eReq s) && flt (eReq s) 0x44EA59EC) = true := by
  decide +kernel

/-- SEQ 5 where 1 is expected: ST_SEQUENCE with the expected SEQ in DETAIL (02's example), and no advance. -/
theorem test_sequence :
    let s := signed (hdr 0x0130 0 5 0 0 0) [] (withSession true up)
    nextIs (exec (.nop 0 (.data [])) s) (fun t => decide (seqExp t 0 0 = seqExp s 0 0 ∧ t.out.length = 2)) = true := by decide +kernel

/-- CRC-32C of the nine digits (its published check value). -/
theorem test_crc : crc32c (ascii "123456789") = 0xE3069283 := by decide +kernel

/-- SHA-256 and SHA-384 of "abc" (FIPS 180-4), HMAC-SHA-256 of RFC 4231's second case. -/
theorem test_sha256 :
    beNat (sha256 (ascii "abc")) = 0xba7816bf8f01cfea414140de5dae2223b00361a396177a9cb410ff61f20015ad := by decide +kernel

theorem test_sha384 :
    beNat (sha384 (ascii "abc")) =
      0xcb00753f45a35e8bb5a03d699ac65007272c32ab0eded1631a8b605a43ff5bed8086072ba1e7cc2358baeca134c825a7 := by decide +kernel

theorem test_hmac :
    beNat (hmac256 (ascii "Jefe") (ascii "what do ya want for nothing?")) =
      0x5bdcc146bf60754e6a042426089575c75a003f089d2739839dec58b964ec3843 := by decide +kernel

/-- Philox4x32-10 of counter 0 and key 0 (its authors' known answer). -/
theorem test_philox : philox 10 (0, 0, 0, 0) (0, 0) = (0x6627e8d5, 0xe169c58d, 0xbc57ac4c, 0x9b00dbd8) := by decide +kernel

/-- A signature of the test's key does not verify for another image. -/
theorem test_signature_of_another_image :
    ecdsaOk testKey (firmwareImage.take 160 ++ leBytes 256 1) (sub firmwareImage 160 96) = false := by decide +kernel


/-- Frames of RFC 8878: a raw block of "abc", a run of five bytes 'a', and a compressed block that the reference encoder made
of the sentence. -/
theorem test_zstandard_frames :
    zstdDecode [] (leBytes 12 0x6362610000190320fd2fb528) = some (ascii "abc") ∧
      zstdDecode [] (leBytes 10 0x6100002b0520fd2fb528) = some (ascii "aaaaa") ∧
      zstdDecode [] (leBytes 48
        0x9d313d19d4b0093a0003019d891e1663d88ca1cec46cc5435a5106b00190f7aa40e7d00b06820200013d3d20fd2fb528) =
        some (ascii "a caravan of carts, a cart of caravans, a caravan of caravans") := by decide +kernel

/-- A frame with a checksum, which 07 R182 does not admit. -/
theorem test_zstandard_checksum_is_refused :
    zstdDecode [] (leBytes 16 0x6362610000190324fd2fb528) = none := by decide +kernel

/-! ### Headers, byte by byte from their tables -/

/-- A caravan header (04 R83): MSG 3 and CVER 1 stand in byte 1, CHECK in bytes 12 to 15, GLOBAL_ID in bytes 56 to 63. -/
theorem test_caravan_header :
    caravanOfBytes 2 ([5, 0x13] ++ zeros 10 ++ [0x44, 0x33, 0x22, 0x11] ++ zeros 40 ++ [8, 7, 6, 5, 4, 3, 2, 1]) =
      { cvn0 with frm := 2, outcome := 1, durable := 1, cver := 1, msg := 3, check := 0x11223344, gid := 0x0102030405060708 } := by
  decide +kernel

/-- A Jalnal header (10 R276): HOPS and REASON in byte 2, TC and VER in byte 3, SRC, DST and EPOCH from byte 10. -/
theorem test_jalnal_header :
    jalnalOfBytes 3 false false true ([0, 0, 0x45, 0x16] ++ zeros 6 ++ [1, 2, 3, 4, 5, 6] ++ zeros 16 ++ [9]) =
      { frame0 with port := 3, ce := true, hops := 5, reason := 2, tc := 3, ver := 1, src := 0x0201, dst := 0x0403,
                    epoch := 0x0605, pay := [9] } := by
  decide +kernel

/-- A mirror record's header (12 R346): KIND in byte 0, LEN from byte 9, OFFSET from bit 1 of byte 11, MSEQ from byte 18. -/
theorem test_mirror_header :
    mirrorOfBytes 16 ([0x60] ++ zeros 8 ++ [1, 0, 2] ++ zeros 6 ++ [4] ++ zeros 13 ++ [7]) =
      { rec0 with kind := 6, len := 1, offset := 1, mseq := 4, body := [7] } := by decide +kernel

/-! ### Single steps -/

/-- FENCE behind an earlier command (02 R34): the command is fetched and waits in its ring. -/
theorem test_fence_waits :
    nextIs (exec (.nop 4 .error) (behindFence false)) (fun t =>
      decide ((Tbl.get t.hcu.rings 4).map (fun R => (R.head, R.waiting, R.outstanding)) = some (1, some fenced, [9]))) = true := by
  decide +kernel

/-- A ring whose request falls as its port resets is a void grant (11 R330). -/
theorem test_void_grant :
    nextIs (exec (.perstAssert 0) (withSession true (behindFence false)))
      (fun t => decide (t.tsu.voidGrants = 1)) = true := by decide +kernel

/-- The first beat of a firmware that lapsed ends the lapse (01 R28). -/
theorem test_beat_ends_a_lapse :
    nextIs (exec (.firmwareHeartbeat 1) { up with rte := { up.rte with lapsed := true } }) (fun t => !t.rte.lapsed) = true := by
  decide +kernel

/-- The queue's front is run first. -/
theorem test_front_runs_first :
    let s := { up with pending := [.holdover, .ppsOut] }
    nextIs (step s) (fun t => decide (t.pending = [.ppsOut] ∧ t.clk.holdover = true)) = true := by decide +kernel

/-- With no command waiting a nanosecond passes. -/
theorem test_tick :
    nextIs (step up) (fun t => decide (t.clk.now = up.clk.now + 1)) = true := by decide +kernel

/-- POWER_CAP_SET of 420 W, the smallest value. -/
theorem test_power_cap :
    nextIs (exec (.powerCapSet 256 (pay 8 (420 <<< 48))) (fw 0x0C04 8 0 0 up)) (fun t => decide (t.plc.cap = 420)) = true := by decide +kernel

/-- A fabric atomic adds to the word at its address and answers the old one. -/
theorem test_madd :
    nextIs (exec (.madd (mFrame 3 (leBytes 16 7))) (seqs inTurn ⟨0, false, [], 0, 0⟩)) (fun t => decide (leNat (devRead t 0 4) = 7)) = true := by decide +kernel

/-- ADD in an array: R3 := R1 + R2, and the pc moves on. -/
theorem test_add_wraps :
    let w : Nat := word 1 0 0 0 ||| 3 <<< 46 ||| 1 <<< 41 ||| 2 <<< 36
    let th : Thread := { fresh with regs := [(1, 2 ^ 64 - 1), (2, 2)] }
    nextIs (exec (.aAdd thr) (running w th up)) (fun t => decide ((getThr t thr).map (fun x => (reg x 3, x.pc)) = some (1, 8))) = true := by decide +kernel

/-- A content search answers the entry of the smallest priority number that matches. -/
theorem test_search : winner (withSearch sent0 up) 1 5 [] = some (0, sent0) := by decide +kernel

/-! ### Witnesses: the hypotheses of each obligation, met -/

/-- The hypotheses of `Obligations.SessionCommands`. -/
theorem witness_SessionCommands :
  (∃ (r : Nat) (d : Dma) (s s1 : State) (c : Cmd) (i : Nat) (k : KeySlot),
    taken 0x0101 [] r d s = some (c, s1) ∧ c.payLen = 48 ∧ 32 ≤ c.resLen ∧ c.fld 7 0 ≤ 15 ∧ c.fld 127 8 = 0 ∧ Tbl.freeFrom
      s1.hcu.sessions 64 0 = some i ∧ i < 64 ∧ Tbl.get s1.hcu.keySlots (c.fld 7 0) = some k ∧ slotLocked s1 k = false) ∧
  (∃ (r : Nat) (d : Dma) (s s1 : State) (c : Cmd) (x : Session) (k : KeySlot),
    taken 0x0102 [] r d s = some (c, s1) ∧ c.payLen = 32 ∧ 32 ≤ c.resLen ∧ findSess s1 c.sess = some x ∧ Tbl.get
      s1.hcu.keySlots x.slot = some k) ∧
  (∃ (r : Nat) (d : Dma) (s s1 : State) (c : Cmd) (x : Session),
    taken 0x0103 [.operator, .tenant, .maintenance] r d s = some (c, s1) ∧ c.payLen = 0 ∧ c.target >>> 16 = 0 ∧ (c.target %
      65536 = c.sess ∨ c.isOp = true) ∧ findSess s1 (c.target % 65536) = some x) ∧
  (∃ (r : Nat) (d : Dma) (s s1 : State) (c : Cmd) (b n : Nat),
    taken 0x0110 [.operator, .tenant, .maintenance] r d s = some (c, s1) ∧ c.payLen = 32 ∧ 16 ≤ c.fld 47 32 ∧ c.fld 47 32 ≤
      4096 ∧ 16 ≤ c.fld 63 48 ∧ c.fld 63 48 ≤ 4096 ∧ 1 ≤ c.fld 79 64 ∧ c.fld 79 64 ≤ 256 ∧ isPow2 (c.fld 47 32) = true ∧
      isPow2 (c.fld 63 48) = true ∧ c.fld 95 80 ≤ 1000 ∧ (portMode s1 c.port = 2 → c.fld 111 96 ≤ 511) ∧ (portMode s1
      c.port = 1 → c.fld 191 128 % 4 = 0) ∧ c.fld 255 192 % 4096 = 0 ∧ c.fld 31 0 = 0 ∧ c.fld 127 112 = 0 ∧ freeRegion s1
      (c.fld 47 32) = some b ∧ Tbl.freeFrom s1.hcu.rings 252 4 = some n ∧ n < 256) ∧
  (∃ (r : Nat) (d : Dma) (s s1 : State) (c : Cmd) (R : Ring),
    taken 0x0111 [.operator, .tenant, .maintenance] r d s = some (c, s1) ∧ c.payLen = 0 ∧ c.target >>> 16 = 0 ∧ 4 ≤
      c.target % 65536 ∧ c.target % 65536 ≤ 255 ∧ Tbl.get s1.hcu.rings (c.target % 65536) = some R ∧ R.work = false ∧
      (R.owner = c.sess ∨ c.isOp = true)) ∧
  (∃ (r : Nat) (d : Dma) (s s1 : State) (c : Cmd),
    taken 0x0130 [.operator, .tenant, .maintenance] r d s = some (c, s1)) :=
  ⟨⟨0, pay 48 0, onRing 0 0xFFFF (hdr 0x0101 0xFFFF 0 48 32 0) up, _, _, 0,
      ⟨List.replicate 32 0, .maintenance, 0, 0, none⟩, is_taken (by decide +kernel), by decide +kernel⟩,
    ⟨0, pay 32 0, onRing 0 0xFFFF (hdr 0x0102 0 0 32 32 0) (withSession false up), _, _, challenged,
      ⟨List.replicate 32 0, .maintenance, 0, 0, none⟩, is_taken (by decide +kernel), by decide +kernel⟩,
    ⟨256, pay 0 0, fw 0x0103 0 0 0 (withSession true up), _, _, { challenged with isOpen := true },
      is_taken (by decide +kernel), by decide +kernel⟩,
    ⟨0, pay 32 (16 <<< 32 ||| 16 <<< 48 ||| 1 <<< 64),
      signed (hdr 0x0110 0 1 32 0 0) (leBytes 32 (16 <<< 32 ||| 16 <<< 48 ||| 1 <<< 64)) (withSession true up), _, _, 256,
      4, is_taken (by decide +kernel), by decide +kernel⟩,
    ⟨256, pay 0 0, fw 0x0111 0 0 4 (withRing4 up), _, _, ring4, is_taken (by decide +kernel), by decide +kernel⟩,
    ⟨256, pay 0 0, fw 0x0130 0 0 0 up, _, _, is_taken (by decide +kernel)⟩⟩

/-- The hypotheses of `Obligations.RequestCommands`. -/
theorem witness_RequestCommands :
  (∃ (r : Nat) (d : Dma) (s s1 : State) (c : Cmd),
    let gid := c.fld 191 128
    let hist := histUnitsOf (c.fld 127 107 + c.fld 106 86 + c.fld 15 12)
    let bytes := (c.fld 127 107 + c.fld 106 86 + c.fld 15 12 - c.fld 85 65) * c.fld 64 45
    let pages := ceilDiv bytes (4096 * 2 ^ c.fld 44 41) * (4096 * 2 ^ c.fld 44 41)
    taken 0x0201 [.operator, .tenant] r d s = some (c, s1) ∧ admitChecks c = .ok () ∧ 0 < freeSlots s1 ∧ admissionOpen s1 =
      true ∧ (gid = 0 ∨ gidHeld s1 gid = false) ∧ (c.fld 255 192 = 0 ∨ now s1 + (classRow s1 (c.fld 34 32)).minLead ≤ c.fld
      255 192) ∧ capsOk s1 (c.fld 34 32) c.tenant (ceilDiv pages 65536) = true ∧ hbmFits s1 hist = true) ∧
  (∃ (s s1 s2 : State) (w : HomeWait) (tok root : Nat) (parked : Bool),
    let e := { w.ent with tokRoot := tok }
    allocPage s 4 0 false true = some (tok, s1) ∧ mirroring s1 = false ∧ w.ent.remoteHome = false ∧ chargeHome s1 e.gid (me
      s1) e.tenant e.prio e.resHbm e.resFlash e.kvPerTok e.pageClass e.codecSlot w.parkOk e.durable = some (root, parked,
      s2)) ∧
  (∃ (r : Nat) (d : Dma) (s s1 : State) (c : Cmd) (n : Nat) (x : Slot),
    taken 0x0202 [.operator, .tenant, .maintenance] r d s = some (c, s1) ∧ c.payLen = 0 ∧ 128 ≤ c.resLen ∧ c.target >>> 32
      = 0 ∧ c.entry s1 c.target = .ok (n, x)) ∧
  (∃ (r : Nat) (d : Dma) (s s1 : State) (c : Cmd) (n : Nat) (x : Slot),
    taken 0x0202 [.operator, .tenant, .maintenance] r d s = some (c, s1) ∧ c.payLen = 16 ∧ 128 ≤ c.resLen ∧ c.target = 0 ∧
      c.fld 63 1 = 0 ∧ c.fld 127 64 ≠ 0 ∧ bit (c.fld 7 0) 0 = true ∧ slotOfGid s1 (c.fld 127 64) = some n ∧ getSlot s1 n =
      some x ∧ c.entry s1 (handleOf n x.e.slotGen) = .ok (n, x) ∧ x.e.state.terminal = true ∧ relWaiting s1 n = false) ∧
  (∃ (r : Nat) (d : Dma) (s s1 : State) (c : Cmd) (n : Nat) (x : Slot),
    taken 0x0203 [.operator, .tenant] r d s = some (c, s1) ∧ c.payLen = 8 ∧ c.target >>> 32 = 0 ∧ c.entry s1 c.target = .ok
      (n, x) ∧ s1.clk.synced = true ∧ (watchActs x.e && bucketEnded s1 x.e) = false ∧ openEntry s1 n x = .ok () ∧
      [RState.admitted, .prefill, .generate, .parked, .draining].contains x.e.state = true ∧ x.e.expirePend = false) ∧
  (∃ (r : Nat) (d : Dma) (s s1 : State) (c : Cmd) (n : Nat) (x : Slot),
    taken 0x0204 [.operator] r d s = some (c, s1) ∧ c.payLen = 8 ∧ c.target >>> 32 = 0 ∧ c.fld 31 3 = 0 ∧ c.entry s1
      c.target = .ok (n, x) ∧ openEntry s1 n x = .ok () ∧ x.e.state.terminal = false) ∧
  (∃ (r : Nat) (d : Dma) (s s1 : State) (c : Cmd) (n : Nat) (x : Slot),
    let toks := c.recs 8 4 (c.fld 31 0)
    taken 0x0205 [.operator, .tenant] r d s = some (c, s1) ∧ 1 ≤ c.fld 31 0 ∧ c.fld 31 0 ≤ 65536 ∧ c.payLen = 8 + 4 * c.fld
      31 0 ∧ c.target >>> 32 = 0 ∧ c.fld 47 32 = 0 ∧ c.fld 63 49 = 0 ∧ checkEach (fun i t => need (decide (t < 2 ^ 18))
      St.fieldRange (inPay (8 + 4 * i + 2))) 0 toks = .ok () ∧ bit (c.fld 48 48) 0 = false ∧ c.entry s1 c.target = .ok (n,
      x) ∧ x.hist.length - x.e.genLen + c.fld 31 0 ≤ x.e.promptLen ∧ openEntry s1 n x = .ok () ∧ [RState.admitted,
      .prefill, .generate, .parked, .draining].contains x.e.state = true ∧ x.e.inStep = false ∧ x.e.genLen = 0) ∧
  (∃ (r : Nat) (d : Dma) (s s1 : State) (c : Cmd) (n : Nat) (x : Slot),
    taken 0x0206 [.operator, .tenant] r d s = some (c, s1) ∧ c.payLen = 0 ∧ c.target >>> 32 = 0 ∧ c.entry s1 c.target = .ok
      (n, x) ∧ (watchActs x.e && bucketEnded s1 x.e) = false ∧ openEntry s1 n x = .ok () ∧ [RState.admitted, .prefill,
      .generate, .draining].contains x.e.state = true ∧ x.e.movePend = false) ∧
  (∃ (r : Nat) (d : Dma) (s s1 : State) (c : Cmd) (n : Nat) (x : Slot),
    taken 0x0207 [.operator, .tenant] r d s = some (c, s1) ∧ c.payLen = 0 ∧ c.target >>> 32 = 0 ∧ c.entry s1 c.target = .ok
      (n, x) ∧ openEntry s1 n x = .ok () ∧ x.e.state.terminal = false ∧ x.e.state ≠ .handoff ∧ x.e.expirePend = false) ∧
  (∃ (r : Nat) (d : Dma) (s s1 : State) (c : Cmd),
    taken 0x020A [.operator, .maintenance] r d s = some (c, s1) ∧ c.payLen = 8 ∧ 1 ≤ c.fld 63 48 ∧ c.fld 63 48 ≤ 32768 ∧ 4
      * c.fld 63 48 ≤ c.resLen ∧ c.target = 0 ∧ c.fld 14 0 = 0 ∧ c.fld 47 32 < 1024 ∧ bit (c.fld 47 32) 0 = false ∧ c.priv
      ≠ .tenant) :=
  ⟨⟨256, pay 32 (16 <<< 107 ||| 8 <<< 86 ||| 64 <<< 45 ||| 1 <<< 16), fw 0x0201 32 0 0 ready, _, _,
      is_taken (by decide +kernel), by decide +kernel⟩,
    ⟨ready, ((allocPage ready 4 0 false true).getD (0, up)).2,
      ((chargeHome (((allocPage ready 4 0 false true).getD (0, up)).2) 9 (me (((allocPage ready 4 0 false true).getD (0, up)).2)) 0 0 1 1 64 0 0 false false).getD (0, false, up)).2.2,
      ⟨0, ent, aTok, 0, .mark, false⟩, ((allocPage ready 4 0 false true).getD (0, up)).1,
      ((chargeHome (((allocPage ready 4 0 false true).getD (0, up)).2) 9 (me (((allocPage ready 4 0 false true).getD (0, up)).2)) 0 0 1 1 64 0 0 false false).getD (0, false, up)).1,
      ((chargeHome (((allocPage ready 4 0 false true).getD (0, up)).2) 9 (me (((allocPage ready 4 0 false true).getD (0, up)).2)) 0 0 1 1 64 0 0 false false).getD (0, false, up)).2.1,
      is_pair (0, up) (by decide +kernel), by decide +kernel, by decide +kernel,
      is_triple (0, false, up) (by decide +kernel)⟩,
    ⟨256, pay 0 0, fw 0x0202 0 128 0 (withReq ent up), _, _, 0, newSlot ent, is_taken (by decide +kernel),
      by decide +kernel⟩,
    ⟨256, pay 16 (9 <<< 64 ||| 1), fw 0x0202 16 128 0 (withReq { ent with state := .done } up), _, _, 0,
      newSlot { ent with state := .done }, is_taken (by decide +kernel), by decide +kernel⟩,
    ⟨256, pay 8 1, fw 0x0203 8 0 0 (withReq ent up), _, _, 0, newSlot ent, is_taken (by decide +kernel), by decide +kernel⟩,
    ⟨256, pay 8 1, fw 0x0204 8 0 0 (withReq ent up), _, _, 0, newSlot ent, is_taken (by decide +kernel), by decide +kernel⟩,
    ⟨256, pay 12 (5 <<< 64 ||| 1), fw 0x0205 12 0 0 (withReq ent up), _, _, 0, newSlot ent, is_taken (by decide +kernel),
      by decide +kernel⟩,
    ⟨256, pay 0 0, fw 0x0206 0 0 0 (withReq ent up), _, _, 0, newSlot ent, is_taken (by decide +kernel), by decide +kernel⟩,
    ⟨256, pay 0 0, fw 0x0207 0 0 0 (withReq ent up), _, _, 0, newSlot ent, is_taken (by decide +kernel), by decide +kernel⟩,
    ⟨256, pay 8 (1 <<< 48), fw 0x020A 8 4 0 (withReq ent up), _, _, is_taken (by decide +kernel), by decide +kernel⟩⟩

/-- The hypotheses of `Obligations.RequestEvents`. -/
theorem witness_RequestEvents :
  (∃ (s : State) (m : ResvMsg),
    epochPasses s m.epoch = false) ∧
  (∃ (s : State) (m : ResvMsg),
    m.move = true ∧ epochPasses s m.epoch = true) ∧
  (∃ (s : State) (m : ResvMsg),
    m.move = false ∧ epochPasses s m.epoch = true ∧ capsOk s m.prio m.tenant m.resHbm = false) ∧
  (∃ (s s1 : State) (m : ResvMsg) (root : Nat) (parked : Bool),
    m.move = false ∧ epochPasses s m.epoch = true ∧ capsOk s m.prio m.tenant m.resHbm = true ∧ mirroring s = false ∧
      chargeHome s m.gid m.frm m.tenant m.prio m.resHbm m.resFlash m.kvPerTok m.pageClass m.codecSlot m.parkOk m.durable =
      some (root, parked, s1)) ∧
  (∃ (s : State) (gid st : Nat) (w : HomeWait),
    Tbl.get s.rte.homeWaits gid = some w ∧ w.phase = .home ∧ (st = St.ok ∨ st = St.pending)) ∧
  (∃ (s : State) (gid st : Nat) (w : HomeWait),
    Tbl.get s.rte.homeWaits gid = some w ∧ w.phase = .home ∧ st ≠ St.ok ∧ st ≠ St.pending) ∧
  (∃ (s : State) (gid : Nat) (w : HomeWait),
    Tbl.get s.rte.homeWaits gid = some w ∧ w.phase = .home ∧ w.sentAt + 1000000 ≤ now s ∧ markedLost s w.ent.home = false) ∧
  (∃ (s : State) (frm gid : Nat) (l : PList),
    s.rte.releases.contains (gid, frm) = false ∧ getList s gid = some l ∧ l.owner = frm) ∧
  (∃ (s : State) (frm gid : Nat),
    s.rte.releases.contains (gid, frm) = true) ∧
  (∃ (s : State) (gid : Nat) (l : PList),
    getList s gid = some l) ∧
  (∃ (s : State) (gid n : Nat) (x : Slot),
    slotOfGid s gid = some n ∧ getSlot s n = some x ∧ x.e.remoteHome = true) ∧
  (∃ (s : State) (n : Nat) (x : Slot),
    getSlot s n = some x ∧ x.e.deadline ≠ 0 ∧ x.e.state.terminal = false ∧ x.e.state ≠ .handoff ∧ x.e.expirePend = false ∧
      (x.e.deadline / 1024 + 1) * 1024 ≤ now s ∧ watchTurn s n x.e = true) ∧
  (∃ (s : State) (n t : Nat) (x : Slot),
    getSlot s n = some x ∧ x.lingerFrom = some t ∧ x.e.state.terminal = true ∧ t + s.rte.lingerMs * 1000000 ≤ now s) :=
  ⟨⟨mapped up, ⟨2, 8, 0, 0, 1, 1, false, false, 64, 0, 0, false, 0, 0, 5⟩, by decide +kernel⟩,
    ⟨mapped up, ⟨2, 8, 0, 0, 1, 1, false, false, 64, 0, 0, true, 0, 0, 1⟩, by decide +kernel⟩,
    ⟨mapped { up with rte := { up.rte with classRows := [(0, ⟨false, 0, 0⟩)] } },
      ⟨2, 8, 0, 0, 1, 1, false, false, 64, 0, 0, false, 0, 0, 1⟩, by decide +kernel⟩,
    ⟨mapped ready, ((chargeHome (mapped ready) 8 2 0 0 1 1 64 0 0 false false).getD (0, false, up)).2.2,
      ⟨2, 8, 0, 0, 1, 1, false, false, 64, 0, 0, false, 0, 0, 1⟩,
      ((chargeHome (mapped ready) 8 2 0 0 1 1 64 0 0 false false).getD (0, false, up)).1,
      ((chargeHome (mapped ready) 8 2 0 0 1 1 64 0 0 false false).getD (0, false, up)).2.1, by decide +kernel,
      by decide +kernel, by decide +kernel, by decide +kernel, is_triple (0, false, up) (by decide +kernel)⟩,
    ⟨(withWait .home), 8, 0, waitOf .home, by decide +kernel⟩,
    ⟨(withWait .home), 8, 0x0301, waitOf .home, by decide +kernel⟩,
    ⟨(withWait .home), 8, waitOf .home, by decide +kernel⟩,
    ⟨withReq ent up, 1, 9, lst, by decide +kernel⟩,
    ⟨{ up with rte := { up.rte with releases := [(9, 2)] } }, 2, 9, by decide +kernel⟩,
    ⟨withReq ent up, 9, lst, by decide +kernel⟩,
    ⟨withReq { ent with remoteHome := true, home := 2 } up, 9, 0, newSlot { ent with remoteHome := true, home := 2 },
      by decide +kernel⟩,
    ⟨withReq { ent with deadline := 5 } up, 0, newSlot { ent with deadline := 5 }, by decide +kernel⟩,
    ⟨withSlot { newSlot { ent with state := .done } with lingerFrom := some 0 } up, 0, 0,
      { newSlot { ent with state := .done } with lingerFrom := some 0 }, by decide +kernel⟩⟩

/-- The hypotheses of `Obligations.TierCommands`. -/
theorem witness_TierCommands :
  (∃ (r : Nat) (d : Dma) (s s1 : State) (c : Cmd),
    let base := c.fld 191 128
    let len := c.fld 127 64
    let h := c.fld 2 0
    let gs := (if h = 2 then rangeAt s1 base len .flash else if h = 4 then rangeAt s1 base len .hbm else []).filter
      fun g => !isDurable s1 g
    taken 0x0501 [.operator, .tenant] r d s = some (c, s1) ∧ c.payLen = 24 ∧ c.target = 0 ∧ bit (c.fld 4 4) 0 = false ∧
      rangeLen base len = true ∧ rangeBase base = true ∧ h ≤ 4 ∧ c.fld 3 3 = 0 ∧ c.fld 47 5 = 0 ∧ c.extentsOk s1 base len =
      true ∧ (h = 2 → gs.length ≤ objectFree s1) ∧ (h = 4 → objectFlashFits s1 gs.length = true)) ∧
  (∃ (r : Nat) (d : Dma) (s s1 : State) (c : Cmd),
    let base := c.fld 255 192
    let len := c.fld 191 128
    let flash := c.fld 3 0 == 2
    let gs := (rangeAt s1 base len (if flash then .hbm else .flash)).filter fun g => !isDurable s1 g
    taken 0x0502 [.operator] r d s = some (c, s1) ∧ c.payLen = 32 ∧ c.target = 0 ∧ (c.fld 3 0 = 1 ∨ c.fld 3 0 = 2) ∧
      rangeLen base len = true ∧ rangeBase base = true ∧ c.fld 111 4 = 0 ∧ (flash = false → gs.length ≤ objectFree s1) ∧
      (flash = true → objectFlashFits s1 gs.length = true)) ∧
  (∃ (r : Nat) (d : Dma) (s s1 : State) (c : Cmd) (n : Nat) (x : Slot),
    taken 0x0502 [.operator] r d s = some (c, s1) ∧ c.payLen = 32 ∧ c.fld 191 128 = 0 ∧ c.target >>> 32 = 0 ∧ c.fld 3 0 = 3
      ∧ c.fld 111 4 = 0 ∧ c.fld 255 192 = 0 ∧ c.entry s1 c.target = .ok (n, x) ∧ openEntry s1 n x = .ok () ∧ stepState x.e
      = true ∧ x.e.inStep = false ∧ x.e.movePend = false ∧ c.fld 127 112 ≠ x.e.home) ∧
  (∃ (r : Nat) (d : Dma) (s s1 : State) (c : Cmd),
    let base := c.fld 127 64
    let len := c.fld 63 0
    taken 0x0503 [.operator, .tenant] r d s = some (c, s1) ∧ c.payLen = 16 ∧ c.target = 0 ∧ rangeLen base len = true ∧
      rangeBase base = true ∧ c.extentsOk s1 base len = true ∧ (durableShut s1 && s1.tfm.map.any fun kv => decide (base /
      4096 ≤ kv.1) && decide (kv.1 < (base + len) / 4096) && isDurable s1 kv.1) = false) ∧
  (∃ (r : Nat) (d : Dma) (s s1 : State) (c : Cmd),
    taken 0x0504 [.operator, .maintenance] r d s = some (c, s1) ∧ c.payLen = 0 ∧ 128 ≤ c.resLen ∧ c.target = 0) ∧
  (∃ (r : Nat) (d : Dma) (s s1 : State) (c : Cmd),
    taken 0x0510 [.operator] r d s = some (c, s1) ∧ c.payLen = 8 ∧ c.target = 0 ∧ c.fld 15 0 = 0 ∧ 32 ≤ c.fld 27 16 ∧ c.fld
      27 16 < c.fld 39 28 ∧ 64 ≤ c.fld 39 28 ∧ c.fld 39 28 ≤ 2048) ∧
  (∃ (r : Nat) (d : Dma) (s s1 : State) (c : Cmd),
    taken 0x0511 [.operator, .maintenance] r d s = some (c, s1) ∧ c.payLen = 0 ∧ 4160 ≤ c.resLen ∧ c.target = 0) ∧
  (∃ (r : Nat) (d : Dma) (s s1 : State) (c : Cmd),
    taken 0x0512 [.operator] r d s = some (c, s1) ∧ c.payLen = 0 ∧ c.target = 0 ∧ s1.jnl.saving = false) ∧
  (∃ (r : Nat) (d : Dma) (s s1 : State) (c : Cmd),
    taken 0x0E11 [.maintenance] r d s = some (c, s1) ∧ c.payLen = 8 ∧ c.target = 0 ∧ c.fld 1 0 ≠ 0 ∧ c.fld 63 2 = 0 ∧
      s1.tfm.scrub = none) ∧
  (∃ (r : Nat) (d : Dma) (s s1 : State) (c : Cmd) (n : Nat) (x : Slot) (l : PList) (v : Resv),
    taken 0x0208 [.operator, .tenant] r d s = some (c, s1) ∧ c.payLen = 0 ∧ c.target >>> 32 = 0 ∧ c.entry s1 c.target = .ok
      (n, x) ∧ getSlot s1 n = some x ∧ x.e.remoteHome = false ∧ openEntry s1 n x = .ok () ∧ x.e.inStep = false ∧
      x.e.movePend = false ∧ x.restoring = false ∧ (x.e.state = .admitted ∨ x.e.state = .generate) ∧ getList s1 x.e.gid =
      some l ∧ Tbl.get s1.rte.resv l.gid = some v ∧ Tbl.has s1.tfm.parks l.gid = false ∧ flashFits s1 v.flash = true) ∧
  (∃ (r : Nat) (d : Dma) (s s1 : State) (c : Cmd) (n : Nat) (x : Slot) (l : PList) (v : Resv),
    taken 0x0209 [.operator, .tenant] r d s = some (c, s1) ∧ c.payLen = 0 ∧ c.target >>> 32 = 0 ∧ c.entry s1 c.target = .ok
      (n, x) ∧ getSlot s1 n = some x ∧ x.e.remoteHome = false ∧ openEntry s1 n x = .ok () ∧ x.e.inStep = false ∧
      x.e.movePend = false ∧ x.restoring = false ∧ x.e.state = .parked ∧ getList s1 x.e.gid = some l ∧ Tbl.get s1.rte.resv
      l.gid = some v ∧ Tbl.has s1.tfm.parks l.gid = false ∧ capsOk (delResv s1 l.gid) v.cls v.tenant v.hbm = true ∧ hbmFits
      s1 v.hbm = true) :=
  ⟨⟨256, pay 24 (4096 <<< 64 ||| 2), fw 0x0501 24 0 0 (backed .flash up), _, _, is_taken (by decide +kernel),
      by decide +kernel⟩,
    ⟨256, pay 32 (4096 <<< 128 ||| 1), fw 0x0502 32 0 0 (backed .flash up), _, _, is_taken (by decide +kernel),
      by decide +kernel⟩,
    ⟨256, pay 32 (2 <<< 112 ||| 3), fw 0x0502 32 0 0 (withReq ent up), _, _, 0, newSlot ent, is_taken (by decide +kernel),
      by decide +kernel⟩,
    ⟨256, pay 16 4096, fw 0x0503 16 0 0 (backed .flash up), _, _, is_taken (by decide +kernel), by decide +kernel⟩,
    ⟨256, pay 0 0, fw 0x0504 0 128 0 up, _, _, is_taken (by decide +kernel), by decide +kernel⟩,
    ⟨256, pay 8 (64 <<< 28 ||| 32 <<< 16), fw 0x0510 8 0 0 up, _, _, is_taken (by decide +kernel), by decide +kernel⟩,
    ⟨256, pay 0 0, fw 0x0511 0 4160 0 up, _, _, is_taken (by decide +kernel), by decide +kernel⟩,
    ⟨256, pay 0 0, fw 0x0512 0 0 0 up, _, _, is_taken (by decide +kernel), by decide +kernel⟩,
    ⟨256, pay 8 1, fw 0x0E11 8 0 0 up, _, _, is_taken (by decide +kernel), by decide +kernel⟩,
    ⟨256, pay 0 0, fw 0x0208 0 0 0 (withReq ent up), _, _, 0, newSlot ent, lst, ⟨0, 0, 1, 1, false, false, false⟩,
      is_taken (by decide +kernel), by decide +kernel⟩,
    ⟨256, pay 0 0, fw 0x0209 0 0 0 (withReq { ent with state := .parked } up), _, _, 0,
      newSlot { ent with state := .parked }, lst, ⟨0, 0, 1, 1, false, false, false⟩, is_taken (by decide +kernel),
      by decide +kernel⟩⟩

/-- The hypotheses of `Obligations.MoveAndForwardEvents`. -/
theorem witness_MoveAndForwardEvents :
  (∃ (s : State) (n : Nat) (x : Slot),
    getSlot s n = some x ∧ x.e.movePend = true ∧ x.moveReady = true) ∧
  (∃ (s : State) (j : ScrubJob),
    s.tfm.scrub = some j) ∧
  (∃ (s : State) (gid : Nat) (p : ParkJob) (v : Resv),
    let gs := s.tfm.moves.filter fun kv => kv.2.kind == .park gid
    Tbl.get s.tfm.parks gid = some p ∧ Tbl.get s.rte.resv gid = some v ∧ p.parking = true ∧ (gs.any fun kv =>
      !kv.2.committed) = false) ∧
  (∃ (s s1 : State) (gid : Nat) (p : ParkJob) (v : Resv) (l : PList),
    Tbl.get s.tfm.parks gid = some p ∧ Tbl.get s.rte.resv gid = some v ∧ getList s gid = some l ∧ p.parking = false ∧
      ((s.tfm.moves.filter fun kv => kv.2.kind == .unpark gid).map (·.1)).foldl (fun o g => o.bind fun a => promote
      (readMedia a g) g) (some s) = some s1) ∧
  (∃ (s : State) (m : FwdMsg),
    s.sbu.bootDone = true ∧ epochPasses s m.epoch = false) ∧
  (∃ (s : State) (m : FwdMsg) (l : PList),
    s.sbu.bootDone = true ∧ epochPasses s m.epoch = true ∧ listRestoring s m = false ∧ m.op = 0x0405 ∧ m.checks = [(St.ok,
      0)] ∧ m.list s = .ok l ∧ m.fld 40 18 ≤ l.pages.length) ∧
  (∃ (s : State) (a : FwdAns) (w : FwdWait),
    Tbl.get s.ppm.fwds a.id = some w ∧ w.dst = a.frm ∧ (w.op = 0x0404 ∨ w.op = 0x0405 ∨ w.op = 0x0410 ∨ w.op = 0x0411 ∨
      w.op = 0x0420)) ∧
  (∃ (s : State) (id : Nat) (w : FwdWait),
    Tbl.get s.ppm.fwds id = some w ∧ (w.op = 0x0404 ∨ w.op = 0x0405 ∨ w.op = 0x0410 ∨ w.op = 0x0411 ∨ w.op = 0x0420) ∧
      w.sentAt + 1000000 ≤ now s) :=
  ⟨⟨withSlot { newSlot { ent with movePend := true } with moveReady := true, moveDest := 2 } up, 0,
      { newSlot { ent with movePend := true } with moveReady := true, moveDest := 2 }, by decide +kernel⟩,
    ⟨{ up with tfm := { up.tfm with scrub := some ⟨aTok, 0, 0, 0⟩ } }, ⟨aTok, 0, 0, 0⟩, by decide +kernel⟩,
    ⟨(let s := withReq ent up; { s with tfm := { s.tfm with parks := [(9, ⟨true, 1, 0⟩)] } }), 9, ⟨true, 1, 0⟩,
      ⟨0, 0, 1, 1, false, false, false⟩, by decide +kernel, by decide +kernel⟩,
    ⟨(let s := withReq ent up; { s with tfm := { s.tfm with parks := [(9, ⟨false, 1, 0⟩)] } }),
      (let s := withReq ent up; { s with tfm := { s.tfm with parks := [(9, ⟨false, 1, 0⟩)] } }), 9, ⟨false, 1, 0⟩,
      ⟨0, 0, 1, 1, false, false, false⟩, lst, by decide +kernel, by decide +kernel, by decide +kernel, by decide +kernel,
      rfl⟩,
    ⟨mapped up,
      ⟨2, 0, 0x0405, 0, false, 0, 128, leBytes 16 (9 <<< 64 ||| 1), [⟨9, 0, 0, 16, 8, [], []⟩], [], 0, 5, [(St.ok, 0)]⟩,
      by decide +kernel⟩,
    ⟨mapped (withReq ent up),
      ⟨2, 0, 0x0405, 0, false, 0, 128, leBytes 16 (9 <<< 64 ||| 1), [⟨9, 0, 0, 16, 8, [], []⟩], [], 0, 1, [(St.ok, 0)]⟩,
      lst, by decide +kernel⟩,
    ⟨{ up with ppm := { up.ppm with fwds := [(3, ⟨2, 0x0404, [], 0, aTok, 0, 1⟩)] } }, ⟨2, 3, 0, 0, 0, [], 0, 0, 0, none⟩,
      ⟨2, 0x0404, [], 0, aTok, 0, 1⟩, by decide +kernel⟩,
    ⟨{ up with ppm := { up.ppm with fwds := [(3, ⟨2, 0x0404, [], 0, aTok, 0, 1⟩)] } }, 3, ⟨2, 0x0404, [], 0, aTok, 0, 1⟩,
      by decide +kernel⟩⟩

/-- The hypotheses of `Obligations.PageCommands`. -/
theorem witness_PageCommands :
  (∃ (r : Nat) (d : Dma) (s s1 s2 : State) (c : Cmd) (ids : List Nat),
    taken 0x0401 [.operator, .tenant] r d s = some (c, s1) ∧ c.payLen = 8 ∧ 1 ≤ c.fld 16 0 ∧ c.fld 16 0 ≤ 65536 ∧ 4 * c.fld
      16 0 ≤ c.resLen ∧ c.target = 0 ∧ c.fld 31 17 = 0 ∧ c.fld 35 32 ≤ 9 ∧ c.fld 63 36 = 0 ∧ c.fld 16 0 * 2 ^ c.fld 35 32 ≤
      objectFree s1 ∧ allocPages s1 (c.fld 35 32) c.tenant true false (c.fld 16 0) = some (ids, s2)) ∧
  (∃ (r : Nat) (d : Dma) (s s1 : State) (c : Cmd),
    taken 0x0402 [.operator, .tenant] r d s = some (c, s1) ∧ 1 ≤ c.fld 16 0 ∧ c.fld 16 0 ≤ 65536 ∧ c.payLen = 8 + 4 * c.fld
      16 0 ∧ c.target = 0 ∧ c.fld 63 17 = 0 ∧ checkEach (fun _ id => c.looseOk s1 id) 0 (c.recs 8 4 (c.fld 16 0)) = .ok ()
      ∧ (distinct (c.recs 8 4 (c.fld 16 0))).length = (c.recs 8 4 (c.fld 16 0)).length) ∧
  (∃ (r : Nat) (d : Dma) (s s1 s2 s3 s4 : State) (c : Cmd) (n : Nat) (x : Slot) (l l2 l3 : PList) (ids : List Nat),
    let node := if c.fld 127 96 = noNode then none else findNode s1 (c.fld 127 96)
    let l1 := attached s1 l node
    taken 0x0403 [.operator, .tenant] r d s = some (c, s1) ∧ c.payLen = 16 ∧ c.fld 42 26 ≤ 65536 ∧ c.fld 63 43 ≤ 1048576 ∧
      4 * (c.fld 42 26 + 1) ≤ c.resLen ∧ c.target >>> 32 = 0 ∧ c.fld 24 0 = 0 ∧ restsHere s1 c c.target n x l ∧ (c.fld 127
      96 = noNode ∨ node ≠ none ∧ l.pages = []) ∧ l1.pages.length + c.fld 42 26 ≤ 4194304 ∧ c.fld 63 43 * l.kvPerTok ≤
      (l1.pages.length + c.fld 42 26) * psize l.cls ∧ l1.ctxLen ≤ c.fld 63 43 ∧ (c.fld 95 64 = l.ns ∨ (l.ns = 0 ∧ l.pages =
      [])) ∧ nodeFits s1 l (c.fld 95 64) node = true ∧ fitBlocks
      (match node with | none => s1 | some p => hitNodes (l1.pages.foldl incRef s1) [p.1]) { l1 with ns := c.fld 95 64 } =
      some (l2, s2) ∧ (if 0 < c.fld 42 26 ∨ bit (c.fld 25 25) 0 = true then privTail (putList s2 l2) l.gid else some
      (putList s2 l2)) = some s3 ∧ (if c.fld 42 26 = 0 then some ([], s3) else appendPages s3 l.gid (c.fld 42 26)) = some
      (ids, s4) ∧ getList s4 l.gid = some l3) ∧
  (∃ (r : Nat) (d : Dma) (s s1 : State) (c : Cmd) (n : Nat) (x : Slot) (l : PList),
    taken 0x0404 [.operator, .tenant] r d s = some (c, s1) ∧ c.payLen = 8 ∧ c.target >>> 32 = 0 ∧ c.fld 63 21 = 0 ∧
      restsHere s1 c c.target n x l ∧ c.fld 20 0 ≤ l.ctxLen) ∧
  (∃ (r : Nat) (d : Dma) (s s1 : State) (c : Cmd) (l : PList),
    taken 0x0405 [.operator, .tenant, .maintenance] r d s = some (c, s1) ∧ c.payLen = 16 ∧ 1 ≤ c.fld 16 0 ∧ c.fld 16 0 ≤
      65536 ∧ c.fld 40 18 ≤ 4194304 ∧ 64 + 4 * c.fld 16 0 ≤ c.resLen ∧ c.target = 0 ∧ c.fld 17 17 = 0 ∧ c.fld 63 41 = 0 ∧
      c.fld 127 64 ≠ 0 ∧ getList s1 (c.fld 127 64) = some l ∧ c.tenantOk l.tenant = true ∧ c.fld 40 18 ≤ l.pages.length) ∧
  (∃ (r : Nat) (d : Dma) (s s1 : State) (c : Cmd),
    taken 0x0410 [.operator, .tenant] r d s = some (c, s1) ∧ 1 ≤ c.fld 16 0 ∧ c.fld 16 0 ≤ 65536 ∧ c.payLen = 16 + 4 *
      c.fld 16 0 ∧ c.target = 0 ∧ c.fld 63 17 = 0 ∧ c.fld 95 64 ≠ 0 ∧ checkEach (fun i t => need (decide (t < 2 ^ 18))
      St.fieldRange (inPay (16 + 4 * i + 2))) 0 (c.recs 16 4 (c.fld 16 0)) = .ok () ∧ c.fld 127 112 = me s1) ∧
  (∃ (r : Nat) (d : Dma) (s s1 : State) (c : Cmd) (n : Nat) (x : Slot) (l : PList),
    let got := lookup s1 l.ns l.tenant (x.hist.take (c.fld 16 0))
    taken 0x0411 [.operator, .tenant] r d s = some (c, s1) ∧ (c.priv ≠ .tenant ∨ c.fld 32 32 = 0) ∧ c.payLen = 8 ∧ 16 ≤
      c.fld 16 0 ∧ c.fld 16 0 ≤ 65536 ∧ c.target >>> 32 = 0 ∧ c.fld 16 0 % 16 = 0 ∧ c.fld 31 17 = 0 ∧ c.fld 63 33 = 0 ∧
      restsHere s1 c c.target n x l ∧ c.fld 16 0 ≤ l.ctxLen ∧ c.fld 16 0 ≤ x.hist.length ∧ l.ns ≠ 0 ∧ c.fld 16 0 ≤
      got.length * 16) ∧
  (∃ (r : Nat) (d : Dma) (s s1 : State) (c : Cmd) (i : Nat) (x : PNode),
    taken 0x0412 [.operator] r d s = some (c, s1) ∧ c.payLen = 8 ∧ c.fld 63 32 ≠ noNode ∧ c.fld 23 0 = 0 ∧ c.target = 0 ∧
      c.fld 31 24 = 0 ∧ findNode s1 (c.fld 63 32) = some (i, x)) ∧
  (∃ (r : Nat) (d : Dma) (s s1 : State) (c : Cmd),
    taken 0x0412 [.operator] r d s = some (c, s1) ∧ c.payLen = 8 ∧ c.fld 63 32 = noNode ∧ c.fld 23 0 ≠ 0 ∧ c.target = 0 ∧
      c.fld 31 24 = 0) ∧
  (∃ (r : Nat) (d : Dma) (s s1 s2 s3 : State) (c : Cmd) (n k : Nat) (x y : Slot) (l src l1 l2 : PList),
    let ps := src.pages.take (pagesFor src.kvPerTok src.cls (c.fld 63 43))
    let l0 : PList := { l with pages := ps, shared := sharedCount s1 ps
                               ctxLen := c.fld 63 43, ns := src.ns }
    taken 0x0420 [.operator, .tenant] r d s = some (c, s1) ∧ c.payLen = 16 ∧ c.fld 63 43 ≠ 0 ∧ c.target >>> 32 = 0 ∧ c.fld
      42 0 = 0 ∧ c.fld 95 64 = 0 ∧ restsHere s1 c c.target n x l ∧ restsHere s1 c (c.fld 127 96) k y src ∧ c.fld 63 43 ≤
      y.e.ctxLen ∧ x.e.home = y.e.home ∧ x.e.kvPerTok = y.e.kvPerTok ∧ x.e.pageClass = y.e.pageClass ∧ x.e.codecSlot =
      y.e.codecSlot ∧ c.fld 63 43 ≤ src.ctxLen ∧ (l.ns = src.ns ∨ l.ns = 0) ∧ l.pages = [] ∧ growRes s1 l.gid (usedUnitsOf
      l0) = some s2 ∧ getList s2 l.gid = some l1 ∧ fitBlocks (ps.foldl incRef s2) { l0 with resUnits := l1.resUnits } =
      some (l2, s3)) ∧
  (∃ (r : Nat) (d : Dma) (s s1 : State) (c : Cmd),
    taken 0x0430 [.operator, .maintenance] r d s = some (c, s1) ∧ c.payLen = 0 ∧ 256 ≤ c.resLen ∧ c.target = 0) :=
  ⟨⟨256, pay 8 1, fw 0x0401 8 4 0 up, rest 0x0401 [.operator, .tenant] 256 (pay 8 1) (fw 0x0401 8 4 0 up),
      ((allocPages (rest 0x0401 [.operator, .tenant] 256 (pay 8 1) (fw 0x0401 8 4 0 up)) (Cmd.fld (cmd 0x0401 [.operator, .tenant] 256 (pay 8 1) (fw 0x0401 8 4 0 up)) 35 32) (Cmd.tenant (cmd 0x0401 [.operator, .tenant] 256 (pay 8 1) (fw 0x0401 8 4 0 up))) true false (Cmd.fld (cmd 0x0401 [.operator, .tenant] 256 (pay 8 1) (fw 0x0401 8 4 0 up)) 16 0)).getD ([], up)).2,
      cmd 0x0401 [.operator, .tenant] 256 (pay 8 1) (fw 0x0401 8 4 0 up),
      ((allocPages (rest 0x0401 [.operator, .tenant] 256 (pay 8 1) (fw 0x0401 8 4 0 up)) (Cmd.fld (cmd 0x0401 [.operator, .tenant] 256 (pay 8 1) (fw 0x0401 8 4 0 up)) 35 32) (Cmd.tenant (cmd 0x0401 [.operator, .tenant] 256 (pay 8 1) (fw 0x0401 8 4 0 up))) true false (Cmd.fld (cmd 0x0401 [.operator, .tenant] 256 (pay 8 1) (fw 0x0401 8 4 0 up)) 16 0)).getD ([], up)).1,
      is_taken (by decide +kernel), by decide +kernel, by decide +kernel, by decide +kernel, by decide +kernel,
      by decide +kernel, by decide +kernel, by decide +kernel, by decide +kernel, by decide +kernel,
      is_pair ([], up) (by decide +kernel)⟩,
    ⟨256, pay 12 1,
      fw 0x0402 12 0 0 { up with ppm := { up.ppm with pages := [(0, ⟨0, 1, 0, .live, false, true, 0, 0, false⟩)] } }, _, _,
      is_taken (by decide +kernel), by decide +kernel⟩,
    ⟨256, pay 16 (noNode <<< 96 ||| 64 <<< 43 ||| 1 <<< 26), fw 0x0403 16 8 0 (withReq ent up), _, _, _, _, _, 0,
      newSlot ent, lst, _, _, _, is_taken (by decide +kernel), by decide +kernel, by decide +kernel, by decide +kernel,
      by decide +kernel, by decide +kernel, by decide +kernel, by unfold restsHere; decide +kernel, by decide +kernel,
      by decide +kernel, by decide +kernel, by decide +kernel, by decide +kernel, by decide +kernel,
      is_pair (lst, up) (by decide +kernel), isOne up (by decide +kernel), is_pair ([], up) (by decide +kernel),
      isOne lst (by decide +kernel)⟩,
    ⟨256, pay 8 0, fw 0x0404 8 0 0 (withReq ent up), _, _, 0, newSlot ent, lst, is_taken (by decide +kernel),
      by decide +kernel, by decide +kernel, by decide +kernel, by unfold restsHere; decide +kernel, by decide +kernel⟩,
    ⟨256, pay 16 (9 <<< 64 ||| 1), fw 0x0405 16 68 0 (withReq ent up), _, _, lst, is_taken (by decide +kernel),
      by decide +kernel⟩,
    ⟨256, pay 20 (1 <<< 112 ||| 1 <<< 64 ||| 1), fw 0x0410 20 0 0 up, _, _, is_taken (by decide +kernel),
      by decide +kernel⟩,
    ⟨256, pay 8 16,
      fw 0x0411 8 0 0 (let s := withSlot { newSlot ent with hist := List.replicate 16 0 } (withNode up); { s with ppm := { s.ppm with lists := [(9, { lst with ns := 1, ctxLen := 16 })] } }),
      _, _, 0, { newSlot ent with hist := List.replicate 16 0 }, { lst with ns := 1, ctxLen := 16 },
      is_taken (by decide +kernel), by decide +kernel, by decide +kernel, by decide +kernel, by decide +kernel,
      by decide +kernel, by decide +kernel, by decide +kernel, by decide +kernel, by unfold restsHere; decide +kernel,
      by decide +kernel⟩,
    ⟨256, pay 8 0, fw 0x0412 8 0 0 (withNode up), _, _, 0, pnode, is_taken (by decide +kernel), by decide +kernel⟩,
    ⟨256, pay 8 (noNode <<< 32 ||| 1), fw 0x0412 8 0 0 (withNode up), _, _, is_taken (by decide +kernel),
      by decide +kernel⟩,
    ⟨256, pay 16 (32768 <<< 96 ||| 64 <<< 43),
      fw 0x0420 16 0 0 (let s := withReq ent up; { s with rte := { s.rte with slots := [(0, newSlot ent), (1, newSlot { ent with gid := 10, ctxLen := 64 })] }, ppm := { s.ppm with lists := [(9, lst), (10, { lst with gid := 10, ctxLen := 64, pages := [5], ns := 1 })] } }),
      _, _, _, _, 0, 1, newSlot ent, newSlot { ent with gid := 10, ctxLen := 64 }, lst,
      { lst with gid := 10, ctxLen := 64, pages := [5], ns := 1 }, _, _, is_taken (by decide +kernel), by decide +kernel,
      by decide +kernel, by decide +kernel, by decide +kernel, by decide +kernel, by unfold restsHere; decide +kernel,
      by unfold restsHere; decide +kernel, by decide +kernel, by decide +kernel, by decide +kernel, by decide +kernel,
      by decide +kernel, by decide +kernel, by decide +kernel, by decide +kernel, isOne up (by decide +kernel),
      isOne lst (by decide +kernel), is_pair (lst, up) (by decide +kernel)⟩,
    ⟨256, pay 0 0, fw 0x0430 0 256 0 up, _, _, is_taken (by decide +kernel), by decide +kernel⟩⟩

/-- The hypotheses of `Obligations.CaravanCommands`. -/
theorem witness_CaravanCommands :
  (∃ (r : Nat) (d : Dma) (s s1 : State) (c : Cmd) (n : Nat) (x : Slot),
    let kind := c.fld 1 0
    let dest := c.fld 127 112
    taken 0x0301 [.operator] r d s = some (c, s1) ∧ c.payLen = 16 ∧ (c.fld 95 80 = 0 ∨ (10 ≤ c.fld 95 80 ∧ c.fld 95 80 ≤
      10000)) ∧ c.target >>> 32 = 0 ∧ kind ≤ 1 ∧ c.fld 79 2 = 0 ∧ c.fld 111 96 = 0 ∧ c.entry s1 c.target = .ok (n, x) ∧
      s1.cve.selfLost = false ∧ (nodeRec s1 dest).isSome = true ∧ markedLost s1 dest = false ∧ isUs s1 dest = false ∧
      (isPages kind = true → isUs s1 x.e.home = true) ∧ openEntry s1 n x = .ok () ∧ (x.e.state = .admitted ∨ x.e.state =
      .prefill ∨ x.e.state = .generate) ∧ x.e.promptComplete = true ∧ x.e.inStep = false ∧ x.e.movePend = false ∧
      x.restoring = false ∧ openRecs s1 < 4096) ∧
  (∃ (r : Nat) (d : Dma) (s s1 : State) (c : Cmd) (n k : Nat) (x : Slot) (v : Caravan),
    taken 0x0302 [.operator] r d s = some (c, s1) ∧ c.payLen = 0 ∧ c.target >>> 32 = 0 ∧ c.entry s1 c.target = .ok (n, x) ∧
      openEntry s1 n x = .ok () ∧ x.e.state = .handoff ∧ entryCvn s1 n = some (k, v) ∧ v.cstate = .offered) ∧
  (∃ (r : Nat) (d : Dma) (s s1 : State) (c : Cmd) (v : Caravan),
    taken 0x0303 [.operator, .maintenance] r d s = some (c, s1) ∧ c.payLen = 8 ∧ 64 ≤ c.resLen ∧ c.target >>> 32 = 0 ∧
      c.fld 47 0 = 0 ∧ getRec s1 (cvnKey (c.fld 63 48) c.target) = some v) ∧
  (∃ (r : Nat) (d : Dma) (s s1 : State) (c : Cmd) (i : Nat),
    let count := c.fld 175 160
    let drain := c.fld 159 128
    let num := c.fld 191 176
    let nodes := (c.recs 32 16 count).map nodeOf
    let own := nodes.getD i ⟨0, 0, 0, 0, 0, false, false⟩
    let atOnce := decide (c.fld 255 192 ≤ now s1)
    let e : Epoch := ⟨num, .pending, c.fld 255 192, if drain = 0 then 2000 else drain, 0, nodes, c.pay,
      if atOnce then none else some c.tok⟩
    taken 0x0310 [.operator] r d s = some (c, s1) ∧ (drain = 0 ∨ (100 ≤ drain ∧ drain ≤ 100000)) ∧ 1 ≤ count ∧ count ≤ 4096
      ∧ c.payLen = 32 + 16 * count ∧ c.target = 0 ∧ c.fld 127 0 = 0 ∧ (∀ r ∈ c.recs 32 16 count, bits r 95 80 ≤ 255 ∧ bits
      r 67 0 = 0 ∧ 1 ≤ bits r 79 76 ∧ bits r 79 76 ≤ 3) ∧ 1 ≤ num ∧ num ≤ 0xFFFE ∧ (s1.cve.epochs.all fun e => newer num
      e.num) = true ∧ firstRepeat (fun r => some r.node) 0 nodes = none ∧ firstRepeat (fun r => if r.inDomain then some
      r.domain else none) 0 nodes = none ∧ nodes.findIdx? (fun r => r.node == me s1) = some i ∧ own.role = s1.hcu.role ∧
      own.partner = actualPartner s1 ∧ s1.cve.epochs.length < 4 ∧ (s1.cve.epochs.all fun e => e.st != .pending) = true ∧
      (c.fld 255 192 = 0 ∨ s1.clk.synced = true)) ∧
  (∃ (r : Nat) (d : Dma) (s s1 : State) (c : Cmd),
    taken 0x0311 [.operator, .maintenance] r d s = some (c, s1) ∧ c.payLen = 8 ∧ c.fld 15 0 = 0 ∧ 64 ≤ c.resLen ∧ c.target
      = 0 ∧ c.fld 63 16 = 0) ∧
  (∃ (r : Nat) (d : Dma) (s s1 : State) (c : Cmd) (e : Epoch),
    taken 0x0311 [.operator, .maintenance] r d s = some (c, s1) ∧ c.payLen = 8 ∧ c.fld 15 0 ≠ 0 ∧ s1.cve.epochs.find? (fun
      e => e.num == c.fld 15 0) = some e ∧ c.target = 0 ∧ c.fld 63 16 = 0 ∧ e.image.length ≤ c.resLen) ∧
  (∃ (s : State) (e : Epoch),
    s.cve.epochs.find? (fun e => e.st == .pending) = some e ∧ e.activateAt ≤ now s) ∧
  (∃ (s : State) (num : Nat) (e : Epoch),
    s.cve.epochs.find? (fun e => e.num == num) = some e ∧ e.st = .draining ∧ e.drainFrom + e.drainUs * 1000 ≤ now s) :=
  ⟨⟨256, pay 16 (2 <<< 112), fw 0x0301 16 0 0 (withReq { ent with promptComplete := true } (mapped up)), _, _, 0,
      newSlot { ent with promptComplete := true }, is_taken (by decide +kernel), by decide +kernel⟩,
    ⟨256, pay 0 0, fw 0x0302 0 0 0 (withCvn (cvn .offered 1 2) (withReq { ent with state := .handoff } (mapped up))), _, _,
      0, cvnKey 1 1, newSlot { ent with state := .handoff }, cvn .offered 1 2, is_taken (by decide +kernel),
      by decide +kernel⟩,
    ⟨256, pay 8 (1 <<< 48), fw 0x0303 8 64 1 (withCvn (cvn .offered 1 2) up), _, _, cvn .offered 1 2,
      is_taken (by decide +kernel), by decide +kernel⟩,
    ⟨256, pay 48 (1 <<< 176 ||| 1 <<< 160 ||| (1 <<< 112 ||| 0xFFFF <<< 96 ||| 3 <<< 76) <<< 256), fw 0x0310 48 0 0 up, _,
      _, 0, is_taken (by decide +kernel), by decide +kernel⟩,
    ⟨256, pay 8 0, fw 0x0311 8 64 0 (mapped up), _, _, is_taken (by decide +kernel), by decide +kernel⟩,
    ⟨256, pay 8 1, fw 0x0311 8 64 0 (mapped up), _, _,
      ⟨1, .current, 0, 2000, 0, [⟨1, 0xFFFF, 0, 3, 0, true, false⟩, ⟨2, 0xFFFF, 0, 3, 1, true, false⟩], [], none⟩,
      is_taken (by decide +kernel), by decide +kernel⟩,
    ⟨{ up with cve := { up.cve with epochs := [⟨1, .pending, 0, 2000, 0, [⟨1, 0xFFFF, 0, 3, 0, true, false⟩, ⟨2, 0xFFFF, 0, 3, 1, true, false⟩], [], none⟩] } },
      ⟨1, .pending, 0, 2000, 0, [⟨1, 0xFFFF, 0, 3, 0, true, false⟩, ⟨2, 0xFFFF, 0, 3, 1, true, false⟩], [], none⟩,
      by decide +kernel⟩,
    ⟨{ up with cve := { up.cve with epochs := [⟨1, .draining, 0, 2000, 0, [⟨1, 0xFFFF, 0, 3, 0, true, false⟩, ⟨2, 0xFFFF, 0, 3, 1, true, false⟩], [], none⟩] } },
      1, ⟨1, .draining, 0, 2000, 0, [⟨1, 0xFFFF, 0, 3, 0, true, false⟩, ⟨2, 0xFFFF, 0, 3, 1, true, false⟩], [], none⟩,
      by decide +kernel⟩⟩

/-- The hypotheses of `Obligations.CaravanMessages`. -/
theorem witness_CaravanMessages :
  (∃ (s s2 : State) (m : CvnMsg) (cslot key : Nat),
    ¬ (s.cve.selfLost = true ∧ m.epoch = epochNum s) ∧ s.mru.st ≠ .fenced ∧ offerHdr s m = .ok cslot ∧ offerFits s m =
      St.ok ∧ newKey (takeSlot s).2 0 (landingLen m.kind m.histTokens m.auxBytes m.pageUnits) m.tenant 2 m.src (.caravan
      (cvnKey m.src m.cvnId)) = some (key, s2)) ∧
  (∃ (s : State) (m : CvnMsg) (v : Caravan) (x : Slot),
    cvnHeard s Cv.pull m ∧ getRec s (cvnKey m.src m.cvnId) = some v ∧ v.cstate = .offered ∧ epochLive s m.epoch = true ∧
      getSlot s v.slot = some x) ∧
  (∃ (s : State) (m : CvnMsg) (v : Caravan),
    cvnHeard s Cv.manifest m ∧ getRec s (cvnKey m.src m.cvnId) = some v ∧ v.cstate = .pulling ∧ epochLive s m.epoch = true
      ∧ manifestOk s (cvnKey m.src m.cvnId) v m = true ∧ codecOk s (cvnKey m.src m.cvnId) v = true ∧ mirroring s = false) ∧
  (∃ (s : State) (m : CvnMsg) (v : Caravan),
    cvnHeard s Cv.receipt m ∧ getRec s (cvnKey m.src m.cvnId) = some v ∧ (v.cstate = .pulled ∨ v.cstate = .inDoubt)) ∧
  (∃ (s : State) (m : CvnMsg) (v : Caravan),
    cvnHeard s Cv.release m ∧ isUs s m.dst = true ∧ getRec s (cvnKey m.src m.cvnId) = some v ∧ v.cstate = .relWait) ∧
  (∃ (s : State) (m : CvnMsg),
    cvnHeard s Cv.release m ∧ isUs s m.dst = false) ∧
  (∃ (s : State) (m : CvnMsg) (v : Caravan),
    cvnHeard s Cv.decline m ∧ getRec s (cvnKey m.src m.cvnId) = some v ∧ (v.cstate = .offered ∨ v.cstate = .pulled ∨
      v.cstate = .inDoubt) ∧ m.status ≠ St.epochStale) ∧
  (∃ (s : State) (m : CvnMsg) (v : Caravan),
    cvnHeard s Cv.withdraw m ∧ getRec s (cvnKey m.src m.cvnId) = some v ∧ v.cstate = .pulling) ∧
  (∃ (s : State) (m : CvnMsg),
    cvnHeard s Cv.probe m ∧ m.frm = m.src) ∧
  (∃ (s : State) (m : CvnMsg) (v : Caravan),
    cvnHeard s Cv.probe m ∧ m.frm ≠ m.src ∧ getRec s (cvnKey m.src m.cvnId) = some v ∧ (v.cstate = .pulled ∨ v.cstate =
      .inDoubt)) ∧
  (∃ (s : State) (m : CvnMsg) (v : Caravan),
    cvnHeard s Cv.answer m ∧ getRec s (cvnKey m.src m.cvnId) = some v ∧ v.cstate = .inDoubt) ∧
  (∃ (s : State) (cvn : Nat) (v : Caravan),
    getRec s (ownCvn s cvn .offered) = some v ∧ v.cstate = .offered ∧ v.startTime + v.offerLife * 1000 ≤ now s) ∧
  (∃ (s : State) (src cvn : Nat) (v : Caravan),
    getRec s (cvnKey src cvn) = some v ∧ v.cstate = .pulling ∧ v.stamp + v.timeout * 1000 ≤ now s) ∧
  (∃ (s : State) (cvn : Nat) (v : Caravan),
    getRec s (ownCvn s cvn .pulled) = some v ∧ v.cstate = .pulled ∧ v.stamp + v.timeout * 1000 ≤ now s) ∧
  (∃ (s : State) (src cvn : Nat) (v : Caravan),
    getRec s (cvnKey src cvn) = some v ∧ (v.cstate = .inDoubt ∨ (v.cstate = .relWait ∧ 0 < v.probes)) ∧ v.probedAt +
      v.probeUs * 1000 ≤ now s) ∧
  (∃ (s : State) (src cvn : Nat) (v : Caravan),
    getRec s (cvnKey src cvn) = some v ∧ v.cstate = .relWait ∧ v.probes = 0 ∧ v.stamp + v.relUs * 1000 ≤ now s) ∧
  (∃ (s : State) (src cvn t : Nat) (v : Caravan),
    getRec s (cvnKey src cvn) = some v ∧ v.bounceUntil = some t ∧ v.bounceAt + 50000 ≤ now s ∧ v.cstate = .offered) ∧
  (∃ (s : State) (src cvn t : Nat) (v : Caravan),
    getRec s (cvnKey src cvn) = some v ∧ v.bounceUntil = some t ∧ v.bounceAt + 50000 ≤ now s ∧ v.cstate = .pulling) :=
  ⟨⟨mapped ready,
      ((newKey (takeSlot (mapped ready)).2 0 (landingLen 0 1 0 0) 0 2 2 (.caravan (cvnKey 2 1))).getD (0, up)).2,
      ⟨2, 9, 0, 1, 0, 2, 1, 1, 1, 0, 0, 0, 1, 0, 0, 0, 200, 0, 0, 1, 1, 0, 0, 0, 0⟩, 0,
      ((newKey (takeSlot (mapped ready)).2 0 (landingLen 0 1 0 0) 0 2 2 (.caravan (cvnKey 2 1))).getD (0, up)).1,
      by decide +kernel, by decide +kernel, by decide +kernel, by decide +kernel, is_pair (0, up) (by decide +kernel)⟩,
    ⟨withCvn (cvn .offered 1 2) (withReq { ent with state := .handoff } (mapped up)),
      ⟨2, 9, 0, 1, 0, 1, 2, 1, 1, 0, 0, 0, 1, 0, 0, 0, 0, 0, 0, 1, 2, 0, 0, 0, 0⟩, cvn .offered 1 2,
      newSlot { ent with state := .handoff }, by unfold cvnHeard; decide +kernel, by decide +kernel⟩,
    ⟨(let s := withCvn (cvn .pulling 2 1) (mapped up); { s with cve := { s.cve with landing := [(cvnKey 2 1, memWriteN [] 0 (entryImage ent ++ leBytes 4 5))] } }),
      ⟨2, 9, 0, 1, 0, 2, 1, 1, 1, 0, 0, 0, 1, 0, 0, crc32c (entryImage ent ++ leBytes 4 5), 0, 0, 0, 1, 3, 0, 0, 0, 0⟩,
      cvn .pulling 2 1, by unfold cvnHeard; decide +kernel, by decide +kernel⟩,
    ⟨withCvn (cvn .pulled 1 2) (mapped up), ⟨2, 9, 0, 1, 0, 1, 2, 1, 1, 0, 0, 0, 1, 0, 0, 0, 0, 0, 0, 1, 4, 0, 0, 0, 0⟩,
      cvn .pulled 1 2, by unfold cvnHeard; decide +kernel, by decide +kernel⟩,
    ⟨withCvn (cvn .relWait 2 1) (mapped up), ⟨2, 9, 0, 1, 0, 2, 1, 1, 1, 0, 0, 0, 1, 0, 0, 0, 0, 0, 0, 1, 5, 0, 0, 0, 0⟩,
      cvn .relWait 2 1, by unfold cvnHeard; decide +kernel, by decide +kernel⟩,
    ⟨mapped up, ⟨2, 9, 0, 1, 0, 2, 3, 1, 1, 0, 0, 0, 1, 0, 0, 0, 0, 0, 0, 1, 5, 0, 0, 0, 0⟩,
      by unfold cvnHeard; decide +kernel, by decide +kernel⟩,
    ⟨withCvn (cvn .offered 1 2) (mapped up),
      ⟨2, 9, 0, 1, 0, 1, 2, 1, 1, 0, 0x0301, 0, 1, 0, 0, 0, 0, 0, 0, 1, 6, 0, 0, 0, 0⟩, cvn .offered 1 2,
      by unfold cvnHeard; decide +kernel, by decide +kernel⟩,
    ⟨withCvn (cvn .pulling 2 1) (mapped up), ⟨2, 9, 0, 1, 0, 2, 1, 1, 1, 0, 0, 0, 1, 0, 0, 0, 0, 0, 0, 1, 7, 0, 0, 0, 0⟩,
      cvn .pulling 2 1, by unfold cvnHeard; decide +kernel, by decide +kernel⟩,
    ⟨mapped up, ⟨2, 9, 0, 1, 0, 2, 1, 1, 1, 0, 0, 0, 1, 0, 0, 0, 0, 0, 0, 1, 8, 0, 0, 0, 0⟩,
      by unfold cvnHeard; decide +kernel, by decide +kernel⟩,
    ⟨withCvn (cvn .pulled 1 2) (mapped up), ⟨2, 9, 0, 1, 0, 1, 2, 1, 1, 0, 0, 0, 1, 0, 0, 0, 0, 0, 0, 1, 8, 0, 0, 0, 0⟩,
      cvn .pulled 1 2, by unfold cvnHeard; decide +kernel, by decide +kernel⟩,
    ⟨withCvn (cvn .inDoubt 1 2) (mapped up), ⟨2, 9, 0, 1, 0, 1, 2, 1, 1, 0, 0, 0, 1, 0, 0, 0, 0, 0, 0, 1, 9, 0, 0, 0, 1⟩,
      cvn .inDoubt 1 2, by unfold cvnHeard; decide +kernel, by decide +kernel⟩,
    ⟨withCvn (cvn .offered 1 2) (mapped up), 1, Tests.cvn .offered 1 2, by decide +kernel⟩,
    ⟨withCvn (cvn .pulling 2 1) (mapped up), 2, 1, Tests.cvn .pulling 2 1, by decide +kernel⟩,
    ⟨withCvn (cvn .pulled 1 2) (mapped up), 1, Tests.cvn .pulled 1 2, by decide +kernel⟩,
    ⟨withCvn (cvn .inDoubt 1 2) (mapped up), 1, 1, Tests.cvn .inDoubt 1 2, by decide +kernel⟩,
    ⟨withCvn (cvn .relWait 2 1) (mapped up), 2, 1, Tests.cvn .relWait 2 1, by decide +kernel⟩,
    ⟨withCvn { Tests.cvn .offered 1 2 with bounceUntil := some 5 } (mapped up), 1, 1, 5,
      { Tests.cvn .offered 1 2 with bounceUntil := some 5 }, by decide +kernel⟩,
    ⟨withCvn { Tests.cvn .pulling 2 1 with bounceUntil := some 5 } (mapped up), 2, 1, 5,
      { Tests.cvn .pulling 2 1 with bounceUntil := some 5 }, by decide +kernel⟩⟩

/-- The hypotheses of `Obligations.CodecObjectCommands`. -/
theorem witness_CodecObjectCommands :
  (∃ (r : Nat) (d : Dma) (s s1 : State) (c : Cmd) (g : Gen),
    let h := leNat (c.pay.take 64)
    let k := bits h 9 4
    taken 0x0601 [.operator, .tenant] r d s = some (c, s1) ∧ loadLens c h = .ok () ∧ c.target = 0 ∧ loadFields h = .ok () ∧
      bits h 3 0 = 0 ∧ slotMine (c.priv == .tenant) c.tenant (cslot s1 k) = true ∧ (cslot s1 k).newest = some g) ∧
  (∃ (r : Nat) (d : Dma) (s s1 : State) (c : Cmd),
    let h := leNat (c.pay.take 64)
    let body := c.pay.drop 64
    let k := bits h 9 4
    let x := cslot s1 k
    let id := crc32c (tableBytes h body)
    taken 0x0601 [.operator, .tenant] r d s = some (c, s1) ∧ loadLens c h = .ok () ∧ c.target = 0 ∧ loadFields h = .ok () ∧
      bits h 3 0 ≠ 0 ∧ slotMine (c.priv == .tenant) c.tenant x = true ∧ (bits h 3 0 = 2 → loadStep2 (loadTab h body) body =
      .ok ()) ∧ loadStep3 x (bits h 3 0) (loadTab h body) = .ok () ∧ (x.gens.all fun g => g.tableId != id) = true ∧
      x.gens.length < 8 ∧ (x.gens.map (·.tag)).contains (bits h 15 12) = false) ∧
  (∃ (r : Nat) (d : Dma) (s s1 : State) (c : Cmd),
    let x := cslot s1 (c.fld 5 0)
    taken 0x0602 [.operator, .tenant, .maintenance] r d s = some (c, s1) ∧ c.payLen = 8 ∧ 288 ≤ c.resLen ∧ c.target = 0 ∧
      c.fld 63 6 = 0 ∧ slotMine (c.priv == .tenant) c.tenant x = true) ∧
  (∃ (r : Nat) (d : Dma) (s s1 s2 : State) (c : Cmd) (g : Gen) (coded : Nat),
    let src := c.fld 319 256
    let base := c.fld 255 192
    let idx := c.fld 191 128
    let total := c.fld 127 88
    let limit := c.fld 87 48
    let n := blocksOf total
    let slot := c.fld 5 0
    let ten := c.priv == .tenant
    let blocks := (chunks 65536 n (devRead s1 src total)).map fun b => some (losslessBlock slot g b)
    taken 0x0603 [.operator, .tenant] r d s = some (c, s1) ∧ c.payLen = 40 ∧ n * 65552 ≤ limit ∧ base + limit ≤ objectBytes
      ∧ 1 ≤ total ∧ total ≤ 1099511562240 ∧ src + total ≤ objectBytes ∧ idx + indexLen n ≤ objectBytes ∧ c.target = 0 ∧
      c.fld 47 6 = 0 ∧ objAddr idx = true ∧ objAddr base = true ∧ objAddr src = true ∧ rangeMine s1 ten c.tenant src total
      = true ∧ rangeMine s1 ten c.tenant base limit = true ∧ rangeMine s1 ten c.tenant idx (indexLen n) = true ∧ slotMine
      ten c.tenant (cslot s1 slot) = true ∧ (cslot s1 slot).cond = .lossless ∧ encGen (cslot s1 slot) = some g ∧ rangeRead
      s1 src total = St.ok ∧ rangeWrite s1 base limit = St.ok ∧ rangeWrite s1 idx (indexLen n) = St.ok ∧ writeObject
      (readAll s1 src total) base idx total 0 slot 1 blocks = some (coded, s2)) ∧
  (∃ (r : Nat) (d : Dma) (s s1 s2 : State) (c : Cmd) (i : Index),
    let idx := c.fld 255 192
    let dest := c.fld 191 128
    let dlen := c.fld 127 88
    let first := c.fld 87 64
    let count := c.fld 63 40
    let ks := granules first count
    let bytes := ks.foldl (fun a k => a + impliedRaw i k) 0
    let rs := ks.map (decodeBlkOut s1 idx i)
    taken 0x0604 [.operator, .tenant] r d s = some (c, s1) ∧ c.payLen = 32 ∧ 1 ≤ count ∧ count ≤ 65536 ∧ dest + dlen ≤
      objectBytes ∧ 2 * count ≤ c.resLen ∧ c.target = 0 ∧ c.fld 39 0 = 0 ∧ objAddr dest = true ∧ objAddr idx = true ∧
      rangeMine s1 (c.priv == .tenant) c.tenant idx 64 = true ∧ rangeMine s1 (c.priv == .tenant) c.tenant dest dlen = true
      ∧ readIndex s1 idx = .ok i ∧ objectMine s1 (c.priv == .tenant) c.tenant idx i = true ∧ first + count ≤ i.count ∧
      bytes ≤ dlen ∧ rangeWrite s1 dest bytes = St.ok ∧ writePieces (readAll s1 i.base i.coded) dest ((ks.zip rs).map fun
      kr => (decodedBytes (impliedRaw i kr.1) kr.2, isOk kr.2)) = some s2) ∧
  (∃ (r : Nat) (d : Dma) (s s1 s2 : State) (c : Cmd) (g g0 : Gen) (coded : Nat),
    let p := qpay (leNat c.pay)
    let ten := c.priv == .tenant
    let n := blocksOf p.total
    let q := qtab g
    let xs := bf16sAt s1 p.src (p.total / 2)
    let units := objUnits q p.row xs
    let blocks := objBlocks q p.slot xs (groupScales q p.row xs.length (unitScales s1 q p units))
    taken 0x0605 [.operator, .tenant] r d s = some (c, s1) ∧ qpayChecks c .quantize p = .ok () ∧ p.kv = false ∧ rangeMine
      s1 ten c.tenant p.src p.total = true ∧ rangeMine s1 ten c.tenant p.base p.limit = true ∧ rangeMine s1 ten c.tenant
      p.idx (indexLen n) = true ∧ slotMine ten c.tenant (cslot s1 p.slot) = true ∧ (cslot s1 p.slot).cond = .quant ∧ (cslot
      s1 p.slot).newest = some g0 ∧ objShape (qtab g0) p = .ok () ∧ (p.given = true → scaleRoom (qtab g0) p = .ok ()) ∧
      encGen (cslot s1 p.slot) = some g ∧ rangeRead s1 p.src p.total = St.ok ∧ rangeWrite s1 p.base p.limit = St.ok ∧
      rangeWrite s1 p.idx (indexLen n) = St.ok ∧ (p.given = true → rangeMine s1 ten c.tenant p.scaleAddr (2 * units.length)
      = true ∧ rangeRead s1 p.scaleAddr (2 * units.length) = St.ok) ∧ writeObject (readAll s1 p.src p.total) p.base p.idx
      p.total p.row p.slot 2 (blocks.map fun b => some b.1) = some (coded, s2)) ∧
  (∃ (r : Nat) (d : Dma) (s s1 s2 : State) (c : Cmd) (i : Index) (g0 : Gen),
    let p := qpay (leNat c.pay)
    let ten := c.priv == .tenant
    let ks := List.range (blocksOf p.total)
    let elems := ks.foldl (fun a k => a + impliedRaw i k / 2) 0
    let rs := ks.map fun k => elemsOf (decodeBlk s1 p.idx i k)
    taken 0x0606 [.operator, .tenant] r d s = some (c, s1) ∧ qpayChecks c .dequantize p = .ok () ∧ p.kv = false ∧ rangeMine
      s1 ten c.tenant p.idx 64 = true ∧ rangeMine s1 ten c.tenant p.base p.limit = true ∧ slotMine ten c.tenant (cslot s1
      p.slot) = true ∧ (cslot s1 p.slot).cond = .quant ∧ (cslot s1 p.slot).newest = some g0 ∧ objShape (qtab g0) p = .ok ()
      ∧ readIndex s1 p.idx = .ok i ∧ objectMine s1 ten c.tenant p.idx i = true ∧ blocksOf p.total ≤ i.count ∧ elems *
      outSize p.bf16Out ≤ p.limit ∧ rangeWrite s1 p.base (elems * outSize p.bf16Out) = St.ok ∧ writePieces (readAll s1
      i.base i.coded) p.base ((ks.zip rs).map fun kr => elemPiece p.bf16Out (impliedRaw i kr.1 / 2) kr.2) = some s2) ∧
  (∃ (r : Nat) (d : Dma) (s s1 s2 : State) (c : Cmd) (g g0 : Gen),
    let p := qpay (leNat c.pay)
    let ten := c.priv == .tenant
    let units := objUnits (qtab g) p.row (bf16sAt s1 p.src (p.total / 2))
    taken 0x0607 [.operator, .tenant] r d s = some (c, s1) ∧ qpayChecks c .scaleFind p = .ok () ∧ p.kv = false ∧ rangeMine
      s1 ten c.tenant p.src p.total = true ∧ slotMine ten c.tenant (cslot s1 p.slot) = true ∧ (cslot s1 p.slot).cond =
      .quant ∧ (cslot s1 p.slot).newest = some g0 ∧ objShape (qtab g0) p = .ok () ∧ scaleRoom (qtab g0) p = .ok () ∧ encGen
      (cslot s1 p.slot) = some g ∧ rangeMine s1 ten c.tenant p.scaleAddr (2 * units.length) = true ∧ rangeRead s1 p.src
      p.total = St.ok ∧ rangeWrite (readAll s1 p.src p.total) p.scaleAddr (2 * units.length) = St.ok ∧ devWrite (readAll s1
      p.src p.total) p.scaleAddr (units.flatMap fun u => leBytes 2 (scaleOf (qtab g) (clipPoint (qtab g) u)).toNat) = some
      s2) ∧
  (∃ (r : Nat) (d : Dma) (s s1 : State) (c : Cmd) (i : Index),
    let live := (namedGens s1 (c.fld 255 192) i).filterMap id
    taken 0x0608 [.operator, .tenant] r d s = some (c, s1) ∧ c.payLen = 32 ∧ c.target = 0 ∧ (c.fld 3 0 = 2 ∨ c.fld 3 0 = 3)
      ∧ c.fld 23 4 = 0 ∧ objAddr (c.fld 255 192) = true ∧ rangeMine s1 (c.priv == .tenant) c.tenant (c.fld 255 192) 64 =
      true ∧ readIndex s1 (c.fld 255 192) = .ok i ∧ objectMine s1 (c.priv == .tenant) c.tenant (c.fld 255 192) i = true ∧
      slotMine (c.priv == .tenant) c.tenant (cslot s1 i.slot) = true ∧ (live.all fun kt => slotMine (c.priv == .tenant)
      c.tenant (cslot s1 kt.1)) = true) ∧
  (∃ (r : Nat) (d : Dma) (s s1 s2 : State) (c : Cmd) (i : Index) (g : Gen) (coded : Nat),
    let idx := c.fld 255 192
    let base := c.fld 191 128
    let nidx := c.fld 127 64
    let limit := c.fld 63 24
    let ten := c.priv == .tenant
    let out := ((List.range i.count).map (decodeBlk s1 idx i)).map (recodeBlock i.slot g)
    taken 0x0608 [.operator, .tenant] r d s = some (c, s1) ∧ c.payLen = 32 ∧ c.target = 0 ∧ c.fld 3 0 = 1 ∧ c.fld 23 4 = 0
      ∧ objAddr nidx = true ∧ objAddr base = true ∧ objAddr idx = true ∧ rangeMine s1 ten c.tenant idx 64 = true ∧
      readIndex s1 idx = .ok i ∧ objectMine s1 ten c.tenant idx i = true ∧ i.count * 65552 ≤ limit ∧ base + limit ≤
      objectBytes ∧ rangeMine s1 ten c.tenant base limit = true ∧ rangeMine s1 ten c.tenant nidx (indexLen i.count) = true
      ∧ slotMine ten c.tenant (cslot s1 i.slot) = true ∧ encGen (cslot s1 i.slot) = some g ∧ rangeWrite s1 base limit =
      St.ok ∧ rangeWrite s1 nidx (indexLen i.count) = St.ok ∧ writeObject (readAll s1 i.base i.coded) base nidx i.total
      i.rowLen i.slot i.kind (out.map (·.1)) = some (coded, s2)) ∧
  (∃ (s : State) (id : Nat) (j : CodecJob),
    Tbl.get s.cdu.jobs id = some j) :=
  ⟨⟨256, pay 64 0, fw 0x0601 64 0 0 (withGen .quant qGen up), _, _, qGen, is_taken (by decide +kernel), by decide +kernel⟩,
    ⟨256, .data (leBytes 64 qGen.header ++ qGen.body), fw 0x0601 80 0 0 up, _, _, is_taken (by decide +kernel),
      by decide +kernel⟩,
    ⟨256, pay 8 0, fw 0x0602 8 288 0 up, _, _, is_taken (by decide +kernel), by decide +kernel⟩,
    ⟨256, compressPay, compressState, _, _, _, lGen, _, is_taken (by decide +kernel), by decide +kernel, by decide +kernel,
      by decide +kernel, by decide +kernel, by decide +kernel, by decide +kernel, by decide +kernel, by decide +kernel,
      by decide +kernel, by decide +kernel, by decide +kernel, by decide +kernel, by decide +kernel, by decide +kernel,
      by decide +kernel, by decide +kernel, by decide +kernel, by decide +kernel, by decide +kernel, by decide +kernel,
      by decide +kernel, is_pair (0, up) (compress_fits _ _ rfl rfl)⟩,
    ⟨256, pay 32 (8192 <<< 128 ||| 1 <<< 88 ||| 1 <<< 40), fw 0x0604 32 2 0 rawObject, _, _, _, ⟨4096, 1, 17, 1, 0, 0, 1⟩,
      is_taken (by decide +kernel), by decide +kernel, by decide +kernel, by decide +kernel, by decide +kernel,
      by decide +kernel, by decide +kernel, by decide +kernel, by decide +kernel, by decide +kernel, by decide +kernel,
      by decide +kernel, by decide +kernel, by decide +kernel, by decide +kernel, by decide +kernel, by decide +kernel,
      isOne up (by decide +kernel)⟩,
    ⟨256, pay 64 (8192 <<< 320 ||| 4096 <<< 256 ||| 64 <<< 152 ||| 65552 <<< 112 ||| 32 <<< 49),
      fw 0x0605 64 0 0 (backed2 (withGen .quant qGen up)), _, _, _, qGen, qGen, _, is_taken (by decide +kernel),
      by decide +kernel, by decide +kernel, by decide +kernel, by decide +kernel, by decide +kernel, by decide +kernel,
      by decide +kernel, by decide +kernel, by decide +kernel, by decide +kernel, by decide +kernel, by decide +kernel,
      by decide +kernel, by decide +kernel, by decide +kernel, is_pair (0, up) (by decide +kernel)⟩,
    ⟨256, pay 64 (8192 <<< 256 ||| 64 <<< 152 ||| 128 <<< 112 ||| 32 <<< 49), fw 0x0606 64 2 0 zeroObject, _, _, _,
      ⟨4096, 64, 40, 1, 0, 0, 2⟩, _, is_taken (by decide +kernel), by decide +kernel, by decide +kernel, by decide +kernel,
      by decide +kernel, by decide +kernel, by decide +kernel, isOne qGen (by decide +kernel), by decide +kernel,
      by decide +kernel, by decide +kernel, by decide +kernel, by decide +kernel, by decide +kernel,
      isOne up (by decide +kernel)⟩,
    ⟨256, pay 64 (4096 <<< 384 ||| 8192 <<< 320 ||| 64 <<< 152 ||| 32 <<< 49),
      fw 0x0607 64 0 0 (backed2 (withGen .quant qGen up)), _, _, _, qGen, qGen, is_taken (by decide +kernel),
      by decide +kernel, by decide +kernel, by decide +kernel, by decide +kernel, by decide +kernel, by decide +kernel,
      by decide +kernel, by decide +kernel, by decide +kernel, by decide +kernel, by decide +kernel, by decide +kernel,
      isOne up (by decide +kernel)⟩,
    ⟨256, pay 32 2, fw 0x0608 32 0 0 rawObject, _, _, ⟨4096, 1, 17, 1, 0, 0, 1⟩, is_taken (by decide +kernel),
      by decide +kernel⟩,
    ⟨256, pay 32 (8192 <<< 128 ||| 81920 <<< 64 ||| 65552 <<< 24 ||| 1), fw 0x0608 32 0 0 zeroObject, _, _, _,
      ⟨4096, 64, 40, 1, 0, 0, 2⟩, _, _, is_taken (by decide +kernel), by decide +kernel, by decide +kernel,
      by decide +kernel, by decide +kernel, by decide +kernel, by decide +kernel, by decide +kernel, by decide +kernel,
      by decide +kernel, by decide +kernel, by decide +kernel, by decide +kernel, by decide +kernel, by decide +kernel,
      by decide +kernel, isOne qGen (by decide +kernel), by decide +kernel, by decide +kernel,
      is_pair (0, up) (by decide +kernel)⟩,
    ⟨{ up with cdu := { up.cdu with jobs := [(3, ⟨aTok, [], 0, 0, 0⟩)] } }, 3, ⟨aTok, [], 0, 0, 0⟩, by decide +kernel⟩⟩

/-- The hypotheses of `Obligations.CodecRecordCommands`. -/
theorem witness_CodecRecordCommands :
  (∃ (r : Nat) (d : Dma) (s s1 s2 s3 : State) (c : Cmd) (n : Nat) (x : Slot) (l l2 : PList) (g : Gen),
    let p := qpay (leNat c.pay)
    let ten := c.priv == .tenant
    let q := qtab g
    let h := holdGens s1 (encGens p.slot s1)
    let toks := chunks q.recElems p.toks (bf16sAt h p.src (q.recElems * p.toks))
    let units := kvUnits q toks
    let scales := unitScales h q p units
    let amaxs := if p.given then scales.map (givenAmax q) else units.map fun u => toBf16 (clipPoint q u)
    taken 0x0605 [.operator, .tenant] r d s = some (c, s1) ∧ qpayChecks c .quantize p = .ok () ∧ p.kv = true ∧ restsHere s1
      c c.target n x l ∧ getList h x.e.gid = some l ∧ slotMine ten c.tenant (cslot h p.slot) = true ∧ (cslot h p.slot).cond
      = .quant ∧ kvSlotOk h p.slot l = true ∧ (p.first + p.toks) * l.kvPerTok ≤ l.pages.length * psize l.cls ∧ l.shared *
      psize l.cls ≤ p.first * l.kvPerTok ∧ encGen (cslot h p.slot) = some g ∧ p.src + 2 * q.recElems * p.toks ≤ objectBytes
      ∧ (p.given = true → p.scaleAddr + 2 * q.units ≤ objectBytes) ∧ rangeMine h ten c.tenant p.src (2 * q.recElems *
      p.toks) = true ∧ rangeRead h p.src (2 * q.recElems * p.toks) = St.ok ∧ (p.given = true → rangeMine h ten c.tenant
      p.scaleAddr (2 * q.units) = true ∧ rangeRead h p.scaleAddr (2 * q.units) = St.ok) ∧ privRun h l.gid (p.first *
      l.kvPerTok) (p.toks * l.kvPerTok) = some s2 ∧ getList s2 l.gid = some l2 ∧ writeRecords q l2 p.slot p.first (toks.map
      (bulkRecord q scales amaxs)) s2 = some s3) ∧
  (∃ (r : Nat) (d : Dma) (s s1 s2 : State) (c : Cmd) (n : Nat) (x : Slot) (l : PList) (g : Gen),
    let p := qpay (leNat c.pay)
    let ten := c.priv == .tenant
    let k := (qtab g).recElems
    let rs := (granules p.first p.toks).map fun t => recordElems (decodeRec s1 l t)
    taken 0x0606 [.operator, .tenant] r d s = some (c, s1) ∧ qpayChecks c .dequantize p = .ok () ∧ p.kv = true ∧ restsHere
      s1 c c.target n x l ∧ slotMine ten c.tenant (cslot s1 p.slot) = true ∧ (cslot s1 p.slot).cond = .quant ∧ kvSlotOk s1
      p.slot l = true ∧ (p.first + p.toks) * l.kvPerTok ≤ l.pages.length * psize l.cls ∧ (cslot s1 p.slot).newest = some g
      ∧ p.toks * k * outSize p.bf16Out ≤ p.limit ∧ x.e.state.terminal = false ∧ rangeMine s1 ten c.tenant p.base p.limit =
      true ∧ rangeWrite s1 p.base (p.toks * k * outSize p.bf16Out) = St.ok ∧ writePieces s1 p.base (rs.map (elemPiece
      p.bf16Out k)) = some s2) ∧
  (∃ (r : Nat) (d : Dma) (s s1 s2 : State) (c : Cmd) (n : Nat) (x : Slot) (l : PList) (g : Gen),
    let p := qpay (leNat c.pay)
    let ten := c.priv == .tenant
    let q := qtab g
    let units := kvUnits q (chunks q.recElems p.toks (bf16sAt s1 p.src (q.recElems * p.toks)))
    taken 0x0607 [.operator, .tenant] r d s = some (c, s1) ∧ qpayChecks c .scaleFind p = .ok () ∧ p.kv = true ∧ restsHere
      s1 c c.target n x l ∧ slotMine ten c.tenant (cslot s1 p.slot) = true ∧ (cslot s1 p.slot).cond = .quant ∧
      scaleFindFits (cslot s1 p.slot) p = true ∧ kvSlotOk s1 p.slot l = true ∧ encGen (cslot s1 p.slot) = some g ∧
      x.e.state.terminal = false ∧ rangeMine s1 ten c.tenant p.src (2 * q.recElems * p.toks) = true ∧ rangeMine s1 ten
      c.tenant p.scaleAddr (2 * q.units) = true ∧ rangeRead s1 p.src (2 * q.recElems * p.toks) = St.ok ∧ rangeWrite s1
      p.scaleAddr (2 * units.length) = St.ok ∧ devWrite s1 p.scaleAddr (units.flatMap fun u => leBytes 2 (scaleOf q
      (clipPoint q u)).toNat) = some s2) ∧
  (∃ (r : Nat) (d : Dma) (s s1 s2 : State) (c : Cmd) (n k left : Nat) (x : Slot) (l : PList) (g : Gen),
    let h := holdGens s1 (recodeGens l s1)
    taken 0x0608 [.operator, .tenant] r d s = some (c, s1) ∧ c.payLen = 32 ∧ c.target >>> 32 = 0 ∧ c.fld 3 0 = 4 ∧ c.fld 23
      4 = 0 ∧ c.fld 255 192 = 0 ∧ restsHere s1 c c.target n x l ∧ findEntry s1 c.target = some (n, x) ∧ getList h x.e.gid =
      some l ∧ slotMine (c.priv == .tenant) c.tenant (cslot h l.codecSlot) = true ∧ kvSlotOk h l.codecSlot l = true ∧
      encGen (cslot h l.codecSlot) = some g ∧ (List.range l.ctxLen).foldl (recodeOne (qtab g) l) (some (h, 0, 0)) = some
      (s2, k, left)) :=
  ⟨⟨256, pay 64 (8192 <<< 320 ||| 1 <<< 70 ||| 1 <<< 7), fw 0x0605 64 0 0 (withKv up), _, _, _, _, 0,
      newSlot { ent with kvPerTok := 88 }, kvList, _, _, is_taken (by decide +kernel), by decide +kernel,
      by decide +kernel, by unfold restsHere; decide +kernel, by decide +kernel, by decide +kernel, by decide +kernel,
      by decide +kernel, by decide +kernel, by decide +kernel, isOne qGen (by decide +kernel), by decide +kernel,
      by decide +kernel, by decide +kernel, by decide +kernel, by decide +kernel, isOne up (by decide +kernel),
      isOne lst (by decide +kernel), isOne up (by decide +kernel)⟩,
    ⟨256, pay 64 (8192 <<< 256 ||| 1024 <<< 112 ||| 1 <<< 70 ||| 1 <<< 8 ||| 1 <<< 7), fw 0x0606 64 2 0 (withKv up), _, _,
      _, 0, newSlot { ent with kvPerTok := 88 }, kvList, _, is_taken (by decide +kernel), by decide +kernel,
      by decide +kernel, by unfold restsHere; decide +kernel, by decide +kernel, by decide +kernel, by decide +kernel,
      by decide +kernel, isOne qGen (by decide +kernel), by decide +kernel, by decide +kernel, by decide +kernel,
      by decide +kernel, isOne up (by decide +kernel)⟩,
    ⟨256, pay 64 (4096 <<< 384 ||| 8192 <<< 320 ||| 1 <<< 70 ||| 1 <<< 7), fw 0x0607 64 0 0 (withKv up), _, _, _, 0,
      newSlot { ent with kvPerTok := 88 }, kvList, _, is_taken (by decide +kernel), by decide +kernel, by decide +kernel,
      by unfold restsHere; decide +kernel, by decide +kernel, by decide +kernel, by decide +kernel, by decide +kernel,
      isOne qGen (by decide +kernel), by decide +kernel, by decide +kernel, by decide +kernel, by decide +kernel,
      by decide +kernel, isOne up (by decide +kernel)⟩,
    ⟨256, pay 32 4, fw 0x0608 32 0 0 (withKv up), _, _, _, 0, _, _, newSlot { ent with kvPerTok := 88 }, kvList, _,
      is_taken (by decide +kernel), by decide +kernel, by decide +kernel, by decide +kernel, by decide +kernel,
      by decide +kernel, by unfold restsHere; decide +kernel, by decide +kernel, by decide +kernel, by decide +kernel,
      by decide +kernel, isOne qGen (by decide +kernel), is_triple (up, 0, 0) (by decide +kernel)⟩⟩

/-- The hypotheses of `Obligations.ArrayCommands`. -/
theorem witness_ArrayCommands :
  (∃ (r : Nat) (d : Dma) (s s1 : State) (c : Cmd) (k : Nat),
    let x := imageKernel (Tbl.getD s1.cax.kernelGen k 0) c.tenant c.pay
    taken 0x0701 [.operator, .tenant] r d s = some (c, s1) ∧ imageLens c = .ok () ∧ c.target = 0 ∧ imageFields s1 c = .ok
      () ∧ ecdsaOk (verKey s1 (subNat c.pay 26 1)) (c.pay.take 160 ++ c.pay.drop 256) (sub c.pay 160 96) = true ∧
      Tbl.freeFrom s1.cax.kernels 256 0 = some k ∧ serviceFits s1 x.code.length = true) ∧
  (∃ (r : Nat) (d : Dma) (s s1 : State) (c : Cmd) (k : Kernel),
    taken 0x0702 [.operator, .tenant] r d s = some (c, s1) ∧ c.payLen = 0 ∧ c.target >>> 16 = 0 ∧ findKernel s1 c.target =
      some k ∧ c.tenantOk k.tenant = true ∧ (s1.cax.ctxs.all fun kv => kv.2.kernel != c.target) = true) ∧
  (∃ (r : Nat) (d : Dma) (s s1 : State) (c : Cmd) (id : Nat) (k : Kernel),
    let mask := c.fld 255 160
    let threads := c.fld 143 136
    let units := c.fld 135 130
    let vregs := c.fld 129 124
    let minA := c.fld 123 117
    taken 0x0710 [.operator, .tenant] r d s = some (c, s1) ∧ c.payLen = 32 ∧ minA ≤ 96 ∧ minA ≤ popCount 96 mask ∧ vregs ≤
      32 ∧ 1 ≤ units ∧ units ≤ 32 ∧ 1 ≤ threads ∧ threads ≤ 128 ∧ c.target = 0 ∧ c.fld 113 0 = 0 ∧ findKernel s1 (c.fld 159
      144) = some k ∧ c.tenantOk k.tenant = true ∧ k.arraysMin ≤ minA ∧ k.vregsMin ≤ vregs ∧ k.localMin ≤ units ∧
      k.threadsMin ≤ threads ∧ ((maskArrays mask).all fun a => (arr s1 a).st == .active) = true ∧ Tbl.freeFrom s1.cax.ctxs
      61 0 = some id ∧ ((maskArrays mask).all fun a => arrFits s1 a threads units vregs) = true) ∧
  (∃ (s : State) (id : Nat) (x : Ctx) (k : Kernel),
    getCtx s id = some x ∧ kernelOf s x.kernel = some k) ∧
  (∃ (r : Nat) (d : Dma) (s s1 : State) (c : Cmd) (id : Nat) (x : Ctx),
    taken 0x0711 [.operator, .tenant] r d s = some (c, s1) ∧ c.payLen = 8 ∧ c.target >>> 16 = 0 ∧ c.fld 63 1 = 0 ∧ c.target
      % 64 < 61 ∧ findCtx s1 c.target = some (id, x) ∧ c.tenantOk x.tenant = true ∧ x.running = none ∧ x.queue = []) ∧
  (∃ (r : Nat) (d : Dma) (s s1 : State) (c : Cmd) (id : Nat) (x : Ctx),
    taken 0x0711 [.operator, .tenant] r d s = some (c, s1) ∧ c.payLen = 8 ∧ c.target >>> 16 = 0 ∧ c.fld 63 1 = 0 ∧ c.target
      % 64 < 61 ∧ findCtx s1 c.target = some (id, x) ∧ c.tenantOk x.tenant = true ∧ x.running ≠ none ∧ c.fld 0 0 = 1) ∧
  (∃ (r : Nat) (d : Dma) (s s1 : State) (c : Cmd) (id : Nat) (x : Ctx),
    taken 0x0712 [.operator, .tenant] r d s = some (c, s1) ∧ c.payLen = 32 ∧ c.target >>> 16 = 0 ∧ c.fld 7 1 = 0 ∧ c.fld 63
      12 = 0 ∧ findCtx s1 c.target = some (id, x) ∧ c.tenantOk x.tenant = true ∧ entryOk s1 x (c.fld 11 8) = true ∧
      (x.running = none ∨ x.queue.length < 64) ∧ x.minArrays ≤ popCount 96 (activeMask s1 x.mask)) ∧
  (∃ (r : Nat) (d : Dma) (s s1 : State) (c : Cmd),
    taken 0x0720 [.operator] r d s = some (c, s1) ∧ c.payLen = 32784 ∧ c.target = 0 ∧ c.fld 63 1 = 0 ∧ checkEach
      (schedEntryOk s1) 0 (c.pay.drop 16) = .ok () ∧ s1.clk.synced = true ∧ s1.cax.schedNext = none) ∧
  (∃ (s : State) (n : SchedNext),
    s.cax.schedNext = some n ∧ n.at' ≤ now s) ∧
  (∃ (r : Nat) (d : Dma) (s s1 : State) (c : Cmd),
    taken 0x0721 [.operator, .maintenance] r d s = some (c, s1) ∧ c.payLen = 0 ∧ 1536 ≤ c.resLen ∧ c.target = 0) ∧
  (∃ (r : Nat) (d : Dma) (s s1 : State) (c : Cmd),
    taken 0x0722 [.operator] r d s = some (c, s1) ∧ c.payLen = 16 ∧ c.target = 0 ∧ (c.fld 1 0 = 1 ∨ c.fld 1 0 = 2) ∧ c.fld
      31 2 = 0 ∧ (c.fld 1 0 = 2 → ((maskArrays (c.fld 127 32)).all fun a => (arr s1 a).st != .failed) = true)) ∧
  (∃ (r : Nat) (d : Dma) (s s1 : State) (c : Cmd),
    taken 0x0E10 [.maintenance] r d s = some (c, s1) ∧ c.payLen = 16 ∧ 16 ≤ c.resLen ∧ c.target = 0 ∧ c.fld 31 0 = 0 ∧
      ((maskArrays (c.fld 127 32)).all fun a => (arr s1 a).st == .excluded) = true) ∧
  (∃ (s : State) (mask : Nat) (t : Tok) (rest : List (Nat × Tok)),
    s.cax.tests = (mask, t) :: rest) ∧
  (∃ (s : State) (a t : Nat),
    idleSince s a = some t ∧ a < 96 ∧ (arr s a).gated = false ∧ t + s.cax.ctl.idleGate * 1000 ≤ now s) ∧
  (∃ (s : State) (a t : Nat),
    (arr s a).wakeAt = some t ∧ t ≤ now s) :=
  ⟨⟨256, .data kernelImage, fw 0x0701 264 0 0 (withVerKey up), _, _, 0, is_taken (by decide +kernel), by decide +kernel⟩,
    ⟨256, pay 0 0, fw 0x0702 0 0 0 (withKernel up), _, _, kern (leBytes 8 0), is_taken (by decide +kernel),
      by decide +kernel⟩,
    ⟨256, pay 32 (1 <<< 160 ||| 1 <<< 136 ||| 1 <<< 130 ||| 1 <<< 124 ||| 1 <<< 117), fw 0x0710 32 0 0 (withKernel up), _,
      _, 0, kern (leBytes 8 0), is_taken (by decide +kernel), by decide +kernel⟩,
    ⟨withCtx (ctx none) up, 0, ctx none, kern (leBytes 8 0), by decide +kernel⟩,
    ⟨256, pay 8 0, fw 0x0711 8 0 0 (withCtx (ctx none) up), _, _, 0, ctx none, is_taken (by decide +kernel),
      by decide +kernel⟩,
    ⟨256, pay 8 1, fw 0x0711 8 0 0 (withCtx (ctx (some aLaunch)) up), _, _, 0, ctx (some aLaunch),
      is_taken (by decide +kernel), by decide +kernel⟩,
    ⟨256, pay 32 0, fw 0x0712 32 0 0 (withCtx (ctx none) up), _, _, 0, ctx none, is_taken (by decide +kernel),
      by decide +kernel⟩,
    ⟨256, pay 0 0, fw 0x0720 32784 0 0 up, _, _, is_taken (by decide +kernel), by decide +kernel⟩,
    ⟨{ up with cax := { up.cax with schedNext := some ⟨⟨0, true, []⟩, 0, aTok⟩ } }, ⟨⟨0, true, []⟩, 0, aTok⟩,
      by decide +kernel⟩,
    ⟨256, pay 0 0, fw 0x0721 0 1536 0 up, _, _, is_taken (by decide +kernel), by decide +kernel⟩,
    ⟨256, pay 16 (1 <<< 32 ||| 1), fw 0x0722 16 0 0 up, _, _, is_taken (by decide +kernel), by decide +kernel⟩,
    ⟨256, pay 16 (1 <<< 32),
      fw 0x0E10 16 16 0 { up with cax := { up.cax with arrays := [(0, { freshArr with st := .excluded })] } }, _, _,
      is_taken (by decide +kernel), by decide +kernel⟩,
    ⟨{ up with cax := { up.cax with tests := [(1, aTok)] } }, 1, aTok, [], by decide +kernel⟩,
    ⟨up, 0, 0, by decide +kernel⟩,
    ⟨{ up with cax := { up.cax with arrays := [(0, { freshArr with gated := true, wakeAt := some 5 })] } }, 0, 5,
      by decide +kernel⟩⟩

/-- The hypotheses of `Obligations.ScalarInstructions`. -/
theorem witness_ScalarInstructions :
  (∃ (t : Thr) (s : State) (x : Ctx) (th : Thread) (w : Word64),
    issues 0 0 [0] t s x th w) ∧
  (∃ (t : Thr) (s : State) (x : Ctx) (th : Thread) (w : Word64),
    issues 0 1 [0] t s x th w) ∧
  (∃ (t : Thr) (s : State) (x : Ctx) (th : Thread) (w : Word64),
    issues 0 2 [0] t s x th w) ∧
  (∃ (t : Thr) (s : State) (x : Ctx) (th : Thread) (w : Word64),
    issues 0 3 [0] t s x th w) ∧
  (∃ (t : Thr) (s : State) (x : Ctx) (th : Thread) (w : Word64),
    issues 0 4 [0] t s x th w) ∧
  (∃ (t : Thr) (s : State) (x : Ctx) (th : Thread) (w : Word64),
    issues 1 0 [0] t s x th w) ∧
  (∃ (t : Thr) (s : State) (x : Ctx) (th : Thread) (w : Word64),
    issues 1 1 [0] t s x th w) ∧
  (∃ (t : Thr) (s : State) (x : Ctx) (th : Thread) (w : Word64),
    issues 1 2 [0] t s x th w) ∧
  (∃ (t : Thr) (s : State) (x : Ctx) (th : Thread) (w : Word64),
    issues 1 3 [0] t s x th w) ∧
  (∃ (t : Thr) (s : State) (x : Ctx) (th : Thread) (w : Word64),
    issues 1 4 [0] t s x th w) ∧
  (∃ (t : Thr) (s : State) (x : Ctx) (th : Thread) (w : Word64),
    issues 1 5 [0] t s x th w) ∧
  (∃ (t : Thr) (s : State) (x : Ctx) (th : Thread) (w : Word64),
    issues 1 6 [0] t s x th w) ∧
  (∃ (t : Thr) (s : State) (x : Ctx) (th : Thread) (w : Word64),
    issues 1 7 [0] t s x th w) ∧
  (∃ (t : Thr) (s : State) (x : Ctx) (th : Thread) (w : Word64),
    issues 1 8 [0] t s x th w) ∧
  (∃ (t : Thr) (s : State) (x : Ctx) (th : Thread) (w : Word64),
    issues 1 9 [0] t s x th w) ∧
  (∃ (t : Thr) (s : State) (x : Ctx) (th : Thread) (w : Word64),
    issues 1 10 [0] t s x th w) ∧
  (∃ (t : Thr) (s : State) (x : Ctx) (th : Thread) (w : Word64),
    issues 1 11 [0] t s x th w) :=
  ⟨⟨thr, running (word 0 0 0 0) fresh (up), ctx (some aLaunch), fresh, wordOf (word 0 0 0 0),
      by unfold issues; decide +kernel⟩,
    ⟨thr, running (word 0 1 0 0) fresh (up), ctx (some aLaunch), fresh, wordOf (word 0 1 0 0),
      by unfold issues; decide +kernel⟩,
    ⟨thr, running (word 0 2 0 0) fresh (up), ctx (some aLaunch), fresh, wordOf (word 0 2 0 0),
      by unfold issues; decide +kernel⟩,
    ⟨thr, running (word 0 3 0 0) fresh (up), ctx (some aLaunch), fresh, wordOf (word 0 3 0 0),
      by unfold issues; decide +kernel⟩,
    ⟨thr, running (word 0 4 0 0) fresh (up), ctx (some aLaunch), fresh, wordOf (word 0 4 0 0),
      by unfold issues; decide +kernel⟩,
    ⟨thr, running (word 1 0 0 0) fresh (up), ctx (some aLaunch), fresh, wordOf (word 1 0 0 0),
      by unfold issues; decide +kernel⟩,
    ⟨thr, running (word 1 1 0 0) fresh (up), ctx (some aLaunch), fresh, wordOf (word 1 1 0 0),
      by unfold issues; decide +kernel⟩,
    ⟨thr, running (word 1 2 0 0) fresh (up), ctx (some aLaunch), fresh, wordOf (word 1 2 0 0),
      by unfold issues; decide +kernel⟩,
    ⟨thr, running (word 1 3 0 0) fresh (up), ctx (some aLaunch), fresh, wordOf (word 1 3 0 0),
      by unfold issues; decide +kernel⟩,
    ⟨thr, running (word 1 4 0 0) fresh (up), ctx (some aLaunch), fresh, wordOf (word 1 4 0 0),
      by unfold issues; decide +kernel⟩,
    ⟨thr, running (word 1 5 0 0) fresh (up), ctx (some aLaunch), fresh, wordOf (word 1 5 0 0),
      by unfold issues; decide +kernel⟩,
    ⟨thr, running (word 1 6 0 0) fresh (up), ctx (some aLaunch), fresh, wordOf (word 1 6 0 0),
      by unfold issues; decide +kernel⟩,
    ⟨thr, running (word 1 7 0 0) fresh (up), ctx (some aLaunch), fresh, wordOf (word 1 7 0 0),
      by unfold issues; decide +kernel⟩,
    ⟨thr, running (word 1 8 0 0) fresh (up), ctx (some aLaunch), fresh, wordOf (word 1 8 0 0),
      by unfold issues; decide +kernel⟩,
    ⟨thr, running (word 1 9 0 0) fresh (up), ctx (some aLaunch), fresh, wordOf (word 1 9 0 0),
      by unfold issues; decide +kernel⟩,
    ⟨thr, running (word 1 10 0 0) fresh (up), ctx (some aLaunch), fresh, wordOf (word 1 10 0 0),
      by unfold issues; decide +kernel⟩,
    ⟨thr, running (word 1 11 0 0) fresh (up), ctx (some aLaunch), fresh, wordOf (word 1 11 0 0),
      by unfold issues; decide +kernel⟩⟩

/-- The hypotheses of `Obligations.ArrayMemoryInstructions`. -/
theorem witness_ArrayMemoryInstructions :
  (∃ (t : Thr) (s : State) (x : Ctx) (th : Thread) (w : Word64),
    issues 2 0 [0] t s x th w ∧ lsuAddr th w + 8 ≤ shareLen x ∧ localBad s t.ctx t.arr (lsuAddr th w) 8 = false) ∧
  (∃ (t : Thr) (s : State) (x : Ctx) (th : Thread) (w : Word64),
    issues 2 0 [0] t s x th w ∧ shareLen x < lsuAddr th w + 8) ∧
  (∃ (t : Thr) (s : State) (x : Ctx) (th : Thread) (w : Word64),
    issues 2 0 [0] t s x th w ∧ lsuAddr th w + 8 ≤ shareLen x ∧ localBad s t.ctx t.arr (lsuAddr th w) 8 = true) ∧
  (∃ (t : Thr) (s : State) (x : Ctx) (th : Thread) (w : Word64),
    issues 2 1 [0] t s x th w ∧ lsuAddr th w + 8 ≤ shareLen x) ∧
  (∃ (t : Thr) (s : State) (x : Ctx) (th : Thread) (w : Word64),
    issues 2 2 [0] t s x th w ∧ w.dst < x.vregs ∧ lsuAddr th w + 256 ≤ shareLen x ∧ localBad s t.ctx t.arr (lsuAddr th w)
      256 = false) ∧
  (∃ (t : Thr) (s : State) (x : Ctx) (th : Thread) (w : Word64),
    issues 2 3 [0] t s x th w ∧ w.b < x.vregs ∧ lsuAddr th w + 256 ≤ shareLen x) ∧
  (∃ (t : Thr) (s : State) (x : Ctx) (th : Thread) (w : Word64),
    issues 3 0 [0] t s x th w ∧ 16 ≤ w.imm ∧ w.imm ≤ 1048576 ∧ w.imm % 16 = 0 ∧ reg th w.b + w.imm ≤ shareLen x ∧ reg th
      w.a % 16 = 0 ∧ dmaAllowed s x false (reg th w.a) w.imm = true) ∧
  (∃ (t : Thr) (s : State) (x : Ctx) (th : Thread) (w : Word64),
    issues 3 1 [0] t s x th w ∧ 16 ≤ w.imm ∧ w.imm ≤ 1048576 ∧ w.imm % 16 = 0 ∧ reg th w.b + w.imm ≤ shareLen x ∧ reg th
      w.a % 16 = 0 ∧ dmaAllowed s x true (reg th w.a) w.imm = true) ∧
  (∃ (t : Thr) (s : State) (x : Ctx) (th : Thread) (w : Word64),
    issues 3 2 [0] t s x th w ∧ reg th w.a % 8 = 0 ∧ dmaAllowed s x false (reg th w.a) 16 = true) ∧
  (∃ (t : Thr) (s : State) (x : Ctx) (th : Thread) (w : Word64),
    issues 3 3 [0] t s x th w) ∧
  (∃ (t : Thr) (s : State) (x : Ctx) (th : Thread) (d : ADma) (rest : List ADma),
    getCtx s t.ctx = some x ∧ getThr s t = some th ∧ th.dmas = d :: rest ∧ dmaHeld s d = false ∧ d.kind = .read ∧ rangeRead
      s d.dev d.len = St.ok) ∧
  (∃ (t : Thr) (s s1 : State) (x : Ctx) (th : Thread) (d : ADma) (rest : List ADma),
    getCtx s t.ctx = some x ∧ getThr s t = some th ∧ th.dmas = d :: rest ∧ dmaHeld s d = false ∧ d.kind = .write ∧ localBad
      s t.ctx t.arr d.loc d.len = false ∧ rangeWrite s d.dev d.len = St.ok ∧ devWrite s d.dev (memReadN (share s t.ctx
      t.arr) d.loc d.len) = some s1) ∧
  (∃ (t : Thr) (s : State) (x : Ctx) (th : Thread) (d : ADma) (rest : List ADma),
    getCtx s t.ctx = some x ∧ getThr s t = some th ∧ th.dmas = d :: rest ∧ dmaHeld s d = true) :=
  ⟨⟨thr, running (word 2 0 0 0) fresh (up), ctx (some aLaunch), fresh, wordOf (word 2 0 0 0),
      by unfold issues; decide +kernel, by decide +kernel⟩,
    ⟨thr, running (word 2 0 0 70000) fresh (up), ctx (some aLaunch), fresh, wordOf (word 2 0 0 70000),
      by unfold issues; decide +kernel, by decide +kernel⟩,
    ⟨thr, (let s := running (word 2 0 0 0) fresh (up); { s with cax := { s.cax with badLocal := [(localKey 0 0, [0])] } }),
      ctx (some aLaunch), fresh, wordOf (word 2 0 0 0), by unfold issues; decide +kernel, by decide +kernel⟩,
    ⟨thr, running (word 2 1 0 0) fresh (up), ctx (some aLaunch), fresh, wordOf (word 2 1 0 0),
      by unfold issues; decide +kernel, by decide +kernel⟩,
    ⟨thr, running (word 2 2 0 0) fresh (up), ctx (some aLaunch), fresh, wordOf (word 2 2 0 0),
      by unfold issues; decide +kernel, by decide +kernel⟩,
    ⟨thr, running (word 2 3 0 0) fresh (up), ctx (some aLaunch), fresh, wordOf (word 2 3 0 0),
      by unfold issues; decide +kernel, by decide +kernel⟩,
    ⟨thr, running (word 3 0 0 16) fresh (up), ctx (some aLaunch), fresh, wordOf (word 3 0 0 16),
      by unfold issues; decide +kernel, by decide +kernel⟩,
    ⟨thr, running (word 3 1 0 16) fresh (up), ctx (some aLaunch), fresh, wordOf (word 3 1 0 16),
      by unfold issues; decide +kernel, by decide +kernel⟩,
    ⟨thr, running (word 3 2 0 0) fresh (up), ctx (some aLaunch), fresh, wordOf (word 3 2 0 0),
      by unfold issues; decide +kernel, by decide +kernel⟩,
    ⟨thr, running (word 3 3 0 0) fresh (up), ctx (some aLaunch), fresh, wordOf (word 3 3 0 0),
      by unfold issues; decide +kernel⟩,
    ⟨thr, running (word 3 3 0 0) { fresh with dmas := [⟨.read, 0, 0, 16, 0, 0, 0⟩] } (up), ctx (some aLaunch),
      { fresh with dmas := [⟨.read, 0, 0, 16, 0, 0, 0⟩] }, ⟨.read, 0, 0, 16, 0, 0, 0⟩, [], by decide +kernel⟩,
    ⟨thr, running (word 3 3 0 0) { fresh with dmas := [⟨.write, 0, 0, 16, 0, 0, 0⟩] } (up), _, ctx (some aLaunch),
      { fresh with dmas := [⟨.write, 0, 0, 16, 0, 0, 0⟩] }, ⟨.write, 0, 0, 16, 0, 0, 0⟩, [], by decide +kernel,
      by decide +kernel, by decide +kernel, by decide +kernel, by decide +kernel, by decide +kernel, by decide +kernel,
      isOne up (by decide +kernel)⟩,
    ⟨thr,
      (let s := running (word 3 3 0 0) { fresh with dmas := [⟨.read, 0, 0, 16, 0, 0, 0⟩] } (up); { s with tsu := { s.tsu with frozen := [(0x10, ⟨0, 1, none, false⟩)] }, tfm := { s.tfm with map := [(0, ⟨.hbm, false, 0, 0, 0, 0⟩)] } }),
      ctx (some aLaunch), { fresh with dmas := [⟨.read, 0, 0, 16, 0, 0, 0⟩] }, ⟨.read, 0, 0, 16, 0, 0, 0⟩, [],
      by decide +kernel⟩⟩

/-- The hypotheses of `Obligations.GridAndVectorInstructions`. -/
theorem witness_GridAndVectorInstructions :
  (∃ (t : Thr) (s : State) (x : Ctx) (th : Thread) (w : Word64) (p : PDesc),
    issues 4 0 [0] t s x th w ∧ passDesc s t x (reg th w.a) = .ok p ∧ (coded p.wf = true → ∃ b, Tbl.get (arr s t.arr).banks
      p.cb = some b ∧ bankLive s b = true)) ∧
  (∃ (t : Thr) (s : State) (x : Ctx) (th : Thread) (w : Word64) (code : Nat),
    issues 4 0 [0] t s x th w ∧ passDesc s t x (reg th w.a) = .error code) ∧
  (∃ (t : Thr) (s : State) (th y : Thread) (p : Pass) (rest : List Pass),
    let s1 := endPass s t th p rest
    getThr s t = some th ∧ th.passes = p :: rest ∧ p.endAt ≤ now s ∧ getThr s1 t = some y) ∧
  (∃ (t : Thr) (s : State) (x : Ctx) (th : Thread) (w : Word64),
    issues 4 1 [0] t s x th w) ∧
  (∃ (t : Thr) (s : State) (x : Ctx) (th : Thread) (w : Word64) (g : Gen),
    issues 4 2 [0] t s x th w ∧ ((cslot s (reg th 1)).gens.find? fun g => g.tag == reg th 2 && g.tableId == reg th 3 &&
      decide ((cslot s (reg th 1)).cond = .quant)) = some g) ∧
  (∃ (t : Thr) (s : State) (x : Ctx) (th : Thread) (w : Word64),
    issues 5 0 [0, 0xC, 0xD] t s x th w ∧ w.dst < x.vregs ∧ w.a < x.vregs ∧ w.b < x.vregs) ∧
  (∃ (t : Thr) (s : State) (x : Ctx) (th : Thread) (w : Word64),
    issues 5 1 [0, 0xC, 0xD] t s x th w ∧ w.dst < x.vregs ∧ w.a < x.vregs ∧ w.b < x.vregs) ∧
  (∃ (t : Thr) (s : State) (x : Ctx) (th : Thread) (w : Word64),
    issues 5 2 [0, 0xC, 0xD] t s x th w ∧ w.dst < x.vregs ∧ w.a < x.vregs ∧ w.b < x.vregs) ∧
  (∃ (t : Thr) (s : State) (x : Ctx) (th : Thread) (w : Word64),
    issues 5 3 [0, 0xC, 0xD] t s x th w ∧ w.dst < x.vregs ∧ w.a < x.vregs ∧ w.b < x.vregs) ∧
  (∃ (t : Thr) (s : State) (x : Ctx) (th : Thread) (w : Word64),
    issues 5 4 [0, 0xC, 0xD] t s x th w ∧ w.dst < x.vregs ∧ w.a < x.vregs ∧ w.b < x.vregs) ∧
  (∃ (t : Thr) (s : State) (x : Ctx) (th : Thread) (w : Word64),
    issues 5 5 (List.range 14) t s x th w ∧ w.dst < x.vregs ∧ w.a < x.vregs) ∧
  (∃ (t : Thr) (s : State) (x : Ctx) (th : Thread) (w : Word64),
    issues 5 6 [0, 0xC, 0xD] t s x th w ∧ w.dst < x.vregs ∧ w.a < x.vregs ∧ w.fmt ≠ 0xD) ∧
  (∃ (t : Thr) (s : State) (x : Ctx) (th : Thread) (w : Word64),
    issues 5 6 [0, 0xC, 0xD] t s x th w ∧ w.dst < x.vregs ∧ w.a < x.vregs ∧ w.fmt = 0xD) ∧
  (∃ (t : Thr) (s : State) (x : Ctx) (th : Thread) (w : Word64),
    issues 5 7 [0, 0xC] t s x th w ∧ w.dst < x.vregs ∧ w.a < x.vregs) ∧
  (∃ (t : Thr) (s : State) (x : Ctx) (th : Thread) (w : Word64),
    issues 5 8 [0, 0xC] t s x th w ∧ w.dst < x.vregs ∧ w.a < x.vregs) ∧
  (∃ (t : Thr) (s : State) (x : Ctx) (th : Thread) (w : Word64),
    issues 5 9 [0, 0xC] t s x th w ∧ w.dst < x.vregs ∧ w.a < x.vregs) ∧
  (∃ (t : Thr) (s : State) (x : Ctx) (th : Thread) (w : Word64),
    let s1 := setThr (tookPort s 6 t x) t { th with wait := .bar }
    let ts := (launchThreads t.ctx x).filter (fun h => t.arr == h.arr)
    issues 6 0 [0] t s x th w ∧ ts.all (atBarrier s1 .bar) = true) ∧
  (∃ (t : Thr) (s : State) (x : Ctx) (th : Thread) (w : Word64),
    let s1 := setThr (tookPort s 6 t x) t { th with wait := .xbar }
    let ts := (launchThreads t.ctx x).filter (fun _ => true)
    issues 6 1 [0] t s x th w ∧ ts.all (atBarrier s1 .xbar) = true) ∧
  (∃ (t : Thr) (s : State) (x : Ctx) (th : Thread) (w : Word64),
    let n := w.imm % 16
    let s1 := setThr (tookPort s 6 t x) t (next th)
    issues 6 2 [0] t s x th w ∧ (launchThreads t.ctx x).find? (waitsSem s1 n) = none) ∧
  (∃ (t : Thr) (s : State) (x : Ctx) (th : Thread) (w : Word64),
    issues 6 3 [0] t s x th w) :=
  ⟨⟨thr, setShare (running (word 4 0 0 0) fresh up) 0 0 (memWriteN [] 0 (leBytes 32 aPassDesc)), ctx (some aLaunch),
      fresh, wordOf (word 4 0 0 0), pdesc aPassDesc, by unfold issues; decide +kernel, by decide +kernel,
      fun h => absurd h (by decide +kernel)⟩,
    ⟨thr, running (word 4 0 0 0) fresh (up), ctx (some aLaunch), fresh, wordOf (word 4 0 0 0), Tr.length,
      by unfold issues; decide +kernel, by decide +kernel⟩,
    ⟨thr, running (word 4 1 0 0) { fresh with passes := [pass0] } (up), { fresh with passes := [pass0] }, _, pass0, [],
      by decide +kernel, by decide +kernel, by decide +kernel, isOne fresh (by decide +kernel)⟩,
    ⟨thr, running (word 4 1 0 0) fresh (up), ctx (some aLaunch), fresh, wordOf (word 4 1 0 0),
      by unfold issues; decide +kernel⟩,
    ⟨thr, running (word 4 2 0 0) { fresh with regs := [(3, 77), (5, 1)] } (withGen .quant qGen up), ctx (some aLaunch),
      { fresh with regs := [(3, 77), (5, 1)] }, wordOf (word 4 2 0 0), qGen, by unfold issues; decide +kernel,
      by decide +kernel⟩,
    ⟨thr, running (word 5 0 0 0) fresh (up), ctx (some aLaunch), fresh, wordOf (word 5 0 0 0),
      by unfold issues; decide +kernel, by decide +kernel⟩,
    ⟨thr, running (word 5 1 0 0) fresh (up), ctx (some aLaunch), fresh, wordOf (word 5 1 0 0),
      by unfold issues; decide +kernel, by decide +kernel⟩,
    ⟨thr, running (word 5 2 0 0) fresh (up), ctx (some aLaunch), fresh, wordOf (word 5 2 0 0),
      by unfold issues; decide +kernel, by decide +kernel⟩,
    ⟨thr, running (word 5 3 0 0) fresh (up), ctx (some aLaunch), fresh, wordOf (word 5 3 0 0),
      by unfold issues; decide +kernel, by decide +kernel⟩,
    ⟨thr, running (word 5 4 0 0) fresh (up), ctx (some aLaunch), fresh, wordOf (word 5 4 0 0),
      by unfold issues; decide +kernel, by decide +kernel⟩,
    ⟨thr, running (word 5 5 0 0) fresh (up), ctx (some aLaunch), fresh, wordOf (word 5 5 0 0),
      by unfold issues; decide +kernel, by decide +kernel⟩,
    ⟨thr, running (word 5 6 0 0) fresh (up), ctx (some aLaunch), fresh, wordOf (word 5 6 0 0),
      by unfold issues; decide +kernel, by decide +kernel⟩,
    ⟨thr, running (word 5 6 13 0) fresh (up), ctx (some aLaunch), fresh, wordOf (word 5 6 13 0),
      by unfold issues; decide +kernel, by decide +kernel⟩,
    ⟨thr, running (word 5 7 0 0) fresh (up), ctx (some aLaunch), fresh, wordOf (word 5 7 0 0),
      by unfold issues; decide +kernel, by decide +kernel⟩,
    ⟨thr, running (word 5 8 0 0) fresh (up), ctx (some aLaunch), fresh, wordOf (word 5 8 0 0),
      by unfold issues; decide +kernel, by decide +kernel⟩,
    ⟨thr, running (word 5 9 0 0) fresh (up), ctx (some aLaunch), fresh, wordOf (word 5 9 0 0),
      by unfold issues; decide +kernel, by decide +kernel⟩,
    ⟨thr, running (word 6 0 0 0) fresh (up), ctx (some aLaunch), fresh, wordOf (word 6 0 0 0),
      by unfold issues; decide +kernel, by decide +kernel⟩,
    ⟨thr, running (word 6 1 0 0) fresh (up), ctx (some aLaunch), fresh, wordOf (word 6 1 0 0),
      by unfold issues; decide +kernel, by decide +kernel⟩,
    ⟨thr, running (word 6 2 0 0) fresh (up), ctx (some aLaunch), fresh, wordOf (word 6 2 0 0),
      by unfold issues; decide +kernel, by decide +kernel⟩,
    ⟨thr, running (word 6 3 0 0) fresh (up), ctx (some aLaunch), fresh, wordOf (word 6 3 0 0),
      by unfold issues; decide +kernel⟩⟩

/-- The hypotheses of `Obligations.StepCommands`. -/
theorem witness_StepCommands :
  (∃ (r : Nat) (d : Dma) (s s1 s2 : State) (c : Cmd) (o : OwnStep) (st : Step) (a : Ans) (outs : Option (List StepOut)),
    let h := stepHdr Op.attn c.pay
    taken 0x0801 [.operator, .tenant] r d s = some (c, s1) ∧ h.isOpen = false ∧ stepChecks Op.attn c h 0 = .ok () ∧ getOwn
      s1 h.tag = some o ∧ o.entries.all (entryMine c s1) = true ∧ o.isOpen = true ∧ o.closeTok = none ∧ o.home = me s1 ∧
      getStep s1 h.tag = some st ∧ st.owner = me s1 ∧ layerStep (homeMsg s1 c Op.attn 0 []) h.tag st s1 = .ok (a, outs, s2)) ∧
  (∃ (r : Nat) (d : Dma) (s s1 s2 : State) (c : Cmd) (o : OwnStep) (st : Step) (a : Ans) (outs : Option (List StepOut)),
    let h := stepHdr Op.sample c.pay
    let m := homeMsg s1 c Op.sample 0 (o.taken.map (·.slot)) [.ok (), .ok ()]
    taken 0x0811 [.operator, .tenant] r d s = some (c, s1) ∧ h.isOpen = false ∧ isGiven c.pay = false ∧ stepChecks
      Op.sample c h 0 = .ok () ∧ getOwn s1 h.tag = some o ∧ o.entries.all (entryMine c s1) = true ∧ o.isOpen = true ∧
      o.closeTok = none ∧ o.segment = false ∧ ringRoom s1 o.bulletin = true ∧ o.home = me s1 ∧ getStep s1 h.tag = some st ∧
      st.owner = me s1 ∧ closeStep m h.tag false st none s1 = .ok (a, outs, s2)) ∧
  (∃ (r : Nat) (d : Dma) (s s1 s2 : State) (c : Cmd) (xs : List (LenEnt × Nat × Slot)) (e0 : LenEnt) (n0 : Nat) (x0 : Slot)
    (b : Bulletin) (a : Ans) (outs : Option (List StepOut)),
    let h := stepHdr Op.draft c.pay
    let t := takeAll Op.draft h.tag xs s1
    let o : OwnStep := ⟨me s1, h.ring, false, false, now s1, t.1, none, [], []⟩
    let s0 := setOwn t.2 h.tag o
    let m := { homeMsg s0 c Op.draft 0 (o.taken.map (·.slot)) [.ok (), .ok ()] with
      left := (t.1.filter fun e => e.st != St.ok).map (·.gid), codecSlot := x0.e.codecSlot }
    taken 0x0820 [.operator, .tenant] r d s = some (c, s1) ∧ stepChecks Op.draft c h 0 = .ok () ∧ (lenTable h c.pay).mapM
      (tableEntry c s1) = .ok xs ∧ xs.head? = some (e0, n0, x0) ∧ getOwn s1 h.tag = none ∧ ((lenTable h c.pay).any fun e =>
      e.seg) = false ∧ homeOf s1 x0 = me s1 ∧ (xs.all fun x => some (homeOf s1 x.2.2, x.2.2.e.codecSlot) == some (homeOf s1
      x0, x0.e.codecSlot)) = true ∧ Tbl.get s1.att.bulletins h.ring = some b ∧ c.tenantOk b.tenant = true ∧ h.count ≤
      b.maxBatch ∧ me s0 = me s1 ∧ homeDraft m s0 = .ok (a, outs, s2)) ∧
  (∃ (r : Nat) (d : Dma) (s s1 s2 : State) (c : Cmd) (o : OwnStep) (st : Step) (a : Ans) (outs : Option (List StepOut)),
    let h := stepHdr Op.verify c.pay
    let m := homeMsg s1 c Op.verify 0 (o.taken.map (·.slot)) [.ok (), .ok ()]
    taken 0x0821 [.operator, .tenant] r d s = some (c, s1) ∧ h.isOpen = false ∧ isGiven c.pay = false ∧ stepChecks
      Op.verify c h 0 = .ok () ∧ getOwn s1 h.tag = some o ∧ o.entries.all (entryMine c s1) = true ∧ o.isOpen = true ∧
      o.closeTok = none ∧ o.segment = false ∧ ringRoom s1 o.bulletin = true ∧ o.home = me s1 ∧ getStep s1 h.tag = some st ∧
      st.owner = me s1 ∧ closeStep m h.tag true st none s1 = .ok (a, outs, s2)) ∧
  (∃ (s : State) (owner tag : Nat) (st : Step),
    owner ≠ me s ∧ getStep s tag = some st ∧ st.owner = owner ∧ st.openedAt + s.att.stepTimeout * ms ≤ now s) :=
  ⟨⟨256, pay 64 (8192 <<< 448 ||| 8192 <<< 384 ||| 8192 <<< 320 ||| 1 <<< 224 ||| 0x3F800000 <<< 192 ||| 1 <<< 162),
      fw 0x0801 64 0 0 (withStep 1 .attn (withGen .quant qGen (backed .hbm up))), _, _, _,
      ⟨1, 0, false, true, 0, [], none, [], []⟩, ⟨1, .attn, false, 0, some 0, 1, 0, 0, 0, [], false, []⟩, _, _,
      is_taken (by decide +kernel), by decide +kernel, by decide +kernel, by decide +kernel, by decide +kernel,
      by decide +kernel, by decide +kernel, by decide +kernel, by decide +kernel, by decide +kernel,
      is_ok3 (okAns, none, up) (by decide +kernel)⟩,
    ⟨256, pay 32 (8192 <<< 192 ||| 1 <<< 160), fw 0x0811 32 0 0 (withStep 1 .attn (withGen .quant qGen up)), _, _, _,
      ⟨1, 0, false, true, 0, [], none, [], []⟩, ⟨1, .attn, false, 0, some 0, 1, 0, 0, 0, [], false, []⟩, _, _,
      is_taken (by decide +kernel), by decide +kernel, by decide +kernel, by decide +kernel, by decide +kernel,
      by decide +kernel, by decide +kernel, by decide +kernel, by decide +kernel, by decide +kernel, by decide +kernel,
      by decide +kernel, by decide +kernel, is_ok3 (okAns, none, up) (by decide +kernel)⟩,
    ⟨256, pay 48 (128 <<< 192 ||| 1024 <<< 128 ||| 2 <<< 48 ||| 1 <<< 37), fw 0x0820 48 2 0 withDraft, _, _, _,
      [(⟨0, 0, 0, 0, 0, false⟩, 0, newSlot ent)], ⟨0, 0, 0, 0, 0, false⟩, 0, newSlot ent,
      ⟨0, 16, 16, 0, 0, 0, 0, true, 0, []⟩, _, _, is_taken (by decide +kernel), by decide +kernel, by decide +kernel,
      by decide +kernel, by decide +kernel, by decide +kernel, by decide +kernel, by decide +kernel, by decide +kernel,
      by decide +kernel, by decide +kernel, by decide +kernel, is_ok3 (okAns, none, up) (by decide +kernel)⟩,
    ⟨256, pay 32 (8192 <<< 192 ||| 1 <<< 160), fw 0x0821 32 0 0 (withStep 1 .spec (withGen .quant qGen up)), _, _, _,
      ⟨1, 0, false, true, 0, [], none, [], []⟩, ⟨1, .spec, false, 0, some 0, 1, 0, 0, 0, [], false, []⟩, _, _,
      is_taken (by decide +kernel), by decide +kernel, by decide +kernel, by decide +kernel, by decide +kernel,
      by decide +kernel, by decide +kernel, by decide +kernel, by decide +kernel, by decide +kernel, by decide +kernel,
      by decide +kernel, by decide +kernel, is_ok3 (okAns, none, up) (by decide +kernel)⟩,
    ⟨withStep 2 .attn up, 2, 1, ⟨2, .attn, false, 0, some 0, 1, 0, 0, 0, [], false, []⟩, by decide +kernel⟩⟩

/-- The hypotheses of `Obligations.SamplingAndSearchCommands`. -/
theorem witness_SamplingAndSearchCommands :
  (∃ (r : Nat) (d : Dma) (s s1 s2 : State) (c : Cmd) (n id : Nat) (x : Slot),
    let cs := sampleCounts x (c.fld 140 140 == 1)
    let a : Aux := ⟨c.pay, max (capFor cs.length) ((x.aux.map (·.cap)).getD 64), (x.aux.map (·.draftPage)).getD noId, cs⟩
    taken 0x0810 [.operator, .tenant] r d s = some (c, s1) ∧ sampleFields c = .ok () ∧ c.entry s1 c.target = .ok (n, x) ∧
      (cs.all fun k => decide (k.token < c.fld 116 98)) = true ∧ openEntry s1 n x = .ok () ∧ x.e.state.terminal = false ∧
      x.e.state ≠ .handoff ∧ x.e.inStep = false ∧ (c.fld 140 140 = 1 → x.e.promptComplete = true) ∧ cs.length ≤ 131008 ∧
      (auxLen (some a) ≤ auxLen x.aux ∨ serviceFits s1 (auxLen (some a) - auxLen x.aux) = true) ∧ innerPage s1 x.aux.isNone
      = some (id, s2)) ∧
  (∃ (r : Nat) (d : Dma) (s s1 : State) (c : Cmd),
    let set := c.fld 127 116
    let n := c.fld 115 101
    let recs := c.recs 16 32 n
    let old : BanSet := Tbl.getD s1.att.bans set ⟨c.tenant, []⟩
    let base := if c.fld 100 100 = 1 then [] else old.items
    let gone := if c.fld 100 100 = 1 then old.items else []
    let items := recs.foldl (banAdd set) base
    taken 0x0812 [.operator, .tenant] r d s = some (c, s1) ∧ n ≤ 16384 ∧ (c.fld 100 100 = 1 ∨ 1 ≤ n) ∧ c.payLen = 16 + 32 *
      n ∧ c.target = 0 ∧ c.fld 99 0 = 0 ∧ set ≠ 0 ∧ checkEach (fun i x => need (decide (1 ≤ (banRec x).1) && decide
      ((banRec x).1 ≤ 8)) St.lengthRange (inPay (16 + 32 * i + 3))) 0 recs = .ok () ∧ checkEach banRecOk 0 recs = .ok () ∧
      c.tenantOk old.tenant = true ∧ banInUse s1 set = false ∧ items.length - base.length ≤ banksFree s1 0xF + gone.length
      ∧ banBytes s1 set items ≤ 4194304) ∧
  (∃ (r : Nat) (d : Dma) (s s1 : State) (c : Cmd),
    let g := c.fld 12 6
    let vals := bf16sOf (c.pay.drop 16) (4096 * g)
    taken 0x0802 [.operator, .tenant] r d s = some (c, s1) ∧ 1 ≤ g ∧ g ≤ 64 ∧ c.payLen = 16 + 8192 * g ∧ c.target = 0 ∧
      c.fld 127 13 = 0 ∧ (∀ i, ∀ v ∈ vals, need (isFinite (ofBf16 v) || v == 0xFF80) St.fieldRange (inPay (16 + 2 * i)) =
      .ok ()) ∧ (∀ b, Tbl.get s1.att.bias (c.fld 5 0) = some b → c.tenantOk b.tenant = true) ∧ biasInUse s1 (c.fld 5 0) =
      false) ∧
  (∃ (r : Nat) (d : Dma) (s s1 s2 s3 : State) (c : Cmd),
    let n := c.fld 108 104
    let rows := c.fld 127 111
    let dim := 64 <<< c.fld 110 109
    let outA := c.fld 255 192
    let lseA := c.fld 191 128
    let bf := c.fld 103 103 == 0
    let recs := c.recs 32 16 n
    let ins := recs.map fun x => (f32sOf (devRead s1 (bits x 127 64) (4 * (rows * dim))) (rows * dim),
      f32sOf (devRead s1 (bits x 63 0) (4 * rows)) rows)
    let out := (List.range rows).map fun k => mergeRow dim (ins.map fun i => ((i.1.drop (k * dim)).take dim, i.2.getD k 0))
    taken 0x0803 [.operator, .tenant] r d s = some (c, s1) ∧ 2 ≤ n ∧ n ≤ 16 ∧ 1 ≤ rows ∧ rows ≤ 65536 ∧ c.payLen = 32 + 16
      * n ∧ c.target = 0 ∧ c.fld 102 0 = 0 ∧ c.fld 110 109 ≠ 3 ∧ lseA ≠ 0 ∧ lseA < objectBytes ∧ outA < objectBytes ∧ (∀ x
      ∈ recs, bits x 63 0 < objectBytes ∧ bits x 127 64 < objectBytes) ∧ rangeMine s1 (c.priv == .tenant) c.tenant outA
      (rows * dim * outSize bf) = true ∧ rangeMine s1 (c.priv == .tenant) c.tenant lseA (4 * rows) = true ∧ (∀ x ∈ recs,
      rangeMine s1 (c.priv == .tenant) c.tenant (bits x 127 64) (4 * (rows * dim)) = true ∧ rangeMine s1 (c.priv ==
      .tenant) c.tenant (bits x 63 0) (4 * rows) = true) ∧ (∀ x ∈ recs, canRead s1 (bits x 127 64) (4 * (rows * dim)) = .ok
      () ∧ canRead s1 (bits x 63 0) (4 * rows) = .ok ()) ∧ canWrite s1 outA (rows * dim * outSize bf) = .ok () ∧ canWrite
      s1 lseA (4 * rows) = .ok () ∧ devWrite s1 outA ((out.flatMap (·.1)).flatMap (outBytes bf)) = some s2 ∧ devWrite s2
      lseA (f32Bytes (out.map (·.2))) = some s3) ∧
  (∃ (r : Nat) (d : Dma) (s s1 : State) (c : Cmd),
    let k := c.fld 167 164
    let p := c.fld 163 162
    let slots := c.fld 180 168
    taken 0x0830 [.operator, .tenant] r d s = some (c, s1) ∧ c.payLen = 32 ∧ 2 ≤ slots ∧ slots ≤ 4096 ∧ 1 ≤ c.fld 191 181 ∧
      c.fld 191 181 ≤ 1024 ∧ c.target = 0 ∧ c.fld 160 0 = 0 ∧ (portMode s1 p = 1 ∨ portMode s1 p = 2) ∧ isPow2 slots = true
      ∧ c.fld 255 192 % 64 = 0 ∧ (∀ b, Tbl.get s1.att.bulletins k = some b → c.tenantOk b.tenant = true ∧ ringInStep s1 k =
      false)) ∧
  (∃ (r : Nat) (d : Dma) (s s1 : State) (c : Cmd),
    let n := c.fld 14 0
    let space := c.fld 27 22
    let banks := c.fld 31 28
    let recs := c.recs 16 48 n
    let empty := (spaceEntries s1 space).isEmpty
    let m := if empty = true then banks else spaceBanks s1 space
    taken 0x0A10 [.operator] r d s = some (c, s1) ∧ 1 ≤ n ∧ n ≤ 16384 ∧ c.payLen = 16 + 48 * n ∧ 4 * n ≤ c.resLen ∧
      c.target = 0 ∧ c.fld 21 15 = 0 ∧ space ≠ 0 ∧ (empty = true → banks ≠ 0) ∧ (empty = false → banks = 0 ∨ banks =
      spaceBanks s1 space) ∧ c.fld 127 32 = 0 ∧ (∀ x ∈ recs, bits x 15 0 = 0 ∧ bits x 383 224 &&& (2 ^ 160 - 1 - bits x 223
      64) = 0) ∧ n ≤ banksFree s1 m) ∧
  (∃ (r : Nat) (d : Dma) (s s1 : State) (c : Cmd),
    let n := c.fld 14 0
    let hs := c.recs 8 4 n
    taken 0x0A11 [.operator] r d s = some (c, s1) ∧ c.fld 15 15 = 0 ∧ 1 ≤ n ∧ n ≤ 16384 ∧ c.payLen = 8 + 4 * n ∧ c.target =
      0 ∧ c.fld 63 22 = 0 ∧ (∀ h ∈ hs, h >>> 24 = 0 ∧ (findSearch s1 h).isSome = true ∧ ((findSearch s1 h).map
      (·.row.space)).getD 0 ≠ 0)) ∧
  (∃ (r : Nat) (d : Dma) (s s1 : State) (c : Cmd),
    let n := c.fld 12 0
    let recs := c.recs 8 24 n
    taken 0x0A12 [.operator, .maintenance] r d s = some (c, s1) ∧ 1 ≤ n ∧ n ≤ 4096 ∧ c.payLen = 8 + 24 * n ∧ 16 * n ≤
      c.resLen ∧ c.target = 0 ∧ c.fld 15 13 = 0 ∧ c.fld 63 22 = 0 ∧ (∀ x ∈ recs, bits x 31 0 = 0)) ∧
  (∃ (s : State) (bank i : Nat) (e : SEntry) (v : SRow),
    (s.tsu.search.filter fun kv => kv.1 / 16384 == bank) = [(i, e)] ∧ e.copy = some v) ∧
  (∃ (s : State) (bank i : Nat) (e : SEntry),
    (s.tsu.search.filter fun kv => kv.1 / 16384 == bank) = [(i, e)] ∧ e.copy = none) :=
  ⟨⟨256, pay 48 (128 <<< 98 ||| 1 <<< 129 ||| 0x3F800000 <<< 224 ||| 0x3F800000 <<< 256),
      fw 0x0810 48 0 0 (withReq ent up), _, _, _, 0, _, newSlot ent, is_taken (by decide +kernel), by decide +kernel,
      by decide +kernel, by decide +kernel, by decide +kernel, by decide +kernel, by decide +kernel, by decide +kernel,
      by decide +kernel, by decide +kernel, by decide +kernel, is_pair (0, up) (by decide +kernel)⟩,
    ⟨256, pay 48 (1 <<< 116 ||| 1 <<< 101 ||| 1 <<< 156 ||| 5 <<< 128), fw 0x0812 48 0 0 up, _, _,
      is_taken (by decide +kernel), by decide +kernel⟩,
    ⟨256, pay 8208 (1 <<< 6), fw 0x0802 8208 0 0 up, _, _, is_taken (by decide +kernel), by decide +kernel,
      by decide +kernel, by decide +kernel, by decide +kernel, by decide +kernel,
      zeros_hold _ _ (fun i => inPay (16 + 2 * i)) (by decide +kernel), (by decide +kernel), by decide +kernel⟩,
    ⟨256, pay 64 (1024 <<< 192 ||| 2048 <<< 128 ||| 1 <<< 111 ||| 2 <<< 104), fw 0x0803 64 0 0 (backed .hbm up), _, _, _,
      _, is_taken (by decide +kernel), by decide +kernel, by decide +kernel, by decide +kernel, by decide +kernel,
      by decide +kernel, by decide +kernel, by decide +kernel, by decide +kernel, by decide +kernel, by decide +kernel,
      by decide +kernel, by decide +kernel, by decide +kernel, by decide +kernel, by decide +kernel, by decide +kernel,
      by decide +kernel, by decide +kernel, isOne up (by decide +kernel), isOne up (by decide +kernel)⟩,
    ⟨256, pay 32 (2 <<< 168 ||| 1 <<< 181), fw 0x0830 32 0 0 up, _, _, is_taken (by decide +kernel), by decide +kernel⟩,
    ⟨256, pay 64 (1 <<< 28 ||| 1 <<< 22 ||| 1), fw 0x0A10 64 4 0 up, _, _, is_taken (by decide +kernel), by decide +kernel⟩,
    ⟨256, pay 12 1, fw 0x0A11 12 0 0 (withSearch sent0 up), _, _, is_taken (by decide +kernel), by decide +kernel⟩,
    ⟨256, pay 32 (1 <<< 16 ||| 1), fw 0x0A12 32 16 0 (withSearch sent0 up), _, _, is_taken (by decide +kernel),
      by decide +kernel⟩,
    ⟨(withSearch sent0 up), 0, 0, sent0, ⟨5, 0, 0, 7, 1⟩, by decide +kernel⟩,
    ⟨(withSearch { sent0 with copy := none } up), 0, 0, { sent0 with copy := none }, by decide +kernel⟩⟩

/-- The hypotheses of `Obligations.FabricCommands`. -/
theorem witness_FabricCommands :
  (∃ (r : Nat) (d : Dma) (s s1 : State) (c : Cmd),
    let p := c.fld 4 0
    taken 0x0901 [.operator] r d s = some (c, s1) ∧ c.payLen = 32 ∧ c.target = 0 ∧ p ≤ 17 ∧ c.fld 7 6 ≠ 0 ∧ c.fld 122 9 = 0
      ∧ c.fld 130 123 ≠ 0 ∧ c.fld 146 131 ≠ 0 ∧ c.fld 159 148 ≠ 4095 ∧ (c.fld 5 5 = 1 → me s1 ≠ 0xFFFE) ∧ (inPair s1 =
      false ∨ p < 16)) ∧
  (∃ (r : Nat) (d : Dma) (s s1 : State) (c : Cmd),
    taken 0x0902 [.operator, .maintenance] r d s = some (c, s1) ∧ c.payLen = 0 ∧ 576 ≤ c.resLen ∧ c.target = 0) ∧
  (∃ (r : Nat) (d : Dma) (s s1 s2 : State) (c : Cmd) (k : Nat),
    let base := c.fld 191 128
    let len := c.fld 127 64
    taken 0x0910 [.operator, .tenant] r d s = some (c, s1) ∧ c.payLen = 24 ∧ 4096 ≤ len ∧ len ≤ objectBytes ∧ c.target = 0
      ∧ c.fld 47 2 = 0 ∧ base % 4096 = 0 ∧ len % 4096 = 0 ∧ regionOk s1 c.priv c.tenant base len = true ∧ newKey s1 base
      len c.tenant (c.fld 1 0) (c.fld 63 48) .no = some (k, s2)) ∧
  (∃ (r : Nat) (d : Dma) (s s1 : State) (c : Cmd) (i : Nat) (x : Key),
    let base := c.fld 191 128
    let len := c.fld 127 64
    taken 0x0910 [.operator, .tenant] r d s = some (c, s1) ∧ c.payLen = 24 ∧ 4096 ≤ len ∧ len ≤ objectBytes ∧ c.target ≠ 0
      ∧ c.target >>> 32 = 0 ∧ c.fld 47 2 = 0 ∧ base % 4096 = 0 ∧ len % 4096 = 0 ∧ regionOk s1 c.priv c.tenant base len =
      true ∧ findKey s1 c.target = some (i, x) ∧ x.tenant = c.tenant ∧ x.landing = .no) ∧
  (∃ (r : Nat) (d : Dma) (s s1 : State) (c : Cmd) (i : Nat) (x : Key),
    taken 0x0911 [.operator, .tenant] r d s = some (c, s1) ∧ c.payLen = 0 ∧ c.target >>> 32 = 0 ∧ findKey s1 c.target =
      some (i, x) ∧ x.tenant = c.tenant ∧ x.landing = .no) ∧
  (∃ (r : Nat) (d : Dma) (s s1 : State) (c : Cmd) (b i k : Nat),
    taken 0x0920 [.operator, .tenant] r d s = some (c, s1) ∧ c.payLen = 48 ∧ ringFields s1 c.port (c.fld 47 32) (c.fld 63
      48) (c.fld 79 64) (c.fld 95 80) (c.fld 111 96) (c.fld 191 128) (c.fld 255 192) [] [(c.fld 127 112 == 0,
      St.fieldRange, inPay 14)] 4 6 8 10 12 16 24 = .ok () ∧ 16 ≤ c.fld 47 32 ∧ c.fld 47 32 ≤ 4096 ∧ 16 ≤ c.fld 63 48 ∧
      c.fld 63 48 ≤ 4096 ∧ 1 ≤ c.fld 79 64 ∧ c.fld 79 64 ≤ 256 ∧ 1 ≤ c.fld 302 299 ∧ c.fld 302 299 ≤ 8 ∧ 16 ≤ c.fld 311 303
      ∧ c.fld 311 303 ≤ 256 ∧ c.target = 0 ∧ c.fld 31 0 = 0 ∧ c.fld 127 112 = 0 ∧ c.fld 257 256 = 1 ∧ c.fld 293 258 = 0 ∧
      c.fld 298 297 ≠ 3 ∧ c.fld 319 312 = 0 ∧ c.fld 351 320 ≤ 288000 ∧ c.fld 367 352 = 0 ∧ peerKnown s1 (c.fld 383 368) =
      true ∧ Tbl.freeFrom s1.hcu.rings 252 4 = some k ∧ k < 256 ∧ freeRegion s1 (c.fld 47 32) = some b ∧ freeConn s1 = some
      i) ∧
  (∃ (r : Nat) (d : Dma) (s s1 : State) (c : Cmd) (b i k : Nat),
    taken 0x0920 [.operator, .tenant] r d s = some (c, s1) ∧ c.payLen = 48 ∧ ringFields s1 c.port (c.fld 47 32) (c.fld 63
      48) (c.fld 79 64) (c.fld 95 80) (c.fld 111 96) (c.fld 191 128) (c.fld 255 192) [] [(c.fld 127 112 == 0,
      St.fieldRange, inPay 14)] 4 6 8 10 12 16 24 = .ok () ∧ 16 ≤ c.fld 47 32 ∧ c.fld 47 32 ≤ 4096 ∧ 16 ≤ c.fld 63 48 ∧
      c.fld 63 48 ≤ 4096 ∧ 1 ≤ c.fld 79 64 ∧ c.fld 79 64 ≤ 256 ∧ c.target = 0 ∧ c.fld 31 0 = 0 ∧ c.fld 127 112 = 0 ∧ c.fld
      257 256 = 2 ∧ c.fld 293 258 = 0 ∧ c.fld 298 297 ≠ 3 ∧ c.fld 319 312 = 0 ∧ c.fld 351 320 ≤ 288000 ∧ c.fld 367 352 = 0
      ∧ c.fld 383 368 = 0xFFFF ∧ s1.fbe.erg ≠ [] ∧ Tbl.freeFrom s1.hcu.rings 252 4 = some k ∧ k < 256 ∧ freeRegion s1
      (c.fld 47 32) = some b ∧ freeConn s1 = some i) ∧
  (∃ (r : Nat) (d : Dma) (s s1 : State) (c : Cmd) (i : Nat) (x : Conn),
    let k := c.target % 65536
    taken 0x0921 [.operator, .tenant] r d s = some (c, s1) ∧ c.payLen = 8 ∧ c.target >>> 16 = 0 ∧ c.fld 63 1 = 0 ∧
      connOfRing s1 k = some (i, x) ∧ c.tenantOk x.tenant = true ∧ x.st ≠ .opening ∧ x.st ≠ .closing) ∧
  (∃ (r : Nat) (d : Dma) (s s1 : State) (c : Cmd),
    let n := c.fld 6 0
    let recs := c.recs 16 32 n
    taken 0x0930 [.operator] r d s = some (c, s1) ∧ 1 ≤ n ∧ n ≤ 64 ∧ c.payLen = 16 + 32 * n ∧ c.target = 0 ∧ c.fld 127 7 =
      0 ∧ (∀ x ∈ recs, 4096 ≤ bits x 191 128 ∧ bits x 191 128 ≤ ergTop) ∧ checkEach (ergFields s1) 0 recs = .ok () ∧ (∃ x ∈
      recs, (ergRec x).node = me s1) ∧ (inPair s1 = false ∨ ∀ x ∈ recs, namesMirror s1 x = false)) ∧
  (∃ (r : Nat) (d : Dma) (s s1 : State) (c : Cmd),
    taken 0x0940 [.operator] r d s = some (c, s1) ∧ c.payLen = 16 ∧ c.target = 0 ∧ c.fld 79 0 = 0 ∧ c.fld 85 82 ≤ 7 ∧
      (inPair s1 = true → c.fld 127 126 = 0)) ∧
  (∃ (r : Nat) (d : Dma) (s s1 : State) (c : Cmd),
    taken 0x0E12 [.maintenance] r d s = some (c, s1) ∧ c.payLen = 8 ∧ 64 ≤ c.resLen ∧ c.target = 0 ∧ c.fld 4 0 ≤ 17 ∧ c.fld
      21 5 = 0 ∧ (c.fld 23 22 = 1 ∨ c.fld 23 22 = 2) ∧ 1 ≤ c.fld 63 32 ∧ c.fld 63 32 ≤ 10000 ∧ (portAt s1 (c.fld 4 0)).st =
      .disabled) ∧
  (∃ (s : State) (port : Nat),
    (portAt s port).st = .loopback ∧ (portAt s port).loopUntil ≤ now s) ∧
  (∃ (r : Nat) (d : Dma) (s s1 : State) (c : Cmd),
    taken 0x0E20 [.maintenance] r d s = some (c, s1) ∧ c.payLen = 16 ∧ 1 ≤ c.fld 63 48 ∧ c.target = 0 ∧ 1 ≤ c.fld 7 0 ∧
      c.fld 7 0 ≤ 5 ∧ c.fld 47 8 = 0 ∧ injectAddr s1 (c.fld 7 0) (c.fld 127 64) = true) ∧
  (∃ (s : State) (r i : Nat) (R : Ring) (c : Conn),
    let h := slotHeader s R
    Tbl.get s.hcu.rings r = some R ∧ connOfRing s r = some (i, c) ∧ R.work = true ∧ R.waiting = none ∧ granted s r R = true
      ∧ workReady s R c h = true ∧ c.st ≠ .failed ∧ descChecks (fetchedWork s r R h) R c h = .ok () ∧ wOp h = 1) ∧
  (∃ (s : State) (r i : Nat) (R : Ring) (c : Conn),
    let h := slotHeader s R
    Tbl.get s.hcu.rings r = some R ∧ connOfRing s r = some (i, c) ∧ R.work = true ∧ R.waiting = none ∧ granted s r R = true
      ∧ workReady s R c h = true ∧ c.st ≠ .failed ∧ descChecks (fetchedWork s r R h) R c h = .ok () ∧ wOp h = 2) ∧
  (∃ (s : State) (r i : Nat) (R : Ring) (c : Conn),
    let h := slotHeader s R
    Tbl.get s.hcu.rings r = some R ∧ connOfRing s r = some (i, c) ∧ R.work = true ∧ R.waiting = none ∧ granted s r R = true
      ∧ workReady s R c h = true ∧ c.st ≠ .failed ∧ descChecks (fetchedWork s r R h) R c h = .ok () ∧ wOp h = 3) ∧
  (∃ (s : State) (r i : Nat) (R : Ring) (c : Conn),
    let h := slotHeader s R
    Tbl.get s.hcu.rings r = some R ∧ connOfRing s r = some (i, c) ∧ R.work = true ∧ R.waiting = none ∧ granted s r R = true
      ∧ workReady s R c h = true ∧ c.st ≠ .failed ∧ descChecks (fetchedWork s r R h) R c h = .ok () ∧ wOp h = 4) ∧
  (∃ (s : State) (r i : Nat) (R : Ring) (c : Conn),
    let h := slotHeader s R
    Tbl.get s.hcu.rings r = some R ∧ connOfRing s r = some (i, c) ∧ R.work = true ∧ R.waiting = none ∧ granted s r R = true
      ∧ workReady s R c h = true ∧ c.st ≠ .failed ∧ descChecks (fetchedWork s r R h) R c h = .ok () ∧ wOp h = 5) ∧
  (∃ (s : State) (r i : Nat) (R : Ring) (c : Conn),
    let h := slotHeader s R
    Tbl.get s.hcu.rings r = some R ∧ connOfRing s r = some (i, c) ∧ R.work = true ∧ R.waiting = none ∧ granted s r R = true
      ∧ workReady s R c h = true ∧ c.st ≠ .failed ∧ descChecks (fetchedWork s r R h) R c h = .ok () ∧ wOp h = 6) ∧
  (∃ (s : State) (r i : Nat) (R : Ring) (c : Conn),
    let h := slotHeader s R
    Tbl.get s.hcu.rings r = some R ∧ connOfRing s r = some (i, c) ∧ R.work = true ∧ R.waiting = none ∧ granted s r R = true
      ∧ workReady s R c h = false ∧ wOp h = 1) ∧
  (∃ (s : State) (r i : Nat) (R : Ring) (c : Conn),
    let h := slotHeader s R
    Tbl.get s.hcu.rings r = some R ∧ connOfRing s r = some (i, c) ∧ R.work = true ∧ R.waiting = none ∧ granted s r R = true
      ∧ workReady s R c h = false ∧ wOp h = 2) ∧
  (∃ (s : State) (r i : Nat) (R : Ring) (c : Conn),
    let h := slotHeader s R
    Tbl.get s.hcu.rings r = some R ∧ connOfRing s r = some (i, c) ∧ R.work = true ∧ R.waiting = none ∧ granted s r R = true
      ∧ workReady s R c h = false ∧ wOp h = 3) ∧
  (∃ (s : State) (r i : Nat) (R : Ring) (c : Conn),
    let h := slotHeader s R
    Tbl.get s.hcu.rings r = some R ∧ connOfRing s r = some (i, c) ∧ R.work = true ∧ R.waiting = none ∧ granted s r R = true
      ∧ workReady s R c h = false ∧ wOp h = 4) ∧
  (∃ (s : State) (r i : Nat) (R : Ring) (c : Conn),
    let h := slotHeader s R
    Tbl.get s.hcu.rings r = some R ∧ connOfRing s r = some (i, c) ∧ R.work = true ∧ R.waiting = none ∧ granted s r R = true
      ∧ workReady s R c h = false ∧ wOp h = 5) ∧
  (∃ (s : State) (r i : Nat) (R : Ring) (c : Conn),
    let h := slotHeader s R
    Tbl.get s.hcu.rings r = some R ∧ connOfRing s r = some (i, c) ∧ R.work = true ∧ R.waiting = none ∧ granted s r R = true
      ∧ workReady s R c h = false ∧ wOp h = 6) ∧
  (∃ (s : State) (r i : Nat) (R : Ring) (c : Conn) (h : Nat),
    let R1 := { R with waiting := none, outstanding := R.outstanding ++ [wCid h] }
    Tbl.get s.hcu.rings r = some R ∧ connOfRing s r = some (i, c) ∧ R.work = true ∧ R.waiting = some h ∧ serving s r = true
      ∧ workReady s R c h = true ∧ c.st ≠ .failed ∧ descChecks (setRing s r R1) (unfetched R) c h = .ok () ∧ wOp h = 1) ∧
  (∃ (s : State) (r i : Nat) (R : Ring) (c : Conn) (h : Nat),
    let R1 := { R with waiting := none, outstanding := R.outstanding ++ [wCid h] }
    Tbl.get s.hcu.rings r = some R ∧ connOfRing s r = some (i, c) ∧ R.work = true ∧ R.waiting = some h ∧ serving s r = true
      ∧ workReady s R c h = true ∧ c.st ≠ .failed ∧ descChecks (setRing s r R1) (unfetched R) c h = .ok () ∧ wOp h = 2) ∧
  (∃ (s : State) (r i : Nat) (R : Ring) (c : Conn) (h : Nat),
    let R1 := { R with waiting := none, outstanding := R.outstanding ++ [wCid h] }
    Tbl.get s.hcu.rings r = some R ∧ connOfRing s r = some (i, c) ∧ R.work = true ∧ R.waiting = some h ∧ serving s r = true
      ∧ workReady s R c h = true ∧ c.st ≠ .failed ∧ descChecks (setRing s r R1) (unfetched R) c h = .ok () ∧ wOp h = 3) ∧
  (∃ (s : State) (r i : Nat) (R : Ring) (c : Conn) (h : Nat),
    let R1 := { R with waiting := none, outstanding := R.outstanding ++ [wCid h] }
    Tbl.get s.hcu.rings r = some R ∧ connOfRing s r = some (i, c) ∧ R.work = true ∧ R.waiting = some h ∧ serving s r = true
      ∧ workReady s R c h = true ∧ c.st ≠ .failed ∧ descChecks (setRing s r R1) (unfetched R) c h = .ok () ∧ wOp h = 4) ∧
  (∃ (s : State) (r i : Nat) (R : Ring) (c : Conn) (h : Nat),
    let R1 := { R with waiting := none, outstanding := R.outstanding ++ [wCid h] }
    Tbl.get s.hcu.rings r = some R ∧ connOfRing s r = some (i, c) ∧ R.work = true ∧ R.waiting = some h ∧ serving s r = true
      ∧ workReady s R c h = true ∧ c.st ≠ .failed ∧ descChecks (setRing s r R1) (unfetched R) c h = .ok () ∧ wOp h = 5) ∧
  (∃ (s : State) (r i : Nat) (R : Ring) (c : Conn) (h : Nat),
    let R1 := { R with waiting := none, outstanding := R.outstanding ++ [wCid h] }
    Tbl.get s.hcu.rings r = some R ∧ connOfRing s r = some (i, c) ∧ R.work = true ∧ R.waiting = some h ∧ serving s r = true
      ∧ workReady s R c h = true ∧ c.st ≠ .failed ∧ descChecks (setRing s r R1) (unfetched R) c h = .ok () ∧ wOp h = 6) :=
  ⟨⟨256, pay 32 (1 <<< 6 ||| 1 <<< 123 ||| 1 <<< 131), fw 0x0901 32 0 0 up, _, _, is_taken (by decide +kernel),
      by decide +kernel⟩,
    ⟨256, pay 0 0, fw 0x0902 0 576 0 up, _, _, is_taken (by decide +kernel), by decide +kernel⟩,
    ⟨256, pay 24 (4096 <<< 64), fw 0x0910 24 4 0 up, _, _, _, _, is_taken (by decide +kernel), by decide +kernel,
      by decide +kernel, by decide +kernel, by decide +kernel, by decide +kernel, by decide +kernel, by decide +kernel,
      by decide +kernel, is_pair (0, up) (by decide +kernel)⟩,
    ⟨256, pay 24 (4096 <<< 64), fw 0x0910 24 4 1 (withKey up), _, _, 0, ⟨1, 0, 4096, 0, 3, 2, .no⟩,
      is_taken (by decide +kernel), by decide +kernel⟩,
    ⟨256, pay 0 0, fw 0x0911 0 0 1 (withKey up), _, _, 0, ⟨1, 0, 4096, 0, 3, 2, .no⟩, is_taken (by decide +kernel),
      by decide +kernel⟩,
    ⟨256,
      pay 48 (2 <<< 368 ||| 16 <<< 303 ||| 1 <<< 299 ||| 1 <<< 256 ||| 4096 <<< 192 ||| 8192 <<< 128 ||| 16 <<< 32 ||| 16 <<< 48 ||| 1 <<< 64),
      fw 0x0920 48 4 0 (mapped up), _, _, 256, 0, 4, is_taken (by decide +kernel), by decide +kernel⟩,
    ⟨256, pay 48 (0xFFFF <<< 368 ||| 2 <<< 256 ||| 4096 <<< 192 ||| 8192 <<< 128 ||| 16 <<< 32 ||| 16 <<< 48 ||| 1 <<< 64),
      fw 0x0920 48 4 0 { up with fbe := { up.fbe with erg := [⟨0, 4096, 1, 0, 0, 0, 0, 0⟩] } }, _, _, 256, 0, 4,
      is_taken (by decide +kernel), by decide +kernel⟩,
    ⟨256, pay 8 0, fw 0x0921 8 0 5 (withConn (aConn false) 0 up), _, _, 0, aConn false, is_taken (by decide +kernel),
      by decide +kernel⟩,
    ⟨256, pay 48 (4096 <<< 256 ||| 1 <<< 240 ||| 1), fw 0x0930 48 0 0 (mapped up), _, _, is_taken (by decide +kernel),
      by decide +kernel⟩,
    ⟨256, pay 16 0, fw 0x0940 16 0 0 up, _, _, is_taken (by decide +kernel), by decide +kernel⟩,
    ⟨256, pay 8 (1 <<< 32 ||| 1 <<< 22), fw 0x0E12 8 64 0 (withPort .disabled up), _, _, is_taken (by decide +kernel),
      by decide +kernel⟩,
    ⟨withPort .loopback up, 0, by decide +kernel⟩,
    ⟨256, pay 16 (16 <<< 64 ||| 1 <<< 48 ||| 4), fw 0x0E20 16 0 0 up, _, _, is_taken (by decide +kernel),
      by decide +kernel⟩,
    ⟨withConn (aConn true) (1 <<< 178 ||| 4096 <<< 448 ||| 1 <<< 430 ||| 16 <<< 203) (mapped (backed .hbm up)), 5, 0,
      ring5, aConn true, by decide +kernel, by decide +kernel⟩,
    ⟨withConn (aConn true) (2 <<< 178 ||| 4096 <<< 448 ||| 1 <<< 430 ||| 16 <<< 203) (mapped (backed .hbm up)), 5, 0,
      ring5, aConn true, by decide +kernel, by decide +kernel⟩,
    ⟨withConn (aConn true) (3 <<< 178 ||| 4096 <<< 448 ||| 1 <<< 430) (mapped (backed .hbm up)), 5, 0, ring5, aConn true,
      by decide +kernel, by decide +kernel⟩,
    ⟨withConn (aConn true) (4 <<< 178 ||| 4096 <<< 448 ||| 1 <<< 430) (mapped (backed .hbm up)), 5, 0, ring5, aConn true,
      by decide +kernel, by decide +kernel⟩,
    ⟨withConn (aConn true) (5 <<< 178 ||| 4096 <<< 448 ||| 1 <<< 430) (mapped (backed .hbm up)), 5, 0, ring5, aConn true,
      by decide +kernel, by decide +kernel⟩,
    ⟨withConn (aConn true) (6 <<< 178 ||| 4096 <<< 448 ||| 1 <<< 430) (mapped (backed .hbm up)), 5, 0, ring5, aConn true,
      by decide +kernel, by decide +kernel⟩,
    ⟨withConn { aConn true with st := .opening } (1 <<< 178 ||| 4096 <<< 448 ||| 1 <<< 430 ||| 16 <<< 203) (mapped (backed .hbm up)),
      5, 0, ring5, { aConn true with st := .opening }, by decide +kernel, by decide +kernel⟩,
    ⟨withConn { aConn true with st := .opening } (2 <<< 178 ||| 4096 <<< 448 ||| 1 <<< 430 ||| 16 <<< 203) (mapped (backed .hbm up)),
      5, 0, ring5, { aConn true with st := .opening }, by decide +kernel, by decide +kernel⟩,
    ⟨withConn { aConn true with st := .opening } (3 <<< 178 ||| 4096 <<< 448 ||| 1 <<< 430) (mapped (backed .hbm up)), 5,
      0, ring5, { aConn true with st := .opening }, by decide +kernel, by decide +kernel⟩,
    ⟨withConn { aConn true with st := .opening } (4 <<< 178 ||| 4096 <<< 448 ||| 1 <<< 430) (mapped (backed .hbm up)), 5,
      0, ring5, { aConn true with st := .opening }, by decide +kernel, by decide +kernel⟩,
    ⟨withConn { aConn true with st := .opening } (5 <<< 178 ||| 4096 <<< 448 ||| 1 <<< 430) (mapped (backed .hbm up)), 5,
      0, ring5, { aConn true with st := .opening }, by decide +kernel, by decide +kernel⟩,
    ⟨withConn { aConn true with st := .opening } (6 <<< 178 ||| 4096 <<< 448 ||| 1 <<< 430) (mapped (backed .hbm up)), 5,
      0, ring5, { aConn true with st := .opening }, by decide +kernel, by decide +kernel⟩,
    ⟨(let s := withConn (aConn true) 0 (mapped (backed .hbm up)); { s with hcu := { s.hcu with rings := [(5, { ring5 with waiting := some (1 <<< 178 ||| 4096 <<< 448 ||| 1 <<< 430 ||| 16 <<< 203) })] } }),
      5, 0, { ring5 with waiting := some (1 <<< 178 ||| 4096 <<< 448 ||| 1 <<< 430 ||| 16 <<< 203) }, aConn true,
      1 <<< 178 ||| 4096 <<< 448 ||| 1 <<< 430 ||| 16 <<< 203, by decide +kernel, by decide +kernel⟩,
    ⟨(let s := withConn (aConn true) 0 (mapped (backed .hbm up)); { s with hcu := { s.hcu with rings := [(5, { ring5 with waiting := some (2 <<< 178 ||| 4096 <<< 448 ||| 1 <<< 430 ||| 16 <<< 203) })] } }),
      5, 0, { ring5 with waiting := some (2 <<< 178 ||| 4096 <<< 448 ||| 1 <<< 430 ||| 16 <<< 203) }, aConn true,
      2 <<< 178 ||| 4096 <<< 448 ||| 1 <<< 430 ||| 16 <<< 203, by decide +kernel, by decide +kernel⟩,
    ⟨(let s := withConn (aConn true) 0 (mapped (backed .hbm up)); { s with hcu := { s.hcu with rings := [(5, { ring5 with waiting := some (3 <<< 178 ||| 4096 <<< 448 ||| 1 <<< 430) })] } }),
      5, 0, { ring5 with waiting := some (3 <<< 178 ||| 4096 <<< 448 ||| 1 <<< 430) }, aConn true,
      3 <<< 178 ||| 4096 <<< 448 ||| 1 <<< 430, by decide +kernel, by decide +kernel⟩,
    ⟨(let s := withConn (aConn true) 0 (mapped (backed .hbm up)); { s with hcu := { s.hcu with rings := [(5, { ring5 with waiting := some (4 <<< 178 ||| 4096 <<< 448 ||| 1 <<< 430) })] } }),
      5, 0, { ring5 with waiting := some (4 <<< 178 ||| 4096 <<< 448 ||| 1 <<< 430) }, aConn true,
      4 <<< 178 ||| 4096 <<< 448 ||| 1 <<< 430, by decide +kernel, by decide +kernel⟩,
    ⟨(let s := withConn (aConn true) 0 (mapped (backed .hbm up)); { s with hcu := { s.hcu with rings := [(5, { ring5 with waiting := some (5 <<< 178 ||| 4096 <<< 448 ||| 1 <<< 430) })] } }),
      5, 0, { ring5 with waiting := some (5 <<< 178 ||| 4096 <<< 448 ||| 1 <<< 430) }, aConn true,
      5 <<< 178 ||| 4096 <<< 448 ||| 1 <<< 430, by decide +kernel, by decide +kernel⟩,
    ⟨(let s := withConn (aConn true) 0 (mapped (backed .hbm up)); { s with hcu := { s.hcu with rings := [(5, { ring5 with waiting := some (6 <<< 178 ||| 4096 <<< 448 ||| 1 <<< 430) })] } }),
      5, 0, { ring5 with waiting := some (6 <<< 178 ||| 4096 <<< 448 ||| 1 <<< 430) }, aConn true,
      6 <<< 178 ||| 4096 <<< 448 ||| 1 <<< 430, by decide +kernel, by decide +kernel⟩⟩

/-- The hypotheses of `Obligations.PortAndClockEvents`. -/
theorem witness_PortAndClockEvents :
  (∃ (s : State) (port : Nat) (upper : Bool),
    port ≤ 17 ∧ portsPowered s = true ∧ (portAt s port).st = .training ∧ halfFits (portAt s port) false upper = true) ∧
  (∃ (s : State) (port : Nat) (upper : Bool),
    port ≤ 17 ∧ portsPowered s = true ∧ (portAt s port).st = .training ∧ halfFits (portAt s port) true upper = true) ∧
  (∃ (s : State) (port lane : Nat),
    port ≤ 17 ∧ lane ≤ 7 ∧ linked s port = true) ∧
  (∃ (s : State) (port unc : Nat) (corr : List Nat),
    port ≤ 17 ∧ linked s port = true ∧ s.mir.inject = [] ∧ unc ≤ (portAt s port).degradeUnc ∧ (∀ l, corr.getD l 0 ≤ (portAt
      s port).degradeSym) ∧ (portAt s port).badLanes = 0) ∧
  (∃ (s : State) (port : Nat),
    port ≤ 17 ∧ linked s port = true) ∧
  (∃ (s : State) (port node : Nat),
    port ≤ 17 ∧ linked s port = true ∧ bit (portAt s port).modes 1 = true ∧ mirrorPort s port = false ∧ isUs s node = true
      ∧ s.mru.st ≠ .fenced) ∧
  (∃ (s : State),
    s.clk.synced = false) ∧
  (∃ (s : State) (master : Nat),
    s.clk.synced = true ∧ (1000 < ((master : Int) - (now s : Int)).natAbs)) ∧
  (∃ (s : State) (t : Nat),
    s.clk.offsetSince = some t ∧ s.clk.alarmed = false ∧ t + 1000 * ms ≤ now s) ∧
  (∃ (s : State),
    s.clk.holdover = false ∧ s.sbu.bootDone = true) ∧
  (∃ (s : State),
    s.clk.synced = false ∧ s.sbu.bootDone = true ∧ s.clk.holdoverAt + 10000 * ms ≤ now s) ∧
  (∃ (s : State),
    s.sbu.bootDone = true ∧ s.pin.extest = false ∧ now s % 1000000000 < 100 * us) :=
  ⟨⟨withPort .training up, 0, false, by decide +kernel⟩,
    ⟨withPort .training up, 0, false, by decide +kernel⟩,
    ⟨withPort .up up, 0, 0, by decide +kernel⟩,
    ⟨withPort .up up, 0, 0, [], by decide +kernel, by decide +kernel, by decide +kernel, by decide +kernel,
      fun l => by rw [List.getD_nil]; exact Nat.zero_le _, (by decide +kernel)⟩,
    ⟨withPort .up up, 0, by decide +kernel⟩,
    ⟨withPort .up up, 0, 1, by decide +kernel⟩,
    ⟨{ up with clk := { up.clk with synced := false } }, by decide +kernel⟩,
    ⟨up, 0, by decide +kernel⟩,
    ⟨{ up with clk := { up.clk with offsetSince := some 0 } }, 0, by decide +kernel⟩,
    ⟨up, by decide +kernel⟩,
    ⟨{ up with clk := { up.clk with now := 10000000000, synced := false } }, by decide +kernel⟩,
    ⟨up, by decide +kernel⟩⟩

/-- The hypotheses of `Obligations.TransferMode`. -/
theorem witness_TransferMode :
  (∃ (s : State) (f : Frame) (c : Conn),
    arrives Fo.twrite s f ∧ onConn s f c ∧ startsMessage s f c ∧ targetStatus (countRx s f) f = St.ok) ∧
  (∃ (s : State) (f : Frame) (c : Conn),
    arrives Fo.tread s f ∧ onConn s f c ∧ startsMessage s f c) ∧
  (∃ (s : State) (f : Frame) (c : Conn),
    arrives Fo.tsend s f ∧ onConn s f c ∧ startsMessage s f c) ∧
  (∃ (s s1 : State) (f : Frame) (c : Conn) (m : OutMsg),
    arrives Fo.treadResp s f ∧ onConn s f c ∧ (c.st = .opened ∨ c.st = .closing) ∧ epochPasses s f.epoch = true ∧
      (c.sent.find? fun m => m.num == f.seq && m.op == Fo.tread) = some m ∧ f.status = St.ok ∧ f.off = 0 ∧ f.last = true ∧
      f.len = m.len ∧ 0 < f.len ∧ m.units = [] ∧ m.moved = 0 ∧ storeLocal (countRx s f) m.loc f.pay = (St.ok, s1)) ∧
  (∃ (s : State) (f : Frame) (c : Conn),
    arrives Fo.ack s f ∧ onConn s f c) ∧
  (∃ (s s1 : State) (f : Frame) (c c1 : Conn) (m : OutMsg),
    arrives Fo.nak s f ∧ onConn s f c ∧ f.reason = Nr.reasm ∧ s1 = ackUpTo (takeEcho s f.conn f.addr) f.conn f.seq ∧
      getConn s1 f.conn = some c1 ∧ (c1.sent.find? fun m => m.num == f.key) = some m ∧ m.resends < s1.fbe.ctl.retryLimit) ∧
  (∃ (s : State) (f : Frame) (i : Nat),
    arrives Fo.openMsg s f ∧ mirrorPort s f.port = false ∧ f.mem = false ∧ toUs s f.dst = true ∧ epochPasses s f.epoch =
      true ∧ freeConn s = some i) ∧
  (∃ (s : State) (f : Frame) (c : Conn) (t : Tok),
    arrives Fo.openAck s f ∧ onConn s f c ∧ c.tok = some t ∧ f.status = St.ok ∧ c.st = .opening) ∧
  (∃ (s : State) (f : Frame) (c : Conn),
    arrives Fo.close s f ∧ onConn s f c ∧ c.ring = noRing) ∧
  (∃ (s : State) (i msn : Nat) (c : Conn) (m : OutMsg),
    getConn s i = some c ∧ (c.sent.find? fun m => m.num == msn) = some m ∧ c.memory = false ∧ m.dueAt ≤ now s ∧ m.why = 0 ∧
      m.resends < s.fbe.ctl.retryLimit) ∧
  (∃ (s : State) (i msn : Nat) (c : Conn) (m : InMsg),
    getConn s i = some c ∧ Tbl.get c.rx msn = some m ∧ m.complete = false ∧ m.failed = false ∧ m.lastAt + s.fbe.ctl.reasm *
      us ≤ now s) ∧
  (∃ (s : State) (i : Nat) (c : Conn) (t : Tok),
    getConn s i = some c ∧ c.tok = some t ∧ c.openedAt + ms ≤ now s) ∧
  (∃ (s : State) (i : Nat) (c : Conn),
    getConn s i = some c ∧ c.memory = false ∧ c.rateAt + s.fbe.ctl.ratePeriod * us ≤ now s ∧ c.acked ≠ 0) ∧
  (∃ (s : State) (i : Nat) (c : Conn),
    getConn s i = some c ∧ c.memory = false ∧ c.rateAt + s.fbe.ctl.ratePeriod * us ≤ now s ∧ c.acked = 0) :=
  ⟨⟨wired (aConn false), aFrame 0x10 1 true [5], aConn false, by unfold arrives; decide +kernel,
      by unfold onConn; decide +kernel, by unfold startsMessage; decide +kernel, by decide +kernel⟩,
    ⟨wired (aConn false), aFrame 0x11 1 false (leBytes 8 16), aConn false, by unfold arrives; decide +kernel,
      by unfold onConn; decide +kernel, by unfold startsMessage; decide +kernel⟩,
    ⟨wired (aConn false), aFrame 0x13 0 true [5], aConn false, by unfold arrives; decide +kernel,
      by unfold onConn; decide +kernel, by unfold startsMessage; decide +kernel⟩,
    ⟨wired (sending 0x11 1), _, aFrame 0x12 0 true [5], sending 0x11 1, aMsg 0x11 1, by unfold arrives; decide +kernel,
      by unfold onConn; decide +kernel, by decide +kernel, by decide +kernel, by decide +kernel, by decide +kernel,
      by decide +kernel, by decide +kernel, by decide +kernel, by decide +kernel, by decide +kernel, by decide +kernel,
      Prod.ext (by decide +kernel) rfl⟩,
    ⟨wired (aConn false), aFrame 0x18 0 false [], aConn false, by unfold arrives; decide +kernel,
      by unfold onConn; decide +kernel⟩,
    ⟨wired (sending 0x10 1), _, { aFrame 0x19 0 false [] with reason := 1, seq := 0xFFFFFFFF }, sending 0x10 1, _, _,
      by unfold arrives; decide +kernel, by unfold onConn; decide +kernel, by decide +kernel, rfl,
      isOne (aConn false) (by decide +kernel), isOne (aMsg 0 0) (by decide +kernel), by decide +kernel⟩,
    ⟨wired (aConn false), aFrame 0x14 0 false (leBytes 16 (16 <<< 32 ||| 4 <<< 48)), 1, by unfold arrives; decide +kernel,
      by decide +kernel⟩,
    ⟨wired { aConn false with st := .opening, tok := some aTok },
      aFrame 0x15 0 false (leBytes 16 (16 <<< 32 ||| 4 <<< 48)), { aConn false with st := .opening, tok := some aTok },
      aTok, by unfold arrives; decide +kernel, by unfold onConn; decide +kernel, by decide +kernel⟩,
    ⟨wired { aConn false with ring := noRing }, aFrame 0x16 0 false (leBytes 16 (16 <<< 32 ||| 4 <<< 48)),
      { aConn false with ring := noRing }, by unfold arrives; decide +kernel, by unfold onConn; decide +kernel,
      by decide +kernel⟩,
    ⟨wired (sending 0x10 1), 0, 0, sending 0x10 1, aMsg 0x10 1, by decide +kernel⟩,
    ⟨wired { aConn false with rx := [(0, inMsg)] }, 0, 0, { aConn false with rx := [(0, inMsg)] }, inMsg,
      by decide +kernel⟩,
    ⟨wired { aConn false with st := .opening, tok := some aTok }, 0, { aConn false with st := .opening, tok := some aTok },
      aTok, by decide +kernel⟩,
    ⟨wired { aConn false with acked := 1 }, 0, { aConn false with acked := 1 }, by decide +kernel⟩,
    ⟨wired (aConn false), 0, aConn false, by decide +kernel⟩⟩

/-- The hypotheses of `Obligations.MemoryMode`. -/
theorem witness_MemoryMode :
  (∃ (s s2 : State) (f : Frame) (q : SeqIn),
    let s1 := { s with fbe := { s.fbe with seqIn := Tbl.set s.fbe.seqIn f.src { q with queue := [f] } } }
    fabricOpen s f.port = true ∧ ordinary s f = true ∧ memTurn s f q ∧ s.tfm.rebuilding = false ∧ flashIn s1 (ergAddr
      f.addr) (frameSpan f) = [] ∧ serveMem s1 f = some s2 ∧ f.op = Fo.mwrite) ∧
  (∃ (s s2 : State) (f : Frame) (q : SeqIn),
    let s1 := { s with fbe := { s.fbe with seqIn := Tbl.set s.fbe.seqIn f.src { q with queue := [f] } } }
    fabricOpen s f.port = true ∧ ordinary s f = true ∧ memTurn s f q ∧ s.tfm.rebuilding = false ∧ flashIn s1 (ergAddr
      f.addr) (frameSpan f) = [] ∧ serveMem s1 f = some s2 ∧ f.op = Fo.mread) ∧
  (∃ (s s2 : State) (f : Frame) (q : SeqIn),
    let s1 := { s with fbe := { s.fbe with seqIn := Tbl.set s.fbe.seqIn f.src { q with queue := [f] } } }
    fabricOpen s f.port = true ∧ ordinary s f = true ∧ memTurn s f q ∧ s.tfm.rebuilding = false ∧ flashIn s1 (ergAddr
      f.addr) (frameSpan f) = [] ∧ serveMem s1 f = some s2 ∧ f.op = Fo.madd) ∧
  (∃ (s s2 : State) (f : Frame) (q : SeqIn),
    let s1 := { s with fbe := { s.fbe with seqIn := Tbl.set s.fbe.seqIn f.src { q with queue := [f] } } }
    fabricOpen s f.port = true ∧ ordinary s f = true ∧ memTurn s f q ∧ s.tfm.rebuilding = false ∧ flashIn s1 (ergAddr
      f.addr) (frameSpan f) = [] ∧ serveMem s1 f = some s2 ∧ f.op = Fo.mmin) ∧
  (∃ (s s2 : State) (f : Frame) (q : SeqIn),
    let s1 := { s with fbe := { s.fbe with seqIn := Tbl.set s.fbe.seqIn f.src { q with queue := [f] } } }
    fabricOpen s f.port = true ∧ ordinary s f = true ∧ memTurn s f q ∧ s.tfm.rebuilding = false ∧ flashIn s1 (ergAddr
      f.addr) (frameSpan f) = [] ∧ serveMem s1 f = some s2 ∧ f.op = Fo.mmax) ∧
  (∃ (s s2 : State) (f : Frame) (q : SeqIn),
    let s1 := { s with fbe := { s.fbe with seqIn := Tbl.set s.fbe.seqIn f.src { q with queue := [f] } } }
    fabricOpen s f.port = true ∧ ordinary s f = true ∧ memTurn s f q ∧ s.tfm.rebuilding = false ∧ flashIn s1 (ergAddr
      f.addr) (frameSpan f) = [] ∧ serveMem s1 f = some s2 ∧ f.op = Fo.mcas) ∧
  (∃ (s : State) (f : Frame) (m : OutMsg),
    let q := getSeqOut s f.src
    arrives Fo.mresp s f ∧ mirrorPort s f.port = false ∧ some f.dst = myDomain s ∧ (q.reqs.find? fun m => m.num == f.seq &&
      m.key == f.key) = some m ∧ f.status ≠ St.epochStale ∧ f.status ≠ St.accessViolation) ∧
  (∃ (s : State) (src : Nat) (q : SeqIn) (f : Frame) (rest : List Frame),
    Tbl.get s.fbe.seqIn src = some q ∧ q.queue = f :: rest ∧ q.waitAt + 10 * us ≤ now s) ∧
  (∃ (s : State) (dst : Nat) (m : OutMsg) (rest : List OutMsg),
    let q := getSeqOut s dst
    q.reqs = m :: rest ∧ m.why ≠ 2 ∧ q.sentAt + s.fbe.ctl.memTimeout * us ≤ now s ∧ q.rounds < s.fbe.ctl.retryLimit) ∧
  (∃ (s : State) (p addr : Nat) (bs : Bytes),
    hostOpen s p = true ∧ engineLoad s (aperEngine addr) < 384 ∧ bs ≠ [] ∧ bs.length ≤ 4096 ∧ ergAllows s addr bs.length
      (s.sbu.set.apertureTenant.getD p 0) 1 = true) ∧
  (∃ (s : State) (p tag addr len : Nat),
    hostOpen s p = true ∧ engineLoad s (aperEngine addr) < 384 ∧ 1 ≤ len ∧ len ≤ 4096 ∧ Tbl.has s.fbe.aper (aperKey p tag)
      = false ∧ ergAllows s addr len (s.sbu.set.apertureTenant.getD p 0) 0 = true) ∧
  (∃ (s : State) (p tag addr : Nat) (size64 : Bool),
    let n := if size64 = true then 8 else 4
    hostOpen s p = true ∧ engineLoad s (aperEngine addr) < 384 ∧ atomicsOut s (ergDomain addr) < 64 ∧ Tbl.has s.fbe.aper
      (aperKey p tag) = false ∧ ergAllows s addr n (s.sbu.set.apertureTenant.getD p 0) 2 = true) ∧
  (∃ (s : State) (p : Nat),
    hostOpen s p = true) ∧
  (∃ (s : State) (p tag t : Nat),
    Tbl.get s.fbe.aper (aperKey p tag) = some t ∧ t + 10 * ms ≤ now s) :=
  ⟨⟨seqs inTurn (⟨0, false, [], 0, 0⟩), _, mFrame 1 ([5]), inTurn, by decide +kernel, by decide +kernel,
      by unfold memTurn; decide +kernel, by decide +kernel, by decide +kernel, isOne up (by decide +kernel),
      by decide +kernel⟩,
    ⟨seqs inTurn (⟨0, false, [], 0, 0⟩), _, mFrame 2 (leBytes 8 16), inTurn, by decide +kernel, by decide +kernel,
      by unfold memTurn; decide +kernel, by decide +kernel, by decide +kernel, isOne up (by decide +kernel),
      by decide +kernel⟩,
    ⟨seqs inTurn (⟨0, false, [], 0, 0⟩), _, mFrame 3 (leBytes 16 1), inTurn, by decide +kernel, by decide +kernel,
      by unfold memTurn; decide +kernel, by decide +kernel, by decide +kernel, isOne up (by decide +kernel),
      by decide +kernel⟩,
    ⟨seqs inTurn (⟨0, false, [], 0, 0⟩), _, mFrame 4 (leBytes 16 1), inTurn, by decide +kernel, by decide +kernel,
      by unfold memTurn; decide +kernel, by decide +kernel, by decide +kernel, isOne up (by decide +kernel),
      by decide +kernel⟩,
    ⟨seqs inTurn (⟨0, false, [], 0, 0⟩), _, mFrame 5 (leBytes 16 1), inTurn, by decide +kernel, by decide +kernel,
      by unfold memTurn; decide +kernel, by decide +kernel, by decide +kernel, isOne up (by decide +kernel),
      by decide +kernel⟩,
    ⟨seqs inTurn (⟨0, false, [], 0, 0⟩), _, mFrame 6 (leBytes 16 1), inTurn, by decide +kernel, by decide +kernel,
      by unfold memTurn; decide +kernel, by decide +kernel, by decide +kernel, isOne up (by decide +kernel),
      by decide +kernel⟩,
    ⟨seqs inTurn ⟨1, true, [aMsg 2 16], 0, 0⟩, mFrame 7 [], aMsg 2 16, by unfold arrives; decide +kernel,
      by decide +kernel⟩,
    ⟨seqs { inTurn with queue := [mFrame 1 [5]] } (⟨0, false, [], 0, 0⟩), 1, { inTurn with queue := [mFrame 1 [5]] },
      mFrame 1 [5], [], by decide +kernel⟩,
    ⟨seqs inTurn ⟨1, true, [aMsg 2 16], 0, 0⟩, 1, aMsg 2 16, [], by decide +kernel, by decide +kernel⟩,
    ⟨seqs inTurn (⟨0, false, [], 0, 0⟩), 0, 1 <<< 46, [5], by decide +kernel⟩,
    ⟨seqs inTurn (⟨0, false, [], 0, 0⟩), 0, 1, 1 <<< 46, 16, by decide +kernel⟩,
    ⟨seqs inTurn (⟨0, false, [], 0, 0⟩), 0, 1, 1 <<< 46, false, by decide +kernel, by decide +kernel⟩,
    ⟨seqs inTurn (⟨0, false, [], 0, 0⟩), 0, by decide +kernel⟩,
    ⟨seqs inTurn (⟨0, false, [], 0, 0⟩), 0, 7, 0, by decide +kernel⟩⟩

/-- The hypotheses of `Obligations.QueueAndEventCommands`. -/
theorem witness_QueueAndEventCommands :
  (∃ (r : Nat) (d : Dma) (s s1 : State) (c : Cmd),
    let n := c.fld 11 0
    let recs := c.recs 8 24 n
    taken 0x0A01 [.operator] r d s = some (c, s1) ∧ 1 ≤ n ∧ n ≤ 2048 ∧ c.payLen = 8 + 24 * n ∧ c.target = 0 ∧ c.fld 63 12 =
      0 ∧ checkEach configLen 0 recs = .ok () ∧ checkEach (configRec s1) 0 recs = .ok () ∧ (∀ x ∈ recs, bits x 174 171 ≠ 2
      ∨ hasWorkRing s1 (bits x 109 102) = true)) ∧
  (∃ (r : Nat) (d : Dma) (s s1 : State) (c : Cmd),
    let n := c.fld 11 0
    let recs := c.recs 8 16 n
    taken 0x0A02 [.operator] r d s = some (c, s1) ∧ 1 ≤ n ∧ n ≤ 2048 ∧ c.payLen = 8 + 16 * n ∧ c.target = 0 ∧ c.fld 63 12 =
      0 ∧ checkEach (shaperRec s1) 0 recs = .ok ()) ∧
  (∃ (r : Nat) (d : Dma) (s s1 : State) (c : Cmd),
    let o := c.fld 63 59
    let n := c.fld 46 34
    taken 0x0A03 [.operator, .maintenance] r d s = some (c, s1) ∧ c.payLen = 8 ∧ 1 ≤ n ∧ n ≤ 4096 ∧ c.fld 58 47 + n ≤
      queuesOf o ∧ 32 * n ≤ c.resLen ∧ c.target = 0 ∧ c.fld 33 1 = 0 ∧ o ≤ 21) ∧
  (∃ (r : Nat) (d : Dma) (s s1 : State) (c : Cmd),
    let a := c.fld 11 2
    taken 0x0A20 [.operator, .maintenance] r d s = some (c, s1) ∧ c.payLen = 8 ∧ c.target = 0 ∧ c.fld 1 0 = 1 ∧ freezable a
      = true ∧ c.fld 31 12 = 0 ∧ 1 ≤ c.fld 63 32 ∧ c.fld 63 32 ≤ 10000 ∧ (pairEgress a = false ∨ inPair s1 = false) ∧
      Tbl.has s1.tsu.frozen a = false) ∧
  (∃ (r : Nat) (d : Dma) (s s1 : State) (c : Cmd),
    taken 0x0A20 [.operator, .maintenance] r d s = some (c, s1) ∧ c.payLen = 8 ∧ c.target = 0 ∧ c.fld 1 0 = 2 ∧ freezable
      (c.fld 11 2) = true ∧ c.fld 31 12 = 0 ∧ 1 ≤ c.fld 63 32 ∧ c.fld 63 32 ≤ 10000) ∧
  (∃ (r : Nat) (d : Dma) (s s1 : State) (c : Cmd),
    taken 0x0A30 [.operator] r d s = some (c, s1) ∧ c.payLen = 32 ∧ c.fld 191 181 ≤ 1024 ∧ c.target = 0 ∧ c.fld 142 3 = 0 ∧
      c.fld 2 0 = 0 ∧ c.isFw = true ∧ spillFits s1 (evqOf s1 0).spill (c.fld 191 181) = true) ∧
  (∃ (r : Nat) (d : Dma) (s s1 : State) (c : Cmd),
    let k := c.fld 2 0
    let q := evqOf s1 k
    taken 0x0A30 [.operator] r d s = some (c, s1) ∧ c.payLen = 32 ∧ c.fld 191 181 ≤ 1024 ∧ c.target = 0 ∧ c.fld 142 3 = 0 ∧
      k ≠ 0 ∧ (portMode s1 (c.fld 145 144) = 1 ∧ c.fld 255 192 % 4 = 0 ∨ portMode s1 (c.fld 145 144) = 2 ∧ c.fld 154 146 ≤
      511) ∧ c.fld 164 155 ≤ 1000 ∧ spillFits s1 q.spill (c.fld 191 181) = true) ∧
  (∃ (r : Nat) (d : Dma) (s s1 : State) (c : Cmd),
    taken 0x0E01 [.operator, .maintenance] r d s = some (c, s1) ∧ c.payLen = 0 ∧ 256 ≤ c.resLen ∧ c.target = 0) ∧
  (∃ (s : State) (a : Nat) (f : Frozen),
    Tbl.get s.tsu.frozen a = some f ∧ f.drained = false ∧ arbBusy s a = false) ∧
  (∃ (s : State) (a : Nat) (f : Frozen),
    Tbl.get s.tsu.frozen a = some f ∧ f.since + f.hold * ms ≤ now s) ∧
  (∃ (s : State) (q t : Nat) (x : EvQueue),
    Tbl.get s.tsu.evq q = some x ∧ x.irqDue = true ∧ x.irqAt = some t ∧ t + x.irqGap * us ≤ now s) ∧
  (∃ (s : State),
    s.tsu.refillAt + 1000 ≤ now s) ∧
  (∃ (s : State),
    s.tsu.sampleAt + 4000 ≤ now s) :=
  ⟨⟨256, pay 32 ((1 <<< 171 ||| 1 <<< 155 ||| 4 <<< 141) <<< 64 ||| 1), fw 0x0A01 32 0 0 up, _, _,
      is_taken (by decide +kernel), by decide +kernel⟩,
    ⟨256, pay 24 (1 <<< (78 + 64) ||| 1), fw 0x0A02 24 0 0 up, _, _, is_taken (by decide +kernel), by decide +kernel⟩,
    ⟨256, pay 8 (1 <<< 34), fw 0x0A03 8 32 0 up, _, _, is_taken (by decide +kernel), by decide +kernel⟩,
    ⟨256, pay 8 (1 <<< 32 ||| 1), fw 0x0A20 8 0 0 up, _, _, is_taken (by decide +kernel), by decide +kernel⟩,
    ⟨256, pay 8 (1 <<< 32 ||| 2), fw 0x0A20 8 0 0 up, _, _, is_taken (by decide +kernel), by decide +kernel⟩,
    ⟨256, pay 32 0, fw 0x0A30 32 0 0 up, _, _, is_taken (by decide +kernel), by decide +kernel⟩,
    ⟨256, pay 32 1, fw 0x0A30 32 0 0 up, _, _, is_taken (by decide +kernel), by decide +kernel⟩,
    ⟨256, pay 0 0, fw 0x0E01 0 256 0 up, _, _, is_taken (by decide +kernel), by decide +kernel⟩,
    ⟨frozenQ false, 0x20, ⟨0, 1, some aTok, false⟩, by decide +kernel⟩,
    ⟨frozenQ false, 0x20, ⟨0, 1, some aTok, false⟩, by decide +kernel⟩,
    ⟨{ up with tsu := { up.tsu with evq := [(1, { emptyEvq with irqDue := true, irqAt := some 0 })] } }, 1, 0,
      { emptyEvq with irqDue := true, irqAt := some 0 }, by decide +kernel⟩,
    ⟨up, by decide +kernel⟩,
    ⟨up, by decide +kernel⟩⟩

/-- The hypotheses of `Obligations.PairCommands`. -/
theorem witness_PairCommands :
  (∃ (r : Nat) (d : Dma) (s s1 : State) (c : Cmd) (n : NodeRec),
    let p := c.fld 223 192
    taken 0x0B01 [.operator] r d s = some (c, s1) ∧ c.payLen = 32 ∧ p ≤ 1000000 ∧ c.target = 0 ∧ (c.fld 1 0 = 1 ∨ c.fld 1 0
      = 2) ∧ (c.fld 3 2 = 1 ∨ c.fld 3 2 = 2) ∧ c.fld 191 4 = 0 ∧ c.fld 239 224 = 0 ∧ nodeRec s1 (c.fld 255 240) = some n ∧
      c.fld 255 240 ≠ me s1 ∧ n.lost = false ∧ n.role = s1.hcu.role ∧ (s1.mru.st = .solo ∨ (s1.mru.st = .takenOver ∧ c.fld
      1 0 = 1)) ∧ joinUnfit s1 = false ∧ pairLinked s1 (c.fld 255 240) = true ∧ (c.fld 1 0 = 1 ∨ (s1.rte.slots.all fun kv
      => kv.2.e.state == .free) = true)) ∧
  (∃ (r : Nat) (d : Dma) (s s1 : State) (c : Cmd),
    taken 0x0B02 [.operator] r d s = some (c, s1) ∧ c.payLen = 0 ∧ c.target = 0 ∧ holding s1 = true) ∧
  (∃ (r : Nat) (d : Dma) (s s1 : State) (c : Cmd),
    taken 0x0B03 [.operator, .maintenance] r d s = some (c, s1) ∧ c.payLen = 0 ∧ 64 ≤ c.resLen ∧ c.target = 0) ∧
  (∃ (r : Nat) (d : Dma) (s s1 : State) (c : Cmd),
    taken 0x0B05 [.operator] r d s = some (c, s1) ∧ c.payLen = 0 ∧ c.target = 0 ∧ inJoin s1 = true ∧ s1.mru.copyDone = true
      ∧ 1 ≤ s1.mru.streak) ∧
  (∃ (r : Nat) (d : Dma) (s s1 : State) (c : Cmd) (n : Nat) (x : Slot) (v : Resv) (l : PList),
    taken 0x0B04 [.operator] r d s = some (c, s1) ∧ c.payLen = 8 ∧ c.target >>> 32 = 0 ∧ c.fld 63 1 = 0 ∧ c.entry s1
      c.target = .ok (n, x) ∧ getSlot s1 n = some x ∧ openEntry s1 n x = .ok () ∧ x.e.state.terminal = false ∧ x.e.state ≠
      .handoff ∧ x.e.inStep = false ∧ x.e.movePend = false ∧ x.restoring = false ∧ x.e.remoteHome = false ∧ Tbl.get
      s1.rte.resv x.e.gid = some v ∧ getList s1 x.e.gid = some l ∧ mirroring s1 = false ∧ c.fld 0 0 = 1) ∧
  (∃ (s : State),
    inJoin s = true ∧ s.mru.partnerJoined = false ∧ s.mru.joinAt + 1000 * ms ≤ now s) ∧
  (∃ (s : State),
    s.mru.st = .shadow ∧ s.mru.partnerJoined = true) ∧
  (∃ (s : State),
    holding s = true) ∧
  (∃ (s : State) (t : Nat),
    s.mir.dissolvedAt = some t ∧ t + ms ≤ now s) ∧
  (∃ (s : State) (m : MirRec),
    m.kind = 15 ∧ mirrorPort s m.port = true ∧ fabricOpen s m.port = true ∧ s.mru.partner ≠ 0xFFFF ∧ recOk m = true) ∧
  (∃ (s : State),
    s.mir.portsMirror = true ∧ s.mru.partner ≠ 0xFFFF ∧ s.sbu.bootDone = true ∧ s.mru.beatAt + 200 * us ≤ now s ∧ holding s
      = false) ∧
  (∃ (s : State),
    s.mru.st = .solo ∧ s.mir.portsMirror = true ∧ s.mru.partner ≠ 0xFFFF ∧ s.mru.joinAt + 10000 * ms ≤ now s) ∧
  (∃ (s : State),
    mirroring s = true ∧ s.mru.stepAt + ms ≤ now s) :=
  ⟨⟨256, pay 32 (2 <<< 240 ||| 1 <<< 2 ||| 1), fw 0x0B01 32 0 0 (pairLines (mappedPair up)), _, _,
      ⟨2, 1, 0, up.hcu.role, 1, true, false⟩, is_taken (by decide +kernel), by decide +kernel⟩,
    ⟨256, pay 0 0, fw 0x0B02 0 0 0 (paired .broken up), _, _, is_taken (by decide +kernel), by decide +kernel⟩,
    ⟨256, pay 0 0, fw 0x0B03 0 64 0 up, _, _, is_taken (by decide +kernel), by decide +kernel⟩,
    ⟨256, pay 0 0,
      fw 0x0B05 0 0 0 (let s := paired .shadow up; { s with mru := { s.mru with copyDone := true, streak := 1 } }), _, _,
      is_taken (by decide +kernel), by decide +kernel⟩,
    ⟨256, pay 8 1, fw 0x0B04 8 0 0 (withReq ent up), _, _, 0, newSlot ent, ⟨0, 0, 1, 1, false, false, false⟩, lst,
      is_taken (by decide +kernel), by decide +kernel⟩,
    ⟨let s := paired .shadow up; { s with clk := { s.clk with now := 5000000000 } }, by decide +kernel⟩,
    ⟨let s := paired .shadow up; { s with mru := { s.mru with partnerJoined := true } }, by decide +kernel⟩,
    ⟨paired .paired up, by decide +kernel⟩,
    ⟨{ up with mir := { up.mir with dissolvedAt := some 0 } }, 0, by decide +kernel⟩,
    ⟨paired .paired up, mirRec 15 0 [], by decide +kernel⟩,
    ⟨paired .solo up, by decide +kernel⟩,
    ⟨let s := paired .solo up; { s with clk := { s.clk with now := 20000000000 } }, by decide +kernel⟩,
    ⟨paired .paired up, by decide +kernel⟩⟩

/-- The hypotheses of `Obligations.MirrorStreamAndLoss`. -/
theorem witness_MirrorStreamAndLoss :
  (∃ (s : State) (m : MirRec),
    recTurn s m ∧ m.kind = 1) ∧
  (∃ (s : State) (m : MirRec),
    recTurn s m ∧ m.kind = 2) ∧
  (∃ (s : State) (m : MirRec),
    recTurn s m ∧ m.kind = 3) ∧
  (∃ (s : State) (m : MirRec),
    recTurn s m ∧ m.kind = 4) ∧
  (∃ (s : State) (m : MirRec),
    recTurn s m ∧ m.kind = 5) ∧
  (∃ (s : State) (m : MirRec),
    recTurn s m ∧ m.kind = 6) ∧
  (∃ (s : State) (m : MirRec),
    recTurn s m ∧ m.kind = 7) ∧
  (∃ (s : State) (m : MirRec),
    recTurn s m ∧ m.kind = 8) ∧
  (∃ (s : State) (m : MirRec),
    recTurn s m ∧ m.kind = 9) ∧
  (∃ (s : State),
    s.mru.st = .paired) ∧
  (∃ (s : State),
    s.mru.st = .broken) ∧
  (∃ (s : State) (l : Loss),
    lossAt s .probing = some l ∧ now s < l.at' + 400 * us) ∧
  (∃ (s : State) (l : Loss),
    lossAt s .probing = some l ∧ l.at' + 400 * us ≤ now s ∧ witnesses s = []) ∧
  (∃ (s : State) (l : Loss),
    lossAt s .probing = some l ∧ l.at' + 400 * us ≤ now s ∧ witnesses s ≠ []) ∧
  (∃ (s : State) (frm other : Nat),
    s.sbu.bootDone = true ∧ shunned s = false ∧ (∀ w ∈ s.mir.witness, ¬ (w.1 = min frm other ∧ w.2.1 = max frm other))) ∧
  (∃ (s : State) (frm other : Nat) (w : Nat × Nat × Nat × Nat),
    s.sbu.bootDone = true ∧ shunned s = false ∧ w ∈ s.mir.witness ∧ w.1 = min frm other ∧ w.2.1 = max frm other ∧ now s <
      w.2.2.2 + 10000 * ms) ∧
  (∃ (s : State) (w : Nat) (l : Loss),
    lossAt s .claiming = some l ∧ w ∈ l.witnesses ∧ w ∉ l.grants ∧ now s < l.at' + ms ∧ l.witnesses.length < 2 *
      (l.grants.length + 1)) ∧
  (∃ (s : State) (l : Loss),
    lossAt s .claiming = some l ∧ l.at' + ms ≤ now s) :=
  ⟨⟨paired .paired up, mirRec 1 1 (leBytes 128 0), by unfold recTurn; decide +kernel, by decide +kernel⟩,
    ⟨paired .paired up, mirRec 2 1 (leBytes 0 0), by unfold recTurn; decide +kernel, by decide +kernel⟩,
    ⟨paired .paired up, mirRec 3 1 (leBytes 0 0), by unfold recTurn; decide +kernel, by decide +kernel⟩,
    ⟨paired .paired up, mirRec 4 1 (leBytes 64 0), by unfold recTurn; decide +kernel, by decide +kernel⟩,
    ⟨paired .paired up, mirRec 5 1 (leBytes 64 0), by unfold recTurn; decide +kernel, by decide +kernel⟩,
    ⟨paired .paired up, mirRec 6 1 (leBytes 0 0), by unfold recTurn; decide +kernel, by decide +kernel⟩,
    ⟨paired .paired up, mirRec 7 1 (leBytes 32 0), by unfold recTurn; decide +kernel, by decide +kernel⟩,
    ⟨paired .paired up, mirRec 8 1 (leBytes 4 0), by unfold recTurn; decide +kernel, by decide +kernel⟩,
    ⟨paired .paired up, mirRec 9 1 (leBytes 0 0), by unfold recTurn; decide +kernel, by decide +kernel⟩,
    ⟨paired .paired up, by decide +kernel⟩,
    ⟨paired .broken up, by decide +kernel⟩,
    ⟨losing .probing 1000000000 [] [], ⟨.probing, 1000000000, [], []⟩, by decide +kernel⟩,
    ⟨let s := losing .probing 0 [] []; { s with cve := up.cve }, ⟨.probing, 0, [], []⟩, by decide +kernel⟩,
    ⟨losing .probing 0 [] [], ⟨.probing, 0, [], []⟩, by decide +kernel⟩,
    ⟨up, 1, 2, by decide +kernel⟩,
    ⟨{ up with mir := { up.mir with witness := [(1, 2, 1, 0)] } }, 1, 2, (1, 2, 1, 0), by decide +kernel⟩,
    ⟨losing .claiming 1000000000 [3] [], 3, ⟨.claiming, 1000000000, [3], []⟩, by decide +kernel⟩,
    ⟨losing .claiming 0 [3] [], ⟨.claiming, 0, [3], []⟩, by decide +kernel⟩⟩

/-- The hypotheses of `Obligations.PlantRules`. -/
theorem witness_PlantRules :
  (∃ (r : Nat) (d : Dma) (s s1 : State) (c : Cmd),
    taken 0x0C01 [.operator, .maintenance] r d s = some (c, s1) ∧ c.payLen = 0 ∧ 64 ≤ c.resLen ∧ c.target = 0) ∧
  (∃ (r : Nat) (d : Dma) (s s1 : State) (c : Cmd),
    taken 0x0C02 [.operator] r d s = some (c, s1) ∧ c.payLen = 8 ∧ c.target = 0 ∧ c.fld 39 0 = 0 ∧ 85 ≤ c.fld 47 40 ∧ c.fld
      47 40 ≤ 105 ∧ c.fld 55 48 < c.fld 47 40 ∧ 60 ≤ c.fld 55 48 ∧ c.fld 55 48 ≤ 100 ∧ 25 ≤ c.fld 63 56 ∧ c.fld 63 56 ≤ 55) ∧
  (∃ (r : Nat) (d : Dma) (s s1 : State) (c : Cmd),
    taken 0x0C03 [.maintenance] r d s = some (c, s1) ∧ c.payLen = 8 ∧ c.target = 0 ∧ c.fld 55 0 = 0 ∧ 20 ≤ c.fld 63 56 ∧
      c.fld 63 56 ≤ 200 ∧ s1.plc.test = none ∧ s1.jnl.saving = false ∧ 40000 ≤ s1.plu.vin ∧ s1.plu.vin ≤ 60000 ∧
      s1.sbu.set.storeVmax * 1000 - 500 ≤ s1.plu.vstore) ∧
  (∃ (r : Nat) (d : Dma) (s s1 : State) (c : Cmd),
    taken 0x0C04 [.operator] r d s = some (c, s1) ∧ c.payLen = 8 ∧ c.target = 0 ∧ c.fld 47 0 = 0 ∧ 420 ≤ c.fld 63 48 ∧
      c.fld 63 48 ≤ 1650) ∧
  (∃ (r : Nat) (d : Dma) (s s1 : State) (c : Cmd),
    taken 0x0C05 [.operator] r d s = some (c, s1) ∧ c.payLen = 16 ∧ c.target = 0 ∧ c.fld 63 0 = 0 ∧ idleForReset s1 = true
      ∧ (s1.cax.ctxs.all fun kv => decide (61 ≤ kv.1)) = true) ∧
  (∃ (s : State) (mv : Nat),
    mv ≤ s.sbu.set.storeVmax * 1000 + 2000) ∧
  (∃ (s : State) (tIn tOut : Int),
    clocked s = true ∧ thermBad tIn = false ∧ thermBad tOut = false) ∧
  (∃ (s : State),
    0 < s.sbu.set.pumpCount ∧ s.plc.pumpFault0 = false) ∧
  (∃ (s : State) (t n : Nat) (tok : Tok),
    s.plc.test = some (t, n, tok) ∧ 42000 < s.plu.vstore ∧ t + n * ms ≤ now s) ∧
  (∃ (s : State) (ts : List Int),
    clocked s = true ∧ ts.length = 12) ∧
  (∃ (ts : List Int),
    ts.length = 12) ∧
  (∃ (s : State),
    clocked s = true ∧ s.plu.phase ≠ .powerFail) ∧
  (∃ (s : State),
    s.plu.phase = .off) ∧
  (∃ (s : State),
    closingDown s = true) ∧
  (∃ (s : State),
    sequenceDone s = true ∧ s.plu.phase = .powerFail ∧ 4 ≤ s.plu.pfStep) ∧
  (∃ (s : State),
    (s.plu.phase = .off ∨ s.plu.phase = .trip)) ∧
  (∃ (s : State) (k : Nat),
    tripReads s k = true ∧ s.plu.phase ≠ .powerFail) ∧
  (∃ (s : State),
    s.plu.phase = .trip ∧ s.pin.tripLock = false ∧ diesCool s = true ∧ s.plu.tOut < 16 * (s.plc.tOutTarget + 5)) ∧
  (∃ (s : State) (t a : Nat),
    s.plc.standby = some (t, a) ∧ t + ms ≤ now s ∧ s.plu.phase = .run) ∧
  (∃ (s : State),
    s.plu.phase = .standby) :=
  ⟨⟨256, pay 0 0, fw 0x0C01 0 64 0 up, _, _, is_taken (by decide +kernel), by decide +kernel⟩,
    ⟨256, pay 8 (25 <<< 56 ||| 60 <<< 48 ||| 90 <<< 40), fw 0x0C02 8 0 0 up, _, _, is_taken (by decide +kernel),
      by decide +kernel⟩,
    ⟨256, pay 8 (20 <<< 56),
      fw 0x0C03 8 0 0 { up with plu := { up.plu with vin := 48000, vstore := up.sbu.set.storeVmax * 1000 } }, _, _,
      is_taken (by decide +kernel), by decide +kernel⟩,
    ⟨256, pay 8 (500 <<< 48), fw 0x0C04 8 0 0 up, _, _, is_taken (by decide +kernel), by decide +kernel⟩,
    ⟨256, pay 16 (5 <<< 64), fw 0x0C05 16 0 0 up, _, _, is_taken (by decide +kernel), by decide +kernel⟩,
    ⟨up, 0, by decide +kernel⟩,
    ⟨up, 320, 320, by decide +kernel⟩,
    ⟨up, by decide +kernel⟩,
    ⟨{ up with plc := { up.plc with test := some (0, 20, aTok) }, plu := { up.plu with vstore := 43000 } }, 0, 20, aTok,
      by decide +kernel⟩,
    ⟨up, List.replicate 12 320, by decide +kernel⟩,
    ⟨List.replicate 12 320, by decide +kernel⟩,
    ⟨up, by decide +kernel⟩,
    ⟨phase .off up, by decide +kernel⟩,
    ⟨phase .powerFail up, by decide +kernel⟩,
    ⟨let s := phase .powerFail up; { s with plu := { s.plu with pfStep := 4 } }, by decide +kernel⟩,
    ⟨phase .off up, by decide +kernel⟩,
    ⟨{ up with plu := { up.plu with tDie := List.replicate 12 1840 } }, 0, by decide +kernel⟩,
    ⟨phase .trip up, by decide +kernel⟩,
    ⟨{ up with plc := { up.plc with standby := some (0, 5) } }, 0, 5, by decide +kernel⟩,
    ⟨phase .standby up, by decide +kernel⟩⟩

/-- The hypotheses of `Obligations.SecurityCommands`. -/
theorem witness_SecurityCommands :
  (∃ (r : Nat) (d : Dma) (s s1 : State) (c : Cmd),
    let k := c.fld 0 0 + 1
    let len := c.fld 47 24
    let off := c.fld 71 48
    let x := imgSlot s1 k
    taken 0x0D01 [.maintenance] r d s = some (c, s1) ∧ len ≤ 1048560 ∧ c.payLen = 16 + len ∧ off + len ≤ 0x1000000 ∧
      c.target = 0 ∧ c.fld 23 2 = 0 ∧ c.fld 127 72 = 0 ∧ off = (if c.fld 1 1 = 1 then 0 else x.wptr) ∧ s1.sbu.bootedSlot ≠
      k ∧ slotBusy s1 k = false) ∧
  (∃ (r : Nat) (d : Dma) (s s1 : State) (c : Cmd),
    taken 0x0D02 [.operator, .maintenance] r d s = some (c, s1) ∧ c.payLen = 8 ∧ c.target = 0 ∧ c.fld 1 0 ≠ 3 ∧ c.fld 63 2
      = 0 ∧ slotBusy s1 (c.fld 1 0) = false) ∧
  (∃ (r : Nat) (d : Dma) (s s1 : State) (c : Cmd),
    let k := c.fld 1 0
    taken 0x0D03 [.maintenance] r d s = some (c, s1) ∧ c.payLen = 8 ∧ c.target = 0 ∧ (k = 1 ∨ k = 2) ∧ c.fld 63 2 = 0 ∧
      slotBusy s1 k = false ∧ ((imgSlot s1 k).st = .verified ∨ (imgSlot s1 k).st = .confirmed)) ∧
  (∃ (r : Nat) (d : Dma) (s s1 : State) (c : Cmd),
    taken 0x0D03 [.maintenance] r d s = some (c, s1) ∧ c.payLen = 8 ∧ c.target = 0 ∧ c.fld 1 0 = 3 ∧ c.fld 63 2 = 0) ∧
  (∃ (r : Nat) (d : Dma) (s s1 : State) (c : Cmd),
    taken 0x0D10 [.maintenance] r d s = some (c, s1) ∧ fwFault s1 c.pay = none ∧ c.target = 0 ∧ s1.sec.fwLoad = none ∧
      s1.sec.resetting = false ∧ (∀ j ∈ s1.sec.imgJobs, j.verify = true)) ∧
  (∃ (r : Nat) (d : Dma) (s s1 : State) (c : Cmd),
    taken 0x0D30 [.operator, .maintenance] r d s = some (c, s1) ∧ c.payLen = 8 ∧ c.target = 0 ∧ c.fld 63 1 = 0 ∧
      s1.sec.fwLoad = none ∧ (c.fld 0 0 = 1 ∨ idleForReset s1 = true)) ∧
  (∃ (r : Nat) (d : Dma) (s s1 : State) (c : Cmd),
    taken 0x0D11 [.maintenance] r d s = some (c, s1) ∧ keyFields c = .ok () ∧ ((applyKey (keysAfter s1) (keyChangeOf s1
      c)).any fun kv => kv.2.priv == .maintenance) = true) ∧
  (∃ (r : Nat) (d : Dma) (s s1 : State) (c : Cmd),
    taken 0x0D12 [.operator, .tenant, .maintenance] r d s = some (c, s1) ∧ c.payLen = 40 ∧ 16384 ≤ c.resLen ∧ c.target = 0
      ∧ c.fld 319 257 = 0 ∧ c.fld 256 256 = 1) ∧
  (∃ (r : Nat) (d : Dma) (s s1 : State) (c : Cmd),
    taken 0x0D12 [.operator, .tenant, .maintenance] r d s = some (c, s1) ∧ c.payLen = 40 ∧ 352 ≤ c.resLen ∧ c.target = 0 ∧
      c.fld 319 257 = 0 ∧ c.fld 256 256 = 0) ∧
  (∃ (r : Nat) (d : Dma) (s s1 : State) (c : Cmd),
    let role := c.fld 3 0
    taken 0x0D20 [.operator] r d s = some (c, s1) ∧ c.payLen = 8 ∧ c.target = 0 ∧ 1 ≤ role ∧ role ≤ 3 ∧ (role = 3 →
      s1.sbu.set.portMode.contains 2 = true) ∧ c.fld 7 4 = 0 ∧ c.fld 63 9 = 0 ∧ inPair s1 = false ∧ role = s1.hcu.role ∧
      s1.hcu.pendingRole = 0) ∧
  (∃ (r : Nat) (d : Dma) (s s1 : State) (c : Cmd),
    let role := c.fld 3 0
    taken 0x0D20 [.operator] r d s = some (c, s1) ∧ c.payLen = 8 ∧ c.target = 0 ∧ 1 ≤ role ∧ role ≤ 3 ∧ (role = 3 →
      s1.sbu.set.portMode.contains 2 = true) ∧ c.fld 7 4 = 0 ∧ c.fld 63 9 = 0 ∧ inPair s1 = false ∧ role ≠ s1.hcu.role ∧
      s1.hcu.pendingRole = 0 ∧ c.fld 8 8 = 0 ∧ noneLive s1 = true) ∧
  (∃ (r : Nat) (d : Dma) (s s1 : State) (c : Cmd),
    let role := c.fld 3 0
    taken 0x0D20 [.operator] r d s = some (c, s1) ∧ c.payLen = 8 ∧ c.target = 0 ∧ 1 ≤ role ∧ role ≤ 3 ∧ (role = 3 →
      s1.sbu.set.portMode.contains 2 = true) ∧ c.fld 7 4 = 0 ∧ c.fld 63 9 = 0 ∧ inPair s1 = false ∧ role ≠ s1.hcu.role ∧
      s1.hcu.pendingRole = 0 ∧ c.fld 8 8 = 1) :=
  ⟨⟨256, pay 16 0, fw 0x0D01 16 0 0 up, _, _, is_taken (by decide +kernel), by decide +kernel⟩,
    ⟨256, pay 8 1, fw 0x0D02 8 0 0 up, _, _, is_taken (by decide +kernel), by decide +kernel⟩,
    ⟨256, pay 8 1, fw 0x0D03 8 0 0 (imaged .verified up), _, _, is_taken (by decide +kernel), by decide +kernel⟩,
    ⟨256, pay 8 3, fw 0x0D03 8 0 0 up, _, _, is_taken (by decide +kernel), by decide +kernel⟩,
    ⟨256, .data firmwareImage, fw 0x0D10 512 0 0 (withVerKey up), _, _, is_taken (by decide +kernel), by decide +kernel⟩,
    ⟨256, pay 8 1, fw 0x0D30 8 0 0 up, _, _, is_taken (by decide +kernel), by decide +kernel⟩,
    ⟨256, pay 144 (5 <<< 8 ||| 3),
      fw 0x0D11 144 0 0 { up with hcu := { up.hcu with keySlots := [(0, aKey .maintenance)] } }, _, _,
      is_taken (by decide +kernel), by decide +kernel⟩,
    ⟨256, pay 40 (1 <<< 256), fw 0x0D12 40 16384 0 up, _, _, is_taken (by decide +kernel), by decide +kernel⟩,
    ⟨256, pay 40 0, fw 0x0D12 40 352 0 up, _, _, is_taken (by decide +kernel), by decide +kernel⟩,
    ⟨256, pay 8 3, fw 0x0D20 8 0 0 up, _, _, is_taken (by decide +kernel), by decide +kernel⟩,
    ⟨256, pay 8 2, fw 0x0D20 8 0 0 up, _, _, is_taken (by decide +kernel), by decide +kernel⟩,
    ⟨256, pay 8 (1 <<< 8 ||| 2), fw 0x0D20 8 0 0 up, _, _, is_taken (by decide +kernel), by decide +kernel⟩⟩

/-- The hypotheses of `Obligations.BootAndFirmwareEvents`. -/
theorem witness_BootAndFirmwareEvents :
  (∃ (s : State) (slot : Nat) (j : ImgJob) (rest : List ImgJob),
    takeJob (fun j => !j.verify && j.which == slot + 1) s.sec.imgJobs = some (j, rest) ∧ j.erase = false) ∧
  (∃ (s : State) (k : Nat) (j : ImgJob) (rest : List ImgJob),
    k ≠ 0 ∧ takeJob (fun j => j.verify && j.which == k) s.sec.imgJobs = some (j, rest)) ∧
  (∃ (s : State) (t : Nat) (tok : Tok),
    s.sec.fwLoad = some (t, tok) ∧ t + 1000 * ms ≤ now s) ∧
  (∃ (s : State),
    7 ≤ s.sbu.stage ∧ s.sbu.stage ≠ 0xF0) ∧
  (∃ (s : State),
    s.rte.lapseTold = false ∧ s.sec.fwLoad = none ∧ lapseDue s = true) ∧
  (∃ (s : State),
    s.sbu.bootDone = true ∧ s.sbu.trial = true ∧ s.sbu.trialBeat = false ∧ closingDown s = false ∧ s.sbu.doneAt + 10000 *
      ms ≤ now s) ∧
  (∃ (s : State),
    s.sbu.bootDone = true ∧ s.sbu.trial = true ∧ s.sbu.trialBeat = true ∧ s.rte.lapsed = false ∧ s.rte.beatsSince + 60000 *
      ms ≤ now s) ∧
  (∃ (s : State),
    (s.plu.phase = .booting ∨ s.plu.phase = .run ∨ s.plu.phase = .test)) ∧
  (∃ (s : State),
    s.plu.phase = .standby) ∧
  (∃ (s : State) (n : Nat) (x : KeySlot) (tok : Tok) (rest : List (KeyChange × Tok)),
    s.sec.keyJobs = (.setSession n x, tok) :: rest) ∧
  (∃ (s : State) (n : Nat) (x : VerKey) (tok : Tok) (rest : List (KeyChange × Tok)),
    s.sec.keyJobs = (.setVerify n x, tok) :: rest) ∧
  (∃ (s : State) (n : Nat) (k : KeySlot),
    Tbl.get s.hcu.keySlots n = some k ∧ k.lockedUntil.isSome = true ∧ slotLocked s k = false) ∧
  (∃ (s : State),
    s.hcu.pendingRole ≠ 0 ∧ noneLive s = true) ∧
  (∃ (s : State),
    s.plu.phase = .stopped) ∧
  (∃ (s : State),
    s.plu.phase = .booting ∧ s.sbu.stage = 8 ∧ s.clk.bootSync = false ∧ s.clk.holdover = false ∧ s.sbu.mapRebuiltAt + 1000
      * ms ≤ now s) ∧
  (∃ (s : State),
    s.plu.phase = .booting ∧ s.sbu.stage = 8 ∧ (s.clk.bootSync = true ∨ s.clk.holdover = true) ∧ s.sbu.set.partner = 0xFFFF) :=
  ⟨⟨imgJob false up, 0, ⟨1, false, 0, [5], false, aTok⟩, [], by decide +kernel⟩,
    ⟨imgJob true up, 1, ⟨1, true, 0, [5], false, aTok⟩, [], by decide +kernel⟩,
    ⟨{ up with sec := { up.sec with fwLoad := some (0, aTok) } }, 0, aTok, by decide +kernel⟩,
    ⟨up, by decide +kernel⟩,
    ⟨{ up with rte := { up.rte with beatAt := 0 } }, by decide +kernel⟩,
    ⟨{ up with sbu := { up.sbu with trial := true }, clk := { up.clk with now := 10000000000 } }, by decide +kernel⟩,
    ⟨{ up with sbu := { up.sbu with trial := true, trialBeat := true }, clk := { up.clk with now := 60000000000 } },
      by decide +kernel⟩,
    ⟨up, by decide +kernel⟩,
    ⟨phase .standby up, by decide +kernel⟩,
    ⟨keyJob (.setSession 5 (aKey .tenant)) up, 5, aKey .tenant, aTok, [], by decide +kernel⟩,
    ⟨keyJob (.setVerify 5 ⟨[], 1⟩) up, 5, ⟨[], 1⟩, aTok, [], by decide +kernel⟩,
    ⟨{ up with hcu := { up.hcu with keySlots := [(0, { aKey .tenant with lockedUntil := some 0 })] } }, 0,
      { aKey .tenant with lockedUntil := some 0 }, by decide +kernel⟩,
    ⟨{ up with hcu := { up.hcu with pendingRole := 2 } }, by decide +kernel⟩,
    ⟨phase .stopped up, by decide +kernel⟩,
    ⟨phase .booting up, by decide +kernel⟩,
    ⟨let s := phase .booting up; { s with clk := { s.clk with bootSync := true } }, by decide +kernel⟩⟩

/-- The hypotheses of `Obligations.FlashAndJournalRules`. -/
theorem witness_FlashAndJournalRules :
  (∃ (s : State) (p a n : Nat),
    hostOpen s p = true ∧ 1 ≤ n ∧ n ≤ 4096 ∧ inWin (memWin s p) a n = true ∧ winBad s a n = false ∧ s.tfm.rebuilding =
      false ∧ flashIn s a n = []) ∧
  (∃ (s : State) (p a : Nat) (bs : Bytes),
    hostOpen s p = true ∧ bs ≠ [] ∧ bs.length ≤ 4096 ∧ inWin (memWin s p) a bs.length = true ∧ writesDead s = false) ∧
  (∃ (s : State) (id : Nat) (r : FRead),
    Tbl.get s.tfm.reads id = some r ∧ r.got = false ∧ (r.redirected = true ∨ frozenSince s (0x50 + r.die / 16) r.at' =
      false)) ∧
  (∃ (s : State) (id : Nat) (r : FRead),
    Tbl.get s.tfm.reads id = some r ∧ r.got = false ∧ r.redirected = false ∧ r.at' + s.tfm.ctl.readRedirect * us ≤ now s ∧
      otherDown s r.die = false ∧ (dieAt s r.die).second + 1000 * ms ≤ now s) ∧
  (∃ (s : State),
    s.jnl.flight = [] ∧ (512 ≤ s.jnl.buf.length ∨ s.jnl.buf ≠ [] ∧ s.jnl.firstAt + ms ≤ now s)) ∧
  (∃ (s : State) (z : JRec),
    s.jnl.flight.getLast? = some z) ∧
  (∃ (s : State) (leaf : Nat),
    s.plu.phase ≠ .powerFail ∧ Tbl.has s.jnl.ckptPend leaf = false ∧ Tbl.getD s.jnl.ckpt leaf [] ≠ leafEntries s leaf ∧
      leafMoving s leaf = false) ∧
  (∃ (s : State),
    s.jnl.saving = true) ∧
  (∃ (s : State),
    belowLow s = true ∧ readMostly s = false ∧ programsRun s = true) ∧
  (∃ (s : State) (g : Nat),
    (tmap s g).place = .hbm ∧ (tmap s g).hint = 3 ∧ s.rte.lapsed = false ∧ (tmap s g).moving = false ∧ movable s g = true ∧
      readMostly s = false ∧ programsRun s = true ∧ s.tfm.moves = [] ∧ (wholeOf g).length ≤ flashRoom s) ∧
  (∃ (s : State),
    s.tfm.heatAt + s.tfm.ctl.heatPeriod * 10 * ms ≤ now s) ∧
  (∃ (s : State) (g : Nat) (m : Move),
    Tbl.get s.tfm.moves g = some m ∧ m.kind = .demote ∧ m.toFlash = true ∧ m.committed = true) ∧
  (∃ (s s1 : State) (g : Nat) (m : Move),
    Tbl.get s.tfm.moves g = some m ∧ m.kind = .promote ∧ m.toFlash = false ∧ promote (readMedia s g) g = some s1) ∧
  (∃ (s : State) (k b : Nat),
    k ≤ 2 ∧ (gcNow s).urgent ≤ freeBands s ∧ programsRun s = true ∧ openBand s k = some b) ∧
  (∃ (s : State) (b : Nat),
    programsRun s = true ∧ (∀ kv ∈ s.tfm.moves, kv.2.kind ≠ .gc) ∧ gcPick s = some b) ∧
  (∃ (s : State) (b : Nat),
    mayErase s b = true ∧ s.plu.phase ≠ .powerFail) ∧
  (∃ (s : State) (b : Nat),
    (bandAt s b).st = .erasing) ∧
  (∃ (s : State) (b die : Nat),
    (bandAt s b).st = .erasing ∧ die % 16 = b % 16 ∧ die < 256) ∧
  (∃ (s : State) (k b die : Nat),
    k ≤ 2 ∧ openBand s k = some b ∧ die % 16 = b % 16 ∧ die < 256) ∧
  (∃ (s : State) (k b die : Nat),
    2 < k ∧ openBand s k = some b ∧ die % 16 = b % 16 ∧ die < 256) ∧
  (∃ (s : State) (b ch : Nat),
    (bandAt s b).st = .closed ∧ (bandAt s b).first = false ∧ ch < 16 ∧ 150000 ≤ (blockAt s (bandBlock b (bandAt s b)
      ch)).reads) ∧
  (∃ (s : State) (b ch : Nat),
    (bandAt s b).st = .opened ∧ (bandAt s b).first = false ∧ ch < 16 ∧ 150000 ≤ (blockAt s (bandBlock b (bandAt s b)
      ch)).reads) ∧
  (∃ (s : State) (die : Nat),
    die < 256 ∧ (dieAt s die).st ≠ .failed) ∧
  (∃ (s : State) (die : Nat),
    (dieAt s die).st = .slow ∧ (dieAt s die).slowAt + 60000 * ms ≤ now s) ∧
  (∃ (s : State) (k : Nat),
    k < 12 ∧ k ∉ s.tfm.stacksLost ∧ (∀ g ∈ stackGranules s k, g < apGranule ∧ isDurable s g = false)) ∧
  (∃ (a : Nat),
    a < sramBase) ∧
  (∃ (a : Nat),
    sramBase ≤ a) :=
  ⟨⟨let s := backed .hbm up; { s with tfm := { s.tfm with memWin := [(0, ⟨0, 1048576, 0, none⟩)] } }, 0, 16, 4,
      by decide +kernel⟩,
    ⟨let s := backed .hbm up; { s with tfm := { s.tfm with memWin := [(0, ⟨0, 1048576, 0, none⟩)] } }, 0, 16, [5],
      by decide +kernel⟩,
    ⟨reading 0 (inFlash up), 0, ⟨0, .fabric 2, 0, false, 0, false, 1⟩, by decide +kernel⟩,
    ⟨reading 0 (inFlash up), 0, ⟨0, .fabric 2, 0, false, 0, false, 1⟩, by decide +kernel⟩,
    ⟨{ up with jnl := { up.jnl with buf := [jrec] } }, by decide +kernel⟩,
    ⟨{ up with jnl := { up.jnl with flight := [jrec] } }, jrec, by decide +kernel⟩,
    ⟨backed .hbm up, 0, by decide +kernel⟩,
    ⟨{ up with jnl := { up.jnl with saving := true } }, by decide +kernel⟩,
    ⟨{ up with tfm := { up.tfm with ctl := { up.tfm.ctl with demoteLow := 1001 } } }, by decide +kernel⟩,
    ⟨{ up with tfm := { up.tfm with map := [(0, ⟨.hbm, false, 0, 3, 0, 0⟩)] }, ppm := { up.ppm with objectFlashCap := 1 } },
      0, by decide +kernel⟩,
    ⟨{ up with clk := { up.clk with now := 100000000000 } }, by decide +kernel⟩,
    ⟨moving .demote true true (backed .hbm up), 0, ⟨.demote, true, 0, true, 0, true⟩, by decide +kernel⟩,
    ⟨moving .promote false false (inFlash up), _, 0, ⟨.promote, false, 0, true, 0, false⟩, by decide +kernel,
      by decide +kernel, by decide +kernel, isOne up (by decide +kernel)⟩,
    ⟨band .opened false up, 0, 560, by decide +kernel⟩,
    ⟨band .closed true (inFlash up), 560, by decide +kernel⟩,
    ⟨band .closed true up, 560, by decide +kernel⟩,
    ⟨band .erasing true up, 560, by decide +kernel⟩,
    ⟨band .erasing true up, 560, 16, by decide +kernel⟩,
    ⟨band .opened false up, 0, 560, 16, by decide +kernel⟩,
    ⟨setBand up 560 { newBand 560 with st := .opened, stream := 3, lastOff := 0 }, 3, 560, 16, by decide +kernel⟩,
    ⟨setBlock (band .closed false up) (bandBlock 560 (newBand 560) 3) ⟨0, 150000, false⟩, 560, 3, by decide +kernel⟩,
    ⟨setBlock (band .opened false up) (bandBlock 560 (newBand 560) 3) ⟨0, 150000, false⟩, 560, 3, by decide +kernel⟩,
    ⟨up, 0, by decide +kernel⟩,
    ⟨let s := setDie up 3 ⟨.slow, 0, 0, 0, 0⟩; { s with clk := { s.clk with now := 60000000000 } }, 3, by decide +kernel⟩,
    ⟨backed .hbm up, 0, by decide +kernel⟩,
    ⟨0, by decide +kernel⟩,
    ⟨sramBase, by decide +kernel⟩⟩

/-- The hypotheses of `Obligations.RegisterRules`. -/
theorem witness_RegisterRules :
  (∃ (s : State) (src : Src) (q : Nat),
    regOpen s src = true ∧ q < 8) ∧
  (∃ (s : State) (src : Src) (off : Nat),
    regOpen s src = true ∧ off % 8 = 0 ∧ (off < 0x7000 ∨ 0x7400 ≤ off)) ∧
  (∃ (s : State) (src : Src) (off h : Nat),
    regOpen s src = true ∧ off % 8 = 4 ∧ Tbl.get s.reg.half (srcKey src) = some (off / 8 * 8, h)) ∧
  (∃ (s : State) (src : Src) (r v : Nat) (R : Ring),
    regOpen s src = true ∧ doorbellRing s src r = some R ∧ v < R.sqEntries ∧ v < 2 ^ 32) ∧
  (∃ (s : State) (src : Src) (r v : Nat) (R : Ring),
    regOpen s src = true ∧ doorbellRing s src r = some R ∧ R.sqEntries ≤ v ∧ v < 2 ^ 32) ∧
  (∃ (s : State) (src : Src) (r v : Nat) (R : Ring),
    regOpen s src = true ∧ doorbellRing s src r = some R ∧ v < R.cqEntries ∧ headPast R v = false ∧ v < 2 ^ 32) ∧
  (∃ (s : State) (r : Nat) (R : Ring),
    Tbl.get s.hcu.rings r = some R ∧ R.irqPend ≠ 0 ∧ R.irqTime ≠ 0 ∧ R.irqFirst + R.irqTime * us ≤ now s) ∧
  (∃ (s : State) (p v : Nat),
    regOpen s (.pcie p) = true ∧ p < 4 ∧ v < 2 ^ 64 ∧ bit v 0 = true ∧ (adminReg s p).base % 4096 = 0 ∧ bits v 63 48 ≤ 511
      ∧ bits v 47 32 ≤ 1000 ∧ 1 ≤ bits v 31 16 ∧ bits v 31 16 ≤ 64) ∧
  (∃ (s : State) (p v : Nat),
    regOpen s (.pcie p) = true ∧ p < 4 ∧ v < 2 ^ 64 ∧ bit v 0 = false ∧ bits v 63 48 ≤ 511 ∧ bits v 47 32 ≤ 1000 ∧ 1 ≤ bits
      v 31 16 ∧ bits v 31 16 ≤ 64) ∧
  (∃ (s : State) (p : Nat),
    regOpen s (.pcie p) = true) ∧
  (∃ (s : State) (p : Nat),
    p ∈ s.reg.flagDue ∧ Tbl.getD s.reg.flagLast p 0 + 10 * us ≤ now s) ∧
  (∃ (s : State) (src : Src) (k v : Nat),
    let q := evqOf s k
    regOpen s src = true ∧ k < 8 ∧ (src = .core → k = 0) ∧ v < 2 ^ 32 ∧ evServed q k src = true ∧ (headSeqs q).contains v =
      true) ∧
  (∃ (s : State) (p r v : Nat) (b : Bulletin),
    regOpen s (.pcie p) = true ∧ Tbl.get s.att.bulletins r = some b ∧ b.port = p ∧ v < b.slots ∧ v < 2 ^ 16 ∧ (v + b.slots
      - b.head) % b.slots ≤ (b.tail + b.slots - b.head) % b.slots) ∧
  (∃ (s : State) (v : Nat),
    regOpen s .core = true ∧ v < 2 ^ 64) ∧
  (∃ (s : State) (src : Src) (off len : Nat),
    regOpen s src = true ∧ s.sbu.stage ≠ 0xF0 ∧ (len = 4 ∨ len = 8) ∧ off % len = 0) ∧
  (∃ (s : State) (src : Src) (off len : Nat),
    regOpen s src = true ∧ s.sbu.stage ≠ 0xF0 ∧ (len = 4 ∨ len = 8) ∧ off % len ≠ 0) ∧
  (∃ (s : State) (p off : Nat) (bs : Bytes),
    regOpen s (.pcie p) = true ∧ off + bs.length ≤ 0x400000 ∧ ringMeets s off bs.length (fun R => R.port != p) = false) ∧
  (∃ (s : State),
    s.plu.island = true) ∧
  (∃ (s : State) (p : Nat),
    p < 4 ∧ portMode s p = 2) :=
  ⟨⟨up, .pcie 0, 1, by decide +kernel⟩,
    ⟨up, .pcie 0, 0x0, by decide +kernel⟩,
    ⟨{ up with reg := { up.reg with half := [(srcKey (.pcie 0), (8, 7))] } }, .pcie 0, 12, 7, by decide +kernel⟩,
    ⟨withRings up, .pcie 0, 4, 3, ring4, by decide +kernel⟩,
    ⟨withRings up, .pcie 0, 4, 16, ring4, by decide +kernel⟩,
    ⟨withRings up, .pcie 0, 4, 0, ring4, by decide +kernel⟩,
    ⟨{ up with hcu := { up.hcu with rings := [(4, { ring4 with irqPend := 1, irqTime := 1 })] } }, 4,
      { ring4 with irqPend := 1, irqTime := 1 }, by decide +kernel⟩,
    ⟨up, 0, 1 ||| 1 <<< 16, by decide +kernel⟩,
    ⟨up, 0, 1 <<< 16, by decide +kernel⟩,
    ⟨up, 0, by decide +kernel⟩,
    ⟨{ up with reg := { up.reg with flagDue := [0] } }, 0, by decide +kernel⟩,
    ⟨post up Un.fbe 1 1 0 0 0 0, .core, 0, ((headSeqs (evqOf (post up Un.fbe 1 1 0 0 0 0) 0)).headD 0), by decide +kernel,
      by decide +kernel⟩,
    ⟨withRings up, 0, 0, 2, ⟨0, 16, 16, 0, 0, 0, 3, true, 0, []⟩, by decide +kernel⟩,
    ⟨up, 0, by decide +kernel⟩,
    ⟨up, .pcie 0, 8, 8, by decide +kernel⟩,
    ⟨up, .pcie 0, 4, 8, by decide +kernel⟩,
    ⟨up, 0, 0, [5], by decide +kernel⟩,
    ⟨up, by decide +kernel⟩,
    ⟨up, 0, by decide +kernel⟩⟩

/-- The hypotheses of `Obligations.StepRunsTheFront`. -/
theorem witness_StepRunsTheFront :
  (∃ (c : Instr) (rest : List Instr) (s : State),
    s.pending = c :: rest) ∧
  (∃ (s : State),
    s.pending = []) :=
  ⟨⟨.holdover, [], { up with pending := [.holdover] }, by decide +kernel⟩,
    ⟨up, by decide +kernel⟩⟩

/-- The hypotheses of `Obligations.HeldReportsWaitForRecords`. -/
theorem witness_HeldReportsWaitForRecords :
  (∃ (s t : State),
    heldOk s = true ∧ step s = .next t) :=
    ⟨up, _, by decide +kernel, rfl⟩

/-- The hypotheses of `Obligations.EffectsStand`. -/
theorem witness_EffectsStand :
  (∃ (s : State),
    clocked s = false) ∧
  (∃ (s1 : State),
    alone s1 = true) ∧
  (∃ (s s1 : State),
    clocked s = true ∧ alone s1 = true) ∧
  (∃ (s s1 : State),
    (∀ kv ∈ s.hcu.rings, fallsVoid s s1 kv.1 kv.2 = false)) ∧
  (∃ (s s1 : State) (r : Nat) (R : Ring),
    (s.hcu.rings.filter fun kv => fallsVoid s s1 kv.1 kv.2) = [(r, R)]) :=
  ⟨⟨phase .off up, by decide +kernel⟩,
    ⟨up, by decide +kernel⟩,
    ⟨up, up, by decide +kernel⟩,
    ⟨up, up, by decide +kernel⟩,
    ⟨fw 0x0130 0 0 0 up, up, 256, { internalRing 0 with owner := 0xFFFF, base := 0, tail := 1 }, by decide +kernel⟩⟩

/-- The hypotheses of `Obligations.CommandsWaitForTheirRing`. -/
theorem witness_CommandsWaitForTheirRing :
  (∃ (r : Nat) (s : State) (x : Nat × Instr), x = (0x0130, .nop r .error) ∧ Tbl.get s.hcu.rings r = none) ∧
  (∃ (r : Nat) (s : State) (x : Nat × Instr) (R : Ring), x = (0x0130, .nop r .error) ∧ Tbl.get s.hcu.rings r = some R ∧
      R.waiting = none ∧ knownOp (hOpcode (slotHeader s R)) = true ∧ hOpcode (slotHeader s R) ≠ x.1) ∧
  (∃ (r : Nat) (s : State) (x : Nat × Instr) (R : Ring) (h : Nat), x = (0x0130, .nop r .error) ∧
      Tbl.get s.hcu.rings r = some R ∧ R.waiting = some h ∧ heldBack s R h = true) ∧
  (∃ (r : Nat) (s : State) (x : Nat × Instr) (R : Ring), x = (0x0130, .nop r .error) ∧ Tbl.get s.hcu.rings r = some R ∧
      R.work = false ∧ R.waiting = none ∧ granted s r R = true ∧ heldBack s R (slotHeader s R) = true ∧
      hOpcode (slotHeader s R) = x.1) :=
  ⟨⟨9, up, _, rfl, by decide +kernel⟩,
    ⟨256, fw 0x0204 0 0 0 up, _, _, rfl, isOne ring4 (by decide +kernel), by decide +kernel⟩,
    ⟨4, behindFence true, _, _, fenced, rfl, isOne ring4 (by decide +kernel), by decide +kernel⟩,
    ⟨4, behindFence false, _, _, rfl, isOne ring4 (by decide +kernel), by decide +kernel⟩⟩

/-- The hypotheses of `Obligations.RejectionsHaveNoEffect`. -/
theorem witness_RejectionsHaveNoEffect :
  (∃ (privs : List Priv) (r h : Nat) (R : Ring) (d : Dma) (s s0 t : State) (st det : Nat),
    begins s r = some (R, h, s0) ∧ check privs r R h d (stored r h d s0) = .error (st, det, t)) :=
    ⟨[], 256, _, _, .error, fw 0x0130 8 0 0 up, _, _, _, _, is_triple (ring4, 0, up) (by decide +kernel),
      is_err (0, 0, up) (by decide +kernel)⟩

/-- The hypotheses of `Obligations.TakenCommandsAdvanceTheRing`. -/
theorem witness_TakenCommandsAdvanceTheRing :
  (∃ (op r : Nat) (privs : List Priv) (d : Dma) (s s1 : State) (c : Cmd),
    taken op privs r d s = some (c, s1) ∧ (Tbl.get s.hcu.rings r).isSome = true ∧ r < 256 ∧ op ≠ 0x0101 ∧ op ≠ 0x0102 ∧
      seqKey 1 r ≠ seqKey (sessIdx c.sess) r ∧ (1 ≠ r)) ∧
  (∃ (r h : Nat) (x : Session) (d : Dma) (s : State) (pay : Bytes),
    payload s r h d = some pay ∧ isProve h = false ∧ tagOf x.key h pay = hTag h ∧ seqExp s (sessIdx (hSession h)) r ≤
      0xFFFFFFFE ∧ hSeq h ≠ seqExp s (sessIdx (hSession h)) r) :=
  ⟨⟨0x0130, 0, [.operator, .tenant, .maintenance], .data [], signed (hdr 0x0130 0 1 0 0 0) [] (withSession true up), _, _,
      is_taken (by decide +kernel), by decide +kernel⟩,
    ⟨0, (hdr 0x0130 0 5 0 0 0 ||| tagOf (List.replicate 32 0) (hdr 0x0130 0 5 0 0 0) [] <<< 384),
      { challenged with isOpen := true }, .data [], withSession true up, [], by decide +kernel⟩⟩

/-- The hypotheses of `Obligations.SessionClose`. -/
theorem witness_SessionClose :
  (∃ (s : State) (i : Nat) (x : Session),
    Tbl.get s.hcu.sessions i = some x ∧
    let t := closeSession s i
    1 ≠ i ∧ (Tbl.keys s.hcu.rings).Nodup ∧ (Tbl.get s.hcu.rings 0).map (·.owner) = some 0xFFFF ∧ 0xFFFF ≠ i + 64 * x.gen ∧
      (Tbl.get s.hcu.rings 4).map (·.owner) = some (i + 64 * x.gen) ∧ (Tbl.get t.hcu.rings 4).isSome = true) ∧
  (∃ (s : State) (i : Nat) (x : Session),
    Tbl.get s.hcu.sessions i = some x ∧ x.tagFails < 15) ∧
  (∃ (s : State) (i : Nat) (x : Session),
    Tbl.get s.hcu.sessions i = some x ∧ x.tagFails = 15) ∧
  (∃ (id r h : Nat) (R : Ring),
    R.waiting = some h ∧ R.work = false ∧ r < 256 ∧ hSession h = id) :=
  ⟨⟨{ withSession true up with hcu := { (withSession true up).hcu with rings := [(0, { internalRing 0 with owner := 0xFFFF }), (4, { ring4 with outstanding := [7] })] } },
      0, { challenged with isOpen := true }, by decide +kernel, by decide +kernel⟩,
    ⟨withSession true up, 0, { challenged with isOpen := true }, by decide +kernel⟩,
    ⟨{ up with hcu := { up.hcu with sessions := [(0, { challenged with tagFails := 15 })] } }, 0,
      { challenged with tagFails := 15 }, by decide +kernel⟩,
    ⟨0, 4, 0, { ring4 with waiting := some 0 }, by decide +kernel⟩⟩

/-- The hypotheses of `Obligations.CompletionRingFull`. -/
theorem witness_CompletionRingFull :
  (∃ (R : Ring),
    cqFull R = true) ∧
  (∃ (s : State) (c : Cpl) (R : Ring),
    Tbl.get s.hcu.rings c.tok.ring = some R ∧ cqFull R = true) ∧
  (∃ (s : State) (c : Cpl) (R : Ring),
    Tbl.get s.hcu.rings c.tok.ring = some R ∧ cqFull R = false ∧ R.held = []) ∧
  (∃ (s : State) (r : Nat) (c : Cpl) (rest : List Cpl) (R : Ring),
    Tbl.get s.hcu.rings r = some R ∧ R.held = c :: rest ∧ cqFull R = false) ∧
  (∃ (s : State) (src : Src) (r v : Nat) (R : Ring),
    regOpen s src = true ∧ doorbellRing s src r = some R ∧ v < R.cqEntries ∧ headPast R v = false ∧ v < 2 ^ 32) :=
  ⟨⟨{ ring4 with cqTail := 15 }, by decide +kernel⟩,
    ⟨{ up with hcu := { up.hcu with rings := [(4, { ring4 with cqTail := 15 })] } }, aCpl, { ring4 with cqTail := 15 },
      by decide +kernel⟩,
    ⟨{ up with hcu := { up.hcu with rings := [(4, ring4)] } }, aCpl, ring4, by decide +kernel⟩,
    ⟨{ up with hcu := { up.hcu with rings := [(4, { ring4 with held := [aCpl] })] } }, 4, aCpl, [],
      { ring4 with held := [aCpl] }, by decide +kernel⟩,
    ⟨withRings up, .pcie 0, 4, 0, ring4, by decide +kernel⟩⟩

/-- The hypotheses of `Obligations.DoorbellsOutOfRange`. -/
theorem witness_DoorbellsOutOfRange :
  (∃ (s : State) (src : Src) (r v : Nat) (R : Ring),
    regOpen s src = true ∧ doorbellRing s src r = some R ∧ v < 2 ^ 32 ∧ R.sqEntries ≤ v) ∧
  (∃ (s : State) (src : Src) (r v : Nat) (R : Ring),
    regOpen s src = true ∧ doorbellRing s src r = some R ∧ v < 2 ^ 32 ∧ R.cqEntries ≤ v) ∧
  (∃ (s : State) (src : Src) (r v : Nat) (R : Ring),
    regOpen s src = true ∧ doorbellRing s src r = some R ∧ v < 2 ^ 32 ∧ (R.cqTail + R.cqEntries - R.cqHead) % R.cqEntries <
      (v + R.cqEntries - R.cqHead) % R.cqEntries) :=
  ⟨⟨withRings up, .pcie 0, 4, 16, ring4, by decide +kernel⟩,
    ⟨withRings up, .pcie 0, 4, 16, ring4, by decide +kernel⟩,
    ⟨withRings up, .pcie 0, 4, 15, ring4, by decide +kernel⟩⟩

/-- The hypotheses of `Obligations.PairPromoteRule`. -/
theorem witness_PairPromoteRule :
  (∃ (r : Nat) (d : Dma) (s s1 : State) (c : Cmd),
    taken 0x0B05 [.operator] r d s = some (c, s1) ∧ c.target = 0 ∧ c.payLen ≠ 0) ∧
  (∃ (r : Nat) (d : Dma) (s s1 : State) (c : Cmd),
    taken 0x0B05 [.operator] r d s = some (c, s1) ∧ c.target = 0 ∧ c.payLen = 0 ∧ inJoin s1 = true ∧ s1.mru.copyDone = true
      ∧ 1 ≤ s1.mru.streak) ∧
  (∃ (r : Nat) (d : Dma) (s s1 : State) (c : Cmd),
    taken 0x0B05 [.operator] r d s = some (c, s1) ∧ c.target = 0 ∧ c.payLen = 0 ∧ ¬ (inJoin s1 = true ∧ s1.mru.copyDone =
      true ∧ 1 ≤ s1.mru.streak)) ∧
  (∃ (s : State),
    inJoin s = true ∧ s.mru.copyDone = true ∧ s.mru.streak = s.mru.promote) :=
  ⟨⟨256, pay 8 0, fw 0x0B05 8 0 0 up, _, _, is_taken (by decide +kernel), by decide +kernel⟩,
    ⟨256, pay 0 0,
      fw 0x0B05 0 0 0 (let s := paired .shadow up; { s with mru := { s.mru with copyDone := true, streak := 1 } }), _, _,
      is_taken (by decide +kernel), by decide +kernel⟩,
    ⟨256, pay 0 0, fw 0x0B05 0 0 0 up, _, _, is_taken (by decide +kernel), by decide +kernel⟩,
    ⟨let s := paired .shadow up; { s with mru := { s.mru with copyDone := true, streak := s.mru.promote } },
      by decide +kernel⟩⟩

/-- The hypotheses of `Obligations.PowerCapRule`. -/
theorem witness_PowerCapRule :
  (∃ (r : Nat) (d : Dma) (s s1 : State) (c : Cmd),
    taken 0x0C04 [.operator] r d s = some (c, s1) ∧ c.payLen ≠ 8) ∧
  (∃ (r : Nat) (d : Dma) (s s1 : State) (c : Cmd),
    taken 0x0C04 [.operator] r d s = some (c, s1) ∧ c.payLen = 8 ∧ c.target = 0 ∧ c.fld 47 0 ≠ 0) ∧
  (∃ (r : Nat) (d : Dma) (s s1 : State) (c : Cmd),
    taken 0x0C04 [.operator] r d s = some (c, s1) ∧ c.payLen = 8 ∧ c.target = 0 ∧ c.fld 47 0 = 0 ∧ (c.fld 63 48 < 420 ∨
      1650 < c.fld 63 48)) ∧
  (∃ (r : Nat) (d : Dma) (s s1 : State) (c : Cmd),
    taken 0x0C04 [.operator] r d s = some (c, s1) ∧ c.payLen = 8 ∧ c.target = 0 ∧ c.fld 47 0 = 0 ∧ 420 ≤ c.fld 63 48 ∧
      c.fld 63 48 ≤ 1650) :=
  ⟨⟨256, pay 0 0, fw 0x0C04 0 0 0 up, _, _, is_taken (by decide +kernel), by decide +kernel⟩,
    ⟨256, pay 8 1, fw 0x0C04 8 0 0 up, _, _, is_taken (by decide +kernel), by decide +kernel⟩,
    ⟨256, pay 8 (419 <<< 48), fw 0x0C04 8 0 0 up, _, _, is_taken (by decide +kernel), by decide +kernel⟩,
    ⟨256, pay 8 (420 <<< 48), fw 0x0C04 8 0 0 up, _, _, is_taken (by decide +kernel), by decide +kernel⟩⟩

/-- The hypotheses of `Obligations.HeartbeatRegister`. -/
theorem witness_HeartbeatRegister :
  (∃ (s : State),
    7 ≤ s.sbu.stage ∧ s.sbu.stage ≠ 0xF0) ∧
  (∃ (s : State) (len off : Nat),
    regOpen s .core = true ∧ s.sbu.stage ≠ 0xF0 ∧ (len = 4 ∨ len = 8) ∧ off % len = 0 ∧ off / 8 * 8 = 0x3058) ∧
  (∃ (s t : State) (p off len v : Nat),
    off / 8 * 8 = 0x3058 ∧ exec (.registerWrite (.pcie p) off len v) s = .next t) ∧
  (∃ (s : State),
    s.sbu.stage ≠ 0xF0) :=
  ⟨⟨up, by decide +kernel⟩,
    ⟨up, 8, 0x3058, by decide +kernel⟩,
    ⟨up, _, 0, 0x3058, 8, 1, by decide +kernel, rfl⟩,
    ⟨up, by decide +kernel⟩⟩

/-- The hypotheses of `Obligations.SearchWinner`. -/
theorem witness_SearchWinner :
  (∃ (s : State) (space k i j : Nat) (e f : SEntry), s.tsu.search.Pairwise (fun a b => a.1 < b.1) ∧
    winner s space k [] = some (i, e) ∧ (j, f) ∈ s.tsu.search ∧ rowHits f.row space k = true) :=
    ⟨withSearch sent0 up, 1, 5, 0, 0, sent0, sent0, by decide +kernel⟩

/-- The hypotheses of `Obligations.OneRingIsGranted`. -/
theorem witness_OneRingIsGranted :
  (∃ (s : State) (r : Nat) (R : Ring),
    granted s r R = true) ∧
  (∃ (s : State) (a b : Nat) (A B : Ring),
    Tbl.get s.hcu.rings a = some A ∧ Tbl.get s.hcu.rings b = some B ∧ granted s a A = true ∧ granted s b B = true ∧ ringArb
      a A = ringArb b B ∧ ((a < 256 ∧ b < 256) ∨ (256 ≤ a ∧ 256 ≤ b ∧ a < 272 ∧ b < 272)) ∧ Tbl.getD s.tsu.arbPtr (ringArb
      a A) 0 < (if a < 256 then 256 else 16)) :=
  ⟨⟨fw 0x0204 0 0 0 up, 256, { internalRing 0 with owner := 0xFFFF, base := 0, tail := 1 }, by decide +kernel⟩,
    ⟨fw 0x0204 0 0 0 up, 256, 256, { internalRing 0 with owner := 0xFFFF, base := 0, tail := 1 },
      { internalRing 0 with owner := 0xFFFF, base := 0, tail := 1 }, by decide +kernel⟩⟩

/-- The hypotheses of `Obligations.EventsArePlaced`. -/
theorem witness_EventsArePlaced :
  (∃ (s : State) (unit kind cause sev st object arg k : Nat) (q : EvQueue),
    let e : Event := ⟨now s, object, arg, s.tsu.evSeq, st, unit, kind, cause, sev⟩
    k < 8 ∧ Tbl.get s.tsu.evq k = some q ∧ evAccepts k q e = false) ∧
  (∃ (s : State) (unit kind cause sev st object arg k : Nat) (q : EvQueue),
    let e : Event := ⟨now s, object, arg, s.tsu.evSeq, st, unit, kind, cause, sev⟩
    k < 8 ∧ Tbl.get s.tsu.evq k = some q ∧ evAccepts k q e = true ∧ q.entries.length < evCap q) ∧
  (∃ (s : State) (unit kind cause sev st object arg k : Nat) (q : EvQueue),
    let e : Event := ⟨now s, object, arg, s.tsu.evSeq, st, unit, kind, cause, sev⟩
    k < 8 ∧ Tbl.get s.tsu.evq k = some q ∧ evAccepts k q e = true ∧ evCap q ≤ q.entries.length ∧ q.entries ≠ []) ∧
  (∃ (q : EvQueue) (e : Event) (t : List Event),
    readOrder q = e :: t) :=
  ⟨⟨{ up with tsu := { up.tsu with evq := [(1, emptyEvq)] } }, 1, 1, 1, 1, 0, 0, 0, 1, emptyEvq, by decide +kernel,
      by decide +kernel⟩,
    ⟨{ up with tsu := { up.tsu with evq := [(1, { emptyEvq with enable := true, minSev := 1, unitMask := 0xFFF })] } }, 1,
      1, 1, 1, 0, 0, 0, 1, { emptyEvq with enable := true, minSev := 1, unitMask := 0xFFF }, by decide +kernel,
      by decide +kernel⟩,
    ⟨{ up with tsu := { up.tsu with evq := [(1, { emptyEvq with enable := true, minSev := 1, unitMask := 0xFFF, entries := List.replicate 128 ⟨0, 0, 0, 0, 0, 1, 1, 1, 1⟩ })] } },
      1, 1, 1, 1, 0, 0, 0, 1,
      { emptyEvq with enable := true, minSev := 1, unitMask := 0xFFF, entries := List.replicate 128 ⟨0, 0, 0, 0, 0, 1, 1, 1, 1⟩ },
      by decide +kernel, by decide +kernel⟩,
    ⟨{ emptyEvq with entries := [⟨0, 0, 0, 0, 0, 1, 1, 1, 2⟩, ⟨0, 0, 0, 1, 0, 1, 1, 1, 1⟩] }, _, _, rfl⟩⟩

/-- The hypotheses of `Obligations.FlagsAreSet`. -/
theorem witness_FlagsAreSet :
  (∃ (p : Nat),
    p < 4) ∧
  (∃ (k j : Nat),
    j ≠ k) ∧
  (∃ (p q : Nat),
    q ≠ p) :=
  ⟨⟨3, by decide +kernel⟩,
    ⟨1, 2, by decide +kernel⟩,
    ⟨0, 1, by decide +kernel⟩⟩

/-- The hypotheses of `Obligations.CompletionsTouchTheirRing`. -/
theorem witness_CompletionsTouchTheirRing :
  (∃ (t : Tok) (r : Nat),
    r ≠ t.ring) ∧
  (∃ (s : State),
    mirroring s = true) ∧
  (∃ (c : Cpl),
    c.tok.ring < 256) :=
  ⟨⟨aTok, 4, by decide +kernel⟩,
    ⟨paired .paired up, by decide +kernel⟩,
    ⟨aCpl, by decide +kernel⟩⟩

/-- The hypotheses of `Obligations.BytesOfMemory`. -/
theorem witness_BytesOfMemory :
  (∃ (s : State) (a : Nat),
    memWf s.tfm.hbm = true ∧ (tmap s (a / 4096)).place = .hbm) ∧
  (∃ (s : State) (a c : Nat),
    memWf s.tfm.hbm = true ∧ c ≠ a ∧ (∀ g k, g ≠ k → (tmap s g).place = .hbm → (tmap s k).place = .hbm → (tmap s g).loc ≠
      (tmap s k).loc)) ∧
  (∃ (s : State) (a : Nat),
    (tmap s (a / 4096)).place ≠ .hbm) ∧
  (∃ (s t : State) (p off a : Nat) (bs : Bytes),
    exec (.ringRegionWrite (.pcie p) off bs) s = .next t ∧ alone s = true ∧ memWf s.hcu.ringMem = true ∧ (a < off ∨ off +
      bs.length ≤ a)) ∧
  (∃ (m : List Host.Cell),
    memWf m = true) :=
  ⟨⟨backed .hbm up, 5, by decide +kernel⟩,
    ⟨backed .hbm up, 5, 6,
      by decide +kernel, by decide +kernel, by
      intro g k h hg hk
      have e : ∀ n, (tmap (backed .hbm up) n).place = .hbm → n = 0 := by
        intro n hn
        by_cases h0 : n = 0
        · exact h0
        · exfalso; revert hn; simp [tmap, backed, Tbl.getD, Tbl.get, Ne.symm h0]; decide
      exact absurd ((e g hg).trans (e k hk).symm) h⟩,
    ⟨up, 5, by decide +kernel⟩,
    ⟨up, _, 0, 0, 64, [5], rfl, by decide +kernel⟩,
    ⟨[(3, 5)], by decide +kernel⟩⟩

/-- The hypotheses of `Obligations.ThreadFrames`. -/
theorem witness_ThreadFrames :
  (∃ (i k v : Nat),
    i ≠ 0 ∧ v < 2 ^ 64 ∧ k ≠ i) ∧
  (∃ (t : Thr) (s u : State) (x : Ctx) (th : Thread) (w : Word64) (a : Nat),
    issues 2 1 [0] t s x th w ∧ alone s = true ∧ clocked s = true ∧ lsuAddr th w + 8 ≤ shareLen x ∧ memWf (share s t.ctx
      t.arr) = true ∧ exec (.aSt t) s = .next u ∧ (a < lsuAddr th w ∨ lsuAddr th w + 8 ≤ a)) ∧
  (∃ (t : Thr) (s u : State) (x : Ctx) (th : Thread) (w : Word64), issues 1 0 [0] t s x th w ∧
    alone s = true ∧ clocked s = true ∧ exec (.aAdd t) s = .next u) :=
  ⟨⟨1, 2, 7, by decide +kernel⟩,
    ⟨thr, running (word 2 1 0 0) fresh up, _, ctx (some aLaunch), fresh, wordOf (word 2 1 0 0), 16,
      by unfold issues; decide +kernel, by decide +kernel, by decide +kernel, by decide +kernel, by decide +kernel, rfl,
      by decide +kernel⟩,
    ⟨thr, running (word 1 0 0 0) fresh up, _, ctx (some aLaunch), fresh, wordOf (word 1 0 0 0),
      by unfold issues; decide +kernel, by decide +kernel, by decide +kernel, rfl⟩⟩

/-- The hypotheses of `Obligations.RequestHandles`. -/
theorem witness_RequestHandles :
  (∃ (s : State) (h : Nat),
    findEntry s h = none) ∧
  (∃ (s : State) (n : Nat) (x : Slot),
    getSlot s n = some x ∧ x.e.tokRoot = noId ∧ x.e.auxRoot = noId) :=
  ⟨⟨up, 0, by decide +kernel⟩,
    ⟨withReq ent up, 0, newSlot ent, by decide +kernel⟩⟩

/-- The hypotheses of `Obligations.QueriesChangeNothing`. -/
theorem witness_QueriesChangeNothing :
  (∃ (r : Nat) (d : Dma) (s t : State), exec (.nop r d) s = .next t) :=
    ⟨256, .error, fw 0x0130 0 0 0 up, _, rfl⟩

/-- The hypotheses of `Obligations.SettingsLeaveServing`. -/
theorem witness_SettingsLeaveServing :
  (∃ (r : Nat) (d : Dma) (s t : State), exec (.powerCapSet r d) s = .next t) :=
    ⟨256, pay 8 (500 <<< 48), fw 0x0C04 8 0 0 up, _, rfl⟩

/-- The hypotheses of `Obligations.OtherFormsOfCommands`. -/
theorem witness_OtherFormsOfCommands :
  (∃ (r : Nat) (d : Dma) (s s1 : State) (c : Cmd) (n : Nat) (x : Slot),
    taken 0x0403 [.operator, .tenant] r d s = some (c, s1) ∧ c.payLen = 16 ∧ c.fld 42 26 ≤ 65536 ∧ c.fld 63 43 ≤ 1048576 ∧
      4 * (c.fld 42 26 + 1) ≤ c.resLen ∧ c.target >>> 32 = 0 ∧ c.fld 24 0 = 0 ∧ c.entry s1 c.target = .ok (n, x) ∧
      x.e.remoteHome = true ∧ x.e.state.terminal = false) ∧
  (∃ (r : Nat) (d : Dma) (s s1 : State) (c : Cmd) (n : Nat) (x : Slot),
    taken 0x0404 [.operator, .tenant] r d s = some (c, s1) ∧ c.payLen = 8 ∧ c.target >>> 32 = 0 ∧ c.fld 63 21 = 0 ∧ c.entry
      s1 c.target = .ok (n, x) ∧ x.e.remoteHome = true ∧ x.e.state.terminal = false) ∧
  (∃ (r : Nat) (d : Dma) (s s1 : State) (c : Cmd) (n k : Nat) (x y : Slot),
    taken 0x0420 [.operator, .tenant] r d s = some (c, s1) ∧ c.payLen = 16 ∧ c.fld 63 43 ≠ 0 ∧ c.target >>> 32 = 0 ∧ c.fld
      42 0 = 0 ∧ c.fld 95 64 = 0 ∧ restsThere s1 c c.target n x ∧ restsThere s1 c (c.fld 127 96) k y ∧ c.fld 63 43 ≤
      y.e.ctxLen ∧ x.e.home = y.e.home ∧ x.e.kvPerTok = y.e.kvPerTok ∧ x.e.pageClass = y.e.pageClass ∧ x.e.codecSlot =
      y.e.codecSlot) ∧
  (∃ (r : Nat) (d : Dma) (s s1 : State) (c : Cmd) (n : Nat) (x : Slot),
    taken 0x0411 [.operator, .tenant] r d s = some (c, s1) ∧ (c.priv ≠ .tenant ∨ c.fld 32 32 = 0) ∧ c.payLen = 8 ∧ 16 ≤
      c.fld 16 0 ∧ c.fld 16 0 ≤ 65536 ∧ c.target >>> 32 = 0 ∧ c.fld 16 0 % 16 = 0 ∧ c.fld 31 17 = 0 ∧ c.fld 63 33 = 0 ∧
      c.entry s1 c.target = .ok (n, x) ∧ x.e.remoteHome = true ∧ x.e.state.terminal = false) ∧
  (∃ (r : Nat) (d : Dma) (s s1 : State) (c : Cmd),
    taken 0x0410 [.operator, .tenant] r d s = some (c, s1) ∧ 1 ≤ c.fld 16 0 ∧ c.fld 16 0 ≤ 65536 ∧ c.payLen = 16 + 4 *
      c.fld 16 0 ∧ c.target = 0 ∧ c.fld 63 17 = 0 ∧ c.fld 95 64 ≠ 0 ∧ checkEach (fun i t => need (decide (t < 2 ^ 18))
      St.fieldRange (inPay (16 + 4 * i + 2))) 0 (c.recs 16 4 (c.fld 16 0)) = .ok () ∧ c.fld 127 112 ≠ me s1) ∧
  (∃ (r : Nat) (d : Dma) (s s1 : State) (c : Cmd) (n : Nat) (x : Slot),
    taken 0x0208 [.operator, .tenant] r d s = some (c, s1) ∧ c.payLen = 0 ∧ c.target >>> 32 = 0 ∧ c.entry s1 c.target = .ok
      (n, x) ∧ x.e.remoteHome = true ∧ openEntry s1 n x = .ok () ∧ x.e.inStep = false ∧ x.e.movePend = false ∧ x.restoring
      = false ∧ (x.e.state = .admitted ∨ x.e.state = .generate)) ∧
  (∃ (r : Nat) (d : Dma) (s s1 : State) (c : Cmd) (n : Nat) (x : Slot),
    taken 0x0209 [.operator, .tenant] r d s = some (c, s1) ∧ c.payLen = 0 ∧ c.target >>> 32 = 0 ∧ c.entry s1 c.target = .ok
      (n, x) ∧ x.e.remoteHome = true ∧ openEntry s1 n x = .ok () ∧ x.e.inStep = false ∧ x.e.movePend = false ∧ x.restoring
      = false ∧ x.e.state = .parked) ∧
  (∃ (r : Nat) (d : Dma) (s s1 : State) (c : Cmd) (n : Nat) (x : Slot),
    taken 0x0B04 [.operator] r d s = some (c, s1) ∧ c.payLen = 8 ∧ c.target >>> 32 = 0 ∧ c.fld 63 1 = 0 ∧ restsThere s1 c
      c.target n x ∧ x.e.state.terminal = false ∧ x.e.state ≠ .handoff) ∧
  (∃ (r : Nat) (d : Dma) (s s1 : State) (c : Cmd) (n : Nat) (x : Slot),
    let p := qpay (leNat c.pay)
    p.kv = true ∧ c.entry s1 c.target = .ok (n, x) ∧ x.e.remoteHome = true ∧ openEntry s1 n x = .ok () ∧ x.e.state.terminal
      = false ∧ taken 0x0606 [.operator, .tenant] r d s = some (c, s1) ∧ qpayChecks c .dequantize p = .ok ()) ∧
  (∃ (r : Nat) (d : Dma) (s s1 : State) (c : Cmd) (n : Nat) (x : Slot),
    let p := qpay (leNat c.pay)
    p.kv = true ∧ c.entry s1 c.target = .ok (n, x) ∧ x.e.remoteHome = true ∧ openEntry s1 n x = .ok () ∧ x.e.state.terminal
      = false ∧ taken 0x0607 [.operator, .tenant] r d s = some (c, s1) ∧ qpayChecks c .scaleFind p = .ok ()) ∧
  (∃ (r : Nat) (d : Dma) (s s1 : State) (c : Cmd) (o : OwnStep),
    let h := stepHdr Op.attn c.pay
    taken 0x0801 [.operator, .tenant] r d s = some (c, s1) ∧ h.isOpen = false ∧ stepChecks Op.attn c h 0 = .ok () ∧ getOwn
      s1 h.tag = some o ∧ o.entries.all (entryMine c s1) = true ∧ o.isOpen = true ∧ o.closeTok = none ∧ o.home ≠ me s1) ∧
  (∃ (r : Nat) (d : Dma) (s s1 s2 : State) (c : Cmd) (a : Ans),
    let h := stepHdr Op.attn c.pay
    taken 0x0801 [.operator, .tenant] r d s = some (c, s1) ∧ h.isOpen = true ∧ stepChecks Op.attn c h 0 = .ok () ∧ openCmd
      Op.attn homeAttn c h s1 = .ok (a, s2)) ∧
  (∃ (r : Nat) (d : Dma) (s s1 s2 : State) (c : Cmd) (a : Ans),
    let h := stepHdr Op.sample c.pay
    taken 0x0811 [.operator, .tenant] r d s = some (c, s1) ∧ h.isOpen = true ∧ stepChecks Op.sample c h (if isGiven c.pay
      then h.count else 0) = .ok () ∧ openCmd Op.sample (homeClose Op.sample) c h s1 = .ok (a, s2)) ∧
  (∃ (r : Nat) (d : Dma) (s s1 : State) (c : Cmd) (n : Nat) (x : Slot) (aux : Option Aux),
    let toks := c.recs 8 4 (c.fld 31 0)
    taken 0x0205 [.operator, .tenant] r d s = some (c, s1) ∧ 1 ≤ c.fld 31 0 ∧ c.fld 31 0 ≤ 65536 ∧ c.payLen = 8 + 4 * c.fld
      31 0 ∧ c.target >>> 32 = 0 ∧ c.fld 47 32 = 0 ∧ c.fld 63 49 = 0 ∧ checkEach (fun i t => need (decide (t < 2 ^ 18))
      St.fieldRange (inPay (8 + 4 * i + 2))) 0 toks = .ok () ∧ bit (c.fld 48 48) 0 = true ∧ c.entry s1 c.target = .ok (n,
      x) ∧ x.e.genLen + c.fld 31 0 ≤ x.e.maxNew ∧ auxAfter x toks = some aux ∧ openEntry s1 n x = .ok () ∧
      [RState.admitted, .prefill, .generate, .draining].contains x.e.state = true ∧ x.e.inStep = false ∧ x.e.promptComplete
      = true ∧ auxLen aux ≤ auxLen x.aux) ∧
  (∃ (r : Nat) (d : Dma) (s s1 : State) (c : Cmd),
    let base := c.fld 191 128
    let len := c.fld 127 64
    taken 0x0501 [.operator, .tenant] r d s = some (c, s1) ∧ c.payLen = 24 ∧ c.target = 0 ∧ bit (c.fld 4 4) 0 = true ∧
      c.isOp = true ∧ rangeLen base len = true ∧ rangeBase base = true ∧ len % 2 ^ 30 = 0 ∧ base % 2 ^ 30 = 0 ∧ c.fld 2 0 ≠
      2 ∧ c.fld 2 0 ≠ 4 ∧ c.fld 2 0 ≤ 4 ∧ c.fld 3 3 = 0 ∧ c.fld 47 5 = 0 ∧ c.extentsOk s1 base len = true) :=
  ⟨⟨256, pay 16 0, fw 0x0403 16 4 0 (withReq { ent with remoteHome := true, home := 2 } up), _, _, 0,
      newSlot { ent with remoteHome := true, home := 2 }, is_taken (by decide +kernel), by decide +kernel⟩,
    ⟨256, pay 8 0, fw 0x0404 8 0 0 (withReq { ent with remoteHome := true, home := 2 } up), _, _, 0,
      newSlot { ent with remoteHome := true, home := 2 }, is_taken (by decide +kernel), by decide +kernel⟩,
    ⟨256, pay 16 (32768 <<< 96 ||| 16 <<< 43),
      fw 0x0420 16 0 0 (let s := (withReq { ent with remoteHome := true, home := 2 } up); { s with rte := { s.rte with fresh := 2, slots := [(0, newSlot ({ ent with remoteHome := true, home := 2 })), (1, newSlot ({ ent with remoteHome := true, home := 2, gid := 10, ctxLen := 16 }))] } }),
      _, _, 0, 1, newSlot { ent with remoteHome := true, home := 2 },
      newSlot { ent with remoteHome := true, home := 2, gid := 10, ctxLen := 16 }, is_taken (by decide +kernel),
      by decide +kernel, by decide +kernel, by decide +kernel, by decide +kernel, by decide +kernel,
      by unfold restsThere; decide +kernel, by unfold restsThere; decide +kernel, by decide +kernel⟩,
    ⟨256, pay 8 16, fw 0x0411 8 0 0 (withReq { ent with remoteHome := true, home := 2 } up), _, _, 0,
      newSlot { ent with remoteHome := true, home := 2 }, is_taken (by decide +kernel), by decide +kernel⟩,
    ⟨256, pay 80 (2 <<< 112 ||| 1 <<< 64 ||| 16), fw 0x0410 80 0 0 up, _, _, is_taken (by decide +kernel),
      by decide +kernel⟩,
    ⟨256, pay 0 0, fw 0x0208 0 0 0 (withReq { ent with remoteHome := true, home := 2 } up), _, _, 0,
      newSlot { ent with remoteHome := true, home := 2 }, is_taken (by decide +kernel), by decide +kernel⟩,
    ⟨256, pay 0 0, fw 0x0209 0 0 0 (withReq { ent with remoteHome := true, home := 2, state := .parked } up), _, _, 0,
      newSlot { ent with remoteHome := true, home := 2, state := .parked }, is_taken (by decide +kernel),
      by decide +kernel⟩,
    ⟨256, pay 8 1, fw 0x0B04 8 0 0 (withReq { ent with remoteHome := true, home := 2 } up), _, _, 0,
      newSlot { ent with remoteHome := true, home := 2 }, is_taken (by decide +kernel), by decide +kernel,
      by decide +kernel, by decide +kernel, by unfold restsThere; decide +kernel, by decide +kernel⟩,
    ⟨256, pay 64 (8192 <<< 256 ||| 1024 <<< 112 ||| 1 <<< 70 ||| 1 <<< 7),
      (fw 0x0606 64 2 0 (withReq { ent with remoteHome := true, home := 2 } up)),
      rest 0x0606 [.operator, .tenant] 256 (pay 64 (8192 <<< 256 ||| 1024 <<< 112 ||| 1 <<< 70 ||| 1 <<< 7)) (fw 0x0606 64 2 0 (withReq { ent with remoteHome := true, home := 2 } up)),
      cmd 0x0606 [.operator, .tenant] 256 (pay 64 (8192 <<< 256 ||| 1024 <<< 112 ||| 1 <<< 70 ||| 1 <<< 7)) (fw 0x0606 64 2 0 (withReq { ent with remoteHome := true, home := 2 } up)),
      0, newSlot { ent with remoteHome := true, home := 2 }, by decide +kernel, by decide +kernel, by decide +kernel,
      by decide +kernel, by decide +kernel, is_taken (by decide +kernel), by decide +kernel⟩,
    ⟨256, pay 64 (4096 <<< 384 ||| 8192 <<< 320 ||| 1 <<< 70 ||| 1 <<< 7),
      (fw 0x0607 64 2 0 (withReq { ent with remoteHome := true, home := 2 } up)),
      rest 0x0607 [.operator, .tenant] 256 (pay 64 (4096 <<< 384 ||| 8192 <<< 320 ||| 1 <<< 70 ||| 1 <<< 7)) (fw 0x0607 64 2 0 (withReq { ent with remoteHome := true, home := 2 } up)),
      cmd 0x0607 [.operator, .tenant] 256 (pay 64 (4096 <<< 384 ||| 8192 <<< 320 ||| 1 <<< 70 ||| 1 <<< 7)) (fw 0x0607 64 2 0 (withReq { ent with remoteHome := true, home := 2 } up)),
      0, newSlot { ent with remoteHome := true, home := 2 }, by decide +kernel, by decide +kernel, by decide +kernel,
      by decide +kernel, by decide +kernel, is_taken (by decide +kernel), by decide +kernel⟩,
    ⟨256, pay 64 (8192 <<< 448 ||| 8192 <<< 384 ||| 8192 <<< 320 ||| 1 <<< 224 ||| 0x3F800000 <<< 192 ||| 1 <<< 162),
      fw 0x0801 64 0 0 { up with att := { up.att with owned := [(1, ⟨2, 0, false, true, 0, [], none, [], []⟩)] } }, _, _,
      ⟨2, 0, false, true, 0, [], none, [], []⟩, is_taken (by decide +kernel), by decide +kernel⟩,
    ⟨256,
      pay 80 (8192 <<< 448 ||| 8192 <<< 384 ||| 8192 <<< 320 ||| 2 <<< 224 ||| 0x3F800000 <<< 192 ||| 1 <<< 181 ||| 1 <<< 162 ||| 1 <<< 155),
      fw 0x0801 80 2 0 withDraft, _, _, _, _, is_taken (by decide +kernel), by decide +kernel, by decide +kernel,
      is_okPair (okAns, up) (by decide +kernel)⟩,
    ⟨256, pay 48 (8192 <<< 192 ||| 2 <<< 160 ||| 1 <<< 149 ||| 1 <<< 144), fw 0x0811 48 2 0 withDraft, _, _, _, _,
      is_taken (by decide +kernel), by decide +kernel, by decide +kernel, is_okPair (okAns, up) (by decide +kernel)⟩,
    ⟨256, pay 12 (1 <<< 48 ||| 1), fw 0x0205 12 0 0 (withReq { ent with promptComplete := true } up), _, _, 0,
      newSlot { ent with promptComplete := true }, none, is_taken (by decide +kernel), by decide +kernel⟩,
    ⟨256, pay 24 (1 <<< 94 ||| 1 <<< 4), fw 0x0501 24 0 0 up, _, _, is_taken (by decide +kernel), by decide +kernel⟩⟩

/-- The hypotheses of `Obligations.HeadersAreTheirBytes`. -/
theorem witness_HeadersAreTheirBytes :
  (∃ m : CvnMsg, m.wf = true) ∧
  (∃ bs : Bytes, bs.length = 64) ∧
  (∃ f : Frame, f.wf = true) ∧
  (∃ m : MirRec, m.wf = true) :=
  ⟨⟨{ cvn0 with outcome := 3, gid := 2 ^ 64 - 1 }, by decide +kernel⟩,
    ⟨zeros 64, by decide +kernel⟩,
    ⟨{ frame0 with status := 2 ^ 16 - 1, addr := 2 ^ 64 - 1, pay := [5] }, by decide +kernel⟩,
    ⟨{ rec0 with rsv := 2 ^ 68 - 1, object := 2 ^ 64 - 1 }, by decide +kernel⟩⟩

end Sys2Proof.Tests
end

namespace Sys2Proof.Machine

/-! SUPPORT. Headers and their bytes (04 R83; 10 R276; 12 R346). A header is a list of widths and values, the lowest field
first. Packing the fields into one number and cutting the number at the same widths undo each other, and so do writing a number
as little-endian bytes and reading it (00 R8). What remains for each header is that the field positions of its reader are the
running sums of the widths of its writer. -/

/-! ### Numbers and their little-endian bytes -/

@[simp] theorem length_leBytes (n v : Nat) : (leBytes n v).length = n := by
  induction n generalizing v with
  | zero => rfl
  | succ n ih => simp [leBytes, ih]

/-- `n` bytes hold a number modulo 256 to the power `n`. -/
@[simp] theorem leNat_leBytes (n v : Nat) : leNat (leBytes n v) = v % 256 ^ n := by
  induction n generalizing v with
  | zero => simp [leBytes, leNat, Nat.mod_one]
  | succ n ih => simp [leBytes, leNat, ih, Nat.pow_succ', Nat.mod_mul]

@[simp] theorem leBytes_leNat (bs : Bytes) : leBytes bs.length (leNat bs) = bs := by
  induction bs with
  | nil => rfl
  | cons b bs ih =>
    have head : BitVec.ofNat 8 (b.toNat + 256 * leNat bs) = b := by
      apply BitVec.eq_of_toNat_eq
      have := b.isLt
      rw [BitVec.toNat_ofNat]
      omega
    have tail : (b.toNat + 256 * leNat bs) / 256 = leNat bs := by
      have := b.isLt
      omega
    rw [List.length_cons, leNat, leBytes, head, tail, ih]

/-! ### Fields packed into a number and cut out of it -/

/-- The fields of the given widths that a number spells, each with its width. -/
def fieldsOf (ws : List Nat) (n : Nat) : List (Nat × Nat) := ws.zip (cutFields ws n)

@[simp] theorem fieldsOf_nil (n : Nat) : fieldsOf [] n = [] := rfl

@[simp] theorem fieldsOf_cons (w n : Nat) (ws : List Nat) :
    fieldsOf (w :: ws) n = (w, n % 2 ^ w) :: fieldsOf ws (n >>> w) := by
  rw [Nat.shiftRight_eq_div_pow]
  rfl

/-- Every value fits its width. -/
def FieldsFit (l : List (Nat × Nat)) : Prop := ∀ p ∈ l, p.2 < 2 ^ p.1

/-- A value as far as its width holds it. -/
def cutToWidth (p : Nat × Nat) : Nat × Nat := (p.1, p.2 % 2 ^ p.1)

theorem map_cutToWidth_of_fit {l : List (Nat × Nat)} (h : FieldsFit l) : l.map cutToWidth = l := by
  refine (List.map_congr_left fun p hp => ?_).trans l.map_id
  rw [cutToWidth, Nat.mod_eq_of_lt (h p hp), id]

/-- Cutting undoes packing, up to what the widths hold: no field is lost, and none is read from another's place. -/
theorem fieldsOf_packFields (l : List (Nat × Nat)) : fieldsOf (l.map Prod.fst) (packFields l) = l.map cutToWidth := by
  induction l with
  | nil => rfl
  | cons p l ih =>
    obtain ⟨w, v⟩ := p
    have hv : v % 2 ^ w < 2 ^ w := Nat.mod_lt _ (by positivity)
    have low : (v % 2 ^ w + 2 ^ w * packFields l) % 2 ^ w = v % 2 ^ w := by simp
    have high : (v % 2 ^ w + 2 ^ w * packFields l) >>> w = packFields l := by
      rw [Nat.shiftRight_eq_div_pow, Nat.add_mul_div_left _ _ (by positivity), Nat.div_eq_of_lt hv, Nat.zero_add]
    simp [packFields, low, high, ih, cutToWidth]

/-- Packing undoes cutting. -/
theorem packFields_fieldsOf (ws : List Nat) (n : Nat) : packFields (fieldsOf ws n) = n % 2 ^ ws.sum := by
  induction ws generalizing n with
  | nil => simp [packFields, Nat.mod_one]
  | cons w ws ih => simp [packFields, ih, Nat.shiftRight_eq_div_pow, Nat.pow_add, Nat.mod_mul]

/-- Packed fields need as many bits as their widths have together. -/
theorem packFields_lt (l : List (Nat × Nat)) : packFields l < 2 ^ (l.map Prod.fst).sum := by
  induction l with
  | nil => simp [packFields]
  | cons p l ih =>
    obtain ⟨w, v⟩ := p
    have hv : v % 2 ^ w < 2 ^ w := Nat.mod_lt _ (by positivity)
    calc v % 2 ^ w + 2 ^ w * packFields l
        < 2 ^ w * (packFields l + 1) := by rw [Nat.mul_add_one]; omega
      _ ≤ 2 ^ w * 2 ^ (l.map Prod.fst).sum := Nat.mul_le_mul_left _ ih
      _ = 2 ^ ((w, v) :: l |>.map Prod.fst).sum := by simp [Nat.pow_add]

/-- The fields that the first `n` bytes spell are those packed into them, where the widths fill the `n` bytes. -/
theorem fieldsOf_leBytes_packFields {n : Nat} {ws : List Nat} {l : List (Nat × Nat)} (body : Bytes)
    (hw : l.map Prod.fst = ws) (hn : ws.sum = 8 * n) :
    fieldsOf ws (leNat ((leBytes n (packFields l) ++ body).take n)) = l.map cutToWidth := by
  have fits : packFields l < 256 ^ n := by
    have h := packFields_lt l
    rwa [hw, hn, Nat.pow_mul] at h
  rw [List.take_left' (length_leBytes _ _), leNat_leBytes, Nat.mod_eq_of_lt fits, ← hw, fieldsOf_packFields]

/-- Bytes are those that their fields spell, where the widths fill them. -/
theorem leBytes_packFields_fieldsOf {ws : List Nat} {bs : Bytes} (hn : ws.sum = 8 * bs.length) :
    leBytes bs.length (packFields (fieldsOf ws (leNat bs))) = bs := by
  have fits : leNat bs % 256 ^ bs.length = leNat bs := by rw [← leNat_leBytes, leBytes_leNat]
  rw [packFields_fieldsOf, hn, Nat.pow_mul, fits, leBytes_leNat]

theorem drop_leBytes_append (n v : Nat) (body : Bytes) : (leBytes n v ++ body).drop n = body :=
  List.drop_left' (length_leBytes _ _)

/-- A flag's bit as a number. -/
theorem b2n_bit (n k : Nat) : b2n (bit n k) = (n >>> k) % 2 := by
  rw [b2n, bit]
  obtain h | h := Nat.mod_two_eq_zero_or_one (n >>> k) <;> simp [h]

theorem b2n_lt (b : Bool) : b2n b < 2 ^ 1 := by cases b <;> decide

theorem b2n_inj {a b : Bool} : b2n a = b2n b ↔ a = b := by
  cases a <;> cases b <;> simp [b2n]

/-! ### The caravan header -/

/-- The widths of the caravan header's fields, from bit 0 up (04 R83). -/
def caravanWidths : List Nat :=
  [2, 1, 3, 2, 4, 4, 32, 32, 16, 32, 30, 21, 21, 24, 16, 16, 16, 16, 16, 16, 32, 32, 64, 64]

theorem caravanFields_widths (m : CvnMsg) : (caravanFields m).map Prod.fst = caravanWidths := rfl

theorem caravanFields_fit {m : CvnMsg} (h : m.wf = true) : FieldsFit (caravanFields m) := by
  simp only [CvnMsg.wf, nodeWf, bitsWf, Bool.and_eq_true, decide_eq_true_eq] at h
  simp only [FieldsFit, caravanFields, List.forall_mem_cons, h, true_and]
  exact List.forall_mem_nil _

/-- A caravan message is its source node and its header fields. -/
theorem caravan_ext {m m' : CvnMsg} (hf : m.frm = m'.frm) (h : caravanFields m = caravanFields m') : m = m' := by
  cases m
  cases m'
  simp_all [caravanFields]

/-- The reader takes each field of the caravan header from the place that the widths give it. -/
theorem caravanFields_caravanOfBytes (frm : Nat) (bs : Bytes) :
    caravanFields (caravanOfBytes frm bs) = fieldsOf caravanWidths (leNat (bs.take 64)) := by
  simp [caravanFields, caravanOfBytes, caravanWidths, bits, ← Nat.shiftRight_add]

theorem length_caravanBytes (m : CvnMsg) : (caravanBytes m).length = 64 := length_leBytes _ _

/-- Every well-formed caravan header is what its bytes spell (04 R83). -/
theorem caravanOfBytes_caravanBytes {m : CvnMsg} (h : m.wf = true) : caravanOfBytes m.frm (caravanBytes m) = m := by
  refine caravan_ext rfl ?_
  have read := fieldsOf_leBytes_packFields (n := 64) [] (caravanFields_widths m) rfl
  rw [List.append_nil] at read
  rw [caravanFields_caravanOfBytes, caravanBytes, read, map_cutToWidth_of_fit (caravanFields_fit h)]

/-- The bytes of a caravan header are those that its fields spell. -/
theorem caravanBytes_caravanOfBytes (frm : Nat) {bs : Bytes} (h : bs.length = 64) :
    caravanBytes (caravanOfBytes frm bs) = bs := by
  have fill : caravanWidths.sum = 8 * bs.length := by rw [h]; rfl
  rw [caravanBytes, caravanFields_caravanOfBytes, List.take_of_length_le h.le, ← h, leBytes_packFields_fieldsOf fill]

/-! ### The Jalnal header -/

/-- The widths of the Jalnal header's fields, from bit 0 up (10 R276). -/
def jalnalWidths : List Nat := [16, 5, 4, 3, 4, 1, 1, 1, 1, 5, 13, 12, 14, 16, 16, 16, 32, 32, 64]

theorem jalnalFields_widths (f : Frame) : (jalnalFields f).map Prod.fst = jalnalWidths := rfl

theorem jalnalFields_fit {f : Frame} (h : f.wf = true) : FieldsFit (jalnalFields f) := by
  simp only [Frame.wf, nodeWf, bitsWf, Bool.and_eq_true, decide_eq_true_eq] at h
  simp only [FieldsFit, jalnalFields, List.forall_mem_cons, h, b2n_lt, true_and]
  exact List.forall_mem_nil _

/-- The reader takes each field of the Jalnal header from the place that the widths give it. -/
theorem jalnalFields_jalnalOfBytes (port : Nat) (mem bad ce : Bool) (bs : Bytes) :
    jalnalFields (jalnalOfBytes port mem bad ce bs) = fieldsOf jalnalWidths (leNat (bs.take 32)) := by
  simp [jalnalFields, jalnalOfBytes, jalnalWidths, bits, b2n_bit, ← Nat.shiftRight_add]

/-- A frame is what its outer header tells, its header fields and its payload. -/
theorem frame_ext {f g : Frame} (hport : f.port = g.port) (hmem : f.mem = g.mem) (hbad : f.bad = g.bad) (hce : f.ce = g.ce)
    (hpay : f.pay = g.pay) (h : jalnalFields f = jalnalFields g) : f = g := by
  cases f
  cases g
  simp_all [jalnalFields, b2n_inj]

/-- Every well-formed Jalnal frame is what its bytes spell (10 R276). -/
theorem jalnalOfBytes_jalnalBytes {f : Frame} (h : f.wf = true) :
    jalnalOfBytes f.port f.mem f.bad f.ce (jalnalBytes f) = f := by
  refine frame_ext rfl rfl rfl rfl (drop_leBytes_append 32 (packFields (jalnalFields f)) f.pay) ?_
  rw [jalnalFields_jalnalOfBytes, jalnalBytes, fieldsOf_leBytes_packFields (n := 32) f.pay (jalnalFields_widths f) rfl,
    map_cutToWidth_of_fit (jalnalFields_fit h)]

/-! ### The mirror record header -/

/-- The widths of the mirror record header's fields, from bit 0 up (12 R346). -/
def mirrorWidths : List Nat := [4, 4, 64, 17, 23, 32, 48, 64]

/-- The mirror record header's fields with each value cut to its place: the model's list holds the whole of `rsv` at the place of
its lowest four bits, and packing drops the rest. -/
def mirrorPlaced (m : MirRec) : List (Nat × Nat) := (4, m.rsv % 2 ^ 4) :: (mirrorFields m).tail

theorem mirrorPlaced_widths (m : MirRec) : (mirrorPlaced m).map Prod.fst = mirrorWidths := rfl

theorem packFields_mirrorPlaced (m : MirRec) : packFields (mirrorPlaced m) = packFields (mirrorFields m) := by
  rw [mirrorPlaced, packFields, Nat.mod_mod]
  rfl

theorem mirrorPlaced_fit {m : MirRec} (h : m.wf = true) : FieldsFit (mirrorPlaced m) := by
  simp only [MirRec.wf, bitsWf, Bool.and_eq_true, decide_eq_true_eq] at h
  obtain ⟨⟨⟨⟨⟨⟨⟨⟨_, hobject⟩, hmseq⟩, hcheck⟩, hoffset⟩, hlen⟩, hrsv⟩, hkind⟩, _⟩ := h
  have low : m.rsv % 2 ^ 4 < 2 ^ 4 := Nat.mod_lt _ (by decide)
  have high : m.rsv / 16 < 2 ^ 64 := by omega
  simp only [FieldsFit, mirrorPlaced, mirrorFields, List.tail_cons, List.forall_mem_cons, low, hkind, high, hlen, hoffset,
    hcheck, hmseq, hobject, true_and]
  exact List.forall_mem_nil _

/-- A record is its port, its header fields and its body. -/
theorem mirror_ext {m m' : MirRec} (hport : m.port = m'.port) (hbody : m.body = m'.body)
    (h : mirrorPlaced m = mirrorPlaced m') : m = m' := by
  simp only [mirrorPlaced, mirrorFields, List.tail_cons, List.cons.injEq, Prod.mk.injEq, true_and] at h
  have hrsv : m.rsv = m'.rsv := by
    obtain ⟨hlow, -, hhigh, -⟩ := h
    omega
  cases m
  cases m'
  simp_all

/-- The reader takes each field of the mirror record header from the place that the widths give it; the two reserved ranges
make one number, [71:8] above [3:0]. -/
theorem mirrorPlaced_mirrorOfBytes (port : Nat) (bs : Bytes) :
    mirrorPlaced (mirrorOfBytes port bs) = fieldsOf mirrorWidths (leNat (bs.take 32)) := by
  let n := leNat (bs.take 32)
  have low : bits n 3 0 < 2 ^ 4 := Nat.mod_lt _ (by decide)
  have rsv : (mirrorOfBytes port bs).rsv = bits n 71 8 * 2 ^ 4 + bits n 3 0 := by
    rw [← Nat.shiftLeft_eq, Nat.shiftLeft_add_eq_or_of_lt low, Nat.or_comm]
    rfl
  have rsvLow : (mirrorOfBytes port bs).rsv % 2 ^ 4 = bits n 3 0 := by omega
  have rsvHigh : (mirrorOfBytes port bs).rsv / 16 = bits n 71 8 := by omega
  simp only [mirrorPlaced, mirrorFields, List.tail_cons, rsvLow, rsvHigh]
  simp [mirrorOfBytes, mirrorWidths, bits, ← Nat.shiftRight_add, n]

/-- Every well-formed mirror record is what its bytes spell (12 R346). -/
theorem mirrorOfBytes_mirrorBytes {m : MirRec} (h : m.wf = true) : mirrorOfBytes m.port (mirrorBytes m) = m := by
  refine mirror_ext rfl (drop_leBytes_append 32 (packFields (mirrorFields m)) m.body) ?_
  rw [mirrorPlaced_mirrorOfBytes, mirrorBytes, ← packFields_mirrorPlaced,
    fieldsOf_leBytes_packFields (n := 32) m.body (mirrorPlaced_widths m) rfl, map_cutToWidth_of_fit (mirrorPlaced_fit h)]

/-! ### The obligation -/

/-- Settles O58: cutting at the header's widths undoes packing, and each reader cuts at the widths its writer packs. -/
theorem headersAreTheirBytes : Obligations.HeadersAreTheirBytes := by
  unfold Obligations.HeadersAreTheirBytes
  exact ⟨fun m h => ⟨length_caravanBytes m, caravanOfBytes_caravanBytes h⟩,
    fun frm _ h => caravanBytes_caravanOfBytes frm h,
    fun _ h => jalnalOfBytes_jalnalBytes h,
    fun _ h => mirrorOfBytes_mirrorBytes h⟩

end Sys2Proof.Machine

namespace Sys2Proof.Machine

/-! SUPPORT. The security and boot unit's commands where they complete (01 R23 to R26; 14 R396 to R403; 16 R437). A meaning is a
row of checks and then its effect: each check passes under the condition it states, so a meaning whose conditions hold is its
effect. -/

/-! ### Checks that pass -/

section

variable {α β : Type} {b : Bool} {st det n hi lo : Nat} {c : Cmd}

@[simp] theorem ok_bind_eq (x : α) (f : α → Except Ans β) : (Except.ok x >>= f) = f x := rfl

@[simp] theorem need_of_true (h : b = true) : need b st det = .ok () := by rw [need, if_pos h]

@[simp] theorem lenF_of_true (h : b = true) : lenF b lo = .ok () := need_of_true h

@[simp] theorem fldF_of_true (h : b = true) : fldF b lo = .ok () := need_of_true h

@[simp] theorem lenIs_of_eq (h : c.payLen = n) : c.lenIs n = .ok () := need_of_true (by simp [h])

@[simp] theorem bound_of_le (h : n ≤ c.resLen) : c.bound n = .ok () := need_of_true (by simp [h])

@[simp] theorem rsv_of_zero (h : c.fld hi lo = 0) : c.rsv hi lo = .ok () := fldF_of_true (by simp [h])

@[simp] theorem tgtRsv_of_zero (h : c.target = 0) : c.tgtRsv n = .ok () := need_of_true (by simp [h])

end

/-! ### Images and firmware (14 R399, R402, R403) -/

section

variable {c : Cmd} {s : State}

/-- The slot as an IMAGE_WRITE leaves it: emptied first where it erases, and written up to the end of its data. -/
theorem imageWrite_ok (hfit : c.fld 47 24 ≤ 1048560) (hlen : c.payLen = 16 + c.fld 47 24)
    (hend : c.fld 71 48 + c.fld 47 24 ≤ 0x1000000) (htgt : c.target = 0) (hrsv : c.fld 23 2 = 0) (hrsv' : c.fld 127 72 = 0)
    (hptr : c.fld 71 48 = if c.fld 1 1 = 1 then 0 else (imgSlot s (c.fld 0 0 + 1)).wptr)
    (hboot : s.sbu.bootedSlot ≠ c.fld 0 0 + 1) (hidle : slotBusy s (c.fld 0 0 + 1) = false) :
    imageWrite c s =
      let x := imgSlot s (c.fld 0 0 + 1)
      let y : ImgSlot := if c.fld 1 1 = 1 then ⟨0, .empty, x.tries, 0⟩ else x
      let z : ImgSlot := if c.fld 47 24 = 0 then y else { y with st := .written, wptr := c.fld 71 48 + c.fld 47 24 }
      .ok (pendAns, addJob (setImgSlot s (c.fld 0 0 + 1) z)
        ⟨c.fld 0 0 + 1, false, c.fld 71 48, c.pay.drop 16, c.fld 1 1 == 1, c.tok⟩) := by
  have hword : 16 ≤ c.payLen := by omega
  simp only [imageWrite, beq_iff_eq]
  rw [need_of_true (decide_eq_true hword), lenF_of_true (decide_eq_true hfit), need_of_true (by simp [hlen]),
    lenF_of_true (decide_eq_true hend), tgtRsv_of_zero htgt, rsv_of_zero hrsv, rsv_of_zero hrsv',
    need_of_true (by simp [hptr]), need_of_true (by simp [hboot, hidle])]
  rfl

theorem imageVerify_ok (hlen : c.payLen = 8) (htgt : c.target = 0) (hwhich : c.fld 1 0 ≠ 3) (hrsv : c.fld 63 2 = 0)
    (hidle : slotBusy s (c.fld 1 0) = false) :
    imageVerify c s = .ok (pendAns, addJob s ⟨c.fld 1 0, true, 0, [], false, c.tok⟩) := by
  simp [imageVerify, *]

theorem imageSelect_ok_slot (hlen : c.payLen = 8) (htgt : c.target = 0) (hwhich : c.fld 1 0 = 1 ∨ c.fld 1 0 = 2)
    (hrsv : c.fld 63 2 = 0) (hidle : slotBusy s (c.fld 1 0) = false)
    (hst : (imgSlot s (c.fld 1 0)).st = .verified ∨ (imgSlot s (c.fld 1 0)).st = .confirmed) :
    imageSelect c s = .ok (okAns, setImgSlot s (c.fld 1 0)
      { imgSlot s (c.fld 1 0) with seq := ((imgSlot s (3 - c.fld 1 0)).seq + 1) % 2 ^ 32, tries := 0 }) := by
  have huser : c.fld 1 0 ≠ 0 := by omega
  have hnot3 : c.fld 1 0 ≠ 3 := by omega
  simp [imageSelect, *]

theorem imageSelect_ok_factory (hlen : c.payLen = 8) (htgt : c.target = 0) (hwhich : c.fld 1 0 = 3) (hrsv : c.fld 63 2 = 0) :
    imageSelect c s = .ok (okAns, { s with sbu := { s.sbu with factoryOnce := true } }) := by
  simp [imageSelect, *]

theorem fwLoad_ok (hpass : fwFault s c.pay = none) (htgt : c.target = 0) (hload : s.sec.fwLoad = none)
    (hreset : s.sec.resetting = false) (hjobs : ∀ j ∈ s.sec.imgJobs, j.verify = true) :
    fwLoad c s =
      let s1 := startFirmware s c.pay s.sec.fwImage
      .ok (pendAns, { s1 with sec := { s1.sec with fwLoad := some (now s, c.tok) } }) := by
  have hverify : s.sec.imgJobs.all (·.verify) = true := List.all_eq_true.mpr hjobs
  simp [fwLoad, *]

theorem deviceReset_ok (hlen : c.payLen = 8) (htgt : c.target = 0) (hrsv : c.fld 63 1 = 0) (hload : s.sec.fwLoad = none)
    (hidle : c.fld 0 0 = 1 ∨ idleForReset s = true) :
    deviceReset c s = .ok (if c.ring < 256 then laterAns else okAns, startReset s Rc.deviceReset) := by
  simp [deviceReset, *]

/-- A host session gets no completion of its reset (02 R56). -/
theorem answer_of_reset (s1 : State) (t : Tok) (n : Nat) :
    answer s1 t (if n < 256 then laterAns else okAns) = if n < 256 then s1 else answer s1 t okAns := by
  split <;> simp

/-! ### Keys and attestation (14 R401, R402) -/

theorem keyProvision_ok (hfields : keyFields c = .ok ())
    (hkept : ((applyKey (keysAfter s) (keyChangeOf s c)).any fun kv => kv.2.priv == .maintenance) = true) :
    keyProvision c s = .ok (pendAns,
      { s with sec := { s.sec with keyJobs := s.sec.keyJobs ++ [(keyChangeOf s c, c.tok)] } }) := by
  simp only [keyProvision, hfields, ok_bind_eq, need_of_true hkept]

theorem deviceAttest_ok_chain (hlen : c.payLen = 40) (hres : 16384 ≤ c.resLen) (htgt : c.target = 0)
    (hrsv : c.fld 319 257 = 0) (hchain : c.fld 256 256 = 1) :
    deviceAttest c s = .ok (okRes (s.sec.certChain.take 16384), s) := by
  simp [deviceAttest, *]

theorem deviceAttest_ok_record (hlen : c.payLen = 40) (hres : 352 ≤ c.resLen) (htgt : c.target = 0)
    (hrsv : c.fld 319 257 = 0) (hchain : c.fld 256 256 = 0) :
    deviceAttest c s =
      let r := leBytes 256 (Config.attestRecord (attestParts s (c.pay.take 32))).toNat
      .ok (okRes (r ++ beBytes 96 (Config.attest s.draws r).toNat), drawn s) := by
  simp [deviceAttest, *]

end

/-! ### Roles (01 R23 to R26) -/

section

variable {c : Cmd} {s : State} (hlen : c.payLen = 8) (htgt : c.target = 0) (hlo : 1 ≤ c.fld 3 0) (hhi : c.fld 3 0 ≤ 3)
  (hcache : c.fld 3 0 = 3 → s.sbu.set.portMode.contains 2 = true) (hrsv : c.fld 7 4 = 0) (hrsv' : c.fld 63 9 = 0)
  (hpair : inPair s = false) (hpend : s.hcu.pendingRole = 0)

include hlen htgt hlo hhi hcache hrsv hrsv' hpair hpend

/-- Outside a pair, with no change pending, a valid ROLE_SET keeps the role it has, switches at once, is busy, or marks what
lives. -/
theorem roleSet_unpaired :
    roleSet c s =
      if c.fld 3 0 = s.hcu.role then .ok (okAns, roleEnds s St.ok)
      else if c.fld 8 8 = 0 then
        if noneLive s then .ok (okAns, roleEnds (switchRole s (c.fld 3 0)) St.ok)
        else .ok ({ st := some St.busy }, roleEnds s St.busy)
      else .ok (pendAns, (Tbl.keys s.rte.slots).foldl markEntry
        { s with hcu := { s.hcu with pendingRole := c.fld 3 0, roleTok := some c.tok, roleStatus := St.pending } }) := by
  have hports : ¬ c.fld 3 0 = 3 ∨ 2 ∈ s.sbu.set.portMode := by simpa [imp_iff_not_or] using hcache
  simp [roleSet, *]

end

/-! ### The obligation -/

/-- Settles O25: each meaning's checks pass under the clause's conditions, and its effect is answered from the state the checks
leave. -/
theorem securityCommands : Obligations.SecurityCommands := by
  unfold Obligations.SecurityCommands
  refine ⟨?write, ?verify, ?select, ?factory, ?load, ?reset, ?key, ?chain, ?record, ?role⟩
  case write =>
    intro r d s s1 c k len off x y z ht hfit hlen hend htgt hrsv hrsv' hptr hboot hidle
    rw [exec_imageWrite, execImageWrite, hostCmd_ok ht (imageWrite_ok hfit hlen hend htgt hrsv hrsv' hptr hboot hidle)]
  case verify =>
    intro r d s s1 c ht hlen htgt hwhich hrsv hidle
    rw [exec_imageVerify, execImageVerify, hostCmd_ok ht (imageVerify_ok hlen htgt hwhich hrsv hidle)]
  case select =>
    intro r d s s1 c k ht hlen htgt hwhich hrsv hidle hst
    rw [exec_imageSelect, execImageSelect, hostCmd_ok ht (imageSelect_ok_slot hlen htgt hwhich hrsv hidle hst)]
  case factory =>
    intro r d s s1 c ht hlen htgt hwhich hrsv
    rw [exec_imageSelect, execImageSelect, hostCmd_ok ht (imageSelect_ok_factory hlen htgt hwhich hrsv)]
  case load =>
    intro r d s s1 c s2 ht hpass htgt hload hreset hjobs
    rw [exec_fwLoad, execFwLoad, hostCmd_ok ht (fwLoad_ok hpass htgt hload hreset hjobs)]
  case reset =>
    intro r d s s1 c ht hlen htgt hrsv hload hidle
    rw [exec_deviceReset, execDeviceReset, hostCmd_ok ht (deviceReset_ok hlen htgt hrsv hload hidle), answer_of_reset]
  case key =>
    intro r d s s1 c ht hfields hkept
    rw [exec_keyProvision, execKeyProvision, hostCmd_ok ht (keyProvision_ok hfields hkept)]
  case chain =>
    intro r d s s1 c ht hlen hres htgt hrsv hchain
    rw [exec_deviceAttest, execDeviceAttest, hostCmd_ok ht (deviceAttest_ok_chain hlen hres htgt hrsv hchain)]
  case record =>
    intro r d s s1 c bytes ht hlen hres htgt hrsv hchain
    rw [exec_deviceAttest, execDeviceAttest, hostCmd_ok ht (deviceAttest_ok_record hlen hres htgt hrsv hchain)]
  case role =>
    intro r d s s1 c role ht hlen htgt hlo hhi hcache hrsv hrsv' hpair
    refine ⟨fun hsame hpend => ?_, fun hother hpend hnow hlive => ?_, fun hother hpend hdrain => ?_⟩
    all_goals
      have hrow := roleSet_unpaired hlen htgt hlo hhi hcache hrsv hrsv' hpair hpend
      rw [exec_roleSet, execRoleSet]
    · rw [if_pos hsame] at hrow
      rw [hostCmd_ok ht hrow]
    · rw [if_neg hother, if_pos hnow, if_pos hlive] at hrow
      rw [hostCmd_ok ht hrow]
    · rw [if_neg hother, if_neg (by omega)] at hrow
      rw [hostCmd_ok ht hrow]

end Sys2Proof.Machine

namespace Sys2Proof.Machine

/-! SUPPORT. Boot, trials, keys and policy firmware's heartbeat (01 R26, R28; 14 R396 to R403; 15 R419; 16 R437). An event acts
where its guard holds and leaves the state to `commit` otherwise, so each rule is its guard. -/

/-- Settles O26: each event's guard holds under the clause's conditions. -/
theorem bootAndFirmwareEvents : Obligations.BootAndFirmwareEvents := by
  unfold Obligations.BootAndFirmwareEvents
  refine ⟨?programmed, ?verified, ?loadTimeout, ?beat, ?lapse, ?trial, ?confirm, ?i3cRestart, ?i3cWake, ?sessionKey, ?verifyKey,
    ?unlock, ?role, ?restart, ?ptp, ?done⟩
  case programmed =>
    intro s slot j rest hjob herase
    simp [exec_imageProgrammed, execImageProgrammed, hjob, herase]
  case verified =>
    intro s k j rest hk hjob v
    simp only [exec_imageVerifyDone, execImageVerifyDone, hjob, if_neg hk, v]
  case loadTimeout =>
    intro s t tok hload hlate s1
    simp only [exec_fwLoadTimeout, execFwLoadTimeout, hload, if_neg (Nat.not_lt.mpr hlate), s1]
  case beat =>
    intro s v hstage hbad
    simp [exec_firmwareHeartbeat, execFirmwareHeartbeat, hstage, hbad]
  case lapse =>
    intro s htold hload hdue s1
    simp [exec_heartbeatLapse, execHeartbeatLapse, htold, hload, hdue, s1]
  case trial =>
    intro s hdone htrial hbeat hopen hlate
    simp [exec_trialTimeout, execTrialTimeout, hdone, htrial, hbeat, hopen, hlate]
  case confirm =>
    intro s hdone htrial hbeat hlapsed hheld k s1
    simp [exec_slotConfirm, execSlotConfirm, hdone, htrial, hbeat, hlapsed, hheld, k, s1]
  case i3cRestart =>
    intro s hphase
    rcases hphase with h | h | h <;> simp [exec_i3cRestart, execI3cRestart, h]
  case i3cWake =>
    intro s hphase
    simp [exec_i3cWake, execI3cWake, hphase]
  case sessionKey =>
    intro s n x tok rest hjobs
    simp only [exec_keyAreaWritten, execKeyAreaWritten, hjobs, applyKey]
  case verifyKey =>
    intro s n x tok rest hjobs
    simp only [exec_keyAreaWritten, execKeyAreaWritten, hjobs, applyKey]
  case unlock =>
    intro s n k hslot hlock hrun
    simp [exec_keySlotUnlock, execKeySlotUnlock, hslot, hlock, hrun]
  case role =>
    intro s hpend hlive
    simp [exec_roleSwitch, execRoleSwitch, hpend, hlive]
  case restart =>
    intro s hphase
    simp [exec_restart, execRestart, hphase]
  case ptp =>
    intro s hphase hstage hsync hhold hlate
    simp [exec_ptpWaitTimeout, execPtpWaitTimeout, hphase, hstage, hsync, hhold, hlate]
  case done =>
    intro s hphase hstage hclock hpair
    simp [exec_bootDone, execBootDone, hphase, hstage, hclock, hpair]

end Sys2Proof.Machine

namespace Sys2Proof.Machine

/-! SUPPORT. The tier and flash manager at work (06 R146 to R172; 01 R18). An event acts where its guard holds and leaves the
state to `commit` otherwise; where what it does is more than its guard's branch, a lemma first says what it comes to. -/

section

variable {s s1 : State}

/-! ### Reads (01 R18; 06 R148, R168) -/

/-- A window read that meets no FLASH granule is answered at once. -/
theorem windowRead_answers {p a n : Nat} (hbuilt : s.tfm.rebuilding = false) (hgood : winBad s a n = false)
    (hflash : flashIn s a n = []) :
    windowRead s p a n = emit (touchAll (viewReads s a n) a n) (.readAns (.pcie p) true (winRead s a n)) := by
  simp [windowRead, deliverRead, hbuilt, hgood, hflash]

/-- The first redirect in a second marks no die, so it rebuilds its own read alone. -/
theorem execReadRedirect_first {id : Nat} {r : FRead} (hread : Tbl.get s.tfm.reads id = some r) (hgot : r.got = false)
    (hfirst : r.redirected = false) (hlate : r.at' + s.tfm.ctl.readRedirect * us ≤ now s) (hdown : otherDown s r.die = false)
    (hsecond : (dieAt s r.die).second + 1000 * ms ≤ now s) :
    execReadRedirect id s =
      let x := dieAt s r.die
      let s0 := (s.tfm.reads.filter fun kv => kv.1 == id).foldl (fun a kv => readOthers a (tmap s kv.2.granule).loc) s
      let reads := Tbl.map s0.tfm.reads fun k y =>
        if k == id then { y with redirected := true, at' := now s, left := y.left + 1 } else y
      .next (commit s (setDie { s0 with tfm := { s0.tfm with reads := reads } } r.die
        { x with redirects := 1, total := x.total + 1, second := now s })) := by
  simp [execReadRedirect, hread, hgot, hfirst, Nat.not_lt.mpr hlate, hdown, hsecond]

/-! ### A lost stack (06 R171) -/

/-- Where no page and nothing durable lay on the stack, the loss of its granules is all of it. -/
theorem execStackRetire_objects {k : Nat} (hk : k < 12) (hlost : k ∉ s.tfm.stacksLost)
    (hobj : ∀ g ∈ stackGranules s k, g < apGranule ∧ isDurable s g = false) :
    execStackRetire k s = .next (commit s ((stackGranules s k).foldl (loseGranule false) (post
      { s with tfm := { s.tfm with stacksLost := s.tfm.stacksLost ++ [k], rebuilding := true } }
      Un.tfm Ek.device Ec.loss 1 0 (me s <<< 48) k))) := by
  have hall : (stackGranules s k).filter (fun g => decide (g < apGranule)) = stackGranules s k :=
    List.filter_eq_self.mpr fun g hg => decide_eq_true (hobj g hg).1
  have hdur : (stackGranules s k).filter (isDurable s) = [] :=
    List.filter_eq_nil_iff.mpr fun g hg => by simp [(hobj g hg).2]
  have hplain : (stackGranules s k).filter (fun g => !isDurable s g) = stackGranules s k :=
    List.filter_eq_self.mpr fun g hg => by simp [(hobj g hg).2]
  have hpages : (stackGranules s k).filter (fun g => decide (apGranule ≤ g)) = [] :=
    List.filter_eq_nil_iff.mpr fun g hg => by simpa using (hobj g hg).1
  simp [execStackRetire, Nat.not_le.mpr hk, hlost, hall, hdur, hplain, hpages, distinct]
  split <;> rfl

end

/-- Settles O27: each event's guard holds under the clause's conditions, and a first redirect and the loss of a stack of plain
object granules come to no more than the clause says. -/
theorem flashAndJournalRules : Obligations.FlashAndJournalRules := by
  unfold Obligations.FlashAndJournalRules
  refine ⟨?windowRead, ?windowWrite, ?readDone, ?redirect, ?page, ?commit, ?checkpoint, ?sealed, ?demotion, ?idle, ?heat,
    ?demoted, ?promoted, ?row, ?collect, ?erase, ?erased, ?eraseFail, ?programFail, ?reservedFail, ?relocate, ?relocateOpen,
    ?die, ?retry, ?stack, ?parity, ?scrub, ?scrubHbm, ?scrubSram⟩
  case windowRead =>
    intro s p a n hopen hn hmax hin hgood hbuilt hflash
    have hn0 : n ≠ 0 := by omega
    simp [exec_memWindowRead, execMemWindowRead, hopen, hn0, Nat.not_lt.mpr hmax, hin, windowRead_answers hbuilt hgood hflash]
  case windowWrite =>
    intro s p a bs hopen hbs hmax hin hlive
    simp [exec_memWindowWrite, execMemWindowWrite, hopen, hbs, Nat.not_lt.mpr hmax, hin, hlive]
  case readDone =>
    intro s id r hread hgot hgrant
    rcases hgrant with h | h <;> simp [exec_flashReadDone, execFlashReadDone, hread, hgot, h]
  case redirect =>
    intro s id r hread hgot hfirst hlate hdown hsecond
    rw [exec_readRedirect, execReadRedirect_first hread hgot hfirst hlate hdown hsecond]
  case page =>
    intro s hflight hdue
    simp [exec_journalPageWrite, execJournalPageWrite, hflight, hdue, writePage]
  case commit =>
    intro s z hlast
    simp only [exec_journalCommit, execJournalCommit, commitFlight, hlast]
  case checkpoint =>
    intro s leaf hpower hpend hchanged hrest
    simp [exec_checkpointWrite, execCheckpointWrite, hpower, hpend, hchanged, hrest]
  case sealed =>
    intro s hsaving
    simp [exec_saveSeal, execSaveSeal, hsaving]
  case demotion =>
    intro s hlow hwrites hrun leaving want
    simp [exec_demotion, execDemotion, hlow, hwrites, hrun, leaving, want]
  case idle =>
    intro s g hhbm hhint hlapse hstill hmovable hwrites hrun hmoves hroom
    simp [exec_idlePlacement, execIdlePlacement, hhbm, hhint, hlapse, hstill, hmovable, hwrites, hrun, hmoves, hroom]
  case heat =>
    intro s hdue
    simp [exec_heatSweep, execHeatSweep, Nat.not_lt.mpr hdue]
  case demoted =>
    intro s g m hmove hkind hto hcommitted
    simp [exec_migrationSwitch, execMigrationSwitch, hmove, hkind, hto, hcommitted]
  case promoted =>
    intro s s1 g m hmove hkind hto hcopy
    simp [exec_migrationSwitch, execMigrationSwitch, hmove, hkind, hto, hcopy]
  case row =>
    intro s k b hk hfree hrun hopen
    simp [exec_rowProgrammed, execRowProgrammed, Nat.not_lt.mpr hfree, Nat.not_lt.mpr hk, hrun, hopen]
  case collect =>
    intro s b hrun hmoves hpick
    have hnone : s.tfm.moves.any (fun kv => kv.2.kind == .gc) = false := by simpa using hmoves
    simp [exec_gcCollect, execGcCollect, hrun, hnone, hpick]
  case erase =>
    intro s b hmay hpower
    simp [exec_bandErase, execBandErase, hmay, hpower]
  case erased =>
    intro s b hst
    simp [exec_bandErased, execBandErased, hst]
  case eraseFail =>
    intro s b die hst hgroup hdie s2
    simp [exec_eraseFail, execEraseFail, hst, hgroup, hdie, s2]
  case programFail =>
    intro s k b die hk hopen hgroup hdie two
    simp [exec_programFail, execProgramFail, hopen, hgroup, Nat.not_le.mpr hdie, Nat.not_lt.mpr hk, two]
  case reservedFail =>
    intro s k b die hk hopen hgroup hdie
    simp [exec_programFail, execProgramFail, hopen, hgroup, Nat.not_le.mpr hdie, hk]
  case relocate =>
    intro s b ch hst hfirst hch hreads
    have hworn : ∃ ch < 16, 150000 ≤ (blockAt s (bandBlock b (bandAt s b) ch)).reads := ⟨ch, hch, hreads⟩
    simp [exec_readRelocate, execReadRelocate, hst, hfirst, hworn]
  case relocateOpen =>
    intro s b ch hst hfirst hch hreads
    have hworn : ∃ ch < 16, 150000 ≤ (blockAt s (bandBlock b (bandAt s b) ch)).reads := ⟨ch, hch, hreads⟩
    simp [exec_readRelocate, execReadRelocate, hst, hfirst, hworn]
  case die =>
    intro s die hdie hst
    simp [exec_dieFailed, execDieFailed, Nat.not_le.mpr hdie, hst]
  case retry =>
    intro s die hst hlate
    simp [exec_dieRetry, execDieRetry, hst, hlate]
  case stack =>
    intro s k hk hlost hobj
    rw [exec_stackRetire, execStackRetire_objects hk hlost hobj]
  case parity =>
    intro s s1
    rw [exec_parityRebuildDone, execParityRebuildDone]
  case scrub =>
    intro s a fixed
    simp [exec_scrubPass, execScrubPass]
  case scrubHbm =>
    intro s a fixed hhbm
    simp [exec_scrubPass, execScrubPass, Nat.not_le.mpr hhbm]
  case scrubSram =>
    intro s a fixed hsram
    simp [exec_scrubPass, execScrubPass, hsram]

end Sys2Proof.Machine

namespace Sys2Proof.Machine

/-! SUPPORT. Steps 1 to 8 of 02 R50: the first that fails decides, and a command that passes them all goes on. -/

section

variable {privs : List Priv} {r h : Nat} {R : Ring} {d : Dma} {s s1 : State} {x : Option Session} {pay : Bytes} {e : Rej}

theorem check_of_step1_error (h1 : step1 r h R s = .error e) : check privs r R h d s = .error e := by
  simp only [check, h1]; rfl

theorem check_of_step2_error (h1 : step1 r h R s = .ok x) (h2 : step2 r h s = .error e) :
    check privs r R h d s = .error e := by
  simp only [check, h1, h2]; rfl

theorem check_of_step34_error (h1 : step1 r h R s = .ok x) (h2 : step2 r h s = .ok ())
    (h34 : step34 r h x d s = .error e) : check privs r R h d s = .error e := by
  simp only [check, h1, h2, bind, Except.bind, h34]

/-- Past the payload, tag and SEQ, the checks left are those of the CID, of the header, of the opcode and of the privilege. -/
theorem check_of_step34_ok (h1 : step1 r h R s = .ok x) (h2 : step2 r h s = .ok ())
    (h34 : step34 r h x d s = .ok (pay, s1)) :
    check privs r R h d s =
      if hCid h ∈ R.outstanding then .error (St.busy, 0, s1)
      else match step6 h s1 with
        | .error e => .error e
        | .ok _ =>
          if knownOp (hOpcode h) = false ∨ ringAllows r (hOpcode h) = false ∨ roleAllows s1.hcu.role (hOpcode h) = false then
            .error (St.badOpcode, 0, s1)
          else if privOk privs (who r x).1 = false then .error (St.privilege, 0, s1)
          else
            .ok (⟨r, R.port, h, pay, (who r x).1, (who r x).2, if r < 256 then hSession h else 0xFFFF, mkTok r R h⟩, s1) := by
  simp only [check, h1, h2, h34, bind, Except.bind, rej, List.contains_iff_mem]
  by_cases hc : hCid h ∈ R.outstanding
  · simp [hc]
  · cases h6 : step6 h s1 with
    | error e => simp [hc]
    | ok u =>
      by_cases ho : knownOp (hOpcode h) = false ∨ ringAllows r (hOpcode h) = false ∨
        roleAllows s1.hcu.role (hOpcode h) = false
      · simp [hc, ho, or_assoc]
      · cases hp : privOk privs (who r x).1 <;> simp [hc, ho, or_assoc]

end

/-- Settles O36: each clause is the outcome of `check` at the first step that fails, or past the last. -/
theorem checksComeInOrder : Obligations.ChecksComeInOrder := by
  unfold Obligations.ChecksComeInOrder
  intro privs r h R d s
  refine ⟨fun e => check_of_step1_error, fun x e => check_of_step2_error, fun x e => check_of_step34_error, ?_⟩
  intro x pay s1 h1 h2 h34
  rw [check_of_step34_ok h1 h2 h34]
  refine ⟨fun hc => if_pos hc, fun e hc h6 => ?_, fun hc h6 => ?_⟩
  · simp only [if_neg hc, h6]
  · simp only [if_neg hc, h6]
    refine ⟨fun hbad => if_pos hbad, fun hk hr ho => ⟨fun hp => ?_, fun hp => ?_⟩⟩
    · simp [hk, hr, ho, hp]
    · simp [hk, hr, ho, hp]

end Sys2Proof.Machine

namespace Sys2Proof.Machine

/-! SUPPORT. Rows of host commands that start nothing: the ring stands aside, another command is in front, or the command
waits (02 R32, R34; 06 R171). -/

/-! ### A row waits for its ring (02 R32, R34) -/

section

variable {op : Nat} {privs : List Priv} {r : Nat} {d : Dma} {s : State} {R : Ring} {h : Nat} {body : Meaning}

/-- A ring with a fetched command waiting stands at no arbiter. -/
theorem granted_of_waiting (hw : R.waiting = some h) : granted s r R = false := by
  simp [granted, standing, hw]

theorem hostCmd_of_no_ring (hR : Tbl.get s.hcu.rings r = none) : hostCmd op privs r d body s = s := by
  simp [hostCmd, begins, holdBack, hR]

theorem hostCmd_of_work_ring (hR : Tbl.get s.hcu.rings r = some R) (hwork : R.work = true) :
    hostCmd op privs r d body s = s := by
  cases hw : R.waiting <;> simp [hostCmd, begins, holdBack, hR, hwork, hw]

theorem hostCmd_of_not_granted (hR : Tbl.get s.hcu.rings r = some R) (hw : R.waiting = none) (hg : granted s r R = false) :
    hostCmd op privs r d body s = s := by
  simp [hostCmd, begins, holdBack, hR, hw, hg]

/-- The command in the head slot is another row's. -/
theorem hostCmd_of_other_slot (hR : Tbl.get s.hcu.rings r = some R) (hw : R.waiting = none)
    (hk : knownOp (hOpcode (slotHeader s R)) = true) (hop : hOpcode (slotHeader s R) ≠ op) :
    hostCmd op privs r d body s = s := by
  by_cases hb : R.work = true ∨ granted s r R = false ∨ heldBack s R (slotHeader s R) = true
  · simp [hostCmd, begins, holdBack, hR, hw, hk, hop, or_assoc, hb]
  · simp [hostCmd, begins, hR, hw, hk, hop, or_assoc, hb]

/-- The command that waits is held yet, or the controller does not serve the ring. -/
theorem hostCmd_of_still_waiting (hR : Tbl.get s.hcu.rings r = some R) (hw : R.waiting = some h)
    (hb : serving s r = false ∨ heldBack s R h = true) : hostCmd op privs r d body s = s := by
  have hnot : (R.work || !serving s r || heldBack s R h) = true := by rcases hb with hb | hb <;> simp [hb]
  simp [hostCmd, begins, holdBack, hR, hw, hnot, granted_of_waiting hw]

/-- The command that waits is another row's. -/
theorem hostCmd_of_other_waiting (hR : Tbl.get s.hcu.rings r = some R) (hw : R.waiting = some h)
    (hk : knownOp (hOpcode h) = true) (hop : hOpcode h ≠ op) : hostCmd op privs r d body s = s := by
  by_cases hb : (R.work || !serving s r || heldBack s R h) = true
  · simp [hostCmd, begins, holdBack, hR, hw, hb, granted_of_waiting hw]
  · simp [hostCmd, begins, hR, hw, hb, hk, hop]

/-- A granted command that is held back is fetched, and waits. -/
theorem hostCmd_of_heldBack (hR : Tbl.get s.hcu.rings r = some R) (hwork : R.work = false) (hw : R.waiting = none)
    (hg : granted s r R = true) (hb : heldBack s R (slotHeader s R) = true) (hop : hOpcode (slotHeader s R) = op) :
    hostCmd op privs r d body s = fetchedOnly s r R (slotHeader s R) := by
  simp [hostCmd, begins, holdBack, hR, hw, hwork, hg, hb, hop]

end

/-- The row `i` is a host command of ring `r` with opcode `op`: its step is `hostCmd`, then `commit`. -/
def runsHostCmd (r : Nat) (d : Dma) (op : Nat) (i : Instr) : Prop :=
  ∃ privs body, ∀ s, exec i s = .next (commit s (hostCmd op privs r d body s))

/-- Settles O35: the rows listed are host commands, and each reason to wait leaves `hostCmd` nothing to do. -/
theorem commandsWaitForTheirRing : Obligations.CommandsWaitForTheirRing := by
  unfold Obligations.CommandsWaitForTheirRing
  intro r d s x hx
  have hrow : runsHostCmd r d x.1 x.2 := by
    revert x
    repeat refine List.forall_mem_cons.mpr ⟨⟨_, _, fun _ => rfl⟩, ?_⟩
    exact List.forall_mem_nil _
  obtain ⟨privs, body, hexec⟩ := hrow
  rw [hexec]
  refine ⟨?nothing, ?fetched⟩
  case nothing =>
    rintro (hR | ⟨R, hR, hwork | ⟨hw, hg | ⟨hk, hop⟩⟩ | ⟨h, hw, hs | hb | ⟨hk, hop⟩⟩⟩)
    · rw [hostCmd_of_no_ring hR]
    · rw [hostCmd_of_work_ring hR hwork]
    · rw [hostCmd_of_not_granted hR hw hg]
    · rw [hostCmd_of_other_slot hR hw hk hop]
    · rw [hostCmd_of_still_waiting hR hw (.inl hs)]
    · rw [hostCmd_of_still_waiting hR hw (.inr hb)]
    · rw [hostCmd_of_other_waiting hR hw hk hop]
  case fetched =>
    intro R hR hwork hw hg hb hop
    rw [hostCmd_of_heldBack hR hwork hw hg hb hop]

end Sys2Proof.Machine

namespace Sys2Proof.Machine

/-! SUPPORT. What a completion and an answer leave unchanged (02 R35 to R38, R446; 12 R347, R363). -/

/-! ### What a completion can touch (02 R35 to R38; 12 R347) -/

section

variable {s s1 : State}

/-- What writing into a ring cannot touch: all but the rings and what is sent. -/
def pastRingWrite (s : State) : State := { s with hcu := { s.hcu with rings := [] }, out := [] }

/-- What a completion cannot touch: all but the rings, the firmware memory, the reports held and what is sent. -/
def pastCompletion (s : State) : State :=
  { s with hcu := { s.hcu with rings := [], fwMem := [] }, mru := { s.mru with held := [] }, out := [] }

theorem pastCompletion_of_ringWrite {a b : State} (h : pastRingWrite a = pastRingWrite b) :
    pastCompletion a = pastCompletion b := by
  have e : ∀ s, pastCompletion s = pastCompletion (pastRingWrite s) := fun _ => rfl
  rw [e a, e b, h]

@[simp] theorem emit_pastRingWrite (x : Sent) : pastRingWrite (emit s x) = pastRingWrite s := rfl

@[simp] theorem setRing_pastRingWrite (r : Nat) (R : Ring) : pastRingWrite (setRing s r R) = pastRingWrite s := rfl

/-- An interrupt is only sent. -/
theorem irqPort_out (p v a w : Nat) : ∃ out, irqPort s p v a w = { s with out := out } := by
  unfold irqPort
  split
  · exact ⟨_, rfl⟩
  · split <;> exact ⟨_, rfl⟩

@[simp] theorem irqPort_hcu (p v a w : Nat) : (irqPort s p v a w).hcu = s.hcu := by
  obtain ⟨out, hout⟩ := irqPort_out (s := s) p v a w
  rw [hout]

@[simp] theorem irqPort_pastRingWrite (p v a w : Nat) : pastRingWrite (irqPort s p v a w) = pastRingWrite s := by
  obtain ⟨out, hout⟩ := irqPort_out (s := s) p v a w
  rw [hout]; rfl

@[simp] theorem reapRing_pastRingWrite (r : Nat) : pastRingWrite (reapRing s r) = pastRingWrite s := by
  unfold reapRing
  split
  · rfl
  · split
    · rfl
    · split <;> rfl

@[simp] theorem cplIrq_pastRingWrite (r : Nat) (b : Bool) : pastRingWrite (cplIrq s r b) = pastRingWrite s := by
  unfold cplIrq
  split
  · rfl
  · split
    · rfl
    · dsimp only
      split <;> simp

@[simp] theorem markPended_pastRingWrite (t : Tok) : pastRingWrite (markPended s t) = pastRingWrite s := by
  unfold markPended
  split
  · rfl
  · split <;> rfl

@[simp] theorem putResult_pastCompletion (r a : Nat) (bs : Bytes) : pastCompletion (putResult r a bs s) = pastCompletion s := by
  unfold putResult
  split <;> rfl

/-- Besides its result data, a written completion touches the rings and what is sent. -/
theorem writeCpl_pastRingWrite (R : Ring) (c : Cpl) :
    pastRingWrite (writeCpl s R c) =
      pastRingWrite (if c.result.isEmpty then s
        else putResult c.tok.ring c.tok.resAddr c.result (emit s (.bus R.port c.tok.resAddr c.result))) := by
  simp [writeCpl]

@[simp] theorem writeCpl_pastCompletion (R : Ring) (c : Cpl) : pastCompletion (writeCpl s R c) = pastCompletion s := by
  rw [pastCompletion_of_ringWrite (writeCpl_pastRingWrite R c)]
  split
  · rfl
  · rw [putResult_pastCompletion]; rfl

@[simp] theorem deliverCpl_pastCompletion (c : Cpl) : pastCompletion (deliverCpl s c) = pastCompletion s := by
  unfold deliverCpl
  split
  · rfl
  · split
    · rfl
    · simp

@[simp] theorem reportCpl_pastCompletion (c : Cpl) : pastCompletion (reportCpl s c) = pastCompletion s := by
  unfold reportCpl
  split
  · rfl
  · simp

@[simp] theorem complete_pastCompletion (t : Tok) (st r0 det : Nat) (res : Bytes) (f : Bool) :
    pastCompletion (complete s t st r0 det res f) = pastCompletion s := by
  unfold complete
  rw [reportCpl_pastCompletion]
  split
  · rfl
  · exact pastCompletion_of_ringWrite (markPended_pastRingWrite t)

/-- `s` with what a completion can touch as `u` has it. -/
def completedAs (s u : State) : State :=
  { s with
    hcu := { s.hcu with rings := u.hcu.rings, fwMem := u.hcu.fwMem }, mru := { s.mru with held := u.mru.held }, out := u.out }

theorem eq_completedAs (h : pastCompletion s1 = pastCompletion s) : s1 = completedAs s s1 :=
  calc s1 = completedAs (pastCompletion s1) s1 := rfl
    _ = completedAs (pastCompletion s) s1 := by rw [h]
    _ = completedAs s s1 := rfl

end

/-! ### A completion leaves the other rings (02 R35, R36) -/

section

variable {s : State} {k r : Nat} {c : Cpl} {R : Ring} {t : Tok} (hk : k ≠ r) (hkc : k ≠ c.tok.ring) (hkt : k ≠ t.ring)

include hk in
theorem setRing_other : Tbl.get (setRing s r R).hcu.rings k = Tbl.get s.hcu.rings k := Tbl.get_set_ne hk

include hk in
theorem reapRing_other : Tbl.get (reapRing s r).hcu.rings k = Tbl.get s.hcu.rings k := by
  unfold reapRing
  split
  · rfl
  · split
    · exact Tbl.get_del_ne hk
    · split
      · exact setRing_other hk
      · rfl

include hk in
theorem cplIrq_other (b : Bool) : Tbl.get (cplIrq s r b).hcu.rings k = Tbl.get s.hcu.rings k := by
  unfold cplIrq
  split
  · rfl
  · split
    · rfl
    · dsimp only
      split
      · rw [irqPort_hcu, setRing_other hk]
      · rw [setRing_other hk]

@[simp] theorem putResult_rings (a : Nat) (bs : Bytes) : (putResult r a bs s).hcu.rings = s.hcu.rings := by
  unfold putResult
  split <;> rfl

include hkc in
theorem writeCpl_other : Tbl.get (writeCpl s R c).hcu.rings k = Tbl.get s.hcu.rings k := by
  unfold writeCpl
  dsimp only
  rw [reapRing_other hkc, cplIrq_other hkc, setRing_other hkc, emit_hcu]
  split
  · rfl
  · simp

include hkc in
theorem deliverCpl_other : Tbl.get (deliverCpl s c).hcu.rings k = Tbl.get s.hcu.rings k := by
  unfold deliverCpl
  split
  · rfl
  · split
    · exact setRing_other hkc
    · exact writeCpl_other hkc

include hkc in
theorem reportCpl_other : Tbl.get (reportCpl s c).hcu.rings k = Tbl.get s.hcu.rings k := by
  unfold reportCpl
  split
  · rfl
  · exact deliverCpl_other hkc

include hkt in
theorem markPended_other : Tbl.get (markPended s t).hcu.rings k = Tbl.get s.hcu.rings k := by
  unfold markPended
  split
  · rfl
  · split
    · exact setRing_other hkt
    · rfl

include hkt in
theorem complete_other (st r0 det : Nat) (res : Bytes) (f : Bool) :
    Tbl.get (complete s t st r0 det res f).hcu.rings k = Tbl.get s.hcu.rings k := by
  unfold complete
  rw [reportCpl_other hkt]
  split
  · rfl
  · exact markPended_other hkt

end

/-! ### The answer of a command -/

section

variable {s : State}

theorem injectHit_inject : ∃ inject, injectHit s = { s with mir := { s.mir with inject := inject } } := by
  unfold injectHit
  split <;> exact ⟨_, rfl⟩

/-- An answer that is given is a completion, which an ST_DATA_CHECK counts first toward the armed injections. -/
theorem answer_eq_complete (t : Tok) (a : Ans) : answer s t a = s ∨ ∃ inject st,
    answer s t a = complete { s with mir := { s.mir with inject := inject } } t st a.r0 a.detail a.result (st != St.pending) := by
  unfold answer
  split
  · exact .inl rfl
  · rename_i st _
    refine .inr ?_
    split
    · obtain ⟨inject, hhit⟩ := injectHit_inject (s := s)
      exact ⟨inject, st, by rw [hhit]⟩
    · exact ⟨s.mir.inject, st, rfl⟩

/-- While a partner mirrors, a completion is held and nothing leaves. -/
theorem complete_out_of_mirroring (hm : mirroring s = true) (t : Tok) (st r0 det : Nat) (res : Bytes) (f : Bool) :
    (complete s t st r0 det res f).out = s.out := by
  have hreport : ∀ (a : State) (c : Cpl), mirroring a = true → (reportCpl a c).out = a.out := fun a c ha => by
    rw [reportCpl, if_pos ha]
  unfold complete
  split
  · exact hreport _ _ hm
  · have hpend : (markPended s t).mru = s.mru ∧ (markPended s t).out = s.out := by
      unfold markPended
      repeat' split
      all_goals exact ⟨rfl, rfl⟩
    rw [hreport _ _ (by rw [mirroring, hpend.1]; exact hm), hpend.2]

/-- Result data of a host's command goes over the bus alone. -/
theorem writeCpl_fwMem_of_host (R : Ring) {c : Cpl} (hr : c.tok.ring < 256) : (writeCpl s R c).hcu.fwMem = s.hcu.fwMem := by
  have hfw := congrArg (fun t : State => t.hcu.fwMem) (writeCpl_pastRingWrite (s := s) R c)
  calc (writeCpl s R c).hcu.fwMem = _ := hfw
    _ = s.hcu.fwMem := by
      split
      · rfl
      · simp [putResult, hr, pastRingWrite]

end

/-- Settles O51: an answer is a completion, whose frames are above. -/
theorem completionsTouchTheirRing : Obligations.CompletionsTouchTheirRing := by
  unfold Obligations.CompletionsTouchTheirRing
  refine ⟨fun s t a => ?_, fun s t a r hr => ?_, answer_later, fun s t st r0 det res f hm => ?_, fun s R c hr => ?_⟩
  · rcases answer_eq_complete (s := s) t a with h | ⟨inject, st, h⟩
    · exact ⟨_, _, _, _, _, h⟩
    · rw [h, eq_completedAs (complete_pastCompletion ..)]
      exact ⟨_, _, _, _, _, rfl⟩
  · rcases answer_eq_complete (s := s) t a with h | ⟨inject, st, h⟩
    · rw [h]
    · rw [h, complete_other hr]
  · exact complete_out_of_mirroring hm ..
  · exact writeCpl_fwMem_of_host R hr

end Sys2Proof.Machine

namespace Sys2Proof.Machine

/-! SUPPORT. What the checks of a host command leave unchanged, where they turn it away and where they pass it (02 R34, R42 to
R47, R50 to R52, R446). -/

/-! ### What a rejection can touch (02 R42, R45, R47, R52) -/

section

variable {s s1 : State}

/-- What a rejection cannot touch: all but the rings, the sessions and their SEQ, the firmware memory, the connections, the
arbiters' pointers and grants, the reports held and what is sent. -/
def pastRejection (s : State) : State :=
  { s with
    hcu := { s.hcu with rings := [], sessions := [], sessGen := [], seqs := [], fwMem := [] }
    fbe := { s.fbe with conns := [] }, tsu := { s.tsu with arbPtr := [], took := [] }
    mru := { s.mru with held := [] }, out := [] }

/-- `s` with what a rejection can touch as `u` has it. -/
def rejectedAs (s u : State) : State :=
  { s with
    hcu := { s.hcu with
      rings := u.hcu.rings, sessions := u.hcu.sessions, sessGen := u.hcu.sessGen, seqs := u.hcu.seqs, fwMem := u.hcu.fwMem }
    fbe := { s.fbe with conns := u.fbe.conns }, tsu := { s.tsu with arbPtr := u.tsu.arbPtr, took := u.tsu.took }
    mru := { s.mru with held := u.mru.held }, out := u.out }

theorem eq_rejectedAs (h : pastRejection s1 = pastRejection s) : s1 = rejectedAs s s1 :=
  calc s1 = rejectedAs (pastRejection s1) s1 := rfl
    _ = rejectedAs (pastRejection s) s1 := by rw [h]
    _ = rejectedAs s s1 := rfl

theorem pastRejection_of_completion {a b : State} (h : pastCompletion a = pastCompletion b) :
    pastRejection a = pastRejection b := by
  have e : ∀ s, pastRejection s = pastRejection (pastCompletion s) := fun _ => rfl
  rw [e a, e b, h]

theorem pastRejection_of_ringWrite {a b : State} (h : pastRingWrite a = pastRingWrite b) : pastRejection a = pastRejection b :=
  pastRejection_of_completion (pastCompletion_of_ringWrite h)

@[simp] theorem fetched_pastRejection (r : Nat) (R : Ring) (h : Nat) : pastRejection (fetched s r R h) = pastRejection s := rfl

@[simp] theorem released_pastRejection (r : Nat) (R : Ring) (h : Nat) : pastRejection (released s r R h) = pastRejection s := rfl

@[simp] theorem stored_pastRejection (r h : Nat) (d : Dma) : pastRejection (stored r h d s) = pastRejection s := by
  unfold stored
  split
  · rfl
  · split <;> rfl

@[simp] theorem destroyRing_pastRingWrite (r : Nat) : pastRingWrite (destroyRing s r) = pastRingWrite s := by
  unfold destroyRing
  split
  · rfl
  · simp

@[simp] theorem closeRing_pastRingWrite (r : Nat) : pastRingWrite (closeRing s r) = pastRingWrite s := by
  unfold closeRing
  split
  · rfl
  · simp

@[simp] theorem stopWork_pastRejection (r : Nat) : pastRejection (stopWork s r) = pastRejection s := rfl

@[simp] theorem closeWaiting_pastCompletion (id : Nat) (kv : Nat × Ring) :
    pastCompletion (closeWaiting id s kv) = pastCompletion s := by
  unfold closeWaiting
  split
  · rfl
  · split
    · rw [complete_pastCompletion]; rfl
    · rfl

@[simp] theorem closeSession_pastRejection (i : Nat) : pastRejection (closeSession s i) = pastRejection s := by
  unfold closeSession
  split
  · rfl
  · dsimp only
    rw [foldl_keeps (P := pastRejection) fun a kv => ?ring,
      pastRejection_of_completion (foldl_keeps (P := pastCompletion) (by simp) _ _)]
    · rfl
    case ring =>
      split
      · rfl
      · exact pastRejection_of_ringWrite (closeRing_pastRingWrite _)

@[simp] theorem tagFail_pastRejection (i : Nat) (x : Session) : pastRejection (tagFail s i x) = pastRejection s := by
  unfold tagFail
  split
  · simp
  · rfl

/-- Starting a command touches the rings, the pointer and the grants alone. -/
theorem begins_pastRejection {r h : Nat} {R : Ring} (hb : begins s r = some (R, h, s1)) : pastRejection s1 = pastRejection s := by
  unfold begins at hb
  dsimp only at hb
  repeat' split at hb
  all_goals simp only [reduceCtorEq, Option.some.injEq, Prod.mk.injEq] at hb
  all_goals obtain ⟨-, -, rfl⟩ := hb
  all_goals simp

theorem step1_pastRejection {r h : Nat} {R : Ring} {e : Rej} (he : step1 r h R s = .error e) :
    pastRejection e.2.2 = pastRejection s := by
  unfold step1 at he
  repeat' split at he
  all_goals cases he
  all_goals simp

/-- Past the payload and the tag: either nothing is checked further (an internal ring, or a handshake), or the tag is right,
its failures are forgotten, and the SEQ is the expected one, which advances. -/
theorem step34_ok_cases {r h : Nat} {x : Option Session} {d : Dma} {pay : Bytes} (hok : step34 r h x d s = .ok (pay, s1)) :
    s1 = s ∧ (x = none ∨ isProve h = true) ∨
    ∃ y, x = some y ∧ isProve h = false ∧ s1 = { s with hcu := { s.hcu with
      sessions := Tbl.set s.hcu.sessions (sessIdx (hSession h)) { y with tagFails := 0 }
      seqs := Tbl.set s.hcu.seqs (seqKey (sessIdx (hSession h)) r) (seqExp s (sessIdx (hSession h)) r + 1) } } := by
  unfold step34 at hok
  split at hok
  · cases hok
  split at hok
  · cases hok; exact .inl ⟨rfl, .inl rfl⟩
  next y =>
    by_cases hprove : isProve h = true
    · simp only [hprove, if_true] at hok
      cases hok; exact .inl ⟨rfl, .inr hprove⟩
    dsimp only at hok
    rw [if_neg hprove] at hok
    repeat' split at hok
    all_goals cases hok
    exact .inr ⟨y, rfl, Bool.eq_false_iff.mpr hprove, rfl⟩

theorem step34_ok_pastRejection {r h : Nat} {x : Option Session} {d : Dma} {pay : Bytes}
    (hok : step34 r h x d s = .ok (pay, s1)) : pastRejection s1 = pastRejection s := by
  obtain ⟨rfl, -⟩ | ⟨y, -, -, rfl⟩ := step34_ok_cases hok
  · rfl
  · rfl

theorem step34_error_pastRejection {r h : Nat} {x : Option Session} {d : Dma} {e : Rej}
    (he : step34 r h x d s = .error e) : pastRejection e.2.2 = pastRejection s := by
  unfold step34 at he
  split at he
  · cases he; rfl
  split at he
  · cases he
  split at he
  · cases he
  dsimp only at he
  split at he
  · cases he; exact tagFail_pastRejection ..
  repeat' split at he
  all_goals cases he
  all_goals rfl

/-- A rejection names the step that turned the command away, and leaves the state of that step. -/
theorem check_error_state {privs : List Priv} {r h : Nat} {R : Ring} {d : Dma} {e : Rej} (he : check privs r R h d s = .error e) :
    pastRejection e.2.2 = pastRejection s := by
  rcases h1 : step1 r h R s with e1 | x
  · rw [check_of_step1_error h1] at he
    cases he
    exact step1_pastRejection h1
  rcases h2 : step2 r h s with e2 | _
  · rw [check_of_step2_error h1 h2] at he
    cases he
    rw [step2_error h2]
  rcases h34 : step34 r h x d s with e34 | ⟨pay, s2⟩
  · rw [check_of_step34_error h1 h2 h34] at he
    cases he
    exact step34_error_pastRejection h34
  rw [check_of_step34_ok h1 h2 h34] at he
  have hkept : pastRejection s2 = pastRejection s := step34_ok_pastRejection h34
  split at he
  · cases he; exact hkept
  split at he
  next e6 h6 => cases he; rw [step6_error h6]; exact hkept
  split at he
  · cases he; exact hkept
  split at he
  · cases he; exact hkept
  · cases he

end

/-- Settles O37: the start, the payload and every rejecting step keep what a rejection cannot touch. -/
theorem rejectionsHaveNoEffect : Obligations.RejectionsHaveNoEffect := by
  unfold Obligations.RejectionsHaveNoEffect
  intro privs r h R d s s0 t st det hb hc
  have hkept : pastRejection t = pastRejection s :=
    (check_error_state hc).trans ((stored_pastRejection ..).trans (begins_pastRejection hb))
  exact ⟨_, _, _, _, _, _, _, _, _, _, eq_rejectedAs hkept⟩

/-! ### A command that the checks pass (02 R34, R46; 11 R329) -/

section

variable {op r h : Nat} {privs : List Priv} {d : Dma} {s s0 s1 : State} {c : Cmd} {R : Ring}

/-- What a passed check tells: its first three steps passed, and the command is of the header's session. -/
theorem check_ok_cases (hc : check privs r R h d s = .ok (c, s1)) :
    ∃ x, step1 r h R s = .ok x ∧ step34 r h x d s = .ok (c.pay, s1) ∧ c.sess = if r < 256 then hSession h else 0xFFFF := by
  rcases h1 : step1 r h R s with e1 | x
  · rw [check_of_step1_error h1] at hc
    cases hc
  rcases h2 : step2 r h s with e2 | _
  · rw [check_of_step2_error h1 h2] at hc
    cases hc
  rcases h34 : step34 r h x d s with e34 | ⟨pay, s2⟩
  · rw [check_of_step34_error h1 h2 h34] at hc
    cases hc
  rw [check_of_step34_ok h1 h2 h34] at hc
  split at hc
  · cases hc
  split at hc
  · cases hc
  split at hc
  · cases hc
  split at hc
  · cases hc
  · cases hc
    exact ⟨x, rfl, h34, rfl⟩

/-- A taken command starts on its ring, and the checks pass it. -/
theorem taken_cases (ht : taken op privs r d s = some (c, s1)) :
    ∃ R h s0, begins s r = some (R, h, s0) ∧ hOpcode h = op ∧ check privs r R h d (stored r h d s0) = .ok (c, s1) := by
  unfold taken at ht
  split at ht
  · cases ht
  next R h s0 hb =>
    split at ht
    · cases ht
    next hop =>
      split at ht
      next y hy =>
        cases ht
        refine ⟨R, h, s0, hb, ?_, hy⟩
        simp only [Bool.or_eq_true, bne_iff_ne, not_or, not_not] at hop
        exact hop.2
      · cases ht

/-- A ring starts the command in its head slot, or the one that waits. -/
theorem begins_cases (hb : begins s r = some (R, h, s0)) :
    (∃ Q, Tbl.get s.hcu.rings r = some Q ∧ Q.waiting = none ∧ h = slotHeader s Q ∧ s0 = fetched s r Q h) ∨
    (∃ Q, Tbl.get s.hcu.rings r = some Q ∧ Q.waiting = some h ∧ s0 = released s r Q h) := by
  unfold begins at hb
  split at hb
  · cases hb
  next Q hQ =>
    split at hb
    next w hw =>
      split at hb
      · cases hb
      · cases hb; exact .inr ⟨Q, hQ, hw, rfl⟩
    next hw =>
      dsimp only at hb
      split at hb
      · cases hb
      · simp only [Option.some.injEq, Prod.mk.injEq] at hb
        obtain ⟨rfl, hh, hs0⟩ := hb
        exact .inl ⟨Q, hQ, hw, hh.symm, by rw [← hs0, hh]⟩

/-- A command without a session is of an internal ring, or a SESS_HELLO. -/
theorem step1_ok_none (h1 : step1 r h R s = .ok none) : 256 ≤ r ∨ isHello h = true := by
  unfold step1 at h1
  split at h1
  next hfree => simpa using hfree
  · repeat' split at h1
    all_goals cases h1

/-- What the payload touches of a state, but for the firmware memory: nothing. -/
theorem stored_fwMem (r h : Nat) (d : Dma) (s : State) :
    ∃ fw, stored r h d s = { s with hcu := { s.hcu with fwMem := fw } } := by
  unfold stored
  split
  · exact ⟨_, rfl⟩
  · split <;> exact ⟨_, rfl⟩

/-- What the checks that pass a command touch: the sessions and SEQ of the command unit. -/
theorem check_ok_state (hc : check privs r R h d s = .ok (c, s1)) :
    ∃ sessions seqs, s1 = { s with hcu := { s.hcu with sessions := sessions, seqs := seqs } } := by
  obtain ⟨x, -, h34, -⟩ := check_ok_cases hc
  obtain ⟨rfl, -⟩ | ⟨y, -, -, rfl⟩ := step34_ok_cases h34
  · exact ⟨_, _, rfl⟩
  · exact ⟨_, _, rfl⟩

/-- The start of a command touches its ring, the arbiter's pointer and the grants. -/
theorem begins_state (hb : begins s r = some (R, h, s0)) :
    ∃ Q ptr tk, s0 = { s with
      hcu := { s.hcu with rings := Tbl.set s.hcu.rings r Q }, tsu := { s.tsu with arbPtr := ptr, took := tk } } := by
  obtain ⟨Q, -, -, -, rfl⟩ | ⟨Q, -, -, rfl⟩ := begins_cases hb
  · exact ⟨_, _, _, rfl⟩
  · exact ⟨_, _, _, rfl⟩

/-- The rings of a taken command's state are those of its start. -/
theorem check_stored_rings (hc : check privs r R h d (stored r h d s0) = .ok (c, s1)) : s1.hcu.rings = s0.hcu.rings := by
  obtain ⟨sessions, seqs, rfl⟩ := check_ok_state hc
  obtain ⟨fw, hfw⟩ := stored_fwMem r h d s0
  rw [hfw]

/-- The expected SEQ of a command's session and ring is one more once the checks have passed it, unless it is of the handshake;
no other has moved. -/
theorem check_ok_seqExp (hc : check privs r R h d s = .ok (c, s1)) :
    (r < 256 → isHello h = false → isProve h = false → seqExp s1 (sessIdx c.sess) r = seqExp s (sessIdx c.sess) r + 1) ∧
    (∀ i k, seqKey i k ≠ seqKey (sessIdx c.sess) r → seqExp s1 i k = seqExp s i k) := by
  obtain ⟨x, h1, h34, hsess⟩ := check_ok_cases hc
  obtain ⟨rfl, hfree⟩ | ⟨y, rfl, -, rfl⟩ := step34_ok_cases h34
  · refine ⟨fun hr hhello hprove => ?_, fun i k _ => rfl⟩
    rcases hfree with rfl | hp
    · rcases step1_ok_none h1 with hr' | hh
      · omega
      · simp [hh] at hhello
    · simp [hp] at hprove
  · have hr : r < 256 := by
      by_contra hr
      simp [step1, Nat.not_lt.mp hr] at h1
    rw [if_pos hr] at hsess
    rw [hsess]
    exact ⟨fun _ _ _ => by simp [seqExp, Tbl.getD], fun i k hik => by simp [seqExp, Tbl.getD, Tbl.get_set_ne hik]⟩

/-- The expected SEQ is what `seqs` holds. -/
theorem seqExp_of_seqs (hs : s1.hcu.seqs = s.hcu.seqs) (i k : Nat) : seqExp s1 i k = seqExp s i k := by
  rw [seqExp, hs, seqExp]

/-- The start of a command and its payload move no SEQ. -/
theorem begins_stored_seqs (hb : begins s r = some (R, h, s0)) : (stored r h d s0).hcu.seqs = s.hcu.seqs := by
  obtain ⟨fw, hfw⟩ := stored_fwMem r h d s0
  obtain ⟨Q, ptr, tk, rfl⟩ := begins_state hb
  rw [hfw]

/-- With a right tag, a SEQ that is not the expected one is turned away, and DETAIL tells the expected one. -/
theorem step34_of_wrong_seq {x : Session} {pay : Bytes} (hpay : payload s r h d = some pay) (hprove : isProve h = false)
    (htag : tagOf x.key h pay = hTag h) (hmax : seqExp s (sessIdx (hSession h)) r ≤ 0xFFFFFFFE)
    (hseq : hSeq h ≠ seqExp s (sessIdx (hSession h)) r) :
    step34 r h (some x) d s = .error (St.sequence, seqExp s (sessIdx (hSession h)) r, { s with hcu := { s.hcu with
      sessions := Tbl.set s.hcu.sessions (sessIdx (hSession h)) { x with tagFails := 0 } } }) := by
  simp [step34, hpay, hprove, htag, Nat.not_lt.mpr hmax, hseq]

end

/-- Settles O38: the start of the command moves its ring and the pointer, the payload the firmware memory, and the checks the
session and its SEQ. -/
theorem takenCommandsAdvanceTheRing : Obligations.TakenCommandsAdvanceTheRing := by
  unfold Obligations.TakenCommandsAdvanceTheRing
  refine ⟨fun op r privs d s s1 c ht => ?_, ?_⟩
  · obtain ⟨R, h, s0, hb, hop, hc⟩ := taken_cases ht
    have hrings := check_stored_rings hc
    obtain ⟨hown, hothers⟩ := check_ok_seqExp hc
    have hseqs := seqExp_of_seqs (begins_stored_seqs (d := d) hb)
    refine ⟨?frame, ?started, ?released, ?others, ?own, ?seqs⟩
    case frame =>
      obtain ⟨sessions, seqs, rfl⟩ := check_ok_state hc
      obtain ⟨fw, hfw⟩ := stored_fwMem r h d s0
      obtain ⟨Q, ptr, tk, rfl⟩ := begins_state hb
      rw [hfw]
      exact ⟨_, _, _, _, _, _, rfl⟩
    case started =>
      intro Q hQ hw
      obtain ⟨Q', hQ', -, hh, rfl⟩ | ⟨Q', hQ', hw', -⟩ := begins_cases hb
      · cases hQ.symm.trans hQ'
        rw [hrings, ← hh]
        exact Tbl.get_set_same
      · cases hQ.symm.trans hQ'
        cases hw.symm.trans hw'
    case released =>
      intro Q w hQ hw
      obtain ⟨Q', hQ', hw', -⟩ | ⟨Q', hQ', hw', rfl⟩ := begins_cases hb
      · cases hQ.symm.trans hQ'
        cases hw.symm.trans hw'
      · cases hQ.symm.trans hQ'
        cases hw.symm.trans hw'
        rw [hrings]
        exact Tbl.get_set_same
    case others =>
      intro k hk
      obtain ⟨Q, ptr, tk, rfl⟩ := begins_state hb
      rw [hrings]
      exact Tbl.get_set_ne hk
    case own =>
      intro hr hhello hprove
      rw [hown hr (by simp [isHello, hop, hhello]) (by simp [isProve, hop, hprove]), hseqs]
    case seqs =>
      intro i k hik
      rw [hothers i k hik, hseqs]
  · intro r h x d s pay hpay hprove htag hmax hseq
    exact ⟨_, step34_of_wrong_seq hpay hprove htag hmax hseq, rfl⟩

end Sys2Proof.Machine

namespace Sys2Proof.Machine

/-! SUPPORT. Session and ring commands where they complete, and a session that closes over a table out of order (02 R42 to
R47, R53, R54). -/

/-! ### Session and ring commands where they complete (02 R43, R44, R47, R53, R54) -/

section

variable {c : Cmd} {s : State}

theorem tgtRsv_of_shift {n : Nat} (h : c.target >>> n = 0) : c.tgtRsv n = .ok () := need_of_true (by simp [h])

theorem sessHello_ok {i : Nat} {k : KeySlot} (hlen : c.payLen = 48) (hres : 32 ≤ c.resLen) (hslot : c.fld 7 0 ≤ 15)
    (hrsv : c.fld 127 8 = 0) (hfree : Tbl.freeFrom s.hcu.sessions 64 0 = some i) (hi : i < 64)
    (hkey : Tbl.get s.hcu.keySlots (c.fld 7 0) = some k) (hopen : slotLocked s k = false) :
    sessHello c s =
      let dev := leBytes 32 (Config.nonce s.draws).toNat
      let g := Tbl.getD s.hcu.sessGen i 0
      .ok ({ st := some St.ok, r0 := 64 * g + i, result := dev }, drawn { s with hcu := { s.hcu with
        sessions := Tbl.set s.hcu.sessions i
          ⟨g, false, c.fld 7 0, k.priv, k.tenant, sub c.pay 16 32, dev, c.ring, now s, [], 0⟩ } }) := by
  simp [sessHello, *]

theorem sessProve_ok {x : Session} {k : KeySlot} (hlen : c.payLen = 32) (hres : 32 ≤ c.resLen)
    (hsess : findSess s c.sess = some x) (hkey : Tbl.get s.hcu.keySlots x.slot = some k) :
    sessProve c s =
      if hmac256 k.key (shakeMsg "TF768A-HPRF" c.sess x.slot x.hostNonce x.devNonce) = c.pay then
        .ok (okRes (hmac256 k.key (shakeMsg "TF768A-DPRF" c.sess x.slot x.hostNonce x.devNonce)),
          { s with hcu := { s.hcu with
            sessions := Tbl.set s.hcu.sessions (c.sess % 64)
              { x with isOpen := true, key := hmac256 k.key (shakeMsg "TF768A-SKEY" c.sess x.slot x.hostNonce x.devNonce) }
            keySlots := Tbl.upd s.hcu.keySlots x.slot fun k => { k with fails := 0 } } })
      else .ok ({ st := some St.authFail }, proofFails s x (c.sess % 64)) := by
  simp [sessProve, sessIdx, *]

theorem sessClose_ok {x : Session} (hlen : c.payLen = 0) (htgt : c.target >>> 16 = 0)
    (hwho : c.target % 65536 = c.sess ∨ c.isOp = true) (hsess : findSess s (c.target % 65536) = some x) :
    sessClose c s = .ok (okAns, closeSession s (c.target % 65536 % 64)) := by
  simp [sessClose, sessIdx, tgtRsv_of_shift, *]

theorem ringCreate_ok {b n : Nat} (hlen : c.payLen = 32) (hsq : 16 ≤ c.fld 47 32) (hsq' : c.fld 47 32 ≤ 4096)
    (hcq : 16 ≤ c.fld 63 48) (hcq' : c.fld 63 48 ≤ 4096) (hcount : 1 ≤ c.fld 79 64) (hcount' : c.fld 79 64 ≤ 256)
    (hsqPow : isPow2 (c.fld 47 32) = true) (hcqPow : isPow2 (c.fld 63 48) = true) (htime : c.fld 95 80 ≤ 1000)
    (hvec : portMode s c.port = 2 → c.fld 111 96 ≤ 511) (hnote : portMode s c.port = 1 → c.fld 191 128 % 4 = 0)
    (hbase : c.fld 255 192 % 4096 = 0) (hrsv : c.fld 31 0 = 0) (hrsv' : c.fld 127 112 = 0)
    (hregion : freeRegion s (c.fld 47 32) = some b) (hnum : Tbl.freeFrom s.hcu.rings 252 4 = some n) (hn : n < 256) :
    ringCreate c s = .ok (okR0 (n ||| (64 * b) <<< 32), addRing s n (newRing c.sess c.port b (c.fld 47 32) (c.fld 63 48)
      (c.fld 255 192) (c.fld 191 128) (c.fld 111 96) (c.fld 95 80) (c.fld 79 64) false)) := by
  have hvec' : ¬ portMode s c.port = 2 ∨ c.fld 111 96 ≤ 511 := imp_iff_not_or.mp hvec
  have hnote' : ¬ portMode s c.port = 1 ∨ c.fld 191 128 % 4 = 0 := imp_iff_not_or.mp hnote
  simp [ringCreate, ringFields, needAll, *]

theorem ringDestroy_ok {R : Ring} (hlen : c.payLen = 0) (htgt : c.target >>> 16 = 0) (hlo : 4 ≤ c.target % 65536)
    (hhi : c.target % 65536 ≤ 255) (hR : Tbl.get s.hcu.rings (c.target % 65536) = some R) (hwork : R.work = false)
    (hwho : R.owner = c.sess ∨ c.isOp = true) :
    ringDestroy c s = .ok (okAns, destroyRing s (c.target % 65536)) := by
  simp [ringDestroy, tgtRsv_of_shift, *]

end

/-- Settles O1: each meaning's checks pass under the clause's conditions, and its effect is answered. -/
theorem sessionCommands : Obligations.SessionCommands := by
  unfold Obligations.SessionCommands
  refine ⟨?hello, ?prove, ?close, ?create, ?destroy, ?nop⟩
  case hello =>
    intro r d s s1 c i k ht hlen hres hslot hrsv hfree hi hkey hopen
    rw [exec_sessHello, execSessHello, hostCmd_ok ht (sessHello_ok hlen hres hslot hrsv hfree hi hkey hopen)]
    rfl
  case prove =>
    intro r d s s1 c x k ht hlen hres hsess hkey
    have hrow := sessProve_ok hlen hres hsess hkey
    rw [exec_sessProve, execSessProve]
    split at hrow
    next hproof => rw [if_pos hproof, hostCmd_ok ht hrow]
    next hproof => rw [if_neg hproof, hostCmd_ok ht hrow]
  case close =>
    intro r d s s1 c x ht hlen htgt hwho hsess
    rw [exec_sessClose, execSessClose, hostCmd_ok ht (sessClose_ok hlen htgt hwho hsess)]
  case create =>
    intro r d s s1 c b n ht hlen hsq hsq' hcq hcq' hcount hcount' hsqPow hcqPow htime hvec hnote hbase hrsv hrsv' hregion hnum hn
    rw [exec_ringCreate, execRingCreate, hostCmd_ok ht (ringCreate_ok hlen hsq hsq' hcq hcq' hcount hcount' hsqPow hcqPow htime
      hvec hnote hbase hrsv hrsv' hregion hnum hn)]
    rfl
  case destroy =>
    intro r d s s1 c R ht hlen htgt hlo hhi hR hwork hwho
    rw [exec_ringDestroy, execRingDestroy, hostCmd_ok ht (ringDestroy_ok hlen htgt hlo hhi hR hwork hwho)]
  case nop =>
    intro r d s s1 c ht
    rw [exec_nop, execNop, hostCmd_ok ht rfl]

/-! ### A session closed over a table out of order -/

/-- A session that owns ring 4 of `shuffled`. -/
def owner0 : Session := ⟨0, true, 0, .operator, 0, [], [], 0, 0, [], 0⟩

/-- Ring 4 of `shuffled`, idle. -/
def idleRing : Ring := newRing 0 0 256 16 16 0 0 0 0 1 false

/-- Two rings in a table whose keys fall: no key repeats, but the keys are not in rising order, so that a write of ring 4 puts a
second entry before the first, and removing ring 4 leaves the old entry. -/
def shuffled : State := { State.reset with hcu := { State.reset.hcu with
  sessions := [(0, owner0)], rings := [(5, { idleRing with owner := 1 }), (4, idleRing)] } }

theorem closeSession_shuffled : Tbl.get (closeSession shuffled 0).hcu.rings 4 = some idleRing := by rfl

/-- Refutes O39: its premise is that no ring number repeats, not that they rise, as those of a `Tbl` do. Over the rings of
`shuffled` ring 4 of the closed session still fetches. -/
theorem not_sessionClose : ¬ Obligations.SessionClose := by
  unfold Obligations.SessionClose
  intro ⟨hclose, _⟩
  obtain ⟨-, -, -, hrings, -⟩ := hclose shuffled 0 owner0 rfl
  obtain ⟨-, hstops⟩ := hrings (by decide) 4 idleRing rfl
  exact absurd (hstops rfl (by decide) (by decide) idleRing closeSession_shuffled) (by decide)

end Sys2Proof.Machine

namespace Sys2Proof

theorem Tbl.mem_of_get {α : Type} {t : Tbl α} {n : Nat} {v : α} (h : Tbl.get t n = some v) : (n, v) ∈ t := by
  induction t with
  | nil => cases h
  | cons p t ih =>
    obtain ⟨k, w⟩ := p
    simp only [Tbl.get] at h
    split at h
    next hk => cases h; simp [hk]
    · exact List.mem_cons_of_mem _ (ih h)

end Sys2Proof

namespace Sys2Proof.Machine

/-! SUPPORT. Arbiters, doorbells, registers and pins (02 R33 to R37; 11 R329 to R336; 15 R406 to R421; 16 R433, R437). -/

/-! ### The arbiters in front of the rings (02 R34; 11 R329) -/

section

variable {s : State} {r a b : Nat} {R A B : Ring}

theorem granted_standing (hg : granted s r R = true) : standing s r R = true ∧ Tbl.has s.tsu.frozen (ringArb r R) = false := by
  simp only [granted, Bool.and_eq_true, Bool.not_eq_true'] at hg
  exact hg.1

/-- No standing ring of its arbiter is nearer the pointer than a granted ring. -/
theorem granted_arbRank_le (hb : Tbl.get s.hcu.rings b = some B) (ha : granted s a A = true) (hgb : granted s b B = true)
    (harb : ringArb a A = ringArb b B) (hkind : b < 256 ↔ a < 256) : arbRank s a A ≤ arbRank s b B := by
  simp only [granted, Bool.and_eq_true] at ha
  have hleast := List.all_eq_true.mp ha.2 (b, B) (Tbl.mem_of_get hb)
  simpa [harb, hkind, (granted_standing hgb).1] using hleast

/-- Of the rings of one arbiter that count modulo `n`, the distance behind a pointer tells them apart. -/
theorem eq_of_arbRank_eq {n p i j : Nat} (hi : i < n) (hj : j < n) (hp : p < n) (h : (i + n - p) % n = (j + n - p) % n) :
    i = j := by
  have dist : ∀ k < n, (k + n - p) % n = if p ≤ k then k - p else k + n - p := fun k hk => by
    split
    · rw [show k + n - p = k - p + n by omega, Nat.add_mod_right, Nat.mod_eq_of_lt (by omega)]
    · exact Nat.mod_eq_of_lt (by omega)
  rw [dist i hi, dist j hj] at h
  split at h <;> split at h <;> omega

end

/-- Settles O48: of two granted rings neither is nearer the pointer, so both are as far behind it, and are one ring. -/
theorem oneRingIsGranted : Obligations.OneRingIsGranted := by
  unfold Obligations.OneRingIsGranted
  refine ⟨fun s r R => granted_standing, fun s a b A B hA hB ha hb harb hkind hptr => ?_, fun s r h R => Tbl.get_set_same⟩
  have hrank : arbRank s a A = arbRank s b B :=
    Nat.le_antisymm (granted_arbRank_le hB ha hb harb (by omega)) (granted_arbRank_le hA hb ha harb.symm (by omega))
  simp only [arbRank, ← harb] at hrank
  rcases hkind with ⟨ha', hb'⟩ | ⟨ha', hb', ha'', hb''⟩
  · rw [if_pos ha'] at hptr
    rw [if_pos ha', if_pos hb', Nat.mod_eq_of_lt ha', Nat.mod_eq_of_lt hb'] at hrank
    exact eq_of_arbRank_eq ha' hb' hptr hrank
  · rw [if_neg (by omega)] at hptr
    rw [if_neg (by omega), if_neg (by omega)] at hrank
    have := eq_of_arbRank_eq (by omega) (by omega) hptr hrank
    omega

/-! ### Events and flags leave the command unit (11 R334; 15 R411) -/

section

variable {s : State}

@[simp] theorem evIrq_hcu (i : Nat) (q : EvQueue) : (evIrq s i q).hcu = s.hcu := by
  unfold evIrq
  dsimp only
  split
  · simp
  · split <;> simp

@[simp] theorem evInto_hcu (e : Event) (i : Nat) : (evInto e s i).hcu = s.hcu := by
  unfold evInto
  split
  · rfl
  · dsimp only
    repeat' split
    all_goals simp

@[simp] theorem flagIrq_hcu (p : Nat) : (flagIrq s p).hcu = s.hcu := by
  unfold flagIrq
  dsimp only
  split
  · simp
  · split <;> simp

@[simp] theorem setFlagOn_hcu (k p : Nat) : (setFlagOn k s p).hcu = s.hcu := by
  unfold setFlagOn
  dsimp only
  split <;> simp

@[simp] theorem setFlag_hcu (k : Nat) : (setFlag s k).hcu = s.hcu :=
  (foldl_keeps (P := (·.hcu)) (by simp) _ _).trans rfl

@[simp] theorem setSrcFlag_hcu (src : Src) (k : Nat) : (setSrcFlag s src k).hcu = s.hcu := by
  unfold setSrcFlag
  split
  · exact (setFlagOn_hcu ..).trans rfl
  · rfl

@[simp] theorem post_hcu (unit kind cause sev st object arg : Nat) : (post s unit kind cause sev st object arg).hcu = s.hcu := by
  unfold post
  dsimp only
  split <;> simp

@[simp] theorem ringRefused_hcu (src : Src) (r : Nat) (R : Ring) (v : Nat) : (ringRefused s src r R v).hcu = s.hcu := by
  simp [ringRefused, doorbellErr]

end

/-! ### Doorbells (02 R33, R36) -/

section

variable {s : State} {src : Src} {r v : Nat} {R : Ring} (hopen : regOpen s src = true) (hR : doorbellRing s src r = some R)
  (hv : v < 2 ^ 32)

include hopen hv in
theorem exec_sqTailWrite_open : exec (.sqTailWrite src r v) s = .next (commit s (tailWrite s src r v)) := by
  rw [exec_sqTailWrite, execSqTailWrite, if_pos hopen, Nat.mod_eq_of_lt hv]

include hopen hv in
theorem exec_cqHeadWrite_open : exec (.cqHeadWrite src r v) s = .next (commit s (headWrite s src r v)) := by
  rw [exec_cqHeadWrite, execCqHeadWrite, if_pos hopen, Nat.mod_eq_of_lt hv]

include hR in
theorem tailWrite_of_ring :
    tailWrite s src r v = if R.sqEntries ≤ v then ringRefused s src r R v else setRing s r { R with tail := v } := by
  simp only [tailWrite, hR]

include hR in
theorem headWrite_of_ring :
    headWrite s src r v = if R.cqEntries ≤ v ∨ headPast R v = true then ringRefused s src r R v
      else flushHeld r R.held.length (setRing s r { R with cqHead := v }) := by
  simp only [headWrite, hR, Bool.or_eq_true, decide_eq_true_eq]

include hopen hR hv in
/-- A head in range, not past what has been written, lets the stored completions go. -/
theorem exec_cqHeadWrite_flushes (hlt : v < R.cqEntries) (hpast : headPast R v = false) :
    exec (.cqHeadWrite src r v) s = .next (commit s (flushHeld r R.held.length (setRing s r { R with cqHead := v }))) := by
  rw [exec_cqHeadWrite_open hopen hv, headWrite_of_ring hR, if_neg (by simp [hpast, hlt])]

end

/-- Settles O41: the three values are those that `tailWrite` and `headWrite` refuse. -/
theorem doorbellsOutOfRange : Obligations.DoorbellsOutOfRange := by
  unfold Obligations.DoorbellsOutOfRange
  intro s src r v R hopen hR hv
  refine ⟨fun htail => ?_, fun hhead => ?_, fun hpast => ?_, ringRefused_hcu ..⟩
  · rw [exec_sqTailWrite_open hopen hv, tailWrite_of_ring hR, if_pos htail]
    rfl
  · rw [exec_cqHeadWrite_open hopen hv, headWrite_of_ring hR, if_pos (.inl hhead)]
    rfl
  · rw [exec_cqHeadWrite_open hopen hv, headWrite_of_ring hR, if_pos (.inr (decide_eq_true hpast))]
    rfl

/-- Settles O40: a full ring does not stand, and its completions wait in `held`, which `flushHeld` empties from the front. -/
theorem completionRingFull : Obligations.CompletionRingFull := by
  unfold Obligations.CompletionRingFull
  refine ⟨fun R => ?_, fun s r R hfull => ?_, fun s c R hR hfull => ?_, fun s c R hR hroom hnone => ?_,
    fun s r n c rest R hR hheld hroom => ?_, fun s src r v R hopen hR hlt hpast hv => ?_⟩
  · rw [cqFull, beq_iff_eq]
  · simp [granted, standing, hfull]
  · simp only [deliverCpl, hR, hfull, Bool.true_or, if_true]
  · simp [deliverCpl, hR, hroom, hnone]
  · simp [flushHeld, hR, hheld, hroom]
  · exact exec_cqHeadWrite_flushes hopen hR hv hlt hpast

/-! ### Registers, interrupts and pins (02 R37, R47; 11 R336; 15 R406 to R421; 16 R433, R437) -/

section

variable {s : State} {src : Src}

theorem halfRead_lower {off : Nat} (h0 : off % 8 = 0) (hout : off < 0x7000 ∨ 0x7400 ≤ off) :
    halfRead s src off = emit { s with reg := { s.reg with
      half := Tbl.set s.reg.half (srcKey src) (off, regValue s src off / 2 ^ 32) } }
      (.readAns src true (leBytes 4 (regValue s src off))) := by
  have hbase : off / 8 * 8 = off := by omega
  have hwindow : ¬ (28672 ≤ off ∧ off < 29696) := by omega
  simp [halfRead, h0, hbase, hwindow]

theorem halfRead_upper {off h : Nat} (h4 : off % 8 = 4) (hhalf : Tbl.get s.reg.half (srcKey src) = some (off / 8 * 8, h)) :
    halfRead s src off =
      emit { s with reg := { s.reg with half := Tbl.del s.reg.half (srcKey src) } } (.readAns src true (leBytes 4 h)) := by
  simp [halfRead, h4, hhalf]

/-- An admin ring takes its register's fields where they are in range. -/
theorem adminWrite_ok {p v : Nat} (hvec : bits v 63 48 ≤ 511) (htime : bits v 47 32 ≤ 1000) (hlo : 1 ≤ bits v 31 16)
    (hhi : bits v 31 16 ≤ 64) (hbase : bit v 0 = true → (adminReg s p).base % 4096 = 0) :
    adminWrite s src p v = adminRingFollows (setAdmin s p { adminReg s p with
      vec := bits v 63 48, irqTime := bits v 47 32, irqCount := bits v 31 16, enable := bit v 0 }) p := by
  have henable : (!bit v 0 || (adminReg s p).enable || (adminReg s p).base % 4096 == 0) = true := by
    cases hbit : bit v 0
    · rfl
    · simp [hbase hbit]
  simp [adminWrite, *]

theorem adminRegWrite_control (s : State) (p v : Nat) : adminRegWrite s (.pcie p) p 0x10 v = adminWrite s (.pcie p) p v := by
  simp [adminRegWrite, isPort]

theorem popWrite_takes {k v : Nat} (hk : k < 8) (hsrc : src = .core → k = 0) (hserved : evServed (evqOf s k) k src = true)
    (hhead : (headSeqs (evqOf s k)).contains v = true) :
    popWrite s k src v = setEvq s k { evqOf s k with
      entries := (evqOf s k).entries.filter (fun e => e.seq != v), shown := (evqOf s k).shown.filter (· != v) } := by
  simp only [popWrite, hserved, hhead]
  cases src with
  | pcie p => simp [Nat.not_le.mpr hk]
  | core => simp [hsrc rfl]

theorem bulletinWrite_moves {p r v : Nat} {b : Bulletin} (hb : Tbl.get s.att.bulletins r = some b) (hp : b.port = p)
    (hv : v < b.slots) (hroom : (v + b.slots - b.head) % b.slots ≤ (b.tail + b.slots - b.head) % b.slots) :
    bulletinWrite s (.pcie p) r v = flushBulletins r b.waiting.length
      { s with att := { s.att with bulletins := Tbl.set s.att.bulletins r { b with head := v } } } := by
  simp [bulletinWrite, hb, hp, Nat.not_le.mpr hv, Nat.not_lt.mpr hroom]

theorem execRegisterWrite_open {off len v : Nat} (hopen : regOpen s src = true) (hstage : s.sbu.stage ≠ 0xF0)
    (hlen : len = 4 ∨ len = 8) :
    execRegisterWrite src off len v s =
      .next (commit s (if off % len = 0 then regWrite s src off len v else regErr s src)) := by
  have hsize : (len != 4 && len != 8) = false := by rcases hlen with rfl | rfl <;> rfl
  by_cases hal : off % len = 0 <;> simp [execRegisterWrite, hopen, hstage, hsize, hal]

end

/-- Settles O28: each register, pin and timer acts under the condition of its clause. -/
theorem registerRules : Obligations.RegisterRules := by
  unfold Obligations.RegisterRules
  refine ⟨?window, ?lower, ?upper, ?tail, ?tailRefused, ?head, ?irq, ?enable, ?disable, ?flags, ?gap, ?pop, ?bulletin,
    ?capacity, ?write, ?region, ?i3c, ?perst⟩
  case window =>
    intro s src q hopen hq s1
    simp [exec_headWindowRead, execHeadWindowRead, hopen, Nat.not_le.mpr hq, s1]
  case lower =>
    intro s src off hopen h0 hout v half
    have hal : off % 4 = 0 := by omega
    simp [exec_halfReadLatch, execHalfReadLatch, hopen, hal, halfRead_lower h0 hout, v, half]
  case upper =>
    intro s src off h hopen h4 hhalf
    have hal : off % 4 = 0 := by omega
    simp [exec_halfReadLatch, execHalfReadLatch, hopen, hal, halfRead_upper h4 hhalf]
  case tail =>
    intro s src r v R hopen hR hlt hv
    rw [exec_sqTailWrite_open hopen hv, tailWrite_of_ring hR, if_neg (Nat.not_le.mpr hlt)]
  case tailRefused =>
    intro s src r v R hopen hR hge hv
    rw [exec_sqTailWrite_open hopen hv, tailWrite_of_ring hR, if_pos hge]
    rfl
  case head =>
    intro s src r v R hopen hR hlt hpast hv
    exact exec_cqHeadWrite_flushes hopen hR hv hlt hpast
  case irq =>
    intro s r R hR hpend htime hdue
    simp [exec_irqTimer, execIrqTimer, hR, hpend, htime, Nat.not_lt.mpr hdue]
  case enable =>
    intro s p v hopen hp hv hbit hbase hvec htime hlo hhi
    rw [exec_adminRingEnable, execAdminRingEnable, if_pos (by simp [hopen, hp, hbit]), Nat.mod_eq_of_lt hv,
      adminRegWrite_control, adminWrite_ok hvec htime hlo hhi fun _ => hbase, hbit]
  case disable =>
    intro s p v hopen hp hv hbit hvec htime hlo hhi
    rw [exec_adminRingDisable, execAdminRingDisable, if_pos (by simp [hopen, hp, hbit]), Nat.mod_eq_of_lt hv,
      adminRegWrite_control, adminWrite_ok hvec htime hlo hhi (by simp [hbit]), hbit]
  case flags =>
    intro s p v hopen old
    simp [exec_flagClear, execFlagClear, hopen, clearFlags, old]
  case gap =>
    intro s p hp hdue
    simp [exec_flagIrqGap, execFlagIrqGap, hp, hdue]
  case pop =>
    intro s src k v q hopen hk hsrc hv hserved hhead
    rw [exec_pop, execPop, if_pos hopen, Nat.mod_eq_of_lt hv, popWrite_takes hk hsrc hserved hhead]
  case bulletin =>
    intro s p r v b hopen hb hp hlt hv hroom
    rw [exec_bulletinHeadWrite, execBulletinHeadWrite, if_pos hopen, Nat.mod_eq_of_lt hv, bulletinWrite_moves hb hp hlt hroom]
  case capacity =>
    intro s v hopen hv
    simp only [exec_capacityWrite, execCapacityWrite, hopen, Nat.mod_eq_of_lt hv]
    exact ⟨rfl, rfl, rfl⟩
  case write =>
    intro s src off len v hopen hstage hlen
    rw [exec_registerWrite, execRegisterWrite_open hopen hstage hlen]
    exact ⟨fun hal => by rw [if_pos hal], fun hmis => by rw [if_neg hmis]⟩
  case region =>
    intro s p off bs hopen hend hmeets
    simp [exec_ringRegionWrite, execRingRegionWrite, hopen, hend, hmeets]
  case i3c =>
    intro s hisland
    simp [exec_i3cStatusRead, execI3cStatusRead, hisland]
  case perst =>
    intro s p hp hmode s1
    simp [exec_perstAssert, execPerstAssert, Nat.not_le.mpr hp, hmode, s1]

end Sys2Proof.Machine

namespace Sys2Proof.Machine

/-! SUPPORT. Bytes of memory, settings that leave what serves, and commands that all go on (02 R31, R52; 06 R140 to R147). -/

/-! ### Bytes of a memory -/

section

variable {m : List Host.Cell} {a c : Nat} {b : Byte}

/-- An address below all of a memory's is not listed. -/
theorem get_of_aboveAll (h : aboveAll a m) : Tbl.get m a = none := by
  rcases hg : Tbl.get m a with _ | v
  · rfl
  · exact absurd (h _ (Tbl.mem_of_get hg)) (lt_irrefl a)

theorem get_del_same_of_memWf (h : memWf m = true) : Tbl.get (Tbl.del m a) a = none := by
  induction m with
  | nil => rfl
  | cons p t ih =>
    obtain ⟨k, w⟩ := p
    obtain ⟨-, habove, htail⟩ := memWf_cons.mp h
    simp only [Tbl.del]
    split
    next hk => subst hk; exact get_of_aboveAll habove
    next hk => simpa [Tbl.get, hk] using ih htail

/-- A written byte reads back, and every other address reads as before. -/
theorem memRead_memWrite (h : memWf m = true) : memRead (memWrite m a b) c = if c = a then b else memRead m c := by
  unfold memRead memWrite Tbl.getD
  split
  next hb =>
    split
    next hc => subst hc; rw [get_del_same_of_memWf h, hb]; rfl
    next hc => rw [Tbl.get_del_ne hc]
  · rw [Tbl.get_set]
    split <;> rfl

/-- Bytes written from an address up read back from there, and every other address reads as before. -/
theorem memRead_memWriteN {bs : Bytes} (h : memWf m = true) :
    memRead (memWriteN m a bs) c = if a ≤ c ∧ c < a + bs.length then bs.getD (c - a) 0 else memRead m c := by
  induction bs generalizing m a with
  | nil => rw [if_neg (by simp)]; rfl
  | cons b bs ih =>
    rw [memWriteN, ih (memWrite_memWf h), memRead_memWrite h, List.length_cons]
    rcases lt_trichotomy c a with hlt | rfl | hgt
    · rw [if_neg (by omega), if_neg (by omega), if_neg (by omega)]
    · rw [if_neg (by omega), if_pos rfl, if_pos (by omega), Nat.sub_self]
      rfl
    · rw [show c - a = c - (a + 1) + 1 by omega, List.getD_cons_succ]
      by_cases hin : c < a + (bs.length + 1)
      · rw [if_pos (by omega), if_pos (by omega)]
      · rw [if_neg (by omega), if_neg (by omega), if_neg (by omega)]

end

/-! ### Bytes of HBM granules (06 R140 to R147) -/

section

variable {s : State} {a c : Nat} {b : Byte}

theorem poke_of_not_hbm (h : (tmap s (a / 4096)).place ≠ .hbm) : poke s a b = s := if_neg h

@[simp] theorem poke_tmap (g : Nat) : tmap (poke s a b) g = tmap s g := by
  unfold poke
  dsimp only
  split <;> rfl

@[simp] theorem poke_flash : (poke s a b).tfm.flash = s.tfm.flash := by
  unfold poke
  dsimp only
  split <;> rfl

theorem poke_hbm (h : (tmap s (a / 4096)).place = .hbm) :
    (poke s a b).tfm.hbm = memWrite s.tfm.hbm (cellOf (tmap s (a / 4096)) (a % 4096)) b := by
  unfold poke
  dsimp only
  rw [if_pos h]

theorem peek_of_hbm (h : (tmap s (a / 4096)).place = .hbm) :
    peek s a = memRead s.tfm.hbm (cellOf (tmap s (a / 4096)) (a % 4096)) := by
  simp only [peek, h]

/-- Different addresses of HBM granules are different cells, where no two granules have the same frame. -/
theorem cellOf_ne (hne : c ≠ a) (hframes : ∀ g k, g ≠ k → (tmap s g).place = .hbm → (tmap s k).place = .hbm →
    (tmap s g).loc ≠ (tmap s k).loc) (hc : (tmap s (c / 4096)).place = .hbm) (ha : (tmap s (a / 4096)).place = .hbm) :
    cellOf (tmap s (c / 4096)) (c % 4096) ≠ cellOf (tmap s (a / 4096)) (a % 4096) := by
  unfold cellOf
  by_cases hg : c / 4096 = a / 4096
  · rw [hg]; omega
  · have := hframes _ _ hg hc ha
    omega

theorem peek_poke_same (hwf : memWf s.tfm.hbm = true) (h : (tmap s (a / 4096)).place = .hbm) : peek (poke s a b) a = b := by
  rw [peek_of_hbm (by rw [poke_tmap]; exact h), poke_hbm h, poke_tmap, memRead_memWrite hwf, if_pos rfl]

theorem peek_poke_other (hwf : memWf s.tfm.hbm = true) (hne : c ≠ a)
    (hframes : ∀ g k, g ≠ k → (tmap s g).place = .hbm → (tmap s k).place = .hbm → (tmap s g).loc ≠ (tmap s k).loc) :
    peek (poke s a b) c = peek s c := by
  by_cases ha : (tmap s (a / 4096)).place = .hbm
  · by_cases hc : (tmap s (c / 4096)).place = .hbm
    · rw [peek_of_hbm (by rw [poke_tmap]; exact hc), poke_hbm ha, poke_tmap, memRead_memWrite hwf,
        if_neg (cellOf_ne hne hframes hc ha), peek_of_hbm hc]
    · unfold peek
      dsimp only
      rw [poke_tmap, poke_flash]
      split
      next hplace => exact absurd hplace hc
      · rfl
      · rfl
  · rw [poke_of_not_hbm ha]

end

/-! ### Bytes of the ring region (02 R31) -/

section

variable {s s1 : State}

theorem alone_of_mirror {t : State} (hmru : t.mru = s.mru) (hmir : t.mir = s.mir) : alone t = alone s := by
  simp only [alone, streaming, mirroring, hmru, hmir]

@[simp] theorem voidFalls_hcu : (voidFalls s s1).hcu = s1.hcu := by
  have h := congrArg State.hcu (voidFalls_pastGrants (s0 := s) (s1 := s1))
  exact h

@[simp] theorem voidFalls_mru : (voidFalls s s1).mru = s1.mru := by
  have h := congrArg State.mru (voidFalls_pastGrants (s0 := s) (s1 := s1))
  exact h

@[simp] theorem voidFalls_mir : (voidFalls s s1).mir = s1.mir := by
  have h := congrArg State.mir (voidFalls_pastGrants (s0 := s) (s1 := s1))
  exact h

/-- Without a partner the end of a step touches nothing of the command unit. -/
theorem commit_hcu_of_alone (hclock : clocked s = true) (ha : alone s1 = true) : (commit s s1).hcu = s1.hcu := by
  have hvoid : alone (voidFalls s s1) = true := (alone_of_mirror voidFalls_mru voidFalls_mir).trans ha
  simp only [alone, Bool.and_eq_true, Bool.not_eq_true', List.isEmpty_iff] at hvoid
  obtain ⟨hquiet, hnone⟩ := hvoid
  rw [commit, if_pos hclock, settle, if_neg (by simp [hquiet]), releaseHeld, hnone]
  exact voidFalls_hcu

/-- A port's write of the ring region: its bytes land, or nothing happens. -/
theorem exec_ringRegionWrite_port (p off : Nat) (bs : Bytes) :
    ∃ u, exec (.ringRegionWrite (.pcie p) off bs) s = .next (commit s u) ∧ u.mru = s.mru ∧ u.mir = s.mir ∧
      (u.hcu.ringMem = memWriteN s.hcu.ringMem off bs ∨ u.hcu.ringMem = s.hcu.ringMem) := by
  rw [exec_ringRegionWrite, execRingRegionWrite]
  dsimp only
  split
  · exact ⟨_, rfl, rfl, rfl, .inl rfl⟩
  · exact ⟨s, by simp, rfl, rfl, .inr rfl⟩

theorem ringRegionWrite_ringMem {t : State} {p off : Nat} {bs : Bytes}
    (hstep : exec (.ringRegionWrite (.pcie p) off bs) s = .next t) (ha : alone s = true) :
    t.hcu.ringMem = memWriteN s.hcu.ringMem off bs ∨ t.hcu.ringMem = s.hcu.ringMem := by
  obtain ⟨u, hexec, hmru, hmir, hmem⟩ := exec_ringRegionWrite_port (s := s) p off bs
  cases hexec.symm.trans hstep
  by_cases hclock : clocked s = true
  · rw [commit_hcu_of_alone hclock ((alone_of_mirror hmru hmir).trans ha)]
    exact hmem
  · rw [commit, if_neg hclock]
    exact .inr rfl

end

/-- Settles O52: cells of different addresses differ, and a write changes the cells of its bytes alone. -/
theorem bytesOfMemory : Obligations.BytesOfMemory := by
  unfold Obligations.BytesOfMemory
  refine ⟨fun s a b => peek_poke_same, fun s a c b => peek_poke_other, fun s a b => poke_of_not_hbm,
    fun s t p off a bs hstep ha hwf => ?_, fun m off a bs => memRead_memWriteN⟩
  obtain hm | hm := ringRegionWrite_ringMem hstep ha
  · rw [hm]
    exact ⟨fun hout => by rw [memRead_memWriteN hwf, if_neg (by omega)], memWriteN_memWf hwf⟩
  · rw [hm]
    exact ⟨fun _ => rfl, hwf⟩

/-! ### Settings leave what serves (02 R43 to R54; 11 R312 to R337; 13 R367, R379) -/

section

variable {α β : Type} {s s2 : State}

/-- A meaning's outcome keeps a view of the state, where it completes. -/
def Keeps (f : State → α) (s : State) (m : Except Ans (Ans × State)) : Prop := ∀ a s2, m = .ok (a, s2) → f s2 = f s

theorem keeps_ok {f : State → α} {a : Ans} (h : f s2 = f s) : Keeps f s (.ok (a, s2)) := by
  intro a' t ht
  cases ht
  exact h

theorem keeps_error {f : State → α} (a : Ans) : Keeps f s (.error a) := fun _ _ ht => by cases ht

theorem keeps_bind {f : State → α} {x : Except Ans β} {k : β → Except Ans (Ans × State)} (h : ∀ u, Keeps f s (k u)) :
    Keeps f s (x >>= k) := by
  cases x with
  | error a => exact keeps_error a
  | ok u => exact h u

/-- The units that serve: requests, caravans, pages, granules and their journal, codec tables, arrays, and the device time. -/
def servingUnits (s : State) : Rte × Cve × Ppm × Tfm × Jnl × Cdu × Cax × Clk :=
  (s.rte, s.cve, s.ppm, s.tfm, s.jnl, s.cdu, s.cax, s.clk)

theorem servingUnits_of_pastCommand {a b : State} (h : pastCommand a = pastCommand b) : servingUnits a = servingUnits b := by
  have e : ∀ s, servingUnits s = servingUnits (pastCommand s) := fun _ => rfl
  rw [e a, e b, h]

/-- A host command whose meaning keeps the serving units keeps them, and so does its step. -/
theorem servingUnits_of_hostCmd {t : State} {op : Nat} {privs : List Priv} {r : Nat} {d : Dma} {body : Meaning}
    (hbody : ∀ u c, Keeps servingUnits u (body c u))
    (hexec : Host.Outcome.next (φ := Fault) (ρ := Refusal) (commit s (hostCmd op privs r d body s)) = .next t) :
    servingUnits t = servingUnits s := by
  cases hexec
  exact commit_keeps (fun _ _ => servingUnits_of_pastCommand)
    (hostCmd_keeps (fun _ _ => servingUnits_of_pastCommand) fun c u a u2 h => hbody u c a u2 h)

variable (c : Cmd) (s)

theorem sessHello_keeps : Keeps servingUnits s (sessHello c s) := by
  unfold sessHello
  repeat refine keeps_bind fun _ => ?_
  split
  · exact keeps_error _
  · repeat refine keeps_bind fun _ => ?_
    exact keeps_ok rfl

theorem sessProve_keeps : Keeps servingUnits s (sessProve c s) := by
  unfold sessProve
  repeat refine keeps_bind fun _ => ?_
  split
  · exact keeps_error _
  · dsimp only
    split
    · exact keeps_ok rfl
    · exact keeps_ok ((servingUnits_of_pastCommand (closeSession_pastCommand _)).trans rfl)

theorem sessClose_keeps : Keeps servingUnits s (sessClose c s) := by
  unfold sessClose
  repeat refine keeps_bind fun _ => ?_
  split
  · exact keeps_error _
  · exact keeps_ok (servingUnits_of_pastCommand (closeSession_pastCommand _))

theorem ringCreate_keeps : Keeps servingUnits s (ringCreate c s) := by
  unfold ringCreate
  repeat refine keeps_bind fun _ => ?_
  dsimp only
  split
  · exact keeps_error _
  · refine keeps_bind fun _ => ?_
    exact keeps_ok rfl

theorem ringDestroy_keeps : Keeps servingUnits s (ringDestroy c s) := by
  unfold ringDestroy
  repeat refine keeps_bind fun _ => ?_
  split
  · exact keeps_error _
  · repeat refine keeps_bind fun _ => ?_
    exact keeps_ok (servingUnits_of_pastCommand (destroyRing_pastCommand _))

theorem applyConfig_keeps (x : Nat) : servingUnits (applyConfig s x) = servingUnits s := by
  unfold applyConfig
  dsimp only
  split
  · rfl
  · split <;> rfl

theorem queueConfig_keeps : Keeps servingUnits s (queueConfig c s) := by
  unfold queueConfig
  repeat refine keeps_bind fun _ => ?_
  exact keeps_ok (foldl_keeps (P := servingUnits) applyConfig_keeps _ _)

theorem applyShaper_keeps (x : Nat) : servingUnits (applyShaper s x) = servingUnits s := by
  unfold applyShaper
  dsimp only
  split <;> rfl

theorem shaperSet_keeps : Keeps servingUnits s (shaperSet c s) := by
  unfold shaperSet
  repeat refine keeps_bind fun _ => ?_
  exact keeps_ok (foldl_keeps (P := servingUnits) applyShaper_keeps _ _)

theorem queueSample_keeps : Keeps servingUnits s (queueSample c s) := by
  unfold queueSample
  repeat refine keeps_bind fun _ => ?_
  refine keeps_ok ?_
  split <;> rfl

theorem evqConfig_keeps : Keeps servingUnits s (evqConfig c s) := by
  unfold evqConfig
  repeat refine keeps_bind fun _ => ?_
  dsimp only
  split
  all_goals
    repeat refine keeps_bind fun _ => ?_
    exact keeps_ok rfl

theorem unfreeze_keeps (a : Nat) : servingUnits (unfreeze s a) = servingUnits s := by
  unfold unfreeze
  split
  · rfl
  · dsimp only
    split
    · rfl
    · exact (servingUnits_of_pastCommand (finishOpt_pastCommand ..)).trans rfl

theorem arbFreeze_keeps : Keeps servingUnits s (arbFreeze c s) := by
  unfold arbFreeze
  repeat refine keeps_bind fun _ => ?_
  dsimp only
  split
  · exact keeps_ok (unfreeze_keeps s _)
  · repeat refine keeps_bind fun _ => ?_
    exact keeps_ok rfl

theorem powerCapSet_keeps : Keeps servingUnits s (powerCapSet c s) := by
  unfold powerCapSet
  repeat refine keeps_bind fun _ => ?_
  exact keeps_ok rfl

theorem coolTargetSet_keeps : Keeps servingUnits s (coolTargetSet c s) := by
  unfold coolTargetSet
  repeat refine keeps_bind fun _ => ?_
  exact keeps_ok rfl

end

/-- Settles O56: the meaning of each row touches the command, traffic and plant units alone. -/
theorem settingsLeaveServing : Obligations.SettingsLeaveServing := by
  unfold Obligations.SettingsLeaveServing
  intro r d s t i hi hexec
  have hkept : servingUnits t = servingUnits s := by
    simp only [List.mem_cons, List.not_mem_nil, or_false] at hi
    obtain rfl | rfl | rfl | rfl | rfl | rfl | rfl | rfl | rfl | rfl | rfl | rfl := hi
    · exact servingUnits_of_hostCmd sessHello_keeps hexec
    · exact servingUnits_of_hostCmd sessProve_keeps hexec
    · exact servingUnits_of_hostCmd sessClose_keeps hexec
    · exact servingUnits_of_hostCmd ringCreate_keeps hexec
    · exact servingUnits_of_hostCmd ringDestroy_keeps hexec
    · exact servingUnits_of_hostCmd queueConfig_keeps hexec
    · exact servingUnits_of_hostCmd shaperSet_keeps hexec
    · exact servingUnits_of_hostCmd queueSample_keeps hexec
    · exact servingUnits_of_hostCmd evqConfig_keeps hexec
    · exact servingUnits_of_hostCmd arbFreeze_keeps hexec
    · exact servingUnits_of_hostCmd powerCapSet_keeps hexec
    · exact servingUnits_of_hostCmd coolTargetSet_keeps hexec
  simpa only [servingUnits, Prod.mk.injEq] using hkept

/-! ### Every command goes on (02 R50, R52) -/

/-- Each constructor's meaning ends in `.next`, whatever it finds. -/
theorem exec_goesOn (i : Instr) (s : State) : ∃ t, exec i s = .next t := by
  cases i
  all_goals exact ⟨_, rfl⟩

/-- Settles O30: a step ticks, or runs the command in front. -/
theorem everyCommandGoesOn : Obligations.EveryCommandGoesOn := by
  unfold Obligations.EveryCommandGoesOn
  refine ⟨exec_goesOn, fun s => ?_⟩
  unfold goesOn step
  split
  · exact ⟨_, rfl⟩
  · exact exec_goesOn _ _

end Sys2Proof.Machine

namespace Sys2Proof.Machine

/-! SUPPORT. The request table: codes, the reservation, and the checks of a command that names an entry (02 R49; 03 R61,
R62, R66). -/

/-- Settles O45: the codes are one per state, and reading one back gives its state. -/
theorem requestStateCodes : Obligations.RequestStateCodes := by
  unfold Obligations.RequestStateCodes
  refine ⟨rfl, rfl, rfl, rfl, rfl, rfl, rfl, rfl, rfl, rfl, fun st => ?_, fun st => ?_⟩
  · cases st <;> decide
  · cases st <;> rfl

theorem ceilDiv_succ (a n : Nat) : ceilDiv a (n + 1) = (a + n) / (n + 1) := rfl

/-- Settles O46: a page of class `k` is 4096 shifted by `k`, and a division is rounded up by adding the divisor less one. -/
theorem reservationFormula : Obligations.ReservationFormula := by
  unfold Obligations.ReservationFormula
  refine ⟨fun a => ?_, fun a => ceilDiv_succ _ 65535⟩
  have hsize : 4096 <<< a.cls = psize a.cls := Nat.shiftLeft_eq _ _
  rw [hsize]
  exact ⟨ceilDiv_succ _ 65535, ceilDiv_succ _ 2097151⟩

/-! ### Checks of a command that names an entry (02 R49; 03 R62) -/

section

variable {b : Bool} {c : Cmd} {e : Entry} {l : List RState} {lo hi : Nat}

theorem lenIn_of_le (hlo : lo ≤ c.payLen) (hhi : c.payLen ≤ hi) : c.lenIn lo hi = .ok () := need_of_true (by simp [hlo, hhi])

@[simp] theorem stateErr_of_true (h : b = true) : stateErr b e = .ok () := by rw [stateErr, if_pos h]

@[simp] theorem stateIn_of_contains (h : l.contains e.state = true) : stateIn e l = .ok () := by rw [stateIn, if_pos h]

end

end Sys2Proof.Machine

namespace Sys2Proof.Machine

/-! SUPPORT. The request commands where they complete (03 R62 to R67, R76, R79). -/

/-! ### The admission (03 R59, R65 to R69) -/

section

variable {c : Cmd} {s : State}

/-- The entry that REQ_ADMIT forms in slot `n` (03 R60, R66). -/
def admitEntry (c : Cmd) (s : State) (n : Nat) : Entry :=
  { noEntry with
    gid := c.fld 191 128, deadline := c.fld 255 192, admitTime := now s, stateTime := now s, plistRoot := noId
    resHbm := admitHbm c.admission, resFlash := admitFlash c.admission, tenant := c.tenant, kvPerTok := c.fld 64 45
    prevOwner := 0xFFFF, epoch := epochNum s, roleHist := s.hcu.role, promptLen := c.fld 127 107, maxNew := c.fld 106 86
    home := c.fld 31 16, auxRoot := noId, codecSlot := c.fld 40 35, pageClass := c.fld 44 41, slotGen := slotGenOf s n
    prio := c.fld 34 32, durable := bit (c.fld 7 0) 5, remoteHome := c.fld 31 16 != me s, watch := bit (c.fld 7 0) 7 }

/-- The units of the token history of a REQ_ADMIT (03 R66). -/
def admitHist (c : Cmd) : Nat := histUnitsOf (c.fld 127 107 + c.fld 106 86 + c.fld 15 12)

/-- The state with the slot taken and the history's units charged. -/
def admitState (c : Cmd) (s : State) : State :=
  { (takeSlot s).2 with rte := { (takeSlot s).2.rte with
    histUnits := Tbl.set (takeSlot s).2.rte.histUnits (takeSlot s).1 (admitHist c) } }

/-- An admission past steps 1 to 5 of R67. -/
def admitWait (c : Cmd) (s : State) : HomeWait :=
  ⟨(takeSlot s).1, admitEntry c s (takeSlot s).1, c.tok, now s, .mark, bit (c.fld 7 0) 6⟩

/-- REQ_ADMIT past steps 1 to 5 of R67: with a given identifier it goes on, otherwise it draws one, or waits for a mark. -/
theorem reqAdmit_ok (hchecks : admitChecks c = .ok ()) (hfree : 0 < freeSlots s) (hopen : admissionOpen s = true)
    (hgid : c.fld 191 128 = 0 ∨ gidHeld s (c.fld 191 128) = false)
    (hlead : c.fld 255 192 = 0 ∨ now s + (classRow s (c.fld 34 32)).minLead ≤ c.fld 255 192)
    (hcaps : capsOk s (c.fld 34 32) c.tenant (admitHbm c.admission) = true) (hhist : hbmFits s (admitHist c) = true) :
    reqAdmit c s = .ok (laterAns,
      if c.fld 191 128 ≠ 0 then admitOn (admitState c s) (admitWait c s)
      else if seqReady s = true ∧ s.rte.markWaits = [] then admitDraw (admitState c s) (admitWait c s)
      else { admitState c s with rte := { (admitState c s).rte with
        markWaits := (admitState c s).rte.markWaits ++ [admitWait c s] } }) := by
  have hheld : (c.fld 191 128 == 0 || !gidHeld s (c.fld 191 128)) = true := by simpa using hgid
  have hdue : (c.fld 255 192 == 0 || decide (now s + (classRow s (c.fld 34 32)).minLead ≤ c.fld 255 192)) = true := by
    simpa using hlead
  have hunits : hbmFits s (histUnitsOf (c.admission.prompt + c.admission.maxNew + c.admission.spec)) = true := hhist
  simp only [reqAdmit, hchecks, ok_bind_eq, hfree, hopen, hheld, hdue, hcaps, hunits, decide_true, Bool.and_self, need_of_true]
  split
  next hgiven =>
    have hsupplied : c.fld 191 128 ≠ 0 := by simpa using hgiven
    rw [if_pos hsupplied]
    rfl
  next hgiven =>
    have hnone : ¬ c.fld 191 128 ≠ 0 := by simpa using hgiven
    rw [if_neg hnone]
    split
    next hready =>
      have hdraws : seqReady s = true ∧ s.rte.markWaits = [] := by simpa using hready
      rw [if_pos hdraws]
      rfl
    next hready =>
      have hwaits : ¬ (seqReady s = true ∧ s.rte.markWaits = []) := by simpa using hready
      rw [if_neg hwaits]
      rfl

/-- An admission with a local home and no partner that mirrors: its token-history page, the charge, and its entry shown. -/
theorem admitOn_local {s1 s2 : State} {w : HomeWait} {tok root : Nat} {parked : Bool}
    (hpage : allocPage s 4 0 false true = some (tok, s1)) (hmir : mirroring s1 = false) (hhome : w.ent.remoteHome = false)
    (hcharge : chargeHome s1 w.ent.gid (me s1) w.ent.tenant w.ent.prio w.ent.resHbm w.ent.resFlash w.ent.kvPerTok
      w.ent.pageClass w.ent.codecSlot w.parkOk w.ent.durable = some (root, parked, s2)) :
    admitOn s w = showAdmit s2 w.slot (parkedAt { w.ent with tokRoot := tok } parked root) w.tok := by
  simp [admitOn, admitHome, hpage, hmir, hhome, hcharge]

end

/-! ### Queries, deadlines, tokens and ends (03 R62, R64, R72, R76, R79) -/

section

variable {c : Cmd} {s : State} {n : Nat} {x : Slot}

/-- Where the watch is not due on an entry, a command acts on the entry as it is. -/
theorem afterWatch_of_not_due {act : State → Slot → Except Ans (Ans × State)}
    (h : (watchActs x.e && bucketEnded s x.e) = false) : afterWatch s n x act = act s x := by
  rw [afterWatch, if_neg (by simp [h])]

/-- REQ_QUERY by GLOBAL_ID with RELEASE frees a terminal entry that no caravan keeps. -/
theorem reqQuery_release (hlen : c.payLen = 16) (hres : 128 ≤ c.resLen) (htgt : c.target = 0) (hrsv : c.fld 63 1 = 0)
    (hgid : c.fld 127 64 ≠ 0) (hrel : bit (c.fld 7 0) 0 = true) (hslot : slotOfGid s (c.fld 127 64) = some n)
    (hget : getSlot s n = some x) (hentry : c.entry s (handleOf n x.e.slotGen) = .ok (n, x)) (hterm : x.e.state.terminal = true)
    (hwait : relWaiting s n = false) : reqQuery c s = .ok (okRes (entryImage x.e), freeEntry s n) := by
  simp [reqQuery, *]

theorem reqSetDeadline_ok (hlen : c.payLen = 8) (htgt : c.target >>> 32 = 0) (hentry : c.entry s c.target = .ok (n, x))
    (hsync : s.clk.synced = true) (hwatch : (watchActs x.e && bucketEnded s x.e) = false) (hopen : openEntry s n x = .ok ())
    (hstate : [RState.admitted, .prefill, .generate, .parked, .draining].contains x.e.state = true)
    (hpend : x.e.expirePend = false) :
    reqSetDeadline c s = .ok (okAns,
      if c.fld 63 0 ≠ 0 ∧ c.fld 63 0 ≤ now s then watchFires (updEntry s n fun e => { e with deadline := c.fld 63 0 }) n
      else updEntry s n fun e => { e with deadline := c.fld 63 0 }) := by
  simp only [reqSetDeadline, lenIs_of_eq hlen, tgtRsv_of_shift htgt, hentry, need_of_true hsync, ok_bind_eq,
    afterWatch_of_not_due hwatch, hopen, stateIn_of_contains hstate, hpend]
  simp

/-- REQ_TOKENS_APPEND of prompt tokens. -/
theorem reqTokensAppend_prompt (hlo : 1 ≤ c.fld 31 0) (hhi : c.fld 31 0 ≤ 65536) (hlen : c.payLen = 8 + 4 * c.fld 31 0)
    (htgt : c.target >>> 32 = 0) (hrsv : c.fld 47 32 = 0) (hrsv' : c.fld 63 49 = 0)
    (htoks : checkEach (fun i t => need (decide (t < 2 ^ 18)) St.fieldRange (inPay (8 + 4 * i + 2))) 0
      (c.recs 8 4 (c.fld 31 0)) = .ok ())
    (hgen : bit (c.fld 48 48) 0 = false) (hentry : c.entry s c.target = .ok (n, x))
    (hroom : x.hist.length - x.e.genLen + c.fld 31 0 ≤ x.e.promptLen) (hopen : openEntry s n x = .ok ())
    (hstate : [RState.admitted, .prefill, .generate, .parked, .draining].contains x.e.state = true)
    (hstep : x.e.inStep = false) (hnone : x.e.genLen = 0) :
    reqTokensAppend c s = .ok (okAns, setSlot s n { x with
      hist := x.hist ++ c.recs 8 4 (c.fld 31 0)
      e := { x.e with promptComplete := (x.hist ++ c.recs 8 4 (c.fld 31 0)).length == x.e.promptLen } }) := by
  have hrange : c.lenIn 8 (8 + 4 * 65536) = .ok () := lenIn_of_le (by omega) (by omega)
  have hbegun : (x.e.genLen == 0) = true := by simp [hnone]
  simp [reqTokensAppend, hrange, hlo, hhi, hlen, tgtRsv_of_shift htgt, hrsv, hrsv', htoks, hgen, hentry, decide_eq_true hroom,
    hopen, stateIn_of_contains hstate, hstep, hbegun, -Nat.reducePow]

/-- REQ_TOKENS_APPEND of generated tokens, whose counts need no more room: the first of them start GENERATE (03 R64). -/
theorem reqTokensAppend_generated {aux : Option Aux} (hlo : 1 ≤ c.fld 31 0) (hhi : c.fld 31 0 ≤ 65536)
    (hlen : c.payLen = 8 + 4 * c.fld 31 0) (htgt : c.target >>> 32 = 0) (hrsv : c.fld 47 32 = 0) (hrsv' : c.fld 63 49 = 0)
    (htoks : checkEach (fun i t => need (decide (t < 2 ^ 18)) St.fieldRange (inPay (8 + 4 * i + 2))) 0
      (c.recs 8 4 (c.fld 31 0)) = .ok ())
    (hgen : bit (c.fld 48 48) 0 = true) (hentry : c.entry s c.target = .ok (n, x))
    (hroom : x.e.genLen + c.fld 31 0 ≤ x.e.maxNew) (haux : auxAfter x (c.recs 8 4 (c.fld 31 0)) = some aux)
    (hopen : openEntry s n x = .ok ())
    (hstate : [RState.admitted, .prefill, .generate, .draining].contains x.e.state = true) (hstep : x.e.inStep = false)
    (hprompt : x.e.promptComplete = true) (hfits : auxLen aux ≤ auxLen x.aux) :
    reqTokensAppend c s =
      let x1 := acceptTokens x (c.recs 8 4 (c.fld 31 0)) aux
      .ok (okAns, setSlot s n { x1 with
        e := if x1.e.state = .admitted ∨ x1.e.state = .prefill then { x1.e with state := .generate, stateTime := now s }
          else x1.e }) := by
  have hrange : c.lenIn 8 (8 + 4 * 65536) = .ok () := lenIn_of_le (by omega) (by omega)
  simp [reqTokensAppend, hrange, hlo, hhi, hlen, tgtRsv_of_shift htgt, hrsv, hrsv', htoks, hgen, hentry, hroom, haux,
    hopen, stateIn_of_contains hstate, hstep, hprompt, hfits, -Nat.reducePow]

theorem reqComplete_ok (hlen : c.payLen = 0) (htgt : c.target >>> 32 = 0) (hentry : c.entry s c.target = .ok (n, x))
    (hwatch : (watchActs x.e && bucketEnded s x.e) = false) (hopen : openEntry s n x = .ok ())
    (hstate : [RState.admitted, .prefill, .generate, .draining].contains x.e.state = true) (hmove : x.e.movePend = false) :
    reqComplete c s = if x.e.inStep = true then .ok (laterAns, waitOn s n .complete c.tok)
      else .ok (okAns, terminate s n .done St.ok) := by
  simp only [reqComplete, lenIs_of_eq hlen, tgtRsv_of_shift htgt, hentry, ok_bind_eq, afterWatch_of_not_due hwatch, hopen,
    stateIn_of_contains hstate, hmove, Bool.not_false, need_of_true]

theorem reqCancel_ok (hlen : c.payLen = 0) (htgt : c.target >>> 32 = 0) (hentry : c.entry s c.target = .ok (n, x))
    (hopen : openEntry s n x = .ok ()) (hlive : x.e.state.terminal = false) (hhand : x.e.state ≠ .handoff)
    (hpend : x.e.expirePend = false) :
    reqCancel c s = if x.e.inStep = true ∨ x.e.movePend = true then
        .ok (laterAns, waitOn (updEntry s n fun e => { e with cancelPend := true }) n .cancel c.tok)
      else .ok (okAns, terminate s n .failed St.ok) := by
  simp [reqCancel, tgtRsv_of_shift, *]

/-- REQ_LIST that asks for no FREE slots: the listed entries alone. -/
theorem reqList_ok (hlen : c.payLen = 8) (hlo : 1 ≤ c.fld 63 48) (hhi : c.fld 63 48 ≤ 32768)
    (hres : 4 * c.fld 63 48 ≤ c.resLen) (htgt : c.target = 0) (hrsv : c.fld 14 0 = 0) (hmask : c.fld 47 32 < 1024)
    (hfree : bit (c.fld 47 32) 0 = false) (hpriv : c.priv ≠ .tenant) :
    reqList c s =
      let listed := listLive (c.fld 47 32) none (c.fld 31 15) (c.fld 63 48) s.rte.slots
      .ok ({ st := some St.ok, r0 := listed.2, result := listed.1.flatMap (leBytes 4) }, s) := by
  simp [reqList, *]

end

/-- Settles O2: the checks of each meaning pass under the clause's conditions, and its effect is answered. -/
theorem requestCommands : Obligations.RequestCommands := by
  unfold Obligations.RequestCommands
  refine ⟨?admission, ?home, ?query, ?release, ?deadline, ?priority, ?append, ?complete, ?cancel, ?list⟩
  case admission =>
    intro r d s s1 c gid n hist bytes pages s2 e w ht hchecks hfree hopen hgid hlead hcaps hhist
    rw [exec_reqAdmit, execReqAdmit, hostCmd_ok ht (reqAdmit_ok hchecks hfree hopen hgid hlead hcaps hhist)]
    rfl
  case home =>
    intro s s1 s2 w tok root parked e hpage hmir hhome hcharge
    exact admitOn_local hpage hmir hhome hcharge
  case query =>
    intro r d s s1 c n x ht hlen hres htgt hentry
    have hrow : reqQuery c s1 = .ok (okRes (entryImage x.e), s1) := by
      simp [reqQuery, hlen, hres, tgtRsv_of_shift htgt, hentry]
    rw [exec_reqQuery, execReqQuery, hostCmd_ok ht hrow]
  case release =>
    intro r d s s1 c n x ht hlen hres htgt hrsv hgid hrel hslot hget hentry hterm hwait
    rw [exec_reqQuery, execReqQuery,
      hostCmd_ok ht (reqQuery_release hlen hres htgt hrsv hgid hrel hslot hget hentry hterm hwait)]
  case deadline =>
    intro r d s s1 c n x ht hlen htgt hentry hsync hwatch hopen hstate hpend
    rw [exec_reqSetDeadline, execReqSetDeadline,
      hostCmd_ok ht (reqSetDeadline_ok hlen htgt hentry hsync hwatch hopen hstate hpend)]
  case priority =>
    intro r d s s1 c n x ht hlen htgt hrsv hentry hopen hlive
    have hrow : reqSetPriority c s1 =
        .ok (okAns, updEntry s1 n fun e => { e with prio := c.fld 2 0, batchTag := c.fld 63 32 }) := by
      simp [reqSetPriority, hlen, tgtRsv_of_shift htgt, hrsv, hentry, hopen, hlive]
    rw [exec_reqSetPriority, execReqSetPriority, hostCmd_ok ht hrow]
  case append =>
    intro r d s s1 c n x toks ht hlo hhi hlen htgt hrsv hrsv' htoks hgen hentry hroom hopen hstate hstep hnone
    rw [exec_reqTokensAppend, execReqTokensAppend, hostCmd_ok ht (reqTokensAppend_prompt hlo hhi hlen htgt hrsv hrsv' htoks
      hgen hentry hroom hopen hstate hstep hnone)]
  case complete =>
    intro r d s s1 c n x ht hlen htgt hentry hwatch hopen hstate hmove
    have hrow := reqComplete_ok hlen htgt hentry hwatch hopen hstate hmove
    rw [exec_reqComplete, execReqComplete]
    split at hrow
    next hstep => rw [hostCmd_ok ht hrow, if_pos hstep, answer_later]
    next hstep => rw [hostCmd_ok ht hrow, if_neg hstep]
  case cancel =>
    intro r d s s1 c n x ht hlen htgt hentry hopen hlive hhand hpend
    have hrow := reqCancel_ok hlen htgt hentry hopen hlive hhand hpend
    rw [exec_reqCancel, execReqCancel]
    split at hrow
    next hbusy => rw [hostCmd_ok ht hrow, if_pos hbusy, answer_later]
    next hbusy => rw [hostCmd_ok ht hrow, if_neg hbusy]
  case list =>
    intro r d s s1 c ht hlen hlo hhi hres htgt hrsv hmask hfree hpriv
    rw [exec_reqList, execReqList, hostCmd_ok ht (reqList_ok hlen hlo hhi hres htgt hrsv hmask hfree hpriv)]

end Sys2Proof.Machine

namespace Sys2Proof.Machine

/-! SUPPORT. The request table's events where their condition holds (03 R63, R69, R72, R73, R78; 05 R134; 06 R155). -/

section

variable {s : State} {n : Nat} {x : Slot}

theorem watchFires_of_slot (hget : getSlot s n = some x) :
    watchFires s n = if x.e.inStep = true ∨ x.e.movePend = true then
        (if x.e.cancelPend = true then s else updEntry s n fun e => { e with expirePend := true })
      else terminate s n .expired St.expired := by
  simp only [watchFires, hget, Bool.or_eq_true]

/-- A due watch that has its turn fires; where a cancel of the running step or move came first, neither does (03 R73, R76). -/
theorem execDeadlineExpiry_due (hget : getSlot s n = some x) (hset : x.e.deadline ≠ 0) (hlive : x.e.state.terminal = false)
    (hhand : x.e.state ≠ .handoff) (hpend : x.e.expirePend = false) (hend : (x.e.deadline / 1024 + 1) * 1024 ≤ now s)
    (hturn : watchTurn s n x.e = true) : execDeadlineExpiry n s = .next (commit s (watchFires s n)) := by
  have hbucket : bucketEnded s x.e = true := decide_eq_true hend
  by_cases hfirst : (x.e.inStep = true ∨ x.e.movePend = true) ∧ x.e.cancelPend = true
  · obtain ⟨hbusy, hcancel⟩ := hfirst
    have hidle : watchActs x.e = false := by simp [watchActs, (Bool.or_eq_true ..).mpr hbusy, hcancel]
    rw [watchFires_of_slot hget, if_pos hbusy, if_pos hcancel]
    simp [execDeadlineExpiry, hget, hidle]
  · have hacts : watchActs x.e = true := by
      simpa [watchActs, hset, hlive, hhand, hpend, imp_iff_not_or] using hfirst
    simp [execDeadlineExpiry, hget, hacts, hbucket, hturn]

/-- A home without an answer for 1 ms, not marked LOST: the admission is given up, and its release is sent and kept. -/
theorem execHomeAnswerTimeout_late {gid : Nat} {w : HomeWait} (hwait : Tbl.get s.rte.homeWaits gid = some w)
    (hphase : w.phase = .home) (hlate : w.sentAt + 1000000 ≤ now s) (hlost : markedLost s w.ent.home = false) :
    execHomeAnswerTimeout gid s =
      let s1 := complete (abandon (dropWait s gid) w.slot w.ent) w.tok St.peerLost 0 0 [] true
      .next (commit s (emit { s1 with rte := { s1.rte with releases := s1.rte.releases ++ [(gid, w.ent.home)] } }
        (.resvRelease w.ent.home gid))) := by
  have hdue : ¬ now s < w.sentAt + ms := Nat.not_lt.mpr hlate
  simp [execHomeAnswerTimeout, hwait, hphase, hdue, hlost]

end

/-- Settles O3: each event's guard holds under the clause's conditions. -/
theorem requestEvents : Obligations.RequestEvents := by
  unfold Obligations.RequestEvents
  refine ⟨?stale, ?move, ?capped, ?charged, ?wait, ?accepted, ?refused, ?late, ?release, ?acked, ?resend, ?home, ?loss,
    ?deadline, ?linger⟩
  case stale =>
    intro s m hepoch
    simp [exec_reservationRequest, execReservationRequest, hepoch]
  case move =>
    intro s m hmove hepoch
    simp [exec_reservationRequest, execReservationRequest, hepoch, hmove]
  case capped =>
    intro s m hmove hepoch hcaps
    simp [exec_reservationRequest, execReservationRequest, hepoch, hmove, hcaps]
  case charged =>
    intro s s1 m root parked hmove hepoch hcaps hmir hcharge
    simp [exec_reservationRequest, execReservationRequest, answerResv, hepoch, hmove, hcaps, hmir, hcharge]
  case wait =>
    intro s gid
    rw [dropWait]
  case accepted =>
    intro s gid st root key w hwait hphase hst
    simp [exec_reservationAnswer, execReservationAnswer, hwait, hphase, hst]
  case refused =>
    intro s gid st root key w hwait hphase hnok hnpend
    have hanswer : (if st = St.epochStale then st else St.noCapacity) =
        if st = St.epochStale then St.epochStale else St.noCapacity := by
      split
      next hstale => exact hstale
      · rfl
    simp [exec_reservationAnswer, execReservationAnswer, hwait, hphase, hnok, hnpend, abandon, hanswer]
  case late =>
    intro s gid w hwait hphase hlate hlost s1 s2
    rw [exec_homeAnswerTimeout, execHomeAnswerTimeout_late hwait hphase hlate hlost]
    rfl
  case release =>
    intro s frm gid l hnone hlist howner
    simp only [exec_admissionRelease, execAdmissionRelease, hnone, Bool.false_eq_true, if_false, hlist, howner, if_true]
  case acked =>
    intro s frm gid hkept
    simp only [exec_admissionRelease, execAdmissionRelease, hkept, if_true]
  case resend =>
    intro s gid due
    rw [exec_releaseResend, execReleaseResend, List.partition_eq_filter_filter]
    rfl
  case home =>
    intro s frm gid l hlist
    simp [exec_homeRelease, execHomeRelease, hlist]
  case loss =>
    intro s gid st n charged x hslot hget hremote
    simp [exec_pageLossReport, execPageLossReport, hslot, hget, hremote]
  case deadline =>
    intro s n x hget hset hlive hhand hpend hend hturn
    rw [exec_deadlineExpiry, execDeadlineExpiry_due hget hset hlive hhand hpend hend hturn, watchFires_of_slot hget]
  case linger =>
    intro s n t x hget hfrom hterm hdue
    have hdue' : t + s.rte.lingerMs * ms ≤ now s := hdue
    simp [exec_lingerEnd, execLingerEnd, hget, hfrom, hterm, hdue']

end Sys2Proof.Machine

namespace Sys2Proof.Machine

/-! SUPPORT. Commands whose list is at a remote home: the owner's checks pass, and the command is forwarded (05 R122, R136,
R137; 09 R242); and other forms of commands (06 R142; 09 R247). -/

/-! ### The owner's checks -/

section

variable {c : Cmd} {s : State} {n h : Nat} {x : Slot}

theorem atHome_remote {op : Nat} {ns : List Nat} {e : Entry} {checks : List (Except Ans Unit)} {act : HomeAct}
    {own : State → State} (h : e.remoteHome = true) :
    atHome op c ns e checks act own s = .ok (laterAns, sendForward s c op e.home 0 ns checks) := if_pos h

theorem counted_of_fits {o w k lo hi bitLo : Nat} (hlo : lo ≤ k) (hhi : k ≤ hi) (hlen : c.payLen = o + w * k) :
    c.counted o w k lo hi bitLo = .ok () := by
  simp [Cmd.counted, needAll, hlo, hhi, hlen]

/-- A terminal entry allows no command of a step. -/
theorem stepState_live {e : Entry} (h : stepState e = true) : e.state.terminal = false := by
  cases hst : e.state <;> simp_all [stepState, RState.terminal]

/-- An entry that rests with its list elsewhere passes every check of its owner (05 R136, R137). -/
theorem restsThere_checks (hr : restsThere s c h n x) :
    c.entry s h = .ok (n, x) ∧ x.e.remoteHome = true ∧ x.e.state.terminal = false ∧ openEntry s n x = .ok () ∧
      stateErr (stepState x.e) x.e = .ok () ∧ notBusy x = .ok () := by
  obtain ⟨hentry, hremote, hopen, hstate, hstep, hmove, hrest⟩ := hr
  exact ⟨hentry, hremote, stepState_live hstate, hopen, stateErr_of_true hstate, need_of_true (by simp [hstep, hmove, hrest])⟩

end

/-! ### Commands forwarded -/

section

variable {c : Cmd} {s : State} {n : Nat} {x : Slot}

/-- REQ_PARK and REQ_UNPARK of a list elsewhere: the entry is marked, and the command forwarded (06 R154). -/
theorem parkCmd_remote {op : Nat} {states : List RState} {act : HomeAct} (hlen : c.payLen = 0) (htgt : c.target >>> 32 = 0)
    (hentry : c.entry s c.target = .ok (n, x)) (hremote : x.e.remoteHome = true) (hopen : openEntry s n x = .ok ())
    (hstep : x.e.inStep = false) (hmove : x.e.movePend = false) (hrest : x.restoring = false)
    (hstate : states.contains x.e.state = true) :
    parkCmd op states act c s = .ok (laterAns, sendForward (ownMove n c.tok s) c op x.e.home 0 [n]) := by
  have hidle : parkBusy x = .ok () := need_of_true (by simp [hstep, hmove, hrest])
  simp [parkCmd, hlen, tgtRsv_of_shift htgt, hentry, hopen, hidle, stateIn_of_contains hstate, hremote]

theorem pageShare_remote {k : Nat} {y : Slot} (hlen : c.payLen = 16) (hsome : c.fld 63 43 ≠ 0) (htgt : c.target >>> 32 = 0)
    (hrsv : c.fld 42 0 = 0) (hrsv' : c.fld 95 64 = 0) (hx : restsThere s c c.target n x)
    (hy : restsThere s c (c.fld 127 96) k y) (hctx : c.fld 63 43 ≤ y.e.ctxLen) (hhome : x.e.home = y.e.home)
    (hkv : x.e.kvPerTok = y.e.kvPerTok) (hcls : x.e.pageClass = y.e.pageClass) (hslot : x.e.codecSlot = y.e.codecSlot) :
    pageShare c s = .ok (laterAns, sendForward s c 0x0420 x.e.home 0 [n, k] [.ok (), .ok ()]) := by
  obtain ⟨hentry, hremote, hlive, hopen, hstate, hidle⟩ := restsThere_checks hx
  obtain ⟨hentry', -, hlive', hopen', hstate', hidle'⟩ := restsThere_checks hy
  simp [pageShare, tgtRsv_of_shift htgt, atHome_remote hremote, *]

theorem prefixLookup_remote (hlo : 1 ≤ c.fld 16 0) (hhi : c.fld 16 0 ≤ 65536) (hlen : c.payLen = 16 + 4 * c.fld 16 0)
    (htgt : c.target = 0) (hrsv : c.fld 63 17 = 0) (hns : c.fld 95 64 ≠ 0)
    (htoks : checkEach (fun i t => need (decide (t < 2 ^ 18)) St.fieldRange (inPay (16 + 4 * i + 2))) 0
      (c.recs 16 4 (c.fld 16 0)) = .ok ())
    (haway : c.fld 127 112 ≠ me s) :
    prefixLookup c s = .ok (laterAns, sendForward s c 0x0410 (c.fld 127 112) 0 []) := by
  simp [prefixLookup, counted_of_fits hlo hhi hlen, htgt, hrsv, hns, htoks, haway, -Nat.reducePow]

theorem mirrorClassSet_remote (hlen : c.payLen = 8) (htgt : c.target >>> 32 = 0) (hrsv : c.fld 63 1 = 0)
    (hx : restsThere s c c.target n x) (hhand : x.e.state ≠ .handoff) :
    mirrorClassSet c s = .ok (laterAns, sendForward s c 0x0B04 x.e.home (c.fld 0 0) [n]) := by
  obtain ⟨hentry, hremote, hlive, hopen, -, hidle⟩ := restsThere_checks hx
  have hstill : need (!x.e.inStep && !x.e.movePend && !x.restoring) St.busy 0 = .ok () := hidle
  simp [mirrorClassSet, hlen, tgtRsv_of_shift htgt, hrsv, hentry, hopen, hlive, hhand, hstill, hremote]

/-- A later ATTN_STEP of a step whose home is elsewhere goes there (09 R242). -/
theorem stepCmd_attn_later {o : OwnStep} {act : StepAct} (hopen : (stepHdr Op.attn c.pay).isOpen = false)
    (hchecks : stepChecks Op.attn c (stepHdr Op.attn c.pay) 0 = .ok ()) (hown : getOwn s (stepHdr Op.attn c.pay).tag = some o)
    (hmine : o.entries.all (entryMine c s) = true) (hlive : o.isOpen = true) (hclose : o.closeTok = none)
    (haway : o.home ≠ me s) :
    stepCmd Op.attn act c s = .ok (laterAns, sendForward s c Op.attn o.home (stepHdr Op.attn c.pay).tag []) := by
  have hkind : (Op.attn == Op.sample) = false ∧ (Op.attn == Op.verify) = false := by decide
  have hplain : Op.attn ≠ Op.sample ∧ Op.attn ≠ Op.verify := by decide
  simp [stepCmd, moreCmd, runStep, sendForward, hkind, hplain, hopen, hchecks, hown, hmine, hlive, hclose, haway]

/-- TIER_HINT with OWN under a hint that pins nothing: the extents of the range are the named tenant's (06 R142). -/
theorem tierHint_own (hlen : c.payLen = 24) (htgt : c.target = 0) (hown : bit (c.fld 4 4) 0 = true) (hpriv : c.isOp = true)
    (hrange : rangeLen (c.fld 191 128) (c.fld 127 64) = true) (hbase : rangeBase (c.fld 191 128) = true)
    (hwhole : c.fld 127 64 % 2 ^ 30 = 0) (halign : c.fld 191 128 % 2 ^ 30 = 0) (hnpin : c.fld 2 0 ≠ 2)
    (hnflash : c.fld 2 0 ≠ 4) (hhint : c.fld 2 0 ≤ 4) (hrsv : c.fld 3 3 = 0) (hrsv' : c.fld 47 5 = 0)
    (hext : c.extentsOk s (c.fld 191 128) (c.fld 127 64) = true) :
    tierHint c s =
      let base := c.fld 191 128
      let len := c.fld 127 64
      let s1 := { s with tfm := { s.tfm with
        extTenant := (extentsOf base len).foldl (fun t e => Tbl.set t e (c.fld 63 48)) s.tfm.extTenant } }
      .ok (okAns, setHints (hintWins s1 base len (c.fld 2 0)) base len (c.fld 2 0)) := by
  simp [tierHint, *, -Nat.reducePow]

end

/-- Settles O57: a command's checks at its owner pass under the clause's conditions, and it is forwarded or answered. -/
theorem otherFormsOfCommands : Obligations.OtherFormsOfCommands := by
  unfold Obligations.OtherFormsOfCommands
  refine ⟨?append, ?truncate, ?share, ?insert, ?lookup, ?park, ?unpark, ?mirror, ?codec, ?later, ?attn, ?sample, ?tokens,
    ?own⟩
  case append =>
    intro r d s s1 c n x ht hlen hpages hctx hres htgt hrsv hentry hremote hlive
    have hrow : plistAppend c s1 = .ok (laterAns, sendForward s1 c 0x0403 x.e.home 0 [n] [listState s1 n x]) := by
      simp [plistAppend, hlen, hpages, hctx, hres, tgtRsv_of_shift htgt, hrsv, hentry, hremote, hlive, atHome_remote]
    rw [exec_plistAppend, execPlistAppend, hostCmd_ok ht hrow, answer_later]
  case truncate =>
    intro r d s s1 c n x ht hlen htgt hrsv hentry hremote hlive
    have hrow : plistTruncate c s1 = .ok (laterAns, sendForward s1 c 0x0404 x.e.home 0 [n] [listState s1 n x]) := by
      simp [plistTruncate, hlen, tgtRsv_of_shift htgt, hrsv, hentry, hremote, hlive, atHome_remote]
    rw [exec_plistTruncate, execPlistTruncate, hostCmd_ok ht hrow, answer_later]
  case share =>
    intro r d s s1 c n k x y ht hlen hsome htgt hrsv hrsv' hx hy hctx hhome hkv hcls hslot
    rw [exec_pageShare, execPageShare,
      hostCmd_ok ht (pageShare_remote hlen hsome htgt hrsv hrsv' hx hy hctx hhome hkv hcls hslot), answer_later]
  case insert =>
    intro r d s s1 c n x ht hpriv hlen hlo hhi htgt hwhole hrsv hrsv' hentry hremote hlive
    have hrow : prefixInsert c s1 = .ok (laterAns, sendForward s1 c 0x0411 x.e.home 0 [n] [listState s1 n x]) := by
      simp [prefixInsert, hpriv, hlen, hlo, hhi, tgtRsv_of_shift htgt, hwhole, hrsv, hrsv', hentry, hremote, hlive,
        atHome_remote]
    rw [exec_prefixInsert, execPrefixInsert, hostCmd_ok ht hrow, answer_later]
  case lookup =>
    intro r d s s1 c ht hlo hhi hlen htgt hrsv hns htoks haway
    rw [exec_prefixLookup, execPrefixLookup, hostCmd_ok ht (prefixLookup_remote hlo hhi hlen htgt hrsv hns htoks haway),
      answer_later]
  case park =>
    intro r d s s1 c n x ht hlen htgt hentry hremote hopen hstep hmove hrest hstate
    have hallowed : [RState.admitted, .generate].contains x.e.state = true := by rcases hstate with h | h <;> rw [h] <;> rfl
    rw [exec_reqPark, execReqPark, reqPark,
      hostCmd_ok ht (parkCmd_remote hlen htgt hentry hremote hopen hstep hmove hrest hallowed), answer_later]
  case unpark =>
    intro r d s s1 c n x ht hlen htgt hentry hremote hopen hstep hmove hrest hstate
    have hallowed : [RState.parked].contains x.e.state = true := by rw [hstate]; rfl
    rw [exec_reqUnpark, execReqUnpark, reqUnpark,
      hostCmd_ok ht (parkCmd_remote hlen htgt hentry hremote hopen hstep hmove hrest hallowed), answer_later]
  case mirror =>
    intro r d s s1 c n x ht hlen htgt hrsv hx hlive hhand
    rw [exec_mirrorClassSet, execMirrorClassSet, hostCmd_ok ht (mirrorClassSet_remote hlen htgt hrsv hx hhand), answer_later]
  case codec =>
    intro r d s s1 c n x p hkv hentry hremote hopen hlive
    refine ⟨fun ht hchecks => ?_, fun ht hchecks => ?_⟩
    · have hrow : codecDequantize c s1 = .ok (laterAns, sendForward s1 c 0x0606 x.e.home 0 [n] [.ok ()]) := by
        simp [codecDequantize, hchecks, hkv, hentry, hopen, hlive, hremote, p]
      rw [exec_codecDequantize, execCodecDequantize, hostCmd_ok ht hrow, answer_later]
    · have hrow : codecScaleFind c s1 = .ok (laterAns, sendForward s1 c 0x0607 x.e.home 0 [n] [.ok ()]) := by
        simp [codecScaleFind, hchecks, hkv, hentry, hopen, hlive, hremote, p]
      rw [exec_codecScaleFind, execCodecScaleFind, hostCmd_ok ht hrow, answer_later]
  case later =>
    intro r d s s1 c o h ht hopen hchecks hown hmine hlive hclose haway
    rw [exec_attnStep, execAttnStep, hostCmd_ok ht (stepCmd_attn_later hopen hchecks hown hmine hlive hclose haway),
      answer_later]
  case attn =>
    intro r d s s1 s2 c a h ht hopen hchecks hcmd
    have hplain : Op.attn ≠ Op.sample ∧ Op.attn ≠ Op.verify := by decide
    have hrow : stepCmd Op.attn homeAttn c s1 = .ok (a, s2) := by
      simp [stepCmd, hplain, hopen, hchecks, hcmd, h]
    rw [exec_attnStep, execAttnStep, hostCmd_ok ht hrow]
  case sample =>
    intro r d s s1 s2 c a h ht hopen hchecks hcmd
    have hrow : stepCmd Op.sample (homeClose Op.sample) c s1 = .ok (a, s2) := by
      simp [stepCmd, hopen, hchecks, hcmd, h]
    rw [exec_sampleStep, execSampleStep, hostCmd_ok ht hrow]
  case tokens =>
    intro r d s s1 c n x aux toks x1 ht hlo hhi hlen htgt hrsv hrsv' htoks hgen hentry hroom haux hopen hstate hstep hprompt hfits
    rw [exec_reqTokensAppend, execReqTokensAppend, hostCmd_ok ht (reqTokensAppend_generated hlo hhi hlen htgt hrsv hrsv' htoks
      hgen hentry hroom haux hopen hstate hstep hprompt hfits)]
  case own =>
    intro r d s s1 c base len s2 ht hlen htgt hown hpriv hrange hbase hwhole halign hnpin hnflash hhint hrsv hrsv' hext
    rw [exec_tierHint, execTierHint, hostCmd_ok ht (tierHint_own hlen htgt hown hpriv hrange hbase hwhole halign hnpin hnflash
      hhint hrsv hrsv' hext)]

end Sys2Proof.Machine

namespace Sys2Proof.Machine

/-! SUPPORT. The caravan and map commands where they complete, and what time does to epochs (04 R101 to R113). -/

/-! ### Caravans offered and withdrawn (04 R109 to R112) -/

section

variable {c : Cmd} {s : State} {n : Nat} {x : Slot}

/-- CVN_OFFER of a request that is open and idle, to a node that the map serves: its record is opened and OFFER sent. -/
theorem cvnOffer_ok (hlen : c.payLen = 16) (hlife : c.fld 95 80 = 0 ∨ (10 ≤ c.fld 95 80 ∧ c.fld 95 80 ≤ 10000))
    (htgt : c.target >>> 32 = 0) (hkind : c.fld 1 0 ≤ 1) (hrsv : c.fld 79 2 = 0) (hrsv' : c.fld 111 96 = 0)
    (hentry : c.entry s c.target = .ok (n, x)) (hself : s.cve.selfLost = false)
    (hnode : (nodeRec s (c.fld 127 112)).isSome = true) (hfound : markedLost s (c.fld 127 112) = false)
    (hus : isUs s (c.fld 127 112) = false) (hhome : isPages (c.fld 1 0) = true → isUs s x.e.home = true)
    (hopen : openEntry s n x = .ok ()) (hstate : x.e.state = .admitted ∨ x.e.state = .prefill ∨ x.e.state = .generate)
    (hprompt : x.e.promptComplete = true) (hstep : x.e.inStep = false) (hmove : x.e.movePend = false)
    (hrest : x.restoring = false) (hroom : openRecs s < 4096) :
    cvnOffer c s =
      let v := offerRec s n x (c.fld 127 112) (c.fld 1 0) (if c.fld 95 80 = 0 then s.cve.timers.offer else c.fld 95 80) c.tok
      let s2 := setSlot s n { x with
        e := { x.e with state := .handoff, prior := x.e.state, cvnId := v.cvnId, epoch := v.epoch, stateTime := now s }
        parkFrom := x.e.prior }
      .ok ({ st := some St.pending, r0 := v.epoch, detail := v.cvnId },
        sendCvn (openCvn (bumpCvn s2 x) (cvnKey v.src v.cvnId) v) v Cv.offer) := by
  have hserved : (c.fld 95 80 == 0 || (decide (10 ≤ c.fld 95 80) && decide (c.fld 95 80 ≤ 10000))) = true := by
    simpa using hlife
  have hhere : (!isPages (c.fld 1 0) || isUs s x.e.home) = true := by
    simpa using imp_iff_not_or.mp hhome
  have hready : ([RState.admitted, .prefill, .generate, .parked, .draining].contains x.e.state && x.e.promptComplete &&
      !(isPages (c.fld 1 0) && x.e.state == .parked)) = true := by
    rcases hstate with h | h | h <;> simp [h, hprompt]
  simp only [cvnOffer, lenIs_of_eq hlen, lenF_of_true hserved, tgtRsv_of_shift htgt, fldF_of_true (decide_eq_true hkind),
    rsv_of_zero hrsv, rsv_of_zero hrsv', hentry, fldF_of_true hhere, hopen, stateErr_of_true hready, ok_bind_eq]
  simp [hself, hnode, hfound, hus, hstep, hmove, hrest, hroom]

/-- CVN_WITHDRAW of an offer that its receiver has not pulled. -/
theorem cvnWithdraw_ok {k : Nat} {v : Caravan} (hlen : c.payLen = 0) (htgt : c.target >>> 32 = 0)
    (hentry : c.entry s c.target = .ok (n, x)) (hopen : openEntry s n x = .ok ()) (hstate : x.e.state = .handoff)
    (hrec : entryCvn s n = some (k, v)) (hoff : v.cstate = .offered) :
    cvnWithdraw c s = .ok (okAns, cvnResume (sendCvn s v Cv.withdraw) k v .withdrawn 2 St.ok) := by
  simp [cvnWithdraw, hlen, tgtRsv_of_shift htgt, hentry, hopen, hstate, hrec, hoff]

end

/-! ### Maps installed (04 R106, R107) -/

section

variable {c : Cmd} {s : State} {i : Nat}

/-- The map that MAP_INSTALL brings, as an epoch that waits. -/
def installedEpoch (c : Cmd) (s : State) : Epoch :=
  ⟨c.fld 191 176, .pending, c.fld 255 192, if c.fld 159 128 = 0 then 2000 else c.fld 159 128, 0,
    (c.recs 32 16 (c.fld 175 160)).map nodeOf, c.pay, if decide (c.fld 255 192 ≤ now s) then none else some c.tok⟩

/-- The state with that epoch at the end of its epochs. -/
def withInstalled (c : Cmd) (s : State) : State :=
  { s with cve := { s.cve with epochs := s.cve.epochs ++ [installedEpoch c s] } }

/-- MAP_INSTALL of a map that is well-formed, newer than every epoch, and true of this controller, while none waits. -/
theorem mapInstall_ok {nodes : List NodeRec} {own : NodeRec} (hmap : (c.recs 32 16 (c.fld 175 160)).map nodeOf = nodes)
    (hown : nodes.getD i ⟨0, 0, 0, 0, 0, false, false⟩ = own)
    (hdrain : c.fld 159 128 = 0 ∨ (100 ≤ c.fld 159 128 ∧ c.fld 159 128 ≤ 100000)) (hlo : 1 ≤ c.fld 175 160)
    (hhi : c.fld 175 160 ≤ 4096) (hlen : c.payLen = 32 + 16 * c.fld 175 160) (htgt : c.target = 0) (hrsv : c.fld 127 0 = 0)
    (hrecs : ∀ r ∈ c.recs 32 16 (c.fld 175 160),
      bits r 95 80 ≤ 255 ∧ bits r 67 0 = 0 ∧ 1 ≤ bits r 79 76 ∧ bits r 79 76 ≤ 3)
    (hnum : 1 ≤ c.fld 191 176) (hnum' : c.fld 191 176 ≤ 0xFFFE)
    (hnewer : (s.cve.epochs.all fun e => newer (c.fld 191 176) e.num) = true)
    (hnodes : firstRepeat (fun r => some r.node) 0 nodes = none)
    (hdoms : firstRepeat (fun r => if r.inDomain then some r.domain else none) 0 nodes = none)
    (hme : nodes.findIdx? (fun r => r.node == me s) = some i) (hrole : own.role = s.hcu.role)
    (hpair : own.partner = actualPartner s) (hroom : s.cve.epochs.length < 4)
    (hidle : (s.cve.epochs.all fun e => e.st != .pending) = true) (hclock : c.fld 255 192 = 0 ∨ s.clk.synced = true) :
    mapInstall c s = .ok (if decide (c.fld 255 192 ≤ now s) = true
      then (okR0 (c.fld 191 176), activate (withInstalled c s) (c.fld 191 176))
      else ({ st := some St.pending, r0 := c.fld 191 176 }, withInstalled c s)) := by
  have hrange : c.lenIn 32 (32 + 16 * 4096) = .ok () := lenIn_of_le (by omega) (by omega)
  have htime : (c.fld 159 128 == 0 || (decide (100 ≤ c.fld 159 128) && decide (c.fld 159 128 ≤ 100000))) = true := by
    simpa using hdrain
  have hpools : checkEach (fun i r => need (decide (bits r 95 80 ≤ 255)) St.lengthRange (inPay (32 + 16 * i + 10))) 0
      (c.recs 32 16 (c.fld 175 160)) = .ok () :=
    checkEach_ok (fun _ r hr => need_of_true (decide_eq_true (hrecs r hr).1)) 0
  have hroles : checkEach (fun i r => do
      need (bits r 67 0 == 0) St.fieldRange (inPay (32 + 16 * i))
      need (decide (1 ≤ bits r 79 76) && decide (bits r 79 76 ≤ 3)) St.fieldRange (inPay (32 + 16 * i + 9))) 0
      (c.recs 32 16 (c.fld 175 160)) = .ok () := by
    refine checkEach_ok (fun j r hr => ?_) 0
    obtain ⟨-, hzero, hmin, hmax⟩ := hrecs r hr
    simp [hzero, hmin, hmax]
  have hdue : (c.fld 255 192 == 0 || s.clk.synced) = true := by simpa using hclock
  simp only [mapInstall, hrange, lenF_of_true htime, lenIs_of_eq hlen, hpools, hroles, tgtRsv_of_zero htgt, rsv_of_zero hrsv,
    hmap, hnodes, hdoms, hme, hown, need_of_true hdue, ok_bind_eq]
  simp only [hlo, hhi, hnum, hnum', hnewer, hrole, hpair, hroom, hidle, decide_true, Bool.and_true, beq_self_eq_true,
    lenF_of_true, fldF_of_true, need_of_true, ok_bind_eq, decide_eq_true_eq, withInstalled, installedEpoch, hmap]
  split <;> rfl

end

/-- Settles O7: each command's checks pass under the clause's conditions, and each event's guard holds. -/
theorem caravanCommands : Obligations.CaravanCommands := by
  unfold Obligations.CaravanCommands
  refine ⟨?offer, ?withdraw, ?status, ?install, ?list, ?one, ?activate, ?drain⟩
  case offer =>
    intro r d s s1 c n x kind dest v s2 ht hlen hlife htgt hkind hrsv hrsv' hentry hself hnode hfound hus hhome hopen hstate
      hprompt hstep hmove hrest hroom
    rw [exec_cvnOffer, execCvnOffer, hostCmd_ok ht (cvnOffer_ok hlen hlife htgt hkind hrsv hrsv' hentry hself hnode hfound hus
      hhome hopen hstate hprompt hstep hmove hrest hroom)]
  case withdraw =>
    intro r d s s1 c n k x v ht hlen htgt hentry hopen hstate hrec hoff
    rw [exec_cvnWithdraw, execCvnWithdraw, hostCmd_ok ht (cvnWithdraw_ok hlen htgt hentry hopen hstate hrec hoff)]
  case status =>
    intro r d s s1 c v ht hlen hres htgt hrsv hrec
    have hrow : cvnStatus c s1 = .ok (okRes (caravanImage v), s1) := by
      simp [cvnStatus, hlen, hres, tgtRsv_of_shift htgt, hrsv, hrec]
    rw [exec_cvnStatus, execCvnStatus, hostCmd_ok ht hrow]
  case install =>
    intro r d s s1 c i count drain num nodes own atOnce e s2 ht hdrain hlo hhi hlen htgt hrsv hrecs hnum hnum' hnewer hnodes
      hdoms hme hrole hpair hroom hidle hclock
    have hrow := mapInstall_ok rfl rfl hdrain hlo hhi hlen htgt hrsv hrecs hnum hnum' hnewer hnodes hdoms hme hrole hpair hroom
      hidle hclock
    rw [exec_mapInstall, execMapInstall]
    by_cases hnow : atOnce = true
    · rw [if_pos hnow] at hrow
      rw [hostCmd_ok ht hrow, if_pos hnow]
      rfl
    · rw [if_neg hnow] at hrow
      rw [hostCmd_ok ht hrow, if_neg hnow]
      rfl
  case list =>
    intro r d s s1 c ht hlen hnum hres htgt hrsv
    have hrow : mapQuery c s1 = .ok (okRes (s1.cve.epochs.flatMap fun e =>
        leBytes 16 (e.num ||| e.st.code <<< 16 ||| inFlight s1 e.num <<< 32 ||| e.activateAt <<< 64)), s1) := by
      simp [mapQuery, hlen, hnum, hres, htgt, hrsv]
    rw [exec_mapQuery, execMapQuery, hostCmd_ok ht hrow]
  case one =>
    intro r d s s1 c e ht hlen hnum hfind htgt hrsv hres
    have hrow : mapQuery c s1 = .ok (okRes e.image, s1) := by
      simp [mapQuery, hlen, hnum, hfind, hres, htgt, hrsv]
    rw [exec_mapQuery, execMapQuery, hostCmd_ok ht hrow]
  case activate =>
    intro s e hfind hdue
    simp only [exec_epochActivate, execEpochActivate, hfind, if_pos hdue]
  case drain =>
    intro s num e hfind hdrain hdue
    simp [exec_drainTimeout, execDrainTimeout, hfind, hdrain, us, hdue]

end Sys2Proof.Machine

namespace Sys2Proof.Machine

/-! SUPPORT. The caravan messages and timers (04 R85 to R93, R103, R105). A message that is heard meets its record's state, and a
timer its record's state and time; each rule is the branch that they choose. -/

/-! ### Messages that no record's state alone decides (04 R89, R90, R93; 12 R351) -/

section

variable {s : State} {m : CvnMsg}

/-- An OFFER is judged by R85 and R89 unless this controller is fenced, or marked LOST under the message's epoch. -/
theorem cvnIn_offer {handle : State → State} (hself : ¬ (s.cve.selfLost = true ∧ m.epoch = epochNum s))
    (hfence : s.mru.st ≠ .fenced) : cvnIn Cv.offer m s handle = handle s := by
  have hepoch : (s.cve.selfLost && m.epoch == epochNum s) = false := by simpa using hself
  simp [cvnIn, hepoch, hfence]

/-- With no partner to charge, a caravan that agrees commits at once. -/
theorem cvnVerified_unmirrored {k : Nat} {v : Caravan} (h : mirroring s = false) : cvnVerified s k v = cvnCommit s k v := by
  rw [cvnVerified, if_neg (by simp [h])]

end

/-- Settles O8: under the clause's conditions each message is heard and each timer runs out, and the record's state chooses the
branch. -/
theorem caravanMessages : Obligations.CaravanMessages := by
  unfold Obligations.CaravanMessages
  refine ⟨?offer, ?pull, ?manifest, ?receipt, ?release, ?releaseHome, ?decline, ?withdraw, ?probe, ?probeReceiver, ?answer,
    ?offerTimeout, ?receiptTimeout, ?pulledTimeout, ?probeInterval, ?releaseTimeout, ?bounceOffer, ?bouncePull⟩
  case offer =>
    intro s s2 m cslot key hself hfence hhdr hfits hkey n v s3
    rw [exec_cvnMsgOffer, execCvnMsgOffer, cvnIn_offer hself hfence]
    simp only [hhdr, hfits, if_true, acceptOffer, hkey, n, v, s3]
  case pull =>
    intro s m v x hheard hrec hoff hlive hslot
    rw [exec_cvnMsgPull, execCvnMsgPull, cvnIn_heard hheard]
    simp [hrec, hoff, CState.sending, hlive, hslot]
  case manifest =>
    intro s m v hheard hrec hpull hlive hman hcodec hmir
    rw [exec_cvnMsgManifest, execCvnMsgManifest, cvnIn_heard hheard]
    simp [hrec, hpull, hlive, hman, hcodec, cvnVerified_unmirrored hmir]
  case receipt =>
    intro s m v hheard hrec hstate
    rw [exec_cvnMsgReceipt, execCvnMsgReceipt, cvnIn_heard hheard]
    simp [hrec, hstate]
  case release =>
    intro s m v hheard hus hrec hwait
    rw [exec_cvnMsgRelease, execCvnMsgRelease, cvnIn_heard hheard]
    simp [hus, hrec, hwait]
  case releaseHome =>
    intro s m hheard hus
    rw [exec_cvnMsgRelease, execCvnMsgRelease, cvnIn_heard hheard]
    simp [hus, setOwner]
  case decline =>
    intro s m v hheard hrec hstate hfinal
    rw [exec_cvnMsgDecline, execCvnMsgDecline, cvnIn_heard hheard]
    rcases hstate with h | h | h <;> simp [hrec, h, hfinal]
  case withdraw =>
    intro s m v hheard hrec hpull
    rw [exec_cvnMsgWithdraw, execCvnMsgWithdraw, cvnIn_heard hheard]
    simp [hrec, hpull]
  case probe =>
    intro s m hheard hfrm
    rw [exec_cvnMsgProbe, execCvnMsgProbe, cvnIn_heard hheard]
    cases hrec : getRec s (cvnKey m.src m.cvnId) <;> simp [hfrm, hrec, answerWith, answerSender]
  case probeReceiver =>
    intro s m v hheard hfrm hrec hstate
    rw [exec_cvnMsgProbe, execCvnMsgProbe, cvnIn_heard hheard]
    simp [hfrm, hrec, hstate]
  case answer =>
    intro s m v hheard hrec hdoubt
    rw [exec_cvnMsgProbeAnswer, execCvnMsgProbeAnswer, cvnIn_heard hheard]
    simp only [hrec, hdoubt, if_true]
  case offerTimeout =>
    intro s cvn v hrec hoff hdue
    simp [exec_offerTimeout, execOfferTimeout, hrec, hoff, us, hdue]
  case receiptTimeout =>
    intro s src cvn v hrec hpull hdue
    simp [exec_receiptTimeout, execReceiptTimeout, hrec, hpull, us, hdue]
  case pulledTimeout =>
    intro s cvn v hrec hpulled hdue v1
    simp [exec_pulledTimeout, execPulledTimeout, hrec, hpulled, us, hdue, v1]
  case probeInterval =>
    intro s src cvn v hrec hstate hdue
    simp [exec_probeInterval, execProbeInterval, hrec, hstate, us, hdue]
  case releaseTimeout =>
    intro s src cvn v hrec hwait hnone hdue
    simp [exec_releaseTimeout, execReleaseTimeout, hrec, hwait, hnone, us, hdue]
  case bounceOffer =>
    intro s src cvn t v hrec hbounce hdue hoff
    simp [exec_bounceRetry, execBounceRetry, hrec, hbounce, us, Nat.not_lt.mpr hdue, hoff]
  case bouncePull =>
    intro s src cvn t v hrec hbounce hdue hpull
    simp [exec_bounceRetry, execBounceRetry, hrec, hbounce, us, Nat.not_lt.mpr hdue, hpull]

end Sys2Proof.Machine

namespace Sys2Proof.Machine

/-! SUPPORT. The commands of chapter 05 on pages, lists and nodes homed here, where they complete (05 R114 to R139). The owner's
checks pass on an entry at rest and stand in the message to its home, which is here, as passed; the home's act then finds its
list. -/

/-! ### The message to a home that is here (05 R122, R136, R137) -/

section

variable {c : Cmd} {s : State} {n h hi lo op id : Nat} {x : Slot} {l : PList} {ns : List Nat}
  {checks : List (Except Ans Unit)}

/-- An entry that rests with its list here passes every check of its owner (05 R136, R137; 04 R91). -/
theorem restsHere_checks (hr : restsHere s c h n x l) :
    c.entry s h = .ok (n, x) ∧ x.e.remoteHome = false ∧ x.e.state.terminal = false ∧ openEntry s n x = .ok () ∧
      stateErr (stepState x.e) x.e = .ok () ∧ notBusy x = .ok () := by
  obtain ⟨hentry, -, hlocal, hopen, hstate, hstep, hmove, hrest, -⟩ := hr
  exact ⟨hentry, hlocal, stepState_live hstate, hopen, stateErr_of_true hstate, need_of_true (by simp [hstep, hmove, hrest])⟩

/-- The slot of such an entry, and its list in the directory. -/
theorem restsHere_found (hr : restsHere s c h n x l) : getSlot s n = some x ∧ getList s x.e.gid = some l := by
  obtain ⟨-, hget, -, -, -, -, -, -, hlist⟩ := hr
  exact ⟨hget, hlist⟩

theorem listState_of_restsHere (hr : restsHere s c h n x l) : listState s n x = .ok () := by
  obtain ⟨-, -, -, hopen, hstate, hidle⟩ := restsHere_checks hr
  simp [listState, hopen, hstate, hidle]

theorem fwdReq_of_slot (hget : getSlot s n = some x) :
    fwdReq s n = ⟨x.e.gid, handleOf n x.e.slotGen, x.e.genLen, x.e.promptLen, x.e.maxNew, x.hist, auxBytes x.aux⟩ := by
  simp only [fwdReq, hget]

@[simp] theorem homeMsg_fld : (homeMsg s c op id ns checks).fld hi lo = c.fld hi lo := rfl

@[simp] theorem homeMsg_tenant : (homeMsg s c op id ns checks).tenant = c.tenant := rfl

@[simp] theorem homeMsg_isTenant : (homeMsg s c op id ns checks).isTenant = (c.priv == .tenant) := rfl

@[simp] theorem homeMsg_pay : (homeMsg s c op id ns checks).pay = c.pay := rfl

/-- The list of a message is that of the first request it names. -/
theorem homeMsg_list (hr : restsHere s c h n x l) : (homeMsg s c op id (n :: ns) checks).list s = .ok l := by
  obtain ⟨hget, hlist⟩ := restsHere_found hr
  simp [FwdMsg.list, homeMsg, fwdReq_of_slot hget, hlist]

/-- Checks that have passed at the owner pass at the home. -/
theorem homeMsg_check (hpass : ∀ v ∈ checks, v = .ok ()) (i : Nat) : (homeMsg s c op id ns checks).check i = .ok () := by
  have hverdict : (homeMsg s c op id ns checks).checks[i]? = checks[i]?.map verdict := List.getElem?_map
  rw [FwdMsg.check, hverdict]
  cases hv : checks[i]? with
  | none => rfl
  | some v => rw [hpass v (List.mem_of_getElem? hv)]; rfl

theorem homeMsg_check_listState (hr : restsHere s c h n x l) (i : Nat) :
    (homeMsg s c op id ns [listState s n x]).check i = .ok () :=
  homeMsg_check (by simp [listState_of_restsHere hr]) i

/-- A command on an entry homed here is applied here, and its owner's part follows. -/
theorem atHome_here {e : Entry} {act : HomeAct} {own : State → State} {a : Ans} {s1 : State} (hlocal : e.remoteHome = false)
    (hact : act (homeMsg s c op 0 ns checks) s = .ok (a, s1)) : atHome op c ns e checks act own s = .ok (a, own s1) := by
  simp [atHome, hlocal, hact]

end

/-! ### What the home does (05 R131, R135, R137, R138) -/

section

variable {m : FwdMsg} {s : State} {l : PList}

@[simp] theorem orFull_some {α : Type} (x : α) : orFull (some x) = .ok x := rfl

/-- A part that runs only where it is asked for, and fits there, goes on from what it leaves. -/
theorem orFull_bind_of_ite {α β : Type} {p q : Prop} [Decidable p] [Decidable q] {o : Option α} {x y : α}
    {k : α → Except Ans β} (hpq : q ↔ p) (h : (if p then o else some x) = some y) :
    (if q then orFull o >>= k else k x) = k y := by
  simp only [hpq]
  split at h
  next hp => rw [if_pos hp, h]; rfl
  next hp => rw [if_neg hp, Option.some.inj h]

theorem homeTruncate_ok (hlist : m.list s = .ok l) (hcheck : m.check 0 = .ok ()) (hctx : m.fld 20 0 ≤ l.ctxLen) :
    homeTruncate m s = .ok (okAns, truncate s l.gid (m.fld 20 0)) := by
  simp [homeTruncate, *]

theorem homeListQuery_ok (hlist : m.list s = .ok l) (hcheck : m.check 0 = .ok ()) (hfirst : m.fld 40 18 ≤ l.pages.length) :
    homeListQuery m s = .ok (okRes (listResult l (m.fld 40 18) (m.fld 16 0)), s) := by
  simp [homeListQuery, *]

/-- PREFIX_INSERT of tokens whose chunks all match answers the match (05 R131). -/
theorem homeInsert_matched {q : FwdReq} (hlist : m.list s = .ok l) (hreq : m.reqs.head? = some q) (hcheck : m.check 0 = .ok ())
    (hctx : m.fld 16 0 ≤ l.ctxLen) (hhist : m.fld 16 0 ≤ q.hist.length) (hns : l.ns ≠ 0)
    (hall : m.fld 16 0 ≤ (lookup s l.ns l.tenant (q.hist.take (m.fld 16 0))).length * 16) :
    homeInsert m s = .ok (okR0 (lookupR0 s (lookup s l.ns l.tenant (q.hist.take (m.fld 16 0)))), s) := by
  simp [homeInsert, *]

/-- The state with a node's pages held for a list: each gains a holder, and the node is hit (05 R138 part 1). -/
def nodeAttached (s : State) (l1 : PList) : Option (Nat × PNode) → State
  | none => s
  | some p => hitNodes (l1.pages.foldl incRef s) [p.1]

/-- PLIST_APPEND whose node, if it names one, fits the empty list, and whose parts all find room (05 R138). -/
theorem homeAppend_ok {node : Option (Nat × PNode)} {l2 l3 : PList} {s2 s3 s4 : State} {ids : List Nat}
    (hlist : m.list s = .ok l) (hcheck : m.check 0 = .ok ())
    (hnode : (if m.fld 127 96 = noNode then none else findNode s (m.fld 127 96)) = node)
    (hempty : m.fld 127 96 = noNode ∨ node ≠ none ∧ l.pages = [])
    (hpages : (attached s l node).pages.length + m.fld 42 26 ≤ 4194304)
    (hroom : m.fld 63 43 * l.kvPerTok ≤ ((attached s l node).pages.length + m.fld 42 26) * psize l.cls)
    (hctx : (attached s l node).ctxLen ≤ m.fld 63 43) (hns : m.fld 95 64 = l.ns ∨ (l.ns = 0 ∧ l.pages = []))
    (hfits : nodeFits s l (m.fld 95 64) node = true)
    (hblocks : fitBlocks (nodeAttached s (attached s l node) node) { attached s l node with ns := m.fld 95 64 } = some (l2, s2))
    (htail : (if 0 < m.fld 42 26 ∨ bit (m.fld 25 25) 0 = true then privTail (putList s2 l2) l.gid else some (putList s2 l2))
      = some s3)
    (hnew : (if m.fld 42 26 = 0 then some ([], s3) else appendPages s3 l.gid (m.fld 42 26)) = some (ids, s4))
    (hget : getList s4 l.gid = some l3) :
    homeAppend m s =
      let s5 := oneChange l (putList s4 { l3 with ctxLen := m.fld 63 43 })
      let w := writable s5 (tailPos (attached s l node)) l3 ids
      .ok ({ st := some St.ok, r0 := w.1, result := histBytes w.2 }, s5) := by
  have hfound : (m.fld 127 96 == noNode || node.isSome) = true := by
    rcases hempty with h | ⟨h, -⟩
    · simp [h]
    · simp [Option.isSome_iff_ne_none, h]
  have hclear : (node.isNone || l.pages.isEmpty) = true := by
    rcases hempty with h | ⟨-, h⟩
    · simp [← hnode, h]
    · simp [h]
  have hspace : (m.fld 95 64 == l.ns || (l.ns == 0 && l.pages.isEmpty)) = true := by simpa using hns
  simp only [homeAppend, hlist, hnode, hcheck, ok_bind_eq, need_of_true hfound, lenF_of_true (decide_eq_true hpages),
    lenF_of_true (decide_eq_true hroom), fldF_of_true (decide_eq_true hctx), fldF_of_true hspace, fldF_of_true hfits,
    need_of_true hclear]
  cases node
  all_goals
    rw [nodeAttached] at hblocks
    simp only [hblocks, orFull_some, ok_bind_eq]
    refine (orFull_bind_of_ite (by simp) htail).trans ?_
    split at hnew
    next hnone =>
      cases hnew
      simp [hnone, hget]
    next hsome => simp [hsome, hnew, hget]

/-- PAGE_SHARE of the leading pages of `src` with the empty list `l`, where they and their blocks find room (05 R137). -/
theorem homeShare_ok {q : FwdReq} {src l1 l2 : PList} {s2 s3 : State} {ps : List Nat} {l0 : PList}
    (hps : src.pages.take (pagesFor src.kvPerTok src.cls (m.fld 63 43)) = ps)
    (hl0 : { l with pages := ps, shared := sharedCount s ps, ctxLen := m.fld 63 43, ns := src.ns } = l0)
    (hlist : m.list s = .ok l) (hreq : (m.reqs.drop 1).head? = some q) (hsrc : getList s q.gid = some src)
    (hcheck : ∀ i, m.check i = .ok ()) (hctx : m.fld 63 43 ≤ src.ctxLen) (hns : l.ns = src.ns ∨ l.ns = 0)
    (hempty : l.pages = []) (hgrow : growRes s l.gid (usedUnitsOf l0) = some s2) (hget : getList s2 l.gid = some l1)
    (hblocks : fitBlocks (ps.foldl incRef s2) { l0 with resUnits := l1.resUnits } = some (l2, s3)) :
    homeShare m s = .ok (okAns, oneChange l (putList s3 l2)) := by
  subst hps hl0
  have hsame : (l.ns == src.ns || (l.ns == 0 && l.pages.isEmpty)) = true := by simpa [hempty] using hns
  simp only [homeShare, hlist, hreq, hsrc, hcheck, ok_bind_eq, lenF_of_true (decide_eq_true hctx), fldF_of_true hsame,
    need_of_true (List.isEmpty_iff.mpr hempty), hgrow, orFull_some, hget, Option.getD_some, hblocks]

end

/-! ### The commands (05 R131, R133, R136 to R139) -/

section

variable {c : Cmd} {s : State} {n : Nat} {x : Slot} {l : PList}

theorem pageAlloc_ok {ids : List Nat} {s2 : State} (hlen : c.payLen = 8) (hlo : 1 ≤ c.fld 16 0) (hhi : c.fld 16 0 ≤ 65536)
    (hres : 4 * c.fld 16 0 ≤ c.resLen) (htgt : c.target = 0) (hrsv : c.fld 31 17 = 0) (hcls : c.fld 35 32 ≤ 9)
    (hrsv' : c.fld 63 36 = 0) (hfree : c.fld 16 0 * 2 ^ c.fld 35 32 ≤ objectFree s)
    (halloc : allocPages s (c.fld 35 32) c.tenant true false (c.fld 16 0) = some (ids, s2)) :
    pageAlloc c s = .ok (okRes (histBytes ids), s2) := by
  simp [pageAlloc, *]

theorem pageFree_ok (hlo : 1 ≤ c.fld 16 0) (hhi : c.fld 16 0 ≤ 65536) (hlen : c.payLen = 8 + 4 * c.fld 16 0)
    (htgt : c.target = 0) (hrsv : c.fld 63 17 = 0)
    (hloose : checkEach (fun _ id => c.looseOk s id) 0 (c.recs 8 4 (c.fld 16 0)) = .ok ())
    (hdistinct : (distinct (c.recs 8 4 (c.fld 16 0))).length = (c.recs 8 4 (c.fld 16 0)).length) :
    pageFree c s = .ok (okAns, (c.recs 8 4 (c.fld 16 0)).foldl decRef s) := by
  simp [pageFree, counted_of_fits hlo hhi hlen, htgt, hrsv, hloose, hdistinct]

/-- PLIST_APPEND of a list here: the home's act, and the entry's first append (03 R62). -/
theorem plistAppend_here {a : Ans} {s5 : State} (hlen : c.payLen = 16) (hpages : c.fld 42 26 ≤ 65536)
    (hctx : c.fld 63 43 ≤ 1048576) (hres : 4 * (c.fld 42 26 + 1) ≤ c.resLen) (htgt : c.target >>> 32 = 0)
    (hrsv : c.fld 24 0 = 0) (hr : restsHere s c c.target n x l)
    (hact : homeAppend (homeMsg s c 0x0403 0 [n] [listState s n x]) s = .ok (a, s5)) :
    plistAppend c s = .ok (a, ownAppend n s5) := by
  obtain ⟨hentry, hlocal, hlive, -⟩ := restsHere_checks hr
  simp [plistAppend, hlen, hpages, hctx, hres, tgtRsv_of_shift htgt, hrsv, hentry, hlocal, hlive, atHome_here hlocal hact]

theorem plistTruncate_here (hlen : c.payLen = 8) (htgt : c.target >>> 32 = 0) (hrsv : c.fld 63 21 = 0)
    (hr : restsHere s c c.target n x l) (hctx : c.fld 20 0 ≤ l.ctxLen) :
    plistTruncate c s = .ok (okAns, truncate s l.gid (c.fld 20 0)) := by
  obtain ⟨hentry, hlocal, hlive, -⟩ := restsHere_checks hr
  have hact := homeTruncate_ok (m := homeMsg s c 0x0404 0 [n] [listState s n x]) (homeMsg_list hr)
    (homeMsg_check_listState hr 0) hctx
  simp [plistTruncate, hlen, tgtRsv_of_shift htgt, hrsv, hentry, hlive, atHome_here hlocal hact]

/-- PLIST_QUERY by GLOBAL_ID (05 R137). -/
theorem plistQuery_gid (hlen : c.payLen = 16) (hlo : 1 ≤ c.fld 16 0) (hhi : c.fld 16 0 ≤ 65536)
    (hbound : c.fld 40 18 ≤ 4194304) (hres : 64 + 4 * c.fld 16 0 ≤ c.resLen) (htgt : c.target = 0) (hrsv : c.fld 17 17 = 0)
    (hrsv' : c.fld 63 41 = 0) (hgid : c.fld 127 64 ≠ 0) (hlist : getList s (c.fld 127 64) = some l)
    (hmine : c.tenantOk l.tenant = true) (hfirst : c.fld 40 18 ≤ l.pages.length) :
    plistQuery c s = .ok (okRes (listResult l (c.fld 40 18) (c.fld 16 0)), s) := by
  simp [plistQuery, Cmd.own, *]

theorem prefixLookup_here (hlo : 1 ≤ c.fld 16 0) (hhi : c.fld 16 0 ≤ 65536) (hlen : c.payLen = 16 + 4 * c.fld 16 0)
    (htgt : c.target = 0) (hrsv : c.fld 63 17 = 0) (hns : c.fld 95 64 ≠ 0)
    (htoks : checkEach (fun i t => need (decide (t < 2 ^ 18)) St.fieldRange (inPay (16 + 4 * i + 2))) 0
      (c.recs 16 4 (c.fld 16 0)) = .ok ())
    (hhere : c.fld 127 112 = me s) :
    prefixLookup c s =
      let is := lookup s (c.fld 95 64) (if c.priv = .tenant then c.tenant else c.fld 111 96)
        (wordsOf (c.fld 16 0) (c.pay.drop 16))
      .ok (okR0 (lookupR0 s is), hitNodes s is) := by
  simp [prefixLookup, homeLookup, counted_of_fits hlo hhi hlen, htgt, hrsv, hns, htoks, hhere, -Nat.reducePow]

theorem prefixInsert_matched (hpriv : c.priv ≠ .tenant ∨ c.fld 32 32 = 0) (hlen : c.payLen = 8) (hlo : 16 ≤ c.fld 16 0)
    (hhi : c.fld 16 0 ≤ 65536) (htgt : c.target >>> 32 = 0) (hwhole : c.fld 16 0 % 16 = 0) (hrsv : c.fld 31 17 = 0)
    (hrsv' : c.fld 63 33 = 0) (hr : restsHere s c c.target n x l) (hctx : c.fld 16 0 ≤ l.ctxLen)
    (hhist : c.fld 16 0 ≤ x.hist.length) (hns : l.ns ≠ 0)
    (hall : c.fld 16 0 ≤ (lookup s l.ns l.tenant (x.hist.take (c.fld 16 0))).length * 16) :
    prefixInsert c s = .ok (okR0 (lookupR0 s (lookup s l.ns l.tenant (x.hist.take (c.fld 16 0)))), s) := by
  obtain ⟨hentry, hlocal, hlive, -⟩ := restsHere_checks hr
  obtain ⟨hget, -⟩ := restsHere_found hr
  have hact := homeInsert_matched (m := homeMsg s c 0x0411 0 [n] [listState s n x]) (homeMsg_list hr)
    (congrArg some (fwdReq_of_slot hget)) (homeMsg_check_listState hr 0) hctx hhist hns hall
  simp [prefixInsert, hpriv, hlen, hlo, hhi, tgtRsv_of_shift htgt, hwhole, hrsv, hrsv', hentry, hlive, atHome_here hlocal hact]

theorem prefixEvict_subtree {i : Nat} {p : PNode} (hlen : c.payLen = 8) (hgiven : c.fld 63 32 ≠ noNode)
    (hcount : c.fld 23 0 = 0) (htgt : c.target = 0) (hrsv : c.fld 31 24 = 0) (hfind : findNode s (c.fld 63 32) = some (i, p)) :
    prefixEvict c s =
      let is := subtree s s.ppm.nodes.length i
      let s2 := is.foldl evictNode s
      .ok (okR0 (is.length <<< 32 ||| (prefixUnits s - prefixUnits s2)), s2) := by
  simp [prefixEvict, *]

theorem prefixEvict_lru (hlen : c.payLen = 8) (hnone : c.fld 63 32 = noNode) (hcount : c.fld 23 0 ≠ 0) (htgt : c.target = 0)
    (hrsv : c.fld 31 24 = 0) :
    prefixEvict c s =
      let p := evictLru (c.fld 23 0) s
      .ok (okR0 (p.1 <<< 32 ||| (prefixUnits s - prefixUnits p.2)), p.2) := by
  simp [prefixEvict, *]

/-- PAGE_SHARE between two entries here: the home's act. -/
theorem pageShare_here {k : Nat} {y : Slot} {src : PList} {a : Ans} {s4 : State}
    (hlen : c.payLen = 16) (hsome : c.fld 63 43 ≠ 0) (htgt : c.target >>> 32 = 0)
    (hrsv : c.fld 42 0 = 0) (hrsv' : c.fld 95 64 = 0) (hx : restsHere s c c.target n x l)
    (hy : restsHere s c (c.fld 127 96) k y src) (hctx : c.fld 63 43 ≤ y.e.ctxLen) (hhome : x.e.home = y.e.home)
    (hkv : x.e.kvPerTok = y.e.kvPerTok) (hcls : x.e.pageClass = y.e.pageClass) (hslot : x.e.codecSlot = y.e.codecSlot)
    (hact : homeShare (homeMsg s c 0x0420 0 [n, k] [.ok (), .ok ()]) s = .ok (a, s4)) :
    pageShare c s = .ok (a, s4) := by
  obtain ⟨hentry, hlocal, hlive, hopen, hstate, hidle⟩ := restsHere_checks hx
  obtain ⟨hentry', -, hlive', hopen', hstate', hidle'⟩ := restsHere_checks hy
  simp [pageShare, tgtRsv_of_shift htgt, atHome_here hlocal hact, *]

theorem pageStats_ok (hlen : c.payLen = 0) (hres : 256 ≤ c.resLen) (htgt : c.target = 0) :
    pageStats c s = .ok (okRes (statWords s), s) := by
  simp [pageStats, *]

end

/-- Settles O6: each command's checks pass under the clause's conditions, and its effect, or its home's act, is answered. -/
theorem pageCommands : Obligations.PageCommands := by
  unfold Obligations.PageCommands
  refine ⟨?alloc, ?free, ?append, ?truncate, ?query, ?lookup, ?insert, ?evict, ?lru, ?share, ?stats, ?reclaim⟩
  case alloc =>
    intro r d s s1 s2 c ids ht hlen hlo hhi hres htgt hrsv hcls hrsv' hfree halloc
    rw [exec_pageAlloc, execPageAlloc,
      hostCmd_ok ht (pageAlloc_ok hlen hlo hhi hres htgt hrsv hcls hrsv' hfree halloc)]
  case free =>
    intro r d s s1 c ht hlo hhi hlen htgt hrsv hloose hdistinct
    rw [exec_pageFree, execPageFree, hostCmd_ok ht (pageFree_ok hlo hhi hlen htgt hrsv hloose hdistinct)]
  case append =>
    intro r d s s1 s2 s3 s4 c n x l l2 l3 ids node l1 ht hlen hpages hctx hres htgt hrsv hr hempty hroom hfill hlow hns hfits
      hblocks htail hnew hget s5 w
    have hact := homeAppend_ok (m := homeMsg s1 c 0x0403 0 [n] [listState s1 n x]) (homeMsg_list hr)
      (homeMsg_check_listState hr 0) rfl hempty hroom hfill hlow hns hfits hblocks htail hnew hget
    rw [exec_plistAppend, execPlistAppend, hostCmd_ok ht (plistAppend_here hlen hpages hctx hres htgt hrsv hr hact)]
    rfl
  case truncate =>
    intro r d s s1 c n x l ht hlen htgt hrsv hr hctx
    rw [exec_plistTruncate, execPlistTruncate, hostCmd_ok ht (plistTruncate_here hlen htgt hrsv hr hctx)]
  case query =>
    intro r d s s1 c l ht hlen hlo hhi hbound hres htgt hrsv hrsv' hgid hlist hmine hfirst
    rw [exec_plistQuery, execPlistQuery, hostCmd_ok ht
      (plistQuery_gid hlen hlo hhi hbound hres htgt hrsv hrsv' hgid hlist hmine hfirst), listResult]
  case lookup =>
    intro r d s s1 c is ht hlo hhi hlen htgt hrsv hns htoks hhere
    rw [exec_prefixLookup, execPrefixLookup, hostCmd_ok ht (prefixLookup_here hlo hhi hlen htgt hrsv hns htoks hhere)]
  case insert =>
    intro r d s s1 c n x l got ht hpriv hlen hlo hhi htgt hwhole hrsv hrsv' hr hctx hhist hns hall
    rw [exec_prefixInsert, execPrefixInsert, hostCmd_ok ht
      (prefixInsert_matched hpriv hlen hlo hhi htgt hwhole hrsv hrsv' hr hctx hhist hns hall)]
  case evict =>
    intro r d s s1 c i x is s2 ht hlen hgiven hcount htgt hrsv hfind
    rw [exec_prefixEvict, execPrefixEvict, hostCmd_ok ht (prefixEvict_subtree hlen hgiven hcount htgt hrsv hfind)]
  case lru =>
    intro r d s s1 c p ht hlen hnone hcount htgt hrsv
    rw [exec_prefixEvict, execPrefixEvict, hostCmd_ok ht (prefixEvict_lru hlen hnone hcount htgt hrsv)]
  case share =>
    intro r d s s1 s2 s3 c n k x y l src l1 l2 ps l0 ht hlen hsome htgt hrsv hrsv' hx hy hctx hhome hkv hcls hslot hsrc hns
      hempty hgrow hget hblocks
    obtain ⟨hget', hsrcList⟩ := restsHere_found hy
    have hact := homeShare_ok (m := homeMsg s1 c 0x0420 0 [n, k] [.ok (), .ok ()]) rfl rfl (homeMsg_list hx)
      (congrArg some (fwdReq_of_slot hget')) hsrcList (homeMsg_check (by simp)) hsrc hns hempty hgrow hget hblocks
    rw [exec_pageShare, execPageShare, hostCmd_ok ht
      (pageShare_here hlen hsome htgt hrsv hrsv' hx hy hctx hhome hkv hcls hslot hact)]
  case stats =>
    intro r d s s1 c ht hlen hres htgt
    rw [exec_pageStats, execPageStats, hostCmd_ok ht (pageStats_ok hlen hres htgt)]
  case reclaim =>
    intro s
    rw [exec_reclaim, execReclaim, reclaimN]

end Sys2Proof.Machine

namespace Sys2Proof.Machine

/-! SUPPORT. The ends of parks, unparks, moves and forwards (05 R122; 06 R154, R155). An event acts where its guard holds and
leaves the state to `commit` otherwise, so each rule is its guard. -/

/-- A forward of PLIST_QUERY whose check has passed at its owner is answered with the list (05 R122, R137). -/
theorem homeRun_query {s : State} {m : FwdMsg} {l : PList} (hop : m.op = 0x0405) (hpass : m.checks = [(St.ok, 0)])
    (hlist : m.list s = .ok l) (hfirst : m.fld 40 18 ≤ l.pages.length) :
    homeRun m s = .ok (okRes (listResult l (m.fld 40 18) (m.fld 16 0)), none, s) := by
  have hcheck : m.check 0 = .ok () := by simp [FwdMsg.check, hpass]
  simp [homeRun, hop, homeListQuery_ok hlist hcheck hfirst, plainAct]

/-- The forwarded commands whose answer completes them with nothing left to do at the owner. -/
def plainForward (op : Nat) : Prop := op = 0x0404 ∨ op = 0x0405 ∨ op = 0x0410 ∨ op = 0x0411 ∨ op = 0x0420

/-- Such a command is no park, unpark or move, no command of a step or of durability, and no append. -/
theorem plainForward_kind {op : Nat} (h : plainForward op) :
    op ≠ 0x0208 ∧ op ≠ 0x0209 ∧ op ≠ 0x0502 ∧ op ≠ 0x0B04 ∧ op ≠ 0x0403 ∧ stepOp op = false := by
  rcases h with rfl | rfl | rfl | rfl | rfl <;> decide

/-- Settles O5: each event's guard holds under the clause's conditions. -/
theorem moveAndForwardEvents : Obligations.MoveAndForwardEvents := by
  unfold Obligations.MoveAndForwardEvents
  refine ⟨?move, ?scrub, ?park, ?unpark, ?stale, ?drop, ?query, ?answer, ?late⟩
  case move =>
    intro s n root x hget hpend hready s1
    simp [exec_homeMoveCommit, execHomeMoveCommit, hget, hpend, hready, s1]
  case scrub =>
    intro s j hjob
    simp only [exec_diagScrubDone, execDiagScrubDone, hjob]
  case park =>
    intro s gid p v gs s1 s2 stay hpark hresv hparking hdone
    simp [exec_parkCommit, execParkCommit, hpark, hresv, hparking, hdone, dropPark, gs, s1, s2, stay]
  case unpark =>
    intro s s1 gid p v l hpark hresv hlist hparking hmoved
    simp [exec_unparkDone, execUnparkDone, hpark, hresv, hlist, hparking, hmoved, dropPark]
  case stale =>
    intro s m hboot hepoch
    simp [exec_forward, execForward, hboot, hepoch]
  case drop =>
    intro s id
    rw [dropFwd]
  case query =>
    intro s m l hboot hepoch hrest hop hpass hlist hfirst
    simp [exec_forward, execForward, hboot, hepoch, hrest, homeRun_query hop hpass hlist hfirst, okRes]
  case answer =>
    intro s a w hwait hfrm hop
    obtain ⟨hpark, hunpark, hmove, hdurable, happend, hstep⟩ := plainForward_kind hop
    simp [exec_forwardAnswer, execForwardAnswer, hwait, hfrm, hpark, hunpark, hmove, hdurable, happend, hstep]
  case late =>
    intro s id w hwait hop hlate
    obtain ⟨hpark, hunpark, hmove, hdurable, happend, hstep⟩ := plainForward_kind hop
    have hdue : ¬ now s < w.sentAt + ms := Nat.not_lt.mpr hlate
    simp [exec_forwardTimeout, execForwardTimeout, fwdLost, hwait, hpark, hunpark, hmove, hdurable, hstep, hdue]

end Sys2Proof.Machine

namespace Sys2Proof.Machine

/-! SUPPORT. The tier commands and the parking of lists homed here, where they complete (06 R154, R155, R165, R166, R173). Each
command's checks pass under its clause's conditions; a park or unpark then finds its list and reservation at the home. -/

section

variable {c : Cmd} {s : State}

/-! ### Commands on ranges (06 R165, R166) -/

/-- TIER_HINT without OWN: the granules that the hint pins to the other place start their way there. -/
theorem tierHint_ok (hlen : c.payLen = 24) (htgt : c.target = 0) (hown : bit (c.fld 4 4) 0 = false)
    (hrange : rangeLen (c.fld 191 128) (c.fld 127 64) = true) (hbase : rangeBase (c.fld 191 128) = true)
    (hhint : c.fld 2 0 ≤ 4) (hrsv : c.fld 3 3 = 0) (hrsv' : c.fld 47 5 = 0)
    (hext : c.extentsOk s (c.fld 191 128) (c.fld 127 64) = true) :
    let base := c.fld 191 128
    let len := c.fld 127 64
    let h := c.fld 2 0
    let gs := (if h = 2 then rangeAt s base len .flash else if h = 4 then rangeAt s base len .hbm else []).filter
      fun g => !isDurable s g
    (h = 2 → gs.length ≤ objectFree s) → (h = 4 → objectFlashFits s gs.length = true) →
    tierHint c s = if gs.isEmpty = true then .ok (okAns, setHints (hintWins s base len h) base len h)
      else .ok (laterAns, startJob (setHints (hintWins s base len h) base len h) c.tok .hint (h == 4) gs) := by
  intro base len h gs hfree hfits
  have hroom : need (h != 2 || decide (gs.length ≤ objectFree s)) St.noCapacity 0 = .ok () :=
    need_of_true (by by_cases h2 : h = 2 <;> simp [h2, hfree])
  have hflash : need (h != 4 || objectFlashFits s gs.length) St.noCapacity 0 = .ok () :=
    need_of_true (by by_cases h4 : h = 4 <;> simp [h4, hfits])
  dsimp only [gs, h, base, len] at hroom hflash
  simp [tierHint, hlen, htgt, hown, hrange, hbase, hhint, hrsv, hrsv', hext, hroom, hflash, gs, h, base, len]

/-- TIER_MIGRATE of a range to HBM or to flash. -/
theorem tierMigrate_range (hlen : c.payLen = 32) (htgt : c.target = 0) (hmode : c.fld 3 0 = 1 ∨ c.fld 3 0 = 2)
    (hrange : rangeLen (c.fld 255 192) (c.fld 191 128) = true) (hbase : rangeBase (c.fld 255 192) = true)
    (hrsv : c.fld 111 4 = 0) :
    let base := c.fld 255 192
    let len := c.fld 191 128
    let flash := c.fld 3 0 == 2
    let gs := (rangeAt s base len (if flash then .hbm else .flash)).filter fun g => !isDurable s g
    (flash = false → gs.length ≤ objectFree s) → (flash = true → objectFlashFits s gs.length = true) →
    tierMigrate c s = .ok (laterAns, startJob (setHints s base len (if flash then 3 else 1)) c.tok .migrate flash gs) := by
  intro base len flash gs hfree hfits
  have hrangeMode : c.fld 3 0 ≠ 3 := by omega
  have hknown : 1 ≤ c.fld 3 0 ∧ c.fld 3 0 ≤ 3 := by omega
  have hroom : need (flash || decide (gs.length ≤ objectFree s)) St.noCapacity 0 = .ok () :=
    need_of_true (by cases hf : flash <;> simp [hfree, hf])
  have hflash : need (!flash || objectFlashFits s gs.length) St.noCapacity 0 = .ok () :=
    need_of_true (by cases hf : flash <;> simp [hfits, hf])
  simp only [gs, flash, base, len, beq_iff_eq] at hroom hflash
  simp [tierMigrate, hlen, htgt, hrangeMode, hknown, hrange, hbase, hrsv, hroom, hflash, gs, flash, base, len]

/-- TIER_MIGRATE of a request's home (06 R155). -/
theorem tierMigrate_home {n : Nat} {x : Slot} (hlen : c.payLen = 32) (hnolen : c.fld 191 128 = 0)
    (htgt : c.target >>> 32 = 0) (hmode : c.fld 3 0 = 3) (hrsv : c.fld 111 4 = 0) (hnobase : c.fld 255 192 = 0)
    (hentry : c.entry s c.target = .ok (n, x)) (hopen : openEntry s n x = .ok ()) (hstate : stepState x.e = true)
    (hstep : x.e.inStep = false) (hmove : x.e.movePend = false) (haway : c.fld 127 112 ≠ x.e.home) :
    tierMigrate c s = .ok (laterAns, startHomeMove s c.tok n (c.fld 127 112)) := by
  have hidle : tierMigrate.notBusyMove x = .ok () := need_of_true (by simp [hstep, hmove])
  simp [tierMigrate, hlen, hnolen, tgtRsv_of_shift htgt, hmode, hrsv, hnobase, hentry, hopen, hstate, hidle, haway]

theorem rangeTrim_ok (hlen : c.payLen = 16) (htgt : c.target = 0)
    (hrange : rangeLen (c.fld 127 64) (c.fld 63 0) = true) (hbase : rangeBase (c.fld 127 64) = true)
    (hext : c.extentsOk s (c.fld 127 64) (c.fld 63 0) = true)
    (hshut : (durableShut s && s.tfm.map.any fun kv => decide (c.fld 127 64 / 4096 ≤ kv.1) &&
      decide (kv.1 < (c.fld 127 64 + c.fld 63 0) / 4096) && isDurable s kv.1) = false) :
    let base := c.fld 127 64
    let len := c.fld 63 0
    let s2 := trimRecords 4 (base / 4096) (len / 4096) s
    let s3 := retryWrites (((Tbl.keys s.tfm.map).filter fun g =>
      decide (base / 4096 ≤ g) && decide (g < (base + len) / 4096)).foldl freeGranule s2)
    rangeTrim c s = .ok (laterAns, settleJobs { s3 with tfm := { s3.tfm with
      nextId := s3.tfm.nextId + 1, jobs := Tbl.set s3.tfm.jobs s3.tfm.nextId ⟨c.tok, 0, s2.jnl.seq - 1⟩ } }) := by
  simp [rangeTrim, hlen, htgt, hrange, hbase, hext, hshut]

/-! ### Commands on the whole tier (06 R173) -/

theorem tierStats_ok (hlen : c.payLen = 0) (hres : 128 ≤ c.resLen) (htgt : c.target = 0) :
    tierStats c s = .ok (okRes (tierWords s), s) := by
  simp [tierStats, *]

theorem gcSetWeights_ok (hlen : c.payLen = 8) (htgt : c.target = 0) (hrsv : c.fld 15 0 = 0) (hurgent : 32 ≤ c.fld 27 16)
    (horder : c.fld 27 16 < c.fld 39 28) (hlow : 64 ≤ c.fld 39 28) (hhigh : c.fld 39 28 ≤ 2048) :
    gcSetWeights c s = .ok (okAns, { s with tfm := { s.tfm with
      gc := ⟨c.fld 63 56, c.fld 55 48, c.fld 47 40, c.fld 39 28, c.fld 27 16⟩ } }) := by
  simp [gcSetWeights, *]

theorem flashHealth_ok (hlen : c.payLen = 0) (hres : 4160 ≤ c.resLen) (htgt : c.target = 0) :
    flashHealth c s = .ok (okRes (leBytes 64 (Config.healthSummary [spareBands s, freeBands s, wearNow s,
      s.tfm.blocks.countP fun kv => kv.2.retired]).toNat ++ (List.range 256).flatMap (dieBytes s)), s) := by
  simp [flashHealth, hlen, hres, htgt]

theorem durableFlush_ok (hlen : c.payLen = 0) (htgt : c.target = 0) (hidle : s.jnl.saving = false) :
    durableFlush c s = .ok (pendAns, { s with jnl := { s.jnl with saving := true, saveTok := some c.tok } }) := by
  simp [durableFlush, *]

theorem diagMemScrub_ok (hlen : c.payLen = 8) (htgt : c.target = 0) (hwhat : c.fld 1 0 ≠ 0) (hrsv : c.fld 63 2 = 0)
    (hidle : s.tfm.scrub = none) :
    diagMemScrub c s = .ok (pendAns, { s with tfm := { s.tfm with scrub := some ⟨c.tok, c.fld 1 0, 0, 0⟩ } }) := by
  simp [diagMemScrub, *]

end

/-! ### Parking (06 R154) -/

section

variable {m : FwdMsg} {s : State} {l : PList} {v : Resv}

/-- REQ_PARK at the home: the second charge, and the private pages in HBM on their way to flash. -/
theorem homePark_ok (hlist : m.list s = .ok l) (hcheck : m.check 0 = .ok ()) (hresv : Tbl.get s.rte.resv l.gid = some v)
    (hidle : Tbl.has s.tfm.parks l.gid = false) (hfits : flashFits s v.flash = true) :
    let s1 := setPark (setResv s l.gid { v with both := true }) l.gid ⟨true, m.frm, m.id⟩
    let gs := ((parkPages s l).flatMap pageGs).filter fun g => (tmap s g).place == .hbm
    homePark m s = .ok (pendAns, fillRow 1 (gs.foldl (startPark (.park l.gid) true 4) s1)) := by
  simp [homePark, hlist, hcheck, hresv, hidle, hfits]

/-- REQ_UNPARK at the home: the second charge under the caps, and the pages in flash on their way back. -/
theorem homeUnpark_ok (hlist : m.list s = .ok l) (hcheck : m.check 0 = .ok ()) (hresv : Tbl.get s.rte.resv l.gid = some v)
    (hidle : Tbl.has s.tfm.parks l.gid = false) (hcaps : capsOk (delResv s l.gid) v.cls v.tenant v.hbm = true)
    (hfits : hbmFits s v.hbm = true) :
    let s1 := setPark (setResv s l.gid { v with both := true }) l.gid ⟨false, m.frm, m.id⟩
    let gs := (l.pages.flatMap pageGs).filter fun g => (tmap s g).place == .flash
    homeUnpark m s = .ok (pendAns, gs.foldl (startPark (.unpark l.gid) false 1) s1) := by
  simp [homeUnpark, hlist, hcheck, hresv, hidle, hcaps, hfits]

end

section

variable {c : Cmd} {s : State} {n op : Nat} {x : Slot}

/-- The list of a message is that of the first request it names, whatever the request's state. -/
theorem homeMsg_list_of_slot {l : PList} {id : Nat} {ns : List Nat} {checks : List (Except Ans Unit)}
    (hget : getSlot s n = some x) (hlist : getList s x.e.gid = some l) :
    (homeMsg s c op id (n :: ns) checks).list s = .ok l := by
  simp [FwdMsg.list, homeMsg, fwdReq_of_slot hget, hlist]

/-- REQ_PARK and REQ_UNPARK of a list homed here: the home acts, and the entry is marked. -/
theorem parkCmd_here {states : List RState} {act : HomeAct} {a : Ans} {s1 : State} (hlen : c.payLen = 0)
    (htgt : c.target >>> 32 = 0) (hentry : c.entry s c.target = .ok (n, x)) (hlocal : x.e.remoteHome = false)
    (hopen : openEntry s n x = .ok ()) (hstep : x.e.inStep = false) (hmove : x.e.movePend = false)
    (hrest : x.restoring = false) (hstate : states.contains x.e.state = true)
    (hact : act (homeMsg s c op 0 [n] [.ok ()]) s = .ok (a, s1)) :
    parkCmd op states act c s = .ok (a, ownMove n c.tok s1) := by
  have hidle : parkBusy x = .ok () := need_of_true (by simp [hstep, hmove, hrest])
  simp [parkCmd, hlen, tgtRsv_of_shift htgt, hentry, hopen, hidle, stateIn_of_contains hstate, hlocal,
    atHome_here hlocal hact]

end

/-- Settles O4: each command's checks pass under the clause's conditions, and its effect, or its home's act, is answered. -/
theorem tierCommands : Obligations.TierCommands := by
  unfold Obligations.TierCommands
  refine ⟨?hint, ?migrate, ?home, ?trim, ?stats, ?weights, ?health, ?flush, ?scrub, ?park, ?unpark⟩
  case hint =>
    intro r d s s1 c base len h gs ht hlen htgt hown hrange hbase hhint hrsv hrsv' hext hfree hfits
    have hrow := tierHint_ok hlen htgt hown hrange hbase hhint hrsv hrsv' hext hfree hfits
    rw [exec_tierHint, execTierHint]
    split
    next hnone => rw [hostCmd_ok ht (hrow.trans (if_pos hnone))]
    next hsome => rw [hostCmd_ok ht (hrow.trans (if_neg hsome)), answer_later]
  case migrate =>
    intro r d s s1 c base len flash gs ht hlen htgt hmode hrange hbase hrsv hfree hfits
    rw [exec_tierMigrate, execTierMigrate,
      hostCmd_ok ht (tierMigrate_range hlen htgt hmode hrange hbase hrsv hfree hfits), answer_later]
  case home =>
    intro r d s s1 c n x ht hlen hnolen htgt hmode hrsv hnobase hentry hopen hstate hstep hmove haway
    rw [exec_tierMigrate, execTierMigrate, hostCmd_ok ht
      (tierMigrate_home hlen hnolen htgt hmode hrsv hnobase hentry hopen hstate hstep hmove haway), answer_later]
  case trim =>
    intro r d s s1 c base len s2 s3 ht hlen htgt hrange hbase hext hshut
    rw [exec_rangeTrim, execRangeTrim, hostCmd_ok ht (rangeTrim_ok hlen htgt hrange hbase hext hshut), answer_later]
  case stats =>
    intro r d s s1 c ht hlen hres htgt
    rw [exec_tierStats, execTierStats, hostCmd_ok ht (tierStats_ok hlen hres htgt)]
  case weights =>
    intro r d s s1 c ht hlen htgt hrsv hurgent horder hlow hhigh
    rw [exec_gcSetWeights, execGcSetWeights,
      hostCmd_ok ht (gcSetWeights_ok hlen htgt hrsv hurgent horder hlow hhigh)]
  case health =>
    intro r d s s1 c ht hlen hres htgt
    rw [exec_flashHealth, execFlashHealth, hostCmd_ok ht (flashHealth_ok hlen hres htgt)]
  case flush =>
    intro r d s s1 c ht hlen htgt hidle
    rw [exec_durableFlush, execDurableFlush, hostCmd_ok ht (durableFlush_ok hlen htgt hidle)]
  case scrub =>
    intro r d s s1 c ht hlen htgt hwhat hrsv hidle
    rw [exec_diagMemScrub, execDiagMemScrub, hostCmd_ok ht (diagMemScrub_ok hlen htgt hwhat hrsv hidle)]
  case park =>
    intro r d s s1 c n x l v s2 gs ht hlen htgt hentry hget hlocal hopen hstep hmove hrest hstate hlist hresv hnone hfits
    have hallowed : [RState.admitted, .generate].contains x.e.state = true := by rcases hstate with h | h <;> rw [h] <;> rfl
    have hact := homePark_ok (m := homeMsg s1 c 0x0208 0 [n] [.ok ()]) (homeMsg_list_of_slot hget hlist)
      (homeMsg_check (by simp) 0) hresv hnone hfits
    rw [exec_reqPark, execReqPark, reqPark,
      hostCmd_ok ht (parkCmd_here hlen htgt hentry hlocal hopen hstep hmove hrest hallowed hact)]
    rfl
  case unpark =>
    intro r d s s1 c n x l v s2 gs ht hlen htgt hentry hget hlocal hopen hstep hmove hrest hstate hlist hresv hnone hcaps
      hfits
    have hallowed : [RState.parked].contains x.e.state = true := by rw [hstate]; rfl
    have hact := homeUnpark_ok (m := homeMsg s1 c 0x0209 0 [n] [.ok ()]) (homeMsg_list_of_slot hget hlist)
      (homeMsg_check (by simp) 0) hresv hnone hcaps hfits
    rw [exec_reqUnpark, execReqUnpark, reqUnpark,
      hostCmd_ok ht (parkCmd_here hlen htgt hentry hlocal hopen hstep hmove hrest hallowed hact)]
    rfl

end Sys2Proof.Machine

namespace Sys2Proof.Machine

/-! SUPPORT. The codec commands where they complete (07 R176 to R186, R195, R201 to R204, R448, R449). -/

/-! ### Checks that pass -/

section

variable {α β : Type} {p : Prop} [Decidable p] {f f' : Except Ans Unit} {k : Unit → Except Ans β}
  {s : State} {x : CSlot} {g : Gen} {base len : Nat}

/-- A check that passes, or a part that has its value, lets a command go on. -/
theorem bind_of_ok {e : Except Ans α} {y : α} {f : α → Except Ans β} (h : e = .ok y) : (e >>= f) = f y := by
  rw [h, ok_bind_eq]

/-- A check made only where it is asked for, and passed there, lets a command go on. -/
theorem bind_of_asked (h : p → f = .ok ()) : (if p then f >>= k else k ()) = k () := by
  split
  next hp => rw [h hp, ok_bind_eq]
  next => rfl

theorem bind_of_asked_both (h : p → f = .ok () ∧ f' = .ok ()) : (if p then f >>= fun _ => f' >>= k else k ()) = k () := by
  split
  next hp =>
    obtain ⟨hf, hf'⟩ := h hp
    rw [hf, hf', ok_bind_eq, ok_bind_eq]
  next => rfl

theorem not_or_of_asked {b b' : Bool} (h : b = true → b' = true) : (!b || b') = true := by
  cases b
  · rfl
  · exact h rfl

theorem canRead_of_ok (h : rangeRead s base len = St.ok) : canRead s base len = .ok () := need_of_true (by simp [h])

theorem canWrite_of_ok (h : rangeWrite s base len = St.ok) : canWrite s base len = .ok () := need_of_true (by simp [h])

theorem quantSlot_of_cond (h : x.cond = .quant) : quantSlot x = .ok () := need_of_true (by simp [h])

theorem newTab_of_newest (h : x.newest = some g) : newTab x = .ok (qtab g) := by rw [newTab, h]

theorem encTab_of_encGen (h : encGen x = some g) : encTab x = .ok (qtab g) := by rw [encTab, h]

/-- A range within the object region passes the check of its end, which a base past the region passes too. -/
theorem range_in_objects (h : base + len ≤ objectBytes) : base + len ≤ max objectBytes base := h.trans (Nat.le_max_left ..)

end

/-! ### Tables of a slot (07 R176, R177, R448, R449) -/

section

variable {c : Cmd} {s : State} {g : Gen}

theorem codecTableLoad_clear :
    let h := leNat (c.pay.take 64)
    let k := bits h 9 4
    loadLens c h = .ok () → c.target = 0 → loadFields h = .ok () → bits h 3 0 = 0 →
    slotMine (c.priv == .tenant) c.tenant (cslot s k) = true → (cslot s k).newest = some g →
    codecTableLoad c s =
      .ok (okR0 (g.tableId <<< 32 ||| g.tag), retireGens (setCSlot s k { cslot s k with cleared := true }) k) := by
  intro h k hlens htgt hfields hclear hmine hnew
  simp only [codecTableLoad]
  rw [bind_of_ok hlens, bind_of_ok (tgtRsv_of_zero htgt), bind_of_ok hfields, bind_of_ok (need_of_true hmine),
    if_pos hclear, clearSlot, hnew]
  rfl

/-- A table that is new to its slot becomes the slot's newest generation. -/
theorem codecTableLoad_add :
    let h := leNat (c.pay.take 64)
    let body := c.pay.drop 64
    let k := bits h 9 4
    let x := cslot s k
    let id := crc32c (tableBytes h body)
    let tag := if bits h 15 12 < 8 then bits h 15 12 else lowestNot (x.gens.map (·.tag)) 8 0
    let x1 : CSlot := { x with
      cond := if bits h 3 0 = 1 then .lossless else .quant, tenant := if x.gens.isEmpty then c.tenant else x.tenant
      gens := x.gens ++ [⟨tag, h, body, id, s.cdu.loadSeq + 1, 0⟩], cleared := false }
    loadLens c h = .ok () → c.target = 0 → loadFields h = .ok () → bits h 3 0 ≠ 0 →
    slotMine (c.priv == .tenant) c.tenant x = true → (bits h 3 0 = 2 → loadStep2 (loadTab h body) body = .ok ()) →
    loadStep3 x (bits h 3 0) (loadTab h body) = .ok () → (x.gens.all fun g => g.tableId != id) = true →
    x.gens.length < 8 → (x.gens.map (·.tag)).contains (bits h 15 12) = false →
    codecTableLoad c s = .ok (okR0 (id <<< 32 ||| tag),
      retireGens (setCSlot { s with cdu := { s.cdu with loadSeq := s.cdu.loadSeq + 1 } } k x1) k) := by
  intro h body k x id tag x1 hlens htgt hfields hload hmine htab hlayout hnew hroom htag
  have hfree : (decide (x.gens.length < 8) && !(x.gens.map (·.tag)).contains (bits h 15 12)) = true := by
    rw [htag, decide_eq_true hroom]; rfl
  simp only [codecTableLoad]
  rw [bind_of_ok hlens, bind_of_ok (tgtRsv_of_zero htgt), bind_of_ok hfields, bind_of_ok (need_of_true hmine), if_neg hload,
    ok_bind_eq, bind_of_asked htab, bind_of_ok hlayout, bind_of_ok (need_of_true hnew), bind_of_ok (need_of_true hfree)]
  rfl

theorem codecTableQuery_ok (hlen : c.payLen = 8) (hres : 288 ≤ c.resLen) (htgt : c.target = 0) (hrsv : c.fld 63 6 = 0)
    (hmine : slotMine (c.priv == .tenant) c.tenant (cslot s (c.fld 5 0)) = true) :
    codecTableQuery c s =
      let x := cslot s (c.fld 5 0)
      .ok (okRes (slotRecord x ++ (List.range 8).flatMap (genRecord x)), s) := by
  simp [codecTableQuery, *]

end

/-! ### Objects coded and decoded without loss (07 R182 to R186, R201) -/

section

variable {c : Cmd} {s s2 : State} {g : Gen} {i : Index} {coded : Nat}

/-- CODEC_COMPRESS: the blocks and their index are written, and each block that is not RAW holds its generation. -/
theorem codecCompress_ok :
    let src := c.fld 319 256
    let base := c.fld 255 192
    let idx := c.fld 191 128
    let total := c.fld 127 88
    let limit := c.fld 87 48
    let n := blocksOf total
    let slot := c.fld 5 0
    let ten := c.priv == .tenant
    let blocks := (chunks 65536 n (devRead s src total)).map fun b => some (losslessBlock slot g b)
    c.payLen = 40 → n * 65552 ≤ limit → base + limit ≤ objectBytes → 1 ≤ total → total ≤ 1099511562240 →
    src + total ≤ objectBytes → idx + indexLen n ≤ objectBytes → c.target = 0 → c.fld 47 6 = 0 → objAddr idx = true →
    objAddr base = true → objAddr src = true → rangeMine s ten c.tenant src total = true →
    rangeMine s ten c.tenant base limit = true → rangeMine s ten c.tenant idx (indexLen n) = true →
    slotMine ten c.tenant (cslot s slot) = true → (cslot s slot).cond = .lossless → encGen (cslot s slot) = some g →
    rangeRead s src total = St.ok → rangeWrite s base limit = St.ok → rangeWrite s idx (indexLen n) = St.ok →
    writeObject (readAll s src total) base idx total 0 slot 1 blocks = some (coded, s2) →
    codecCompress c s = .ok (pendAns, startCodecJob
      (holdN (holdGens s2 [(slot, g.tag)]) slot g.tag
        (blocks.countP fun b => !(b.map fun bs => (blkHdr (leNat (bs.take 16))).raw).getD true))
      c.tok (heldAs s2 [(slot, g.tag)]) (okR0 coded)) := by
  intro src base idx total limit n slot ten blocks hlen hroom hbase hsome htotal hsrc hidx htgt hrsv haidx habase hasrc
    hmsrc hmbase hmidx hmslot hcond hgen hread hwrite hwidx hobj
  have hlimit : (decide (n * 65552 ≤ limit) && decide (base + limit ≤ max objectBytes base)) = true := by
    simp [hroom, range_in_objects hbase]
  have hlengths : (decide (1 ≤ total) && decide (total ≤ 1099511562240) && decide (src + total ≤ max objectBytes src) &&
      decide (idx + indexLen n ≤ max objectBytes idx)) = true := by
    simp [hsome, htotal, range_in_objects hsrc, range_in_objects hidx, -Nat.reducePow]
  have hmine : (rangeMine s ten c.tenant src total && rangeMine s ten c.tenant base limit &&
      rangeMine s ten c.tenant idx (indexLen n) && slotMine ten c.tenant (cslot s slot)) = true := by
    simp [hmsrc, hmbase, hmidx, hmslot]
  simp only [codecCompress]
  rw [bind_of_ok (lenIs_of_eq hlen), bind_of_ok (lenF_of_true hlimit), bind_of_ok (lenF_of_true hlengths),
    bind_of_ok (tgtRsv_of_zero htgt), bind_of_ok (rsv_of_zero hrsv), bind_of_ok (fldF_of_true haidx),
    bind_of_ok (fldF_of_true habase), bind_of_ok (fldF_of_true hasrc), bind_of_ok (need_of_true hmine),
    bind_of_ok (fldF_of_true (by simp [hcond, slot])), hgen]
  dsimp only
  rw [bind_of_ok (canRead_of_ok hread), bind_of_ok (canWrite_of_ok hwrite), bind_of_ok (canWrite_of_ok hwidx), hobj]
  rfl

/-- CODEC_DECOMPRESS: what decodes is written, and what does not is poisoned. -/
theorem codecDecompress_ok :
    let idx := c.fld 255 192
    let dest := c.fld 191 128
    let dlen := c.fld 127 88
    let first := c.fld 87 64
    let count := c.fld 63 40
    let ten := c.priv == .tenant
    let ks := granules first count
    let bytes := ks.foldl (fun a k => a + impliedRaw i k) 0
    let rs := ks.map (decodeBlkOut s idx i)
    c.payLen = 32 → 1 ≤ count → count ≤ 65536 → dest + dlen ≤ objectBytes → 2 * count ≤ c.resLen → c.target = 0 →
    c.fld 39 0 = 0 → objAddr dest = true → objAddr idx = true → rangeMine s ten c.tenant idx 64 = true →
    rangeMine s ten c.tenant dest dlen = true → readIndex s idx = .ok i → objectMine s ten c.tenant idx i = true →
    first + count ≤ i.count → bytes ≤ dlen → rangeWrite s dest bytes = St.ok →
    writePieces (readAll s i.base i.coded) dest
      ((ks.zip rs).map fun kr => (decodedBytes (impliedRaw i kr.1) kr.2, isOk kr.2)) = some s2 →
    codecDecompress c s = .ok (decodeAns (rs.map statusOf), s2) := by
  intro idx dest dlen first count ten ks bytes rs hlen hsome hcount hdest hres htgt hrsv hadest haidx hmidx hmdest hindex
    hobj hblocks hfits hwrite hpieces
  simp only [codecDecompress]
  rw [bind_of_ok (lenIs_of_eq hlen), bind_of_ok (lenF_of_true (by simp [hsome, hcount, count])),
    bind_of_ok (lenF_of_true (decide_eq_true (range_in_objects hdest))), bind_of_ok (bound_of_le hres),
    bind_of_ok (tgtRsv_of_zero htgt), bind_of_ok (rsv_of_zero hrsv), bind_of_ok (fldF_of_true hadest),
    bind_of_ok (fldF_of_true haidx), bind_of_ok (need_of_true (Bool.and_eq_true_iff.mpr ⟨hmidx, hmdest⟩)), hindex]
  dsimp only
  rw [bind_of_ok (need_of_true hobj), bind_of_ok (lenF_of_true (decide_eq_true hblocks)),
    bind_of_ok (lenF_of_true (decide_eq_true hfits)), bind_of_ok (canWrite_of_ok hwrite), hpieces]
  rfl

end

/-! ### Objects quantized (07 R202) -/

section

variable {c : Cmd} {p : QPay} {s s2 : State} {g g0 : Gen} {i : Index} {coded : Nat}

theorem quantObject_ok :
    let ten := c.priv == .tenant
    let n := blocksOf p.total
    let q := qtab g
    let xs := bf16sAt s p.src (p.total / 2)
    let units := objUnits q p.row xs
    let blocks := objBlocks q p.slot xs (groupScales q p.row xs.length (unitScales s q p units))
    rangeMine s ten c.tenant p.src p.total = true → rangeMine s ten c.tenant p.base p.limit = true →
    rangeMine s ten c.tenant p.idx (indexLen n) = true → slotMine ten c.tenant (cslot s p.slot) = true →
    (cslot s p.slot).cond = .quant → (cslot s p.slot).newest = some g0 → objShape (qtab g0) p = .ok () →
    (p.given = true → scaleRoom (qtab g0) p = .ok ()) → encGen (cslot s p.slot) = some g →
    rangeRead s p.src p.total = St.ok → rangeWrite s p.base p.limit = St.ok → rangeWrite s p.idx (indexLen n) = St.ok →
    (p.given = true → rangeMine s ten c.tenant p.scaleAddr (2 * units.length) = true ∧
      rangeRead s p.scaleAddr (2 * units.length) = St.ok) →
    writeObject (readAll s p.src p.total) p.base p.idx p.total p.row p.slot 2 (blocks.map fun b => some b.1)
      = some (coded, s2) →
    quantObject c p s = .ok (pendAns, startCodecJob
      (countLost (holdN (holdGens s2 [(p.slot, q.tag)]) p.slot q.tag blocks.length) p.slot
        (blocks.foldl (fun a b => a.add b.2) ⟨0, 0⟩)) c.tok (heldAs s2 [(p.slot, q.tag)]) (okR0 coded)) := by
  intro ten n q xs units blocks hmsrc hmbase hmidx hmslot hcond hnew hshape hroom hgen hread hwrite hwidx hscales hobj
  have hmine : (rangeMine s ten c.tenant p.src p.total && rangeMine s ten c.tenant p.base p.limit &&
      rangeMine s ten c.tenant p.idx (indexLen n) && slotMine ten c.tenant (cslot s p.slot)) = true := by
    simp [hmsrc, hmbase, hmidx, hmslot]
  simp only [quantObject]
  rw [bind_of_ok (need_of_true hmine), bind_of_ok (quantSlot_of_cond hcond), newTab_of_newest hnew, ok_bind_eq,
    bind_of_ok hshape, ok_bind_eq, bind_of_asked hroom, bind_of_ok (encTab_of_encGen hgen), bind_of_ok (canRead_of_ok hread),
    bind_of_ok (canWrite_of_ok hwrite), bind_of_ok (canWrite_of_ok hwidx),
    bind_of_asked_both fun hgiven => (hscales hgiven).imp need_of_true canRead_of_ok, hobj]
  rfl

/-- CODEC_DEQUANTIZE of an object: the elements that decode are written, and what does not decode is poisoned. -/
theorem dequantObject_ok :
    let ten := c.priv == .tenant
    let ks := List.range (blocksOf p.total)
    let elems := ks.foldl (fun a k => a + impliedRaw i k / 2) 0
    let rs := ks.map fun k => elemsOf (decodeBlk s p.idx i k)
    rangeMine s ten c.tenant p.idx 64 = true → rangeMine s ten c.tenant p.base p.limit = true →
    slotMine ten c.tenant (cslot s p.slot) = true → (cslot s p.slot).cond = .quant →
    (cslot s p.slot).newest = some g0 → objShape (qtab g0) p = .ok () → readIndex s p.idx = .ok i →
    objectMine s ten c.tenant p.idx i = true → blocksOf p.total ≤ i.count → elems * outSize p.bf16Out ≤ p.limit →
    rangeWrite s p.base (elems * outSize p.bf16Out) = St.ok →
    writePieces (readAll s i.base i.coded) p.base
      ((ks.zip rs).map fun kr => elemPiece p.bf16Out (impliedRaw i kr.1 / 2) kr.2) = some s2 →
    dequantObject c p s = .ok (decodeAns rs, s2) := by
  intro ten ks elems rs hmidx hmbase hmslot hcond hnew hshape hindex hobj hblocks hfits hwrite hpieces
  have hmine : (rangeMine s ten c.tenant p.idx 64 && rangeMine s ten c.tenant p.base p.limit &&
      slotMine ten c.tenant (cslot s p.slot)) = true := by
    simp [hmidx, hmbase, hmslot]
  simp only [dequantObject]
  rw [bind_of_ok (need_of_true hmine), bind_of_ok (quantSlot_of_cond hcond), bind_of_ok (newTab_of_newest hnew),
    bind_of_ok hshape, hindex]
  dsimp only
  rw [bind_of_ok (need_of_true hobj), bind_of_ok (lenF_of_true (decide_eq_true hblocks)),
    bind_of_ok (lenF_of_true (decide_eq_true hfits)), bind_of_ok (canWrite_of_ok hwrite), hpieces]
  rfl

/-- The first pass alone: one scale a unit. -/
theorem writeScales_ok {t : State} {a : Nat} {q : QTab} {units : List (List (BitVec 16))}
    (hwrite : rangeWrite t a (2 * units.length) = St.ok)
    (hbytes : devWrite t a (units.flatMap fun u => leBytes 2 (scaleOf q (clipPoint q u)).toNat) = some s2) :
    writeScales t a q units = .ok (okR0 units.length, s2) := by
  rw [writeScales, bind_of_ok (canWrite_of_ok hwrite), hbytes]
  rfl

theorem scaleObject_ok :
    let ten := c.priv == .tenant
    let units := objUnits (qtab g) p.row (bf16sAt s p.src (p.total / 2))
    rangeMine s ten c.tenant p.src p.total = true → slotMine ten c.tenant (cslot s p.slot) = true →
    (cslot s p.slot).cond = .quant → (cslot s p.slot).newest = some g0 → objShape (qtab g0) p = .ok () →
    scaleRoom (qtab g0) p = .ok () → encGen (cslot s p.slot) = some g →
    rangeMine s ten c.tenant p.scaleAddr (2 * units.length) = true → rangeRead s p.src p.total = St.ok →
    rangeWrite (readAll s p.src p.total) p.scaleAddr (2 * units.length) = St.ok →
    devWrite (readAll s p.src p.total) p.scaleAddr
      (units.flatMap fun u => leBytes 2 (scaleOf (qtab g) (clipPoint (qtab g) u)).toNat) = some s2 →
    scaleObject c p s = .ok (okR0 units.length, s2) := by
  intro ten units hmsrc hmslot hcond hnew hshape hroom hgen hmscales hread hwrite hbytes
  simp only [scaleObject]
  rw [bind_of_ok (need_of_true (Bool.and_eq_true_iff.mpr ⟨hmsrc, hmslot⟩)), bind_of_ok (quantSlot_of_cond hcond),
    newTab_of_newest hnew, ok_bind_eq, bind_of_ok hshape, ok_bind_eq, bind_of_ok hroom, bind_of_ok (encTab_of_encGen hgen),
    bind_of_ok (need_of_true hmscales), bind_of_ok (canRead_of_ok hread)]
  exact writeScales_ok hwrite hbytes

end

/-! ### Whether a command of R202 names an object (07 R202) -/

section

variable {c : Cmd} {s : State}

theorem codecQuantize_object (hchecks : qpayChecks c .quantize (qpay (leNat c.pay)) = .ok ())
    (hkv : (qpay (leNat c.pay)).kv = false) : codecQuantize c s = quantObject c (qpay (leNat c.pay)) s := by
  simp only [codecQuantize, hchecks, hkv]
  rfl

theorem codecDequantize_object (hchecks : qpayChecks c .dequantize (qpay (leNat c.pay)) = .ok ())
    (hkv : (qpay (leNat c.pay)).kv = false) : codecDequantize c s = dequantObject c (qpay (leNat c.pay)) s := by
  simp only [codecDequantize, hchecks, hkv]
  rfl

theorem codecScaleFind_object (hchecks : qpayChecks c .scaleFind (qpay (leNat c.pay)) = .ok ())
    (hkv : (qpay (leNat c.pay)).kv = false) : codecScaleFind c s = scaleObject c (qpay (leNat c.pay)) s := by
  simp only [codecScaleFind, hchecks, hkv]
  rfl

end

/-! ### Objects re-coded (07 R204) -/

section

variable {c : Cmd} {s s2 : State} {g : Gen} {i : Index} {coded : Nat}

/-- CODEC_RECODE modes 2 and 3: each live generation that a block names loses or gains a reference for it. -/
theorem codecRecode_refs :
    let ten := c.priv == .tenant
    let idx := c.fld 255 192
    let live := (namedGens s idx i).filterMap id
    c.payLen = 32 → c.target = 0 → (c.fld 3 0 = 2 ∨ c.fld 3 0 = 3) → c.fld 23 4 = 0 → objAddr idx = true →
    rangeMine s ten c.tenant idx 64 = true → readIndex s idx = .ok i → objectMine s ten c.tenant idx i = true →
    slotMine ten c.tenant (cslot s i.slot) = true →
    (live.all fun kt => slotMine ten c.tenant (cslot s kt.1)) = true →
    codecRecode c s = .ok (pendAns,
      if c.fld 3 0 = 2 then startCodecJob (live.foldl (fun a kt => dropN a kt.1 kt.2 1) s) c.tok [] (okR0 live.length)
      else startCodecJob (live.foldl (fun a kt => holdN a kt.1 kt.2 1) s) c.tok []
        { st := some St.ok, r0 := live.length, detail := (namedGens s idx i).length - live.length }) := by
  intro ten idx live hlen htgt hmode hrsv haidx hmidx hindex hobj hmslot hmlive
  have hone : c.fld 3 0 ≠ 1 := by omega
  have hfour : c.fld 3 0 ≠ 4 := by omega
  have hknown : (decide (1 ≤ c.fld 3 0) && decide (c.fld 3 0 ≤ 4)) = true := by
    rcases hmode with h | h <;> rw [h] <;> rfl
  simp only [codecRecode, if_neg hone, if_neg hfour]
  rw [bind_of_ok (lenIs_of_eq hlen), bind_of_ok (tgtRsv_of_zero htgt), bind_of_ok (fldF_of_true hknown),
    bind_of_ok (rsv_of_zero hrsv), bind_of_ok (fldF_of_true (by simp [haidx, hfour, idx])), bind_of_ok (need_of_true hmidx),
    hindex]
  dsimp only
  rw [bind_of_ok (need_of_true (Bool.and_eq_true_iff.mpr ⟨hobj, hmslot⟩)), bind_of_ok (need_of_true hmlive)]
  split <;> rfl

theorem recodeObject_ok {idx base nidx limit : Nat} :
    let ten := c.priv == .tenant
    let out := ((List.range i.count).map (decodeBlk s idx i)).map (recodeBlock i.slot g)
    let bad := out.countP fun b => b.1.isNone
    let named := out.countP fun b => !((b.1.map fun bs => (blkHdr (leNat (bs.take 16))).raw).getD true)
    let old := (namedGens s idx i).filterMap id
    let used := ((i.slot, g.tag) :: old).eraseDups
    let s3 := countLost (holdN (holdGens s2 used) i.slot g.tag named) i.slot (out.foldl (fun a b => a.add b.2) ⟨0, 0⟩)
    i.count * 65552 ≤ limit → base + limit ≤ objectBytes →
    rangeMine s ten c.tenant base limit = true → rangeMine s ten c.tenant nidx (indexLen i.count) = true →
    slotMine ten c.tenant (cslot s i.slot) = true → encGen (cslot s i.slot) = some g → rangeWrite s base limit = St.ok →
    rangeWrite s nidx (indexLen i.count) = St.ok →
    writeObject (readAll s i.base i.coded) base nidx i.total i.rowLen i.slot i.kind (out.map (·.1)) = some (coded, s2) →
    recodeObject c idx base nidx limit i s = .ok (pendAns, startCodecJob (old.foldl (fun a kt => dropN a kt.1 kt.2 1) s3)
      c.tok (heldAs s2 used) { st := some St.ok, r0 := i.count - bad, detail := bad }) := by
  intro ten out bad named old used s3 hroom hbase hmbase hmnidx hmslot hgen hwrite hwidx hobj
  have hmine : (rangeMine s ten c.tenant base limit && rangeMine s ten c.tenant nidx (indexLen i.count) &&
      slotMine ten c.tenant (cslot s i.slot)) = true := by
    simp [hmbase, hmnidx, hmslot]
  simp only [recodeObject]
  rw [bind_of_ok (need_of_true hmine), bind_of_ok (lenF_of_true (by simp [hroom, range_in_objects hbase])), hgen]
  dsimp only
  rw [bind_of_ok (canWrite_of_ok hwrite), bind_of_ok (canWrite_of_ok hwidx), hobj]
  rfl

/-- CODEC_RECODE mode 1 is the re-coding of its object, once the object's index is read. -/
theorem codecRecode_object :
    let ten := c.priv == .tenant
    let idx := c.fld 255 192
    c.payLen = 32 → c.target = 0 → c.fld 3 0 = 1 → c.fld 23 4 = 0 → objAddr (c.fld 127 64) = true →
    objAddr (c.fld 191 128) = true → objAddr idx = true → rangeMine s ten c.tenant idx 64 = true →
    readIndex s idx = .ok i → objectMine s ten c.tenant idx i = true → slotMine ten c.tenant (cslot s i.slot) = true →
    codecRecode c s = recodeObject c idx (c.fld 191 128) (c.fld 127 64) (c.fld 63 24) i s := by
  intro ten idx hlen htgt hmode hrsv hanidx habase haidx hmidx hindex hobj hmslot
  have hfour : c.fld 3 0 ≠ 4 := by omega
  simp only [codecRecode, if_pos hmode, if_neg hfour]
  rw [bind_of_ok (lenIs_of_eq hlen), bind_of_ok (tgtRsv_of_zero htgt), bind_of_ok (fldF_of_true (by simp [hmode])),
    bind_of_ok (rsv_of_zero hrsv), bind_of_ok (fldF_of_true hanidx), bind_of_ok (fldF_of_true habase),
    bind_of_ok (fldF_of_true (by simp [haidx, hfour, idx])), bind_of_ok (need_of_true hmidx), hindex]
  dsimp only
  rw [bind_of_ok (need_of_true (Bool.and_eq_true_iff.mpr ⟨hobj, hmslot⟩))]

end

/-! ### The obligation on slots and objects -/

/-- Settles O9: each command's checks pass under the clause's conditions, and its answer goes out from the state its work
leaves. -/
theorem codecObjectCommands : Obligations.CodecObjectCommands := by
  unfold Obligations.CodecObjectCommands
  refine ⟨?clear, ?load, ?query, ?compress, ?decompress, ?quantize, ?dequantize, ?scale, ?refs, ?recode, ?done⟩
  case clear =>
    intro r d s s1 c g h k ht hlens htgt hfields hclear hmine hnew
    rw [exec_codecTableLoad, execCodecTableLoad,
      hostCmd_ok ht (codecTableLoad_clear hlens htgt hfields hclear hmine hnew)]
  case load =>
    intro r d s s1 c h body k x id tag x1 ht hlens htgt hfields hload hmine htab hlayout hnew hroom htag
    rw [exec_codecTableLoad, execCodecTableLoad,
      hostCmd_ok ht (codecTableLoad_add hlens htgt hfields hload hmine htab hlayout hnew hroom htag)]
  case query =>
    intro r d s s1 c x ht hlen hres htgt hrsv hmine
    rw [exec_codecTableQuery, execCodecTableQuery, hostCmd_ok ht (codecTableQuery_ok hlen hres htgt hrsv hmine)]
  case compress =>
    intro r d s s1 s2 c g coded src base idx total limit n slot ten blocks ht hlen hroom hbase hsome htotal hsrc hidx htgt
      hrsv haidx habase hasrc hmsrc hmbase hmidx hmslot hcond hgen hread hwrite hwidx hobj
    rw [exec_codecCompress, execCodecCompress, hostCmd_ok ht (codecCompress_ok hlen hroom hbase hsome htotal hsrc hidx htgt
      hrsv haidx habase hasrc hmsrc hmbase hmidx hmslot hcond hgen hread hwrite hwidx hobj)]
  case decompress =>
    intro r d s s1 s2 c i idx dest dlen first count ks bytes rs ht hlen hsome hcount hdest hres htgt hrsv hadest haidx hmidx
      hmdest hindex hobj hblocks hfits hwrite hpieces
    rw [exec_codecDecompress, execCodecDecompress, hostCmd_ok ht (codecDecompress_ok hlen hsome hcount hdest hres htgt hrsv
      hadest haidx hmidx hmdest hindex hobj hblocks hfits hwrite hpieces)]
  case quantize =>
    intro r d s s1 s2 c g g0 coded p ten n q xs units blocks ht hchecks hkv hmsrc hmbase hmidx hmslot hcond hnew hshape hroom
      hgen hread hwrite hwidx hscales hobj
    have hrow := quantObject_ok hmsrc hmbase hmidx hmslot hcond hnew hshape hroom hgen hread hwrite hwidx hscales hobj
    rw [exec_codecQuantize, execCodecQuantize, hostCmd_ok ht ((codecQuantize_object hchecks hkv).trans hrow)]
  case dequantize =>
    intro r d s s1 s2 c i g0 p ten ks elems rs ht hchecks hkv hmidx hmbase hmslot hcond hnew hshape hindex hobj hblocks hfits
      hwrite hpieces
    have hrow := dequantObject_ok hmidx hmbase hmslot hcond hnew hshape hindex hobj hblocks hfits hwrite hpieces
    rw [exec_codecDequantize, execCodecDequantize, hostCmd_ok ht ((codecDequantize_object hchecks hkv).trans hrow)]
  case scale =>
    intro r d s s1 s2 c g g0 p ten units ht hchecks hkv hmsrc hmslot hcond hnew hshape hroom hgen hmscales hread hwrite hbytes
    have hrow := scaleObject_ok hmsrc hmslot hcond hnew hshape hroom hgen hmscales hread hwrite hbytes
    rw [exec_codecScaleFind, execCodecScaleFind, hostCmd_ok ht ((codecScaleFind_object hchecks hkv).trans hrow)]
  case refs =>
    intro r d s s1 c i live ht hlen htgt hmode hrsv haidx hmidx hindex hobj hmslot hmlive
    rw [exec_codecRecode, execCodecRecode,
      hostCmd_ok ht (codecRecode_refs hlen htgt hmode hrsv haidx hmidx hindex hobj hmslot hmlive)]
  case recode =>
    intro r d s s1 s2 c i g coded idx base nidx limit ten out bad named old used s3 ht hlen htgt hmode hrsv hanidx habase haidx
      hmidx hindex hobj hroom hbase hmbase hmnidx hmslot hgen hwrite hwidx hcoded
    have hrow := recodeObject_ok (c := c) hroom hbase hmbase hmnidx hmslot hgen hwrite hwidx hcoded
    rw [exec_codecRecode, execCodecRecode, hostCmd_ok ht
      ((codecRecode_object hlen htgt hmode hrsv hanidx habase haidx hmidx hindex hobj hmslot).trans hrow)]
  case done =>
    intro s id j hjob
    simp only [exec_codecCommandDone, execCodecCommandDone, hjob]

/-! ### Records of a list that is homed here (07 R203, R204) -/

section

variable {m : FwdMsg} {s s2 s3 : State} {l l2 : PList} {g : Gen}

theorem homeQuantize_ok :
    let p := qpay (leNat m.pay)
    let ten := m.isTenant
    let q := qtab g
    let toks := chunks q.recElems p.toks (bf16sAt s p.src (q.recElems * p.toks))
    let units := kvUnits q toks
    let scales := unitScales s q p units
    let amaxs := if p.given then scales.map (givenAmax q) else units.map fun u => toBf16 (clipPoint q u)
    m.list s = .ok l → m.check 0 = .ok () → slotMine ten m.tenant (cslot s p.slot) = true →
    (cslot s p.slot).cond = .quant → kvSlotOk s p.slot l = true →
    (p.first + p.toks) * l.kvPerTok ≤ l.pages.length * psize l.cls →
    l.shared * psize l.cls ≤ p.first * l.kvPerTok → encGen (cslot s p.slot) = some g →
    p.src + 2 * q.recElems * p.toks ≤ objectBytes → (p.given = true → p.scaleAddr + 2 * q.units ≤ objectBytes) →
    rangeMine s ten m.tenant p.src (2 * q.recElems * p.toks) = true → rangeRead s p.src (2 * q.recElems * p.toks) = St.ok →
    (p.given = true → rangeMine s ten m.tenant p.scaleAddr (2 * q.units) = true ∧
      rangeRead s p.scaleAddr (2 * q.units) = St.ok) →
    privRun s l.gid (p.first * l.kvPerTok) (p.toks * l.kvPerTok) = some s2 → getList s2 l.gid = some l2 →
    writeRecords q l2 p.slot p.first (toks.map (bulkRecord q scales amaxs)) s2 = some s3 →
    homeQuantize m s = .ok (okR0 (p.toks * l.kvPerTok), s3) := by
  intro p ten q toks units scales amaxs hlist hcheck hmslot hcond hslot hfits hshared hgen hsrc hends hmsrc hread hscales
    hpriv hlist' hrecs
  simp only [homeQuantize]
  rw [bind_of_ok hlist, bind_of_ok (need_of_true hmslot), bind_of_ok (quantSlot_of_cond hcond),
    bind_of_ok (fldF_of_true hslot), bind_of_ok (lenF_of_true (decide_eq_true hfits)),
    bind_of_ok (fldF_of_true (decide_eq_true hshared)), bind_of_ok hcheck, bind_of_ok (encTab_of_encGen hgen),
    bind_of_ok (lenF_of_true (Bool.and_eq_true_iff.mpr
      ⟨decide_eq_true hsrc, not_or_of_asked fun hgiven => decide_eq_true (hends hgiven)⟩)),
    bind_of_ok (need_of_true (Bool.and_eq_true_iff.mpr ⟨hmsrc, not_or_of_asked fun hgiven => (hscales hgiven).1⟩)),
    bind_of_ok (canRead_of_ok hread), bind_of_asked fun hgiven => canRead_of_ok (hscales hgiven).2, hpriv, orFull_some,
    ok_bind_eq, hlist', Option.getD_some, hrecs]
  rfl

theorem homeDequantize_ok :
    let p := qpay (leNat m.pay)
    let ten := m.isTenant
    let k := (qtab g).recElems
    let rs := (granules p.first p.toks).map fun t => recordElems (decodeRec s l t)
    m.list s = .ok l → m.check 0 = .ok () → slotMine ten m.tenant (cslot s p.slot) = true →
    (cslot s p.slot).cond = .quant → kvSlotOk s p.slot l = true →
    (p.first + p.toks) * l.kvPerTok ≤ l.pages.length * psize l.cls → (cslot s p.slot).newest = some g →
    p.toks * k * outSize p.bf16Out ≤ p.limit → rangeMine s ten m.tenant p.base p.limit = true →
    rangeWrite s p.base (p.toks * k * outSize p.bf16Out) = St.ok →
    writePieces s p.base (rs.map (elemPiece p.bf16Out k)) = some s2 →
    homeDequantize m s = .ok (decodeAns rs, s2) := by
  intro p ten k rs hlist hcheck hmslot hcond hslot hfits hnew hlimit hmbase hwrite hpieces
  simp only [homeDequantize]
  rw [bind_of_ok hlist, bind_of_ok (need_of_true hmslot), bind_of_ok (lenF_of_true (decide_eq_true hfits)), hnew]
  simp only [Option.map_some, Option.getD_some]
  rw [bind_of_ok (lenF_of_true (decide_eq_true hlimit)), bind_of_ok (quantSlot_of_cond hcond),
    bind_of_ok (fldF_of_true hslot), bind_of_ok hcheck, bind_of_ok (need_of_true hmbase), bind_of_ok (canWrite_of_ok hwrite),
    hpieces]
  rfl

theorem homeScaleFind_ok :
    let p := qpay (leNat m.pay)
    let ten := m.isTenant
    let q := qtab g
    let units := kvUnits q (chunks q.recElems p.toks (bf16sAt s p.src (q.recElems * p.toks)))
    m.list s = .ok l → m.check 0 = .ok () → slotMine ten m.tenant (cslot s p.slot) = true →
    (cslot s p.slot).cond = .quant → scaleFindFits (cslot s p.slot) p = true → kvSlotOk s p.slot l = true →
    encGen (cslot s p.slot) = some g → rangeMine s ten m.tenant p.src (2 * q.recElems * p.toks) = true →
    rangeMine s ten m.tenant p.scaleAddr (2 * q.units) = true → rangeRead s p.src (2 * q.recElems * p.toks) = St.ok →
    rangeWrite s p.scaleAddr (2 * units.length) = St.ok →
    devWrite s p.scaleAddr (units.flatMap fun u => leBytes 2 (scaleOf q (clipPoint q u)).toNat) = some s2 →
    homeScaleFind m s = .ok (okR0 units.length, s2) := by
  intro p ten q units hlist hcheck hmslot hcond hfits hslot hgen hmsrc hmscales hread hwrite hbytes
  simp only [homeScaleFind]
  rw [bind_of_ok hlist, bind_of_ok (need_of_true hmslot), bind_of_ok (lenF_of_true hfits),
    bind_of_ok (quantSlot_of_cond hcond), bind_of_ok (fldF_of_true hslot), bind_of_ok hcheck,
    bind_of_ok (encTab_of_encGen hgen), bind_of_ok (need_of_true (Bool.and_eq_true_iff.mpr ⟨hmsrc, hmscales⟩)),
    bind_of_ok (canRead_of_ok hread)]
  exact writeScales_ok hwrite hbytes

theorem homeRecode_ok {k left : Nat} (hlist : m.list s = .ok l) (hcheck : m.check 0 = .ok ())
    (hmslot : slotMine m.isTenant m.tenant (cslot s l.codecSlot) = true) (hslot : kvSlotOk s l.codecSlot l = true)
    (hgen : encGen (cslot s l.codecSlot) = some g)
    (hrecs : (List.range l.ctxLen).foldl (recodeOne (qtab g) l) (some (s, 0, 0)) = some (s2, k, left)) :
    homeRecode m s = .ok ({ st := some St.ok, r0 := k, detail := left },
      l.pages.foldl (soloMask l.codecSlot (qtab g).tag) s2) := by
  simp only [homeRecode]
  rw [bind_of_ok hlist, bind_of_ok (need_of_true hmslot), bind_of_ok (fldF_of_true hslot), bind_of_ok hcheck,
    bind_of_ok (encTab_of_encGen hgen), hrecs]
  rfl

end

/-! ### Commands on a list that is homed here (07 R202 to R204) -/

section

variable {c : Cmd} {s t s1 : State} {n : Nat} {x : Slot} {l : PList} {a : Ans}

/-- The list of a message in a state that its slot was not read in. -/
theorem homeMsg_list_in {op id : Nat} {ns : List Nat} {checks : List (Except Ans Unit)} (hget : getSlot s n = some x)
    (hlist : getList t x.e.gid = some l) : (homeMsg s c op id (n :: ns) checks).list t = .ok l := by
  simp [FwdMsg.list, homeMsg, fwdReq_of_slot hget, hlist]

/-- A bulk command ends as a job, which holds its generations from the command's start. -/
theorem kvPending_here {op : Nat} {act : HomeAct} {gens : State → List (Nat × Nat)} (hr : restsHere s c c.target n x l)
    (hact : act (homeMsg s c op 0 [n] [.ok ()]) (holdGens s (gens s)) = .ok (a, s1)) :
    kvPending op act gens c s =
      .ok (pendAns, startCodecJob s1 c.tok (heldAs s (gens s)) { a with st := some St.ok }) := by
  obtain ⟨hentry, hlocal, hlive, hopen, hstate, hidle⟩ := restsHere_checks hr
  have hstill : need (!x.e.inStep && !x.e.movePend && !x.restoring) St.busy 0 = .ok () := hidle
  simp [kvPending, hentry, hlocal, hlive, hopen, hstate, hstill, hact]

theorem codecQuantize_kv (hchecks : qpayChecks c .quantize (qpay (leNat c.pay)) = .ok ())
    (hkv : (qpay (leNat c.pay)).kv = true) :
    codecQuantize c s = kvPending 0x0605 homeQuantize (encGens (qpay (leNat c.pay)).slot) c s := by
  simp only [codecQuantize, hchecks, hkv]
  rfl

theorem codecDequantize_kv (hchecks : qpayChecks c .dequantize (qpay (leNat c.pay)) = .ok ())
    (hkv : (qpay (leNat c.pay)).kv = true) (hr : restsHere s c c.target n x l) :
    codecDequantize c s = homeDequantize (homeMsg s c 0x0606 0 [n] [.ok ()]) s := by
  obtain ⟨hentry, hlocal, hlive, hopen, -, -⟩ := restsHere_checks hr
  simp [codecDequantize, hchecks, hkv, hentry, hlocal, hlive, hopen]

theorem codecScaleFind_kv (hchecks : qpayChecks c .scaleFind (qpay (leNat c.pay)) = .ok ())
    (hkv : (qpay (leNat c.pay)).kv = true) (hr : restsHere s c c.target n x l) :
    codecScaleFind c s = homeScaleFind (homeMsg s c 0x0607 0 [n] [.ok ()]) s := by
  obtain ⟨hentry, hlocal, hlive, hopen, -, -⟩ := restsHere_checks hr
  simp [codecScaleFind, hchecks, hkv, hentry, hlocal, hlive, hopen]

theorem codecRecode_kv (hlen : c.payLen = 32) (htgt : c.target >>> 32 = 0) (hmode : c.fld 3 0 = 4) (hrsv : c.fld 23 4 = 0)
    (hidx : c.fld 255 192 = 0) (hfind : findEntry s c.target = some (n, x)) (hlist : getList s x.e.gid = some l) :
    codecRecode c s = kvPending 0x0608 homeRecode (recodeGens l) c s := by
  have haddr : objAddr 0 = true := by decide
  simp [codecRecode, hlen, tgtRsv_of_shift htgt, hmode, hrsv, hidx, haddr, hfind, hlist]

end

/-! ### The obligation on records -/

/-- Settles O10: the owner's checks pass on an entry at rest, and the home, which is here, acts on its list. -/
theorem codecRecordCommands : Obligations.CodecRecordCommands := by
  unfold Obligations.CodecRecordCommands
  refine ⟨?quantize, ?dequantize, ?scale, ?recode⟩
  case quantize =>
    intro r d s s1 s2 s3 c n x l l2 g p ten q h toks units scales amaxs ht hchecks hkv hr hlist hmslot hcond hslot hfits
      hshared hgen hsrc hgiven hmsrc hread hscales hpriv hlist' hrecs
    obtain ⟨hget, -⟩ := restsHere_found hr
    have hact := homeQuantize_ok (m := homeMsg s1 c 0x0605 0 [n] [.ok ()]) (homeMsg_list_in hget hlist)
      (homeMsg_check (by simp) 0) hmslot hcond hslot hfits hshared hgen hsrc hgiven hmsrc hread hscales hpriv hlist' hrecs
    rw [exec_codecQuantize, execCodecQuantize, hostCmd_ok ht ((codecQuantize_kv hchecks hkv).trans (kvPending_here hr hact))]
    rfl
  case dequantize =>
    intro r d s s1 s2 c n x l g p ten k rs ht hchecks hkv hr hmslot hcond hslot hfits hnew hlimit hlive hmbase hwrite hpieces
    have hact := homeDequantize_ok (m := homeMsg s1 c 0x0606 0 [n] [.ok ()]) (homeMsg_list hr) (homeMsg_check (by simp) 0)
      hmslot hcond hslot hfits hnew hlimit hmbase hwrite hpieces
    rw [exec_codecDequantize, execCodecDequantize, hostCmd_ok ht ((codecDequantize_kv hchecks hkv hr).trans hact)]
    rfl
  case scale =>
    intro r d s s1 s2 c n x l g p ten q units ht hchecks hkv hr hmslot hcond hfits hslot hgen hlive hmsrc hmscales hread hwrite
      hbytes
    have hact := homeScaleFind_ok (m := homeMsg s1 c 0x0607 0 [n] [.ok ()]) (homeMsg_list hr) (homeMsg_check (by simp) 0)
      hmslot hcond hfits hslot hgen hmsrc hmscales hread hwrite hbytes
    rw [exec_codecScaleFind, execCodecScaleFind, hostCmd_ok ht ((codecScaleFind_kv hchecks hkv hr).trans hact)]
    rfl
  case recode =>
    intro r d s s1 s2 c n k left x l g h ht hlen htgt hmode hrsv hidx hr hfind hlist hmslot hslot hgen hrecs
    obtain ⟨hget, hlist'⟩ := restsHere_found hr
    have hact := homeRecode_ok (m := homeMsg s1 c 0x0608 0 [n] [.ok ()]) (homeMsg_list_in hget hlist)
      (homeMsg_check (by simp) 0) hmslot hslot hgen hrecs
    rw [exec_codecRecode, execCodecRecode,
      hostCmd_ok ht ((codecRecode_kv hlen htgt hmode hrsv hidx hfind hlist').trans (kvPending_here hr hact))]

end Sys2Proof.Machine

namespace Sys2Proof.Machine

/-! SUPPORT. The array commands and the arrays' own events where they complete (08 R207, R221 to R240). -/

section

variable {c : Cmd} {s : State} {k : Kernel} {id : Nat} {x : Ctx}

theorem own_of_tenantOk {n : Nat} (h : c.tenantOk n = true) : c.own n = .ok () := need_of_true h

/-! ### Kernels (08 R221, R222) -/

theorem kernelLoad_ok {n : Nat} (hlens : imageLens c = .ok ()) (htgt : c.target = 0) (hfields : imageFields s c = .ok ())
    (hsigned : ecdsaOk (verKey s (subNat c.pay 26 1)) (c.pay.take 160 ++ c.pay.drop 256) (sub c.pay 160 96) = true)
    (hfree : Tbl.freeFrom s.cax.kernels 256 0 = some n) :
    let k := imageKernel (Tbl.getD s.cax.kernelGen n 0) c.tenant c.pay
    serviceFits s k.code.length = true →
    kernelLoad c s = .ok (okR0 (n ||| Tbl.getD s.cax.kernelGen n 0 <<< 8),
      { s with cax := { s.cax with kernels := Tbl.set s.cax.kernels n k } }) := by
  intro k hfits
  rw [kernelLoad, bind_of_ok hlens, bind_of_ok (tgtRsv_of_zero htgt), bind_of_ok hfields, bind_of_ok (need_of_true hsigned), hfree]
  exact bind_of_ok (need_of_true hfits)

theorem kernelUnload_ok (hlen : c.payLen = 0) (htgt : c.target >>> 16 = 0) (hfind : findKernel s c.target = some k)
    (hown : c.tenantOk k.tenant = true) (hidle : (s.cax.ctxs.all fun kv => kv.2.kernel != c.target) = true) :
    kernelUnload c s = .ok (okAns, { s with cax := { s.cax with
      kernels := Tbl.del s.cax.kernels (c.target % 256)
      kernelGen := Tbl.set s.cax.kernelGen (c.target % 256) ((k.gen + 1) % 255) } }) := by
  rw [kernelUnload, bind_of_ok (lenIs_of_eq hlen), bind_of_ok (tgtRsv_of_shift htgt), hfind]
  dsimp only
  rw [bind_of_ok (own_of_tenantOk hown), bind_of_ok (need_of_true hidle)]

/-! ### Contexts (08 R224 to R229) -/

/-- The context that CTX_CREATE makes with number `id` (08 R223, R224). -/
def createdCtx (c : Cmd) (s : State) (id : Nat) : Ctx :=
  { gen := Tbl.getD s.cax.ctxGen id 0, kernel := c.fld 159 144, tenant := c.tenant, mask := c.fld 255 160
    threads := c.fld 143 136, localUnits := c.fld 135 130, vregs := c.fld 129 124, minArrays := c.fld 123 117
    prio := c.fld 116 114, running := none, runMask := 0, started := false, startAt := 0, queue := [], sems := [] }

/-- CTX_CREATE whose sizes are in range and at least the kernel's takes a free context number. -/
theorem ctxCreate_ok (hlen : c.payLen = 32) (hmin96 : c.fld 123 117 ≤ 96)
    (hmin : c.fld 123 117 ≤ popCount 96 (c.fld 255 160)) (hvregs : c.fld 129 124 ≤ 32) (hunit : 1 ≤ c.fld 135 130)
    (hunits : c.fld 135 130 ≤ 32) (hthread : 1 ≤ c.fld 143 136) (hthreads : c.fld 143 136 ≤ 128) (htgt : c.target = 0)
    (hrsv : c.fld 113 0 = 0) (hfind : findKernel s (c.fld 159 144) = some k) (hown : c.tenantOk k.tenant = true)
    (hkarrays : k.arraysMin ≤ c.fld 123 117) (hkvregs : k.vregsMin ≤ c.fld 129 124) (hkunits : k.localMin ≤ c.fld 135 130)
    (hkthreads : k.threadsMin ≤ c.fld 143 136)
    (hactive : ((maskArrays (c.fld 255 160)).all fun a => (arr s a).st == .active) = true)
    (hfree : Tbl.freeFrom s.cax.ctxs 61 0 = some id)
    (hfits : ((maskArrays (c.fld 255 160)).all fun a =>
      arrFits s a (c.fld 143 136) (c.fld 135 130) (c.fld 129 124)) = true) :
    ctxCreate c s = .ok (okR0 (ctxHandle id (Tbl.getD s.cax.ctxGen id 0)),
      makeShares (setCtx s id (createdCtx c s id)) id (maskArrays (c.fld 255 160))) := by
  simp only [ctxCreate, hfind]
  rw [bind_of_ok (lenIs_of_eq hlen), bind_of_ok (lenF_of_true (by simp [hmin96, hmin, hkarrays])),
    bind_of_ok (lenF_of_true (by simp [hvregs, hkvregs])), bind_of_ok (lenF_of_true (by simp [hunit, hunits, hkunits])),
    bind_of_ok (lenF_of_true (by simp [hthread, hthreads, hkthreads])), bind_of_ok (tgtRsv_of_zero htgt),
    bind_of_ok (rsv_of_zero hrsv), bind_of_ok (own_of_tenantOk hown), bind_of_ok (need_of_true hactive), hfree]
  exact bind_of_ok (need_of_true hfits)

theorem makeShares_of_kernel (hctx : getCtx s id = some x) (hkernel : kernelOf s x.kernel = some k) (as : List Nat) :
    makeShares s id as = as.foldl (fun t a => setShare t id a (memPut [] 0 k.data)) s := by
  simp [makeShares, hctx, hkernel, freshShare]

section

variable (hlen : c.payLen = 8) (htgt : c.target >>> 16 = 0) (hrsv : c.fld 63 1 = 0) (hmade : c.target % 64 < 61)
  (hfind : findCtx s c.target = some (id, x)) (hown : c.tenantOk x.tenant = true)

include hlen htgt hrsv hmade hfind hown

/-- CTX_DESTROY past its checks: an idle context goes, and a busy one under KILL. -/
theorem ctxDestroy_found :
    ctxDestroy c s =
      if x.running.isNone && x.queue.isEmpty then .ok (okAns, dropCtx s id x)
      else need (c.fld 0 0 == 1) St.busy 0 >>= fun _ => .ok (okAns, dropCtx (killCtx s id x) id x) := by
  rw [ctxDestroy, bind_of_ok (lenIs_of_eq hlen), bind_of_ok (tgtRsv_of_shift htgt), bind_of_ok (rsv_of_zero hrsv),
    bind_of_ok (need_of_true (decide_eq_true hmade)), hfind]
  exact bind_of_ok (own_of_tenantOk hown)

theorem ctxDestroy_idle (hrun : x.running = none) (hqueue : x.queue = []) :
    ctxDestroy c s = .ok (okAns, dropCtx s id x) := by
  rw [ctxDestroy_found hlen htgt hrsv hmade hfind hown, if_pos (by simp [hrun, hqueue])]

theorem ctxDestroy_kill (hrun : x.running ≠ none) (hkill : c.fld 0 0 = 1) :
    ctxDestroy c s = .ok (okAns, dropCtx (killCtx s id x) id x) := by
  rw [ctxDestroy_found hlen htgt hrsv hmade hfind hown, if_neg (by simp [hrun])]
  exact bind_of_ok (need_of_true (by simp [hkill]))

end

/-- CTX_LAUNCH starts on an idle context and waits on a busy one; it is answered at its end. -/
theorem ctxLaunch_ok (hlen : c.payLen = 32) (htgt : c.target >>> 16 = 0) (hrsv : c.fld 7 1 = 0) (hrsv' : c.fld 63 12 = 0)
    (hfind : findCtx s c.target = some (id, x)) (hown : c.tenantOk x.tenant = true) (hentry : entryOk s x (c.fld 11 8) = true)
    (hroom : x.running = none ∨ x.queue.length < 64) (hmin : x.minArrays ≤ popCount 96 (activeMask s x.mask)) :
    let l : LaunchCmd := ⟨some c.tok, [c.fld 255 192, c.fld 191 128, c.fld 127 64], c.fld 11 8, c.fld 0 0 == 1⟩
    ctxLaunch c s = .ok (laterAns,
      if x.running.isNone = true then startLaunch s id l else setCtx s id { x with queue := x.queue ++ [l] }) := by
  intro l
  rw [ctxLaunch, bind_of_ok (lenIs_of_eq hlen), bind_of_ok (tgtRsv_of_shift htgt), bind_of_ok (rsv_of_zero hrsv),
    bind_of_ok (rsv_of_zero hrsv'), hfind]
  dsimp only
  rw [bind_of_ok (own_of_tenantOk hown), bind_of_ok (fldF_of_true hentry), bind_of_ok (need_of_true (by simpa using hroom)),
    bind_of_ok (need_of_true (decide_eq_true hmin))]
  split <;> rfl

/-! ### Schedule, slowdown, exclusion, self-test (08 R233 to R240) -/

theorem schedSet_ok (hlen : c.payLen = 32784) (htgt : c.target = 0) (hrsv : c.fld 63 1 = 0)
    (hentries : checkEach (schedEntryOk s) 0 (c.pay.drop 16) = .ok ()) (hsync : s.clk.synced = true)
    (hnone : s.cax.schedNext = none) :
    let n : SchedNext := ⟨⟨c.fld 127 64, c.fld 0 0 == 1, c.pay.drop 16⟩, schedStart s (c.fld 127 64), c.tok⟩
    schedSet c s = .ok (pendAns, { s with cax := { s.cax with schedNext := some n } }) := by
  simp only [schedSet]
  rw [bind_of_ok (lenIs_of_eq hlen), bind_of_ok (tgtRsv_of_zero htgt), bind_of_ok (rsv_of_zero hrsv), bind_of_ok hentries,
    bind_of_ok (need_of_true hsync), bind_of_ok (need_of_true (by simp [hnone]))]

theorem arraySlowdown_ok (hlen : c.payLen = 0) (hres : 1536 ≤ c.resLen) (htgt : c.target = 0) :
    arraySlowdown c s = .ok (okRes ((List.range 96).flatMap fun a => slowRecord (arr s a)), s) := by
  rw [arraySlowdown, bind_of_ok (lenIs_of_eq hlen), bind_of_ok (bound_of_le hres), bind_of_ok (tgtRsv_of_zero htgt)]

theorem arrayExclude_ok (hlen : c.payLen = 16) (htgt : c.target = 0) (hact : c.fld 1 0 = 1 ∨ c.fld 1 0 = 2)
    (hrsv : c.fld 31 2 = 0)
    (hsound : c.fld 1 0 = 2 → ((maskArrays (c.fld 127 32)).all fun a => (arr s a).st != .failed) = true) :
    arrayExclude c s = .ok (okAns, (maskArrays (c.fld 127 32)).foldl (excludeOne (c.fld 1 0 == 2)) s) := by
  have hallowed : (c.fld 1 0 == 1 || (maskArrays (c.fld 127 32)).all fun a => (arr s a).st != .failed) = true := by
    rcases hact with h | h
    · simp [h]
    · rw [hsound h, Bool.or_true]
  simp only [arrayExclude]
  rw [bind_of_ok (lenIs_of_eq hlen), bind_of_ok (tgtRsv_of_zero htgt), bind_of_ok (fldF_of_true (by simpa using hact)),
    bind_of_ok (rsv_of_zero hrsv), bind_of_ok (need_of_true hallowed)]

theorem diagArrayTest_ok (hlen : c.payLen = 16) (hres : 16 ≤ c.resLen) (htgt : c.target = 0) (hrsv : c.fld 31 0 = 0)
    (hout : ((maskArrays (c.fld 127 32)).all fun a => (arr s a).st == .excluded) = true) :
    diagArrayTest c s = .ok (pendAns,
      { s with cax := { s.cax with tests := s.cax.tests ++ [(c.fld 127 32, c.tok)] } }) := by
  simp only [diagArrayTest]
  rw [bind_of_ok (lenIs_of_eq hlen), bind_of_ok (bound_of_le hres), bind_of_ok (tgtRsv_of_zero htgt),
    bind_of_ok (rsv_of_zero hrsv), bind_of_ok (need_of_true hout)]

end

/-! ### The obligation -/

/-- Settles O11: each meaning's checks pass under the clause's conditions, and each event's guard holds under its own. -/
theorem arrayCommands : Obligations.ArrayCommands := by
  unfold Obligations.ArrayCommands
  refine ⟨?load, ?unload, ?create, ?shares, ?destroy, ?kill, ?launch, ?schedSet, ?schedSwitch, ?slowdown, ?exclude, ?test,
    ?testDone, ?gate, ?wake⟩
  case load =>
    intro r d s s1 c k x ht hlens htgt hfields hsigned hfree hfits
    rw [exec_kernelLoad, execKernelLoad, hostCmd_ok ht (kernelLoad_ok hlens htgt hfields hsigned hfree hfits)]
  case unload =>
    intro r d s s1 c k ht hlen htgt hfind hown hidle
    rw [exec_kernelUnload, execKernelUnload, hostCmd_ok ht (kernelUnload_ok hlen htgt hfind hown hidle)]
  case create =>
    intro r d s s1 c id k mask threads units vregs minA g x ht hlen hmin96 hmin hvregs hunit hunits hthread hthreads htgt hrsv
      hfind hown hkarrays hkvregs hkunits hkthreads hactive hfree hfits
    rw [exec_ctxCreate, execCtxCreate, hostCmd_ok ht (ctxCreate_ok hlen hmin96 hmin hvregs hunit hunits hthread hthreads htgt
      hrsv hfind hown hkarrays hkvregs hkunits hkthreads hactive hfree hfits)]
    rfl
  case shares => exact fun s id x k as hctx hkernel => makeShares_of_kernel hctx hkernel as
  case destroy =>
    intro r d s s1 c id x ht hlen htgt hrsv hmade hfind hown hrun hqueue
    rw [exec_ctxDestroy, execCtxDestroy, hostCmd_ok ht (ctxDestroy_idle hlen htgt hrsv hmade hfind hown hrun hqueue)]
  case kill =>
    intro r d s s1 c id x ht hlen htgt hrsv hmade hfind hown hrun hkill
    rw [exec_ctxDestroy, execCtxDestroy, hostCmd_ok ht (ctxDestroy_kill hlen htgt hrsv hmade hfind hown hrun hkill)]
  case launch =>
    intro r d s s1 c id x l ht hlen htgt hrsv hrsv' hfind hown hentry hroom hmin
    rw [exec_ctxLaunch, execCtxLaunch, hostCmd_ok ht (ctxLaunch_ok hlen htgt hrsv hrsv' hfind hown hentry hroom hmin),
      answer_later]
  case schedSet =>
    intro r d s s1 c x ht hlen htgt hrsv hentries hsync hnone
    rw [exec_schedSet, execSchedSet, hostCmd_ok ht (schedSet_ok hlen htgt hrsv hentries hsync hnone)]
  case schedSwitch =>
    intro s n hnext hdue
    simp only [exec_schedSwitch, execSchedSwitch, hnext, if_neg (Nat.not_lt.mpr hdue)]
  case slowdown =>
    intro r d s s1 c ht hlen hres htgt
    rw [exec_arraySlowdown, execArraySlowdown, hostCmd_ok ht (arraySlowdown_ok hlen hres htgt)]
  case exclude =>
    intro r d s s1 c ht hlen htgt hact hrsv hsound
    rw [exec_arrayExclude, execArrayExclude, hostCmd_ok ht (arrayExclude_ok hlen htgt hact hrsv hsound)]
  case test =>
    intro r d s s1 c ht hlen hres htgt hrsv hout
    rw [exec_diagArrayTest, execDiagArrayTest, hostCmd_ok ht (diagArrayTest_ok hlen hres htgt hrsv hout)]
  case testDone =>
    intro s failed mask t rest htests
    simp only [exec_diagArrayTestDone, execDiagArrayTestDone, htests]
  case gate =>
    intro s a t hidle harr hopen hdue
    simp [exec_arrayGate, execArrayGate, hidle, harr, hopen, us, hdue]
  case wake =>
    intro s a t hwake hdue
    simp only [exec_arrayWake, execArrayWake, hwake, if_neg (Nat.not_lt.mpr hdue)]

end Sys2Proof.Machine

namespace Sys2Proof.Machine

/-! SUPPORT. The instructions of the compute arrays, each where its word issues (08 R209 to R220). The port's grant moves the
port's pointer alone, so that an instruction's checks find what they found before it. -/

/-! ### An instruction that issues (08 R213, R214) -/

section

variable {cls o : Nat} {fmts : List Nat} {f : Meaning64} {t : Thr} {x : Ctx} {th : Thread} {w : Word64} {s : State}

/-- A row whose instruction issues ends with the instruction's effect on the state in which its port has granted it. -/
theorem exec_issued {i : Instr} {g : State → State} (hrow : exec i s = .next (commit s (issue cls o fmts f t s)))
    (h : issues cls o fmts t s x th w) (heffect : f t x th w (tookPort s cls t x) = g (tookPort s cls t x)) :
    exec i s = .next (commit s (issuesTo cls t x s g)) := by
  rw [hrow, issue_of_issues h, issuesTo, issuesTo, heffect]

end

/-! ### Control and scalar instructions (08 R212, R215) -/

@[simp] theorem setReg_pc (th : Thread) (i v : Nat) : (setReg th i v).pc = th.pc := by
  unfold setReg
  split <;> rfl

/-- A LOOP that falls through goes on past its own word, the count lowered. -/
theorem mLoop_eq {t : Thr} {x : Ctx} {th : Thread} {w : Word64} {s : State} :
    mLoop t x th w s =
      let th1 := setReg th w.a ((reg th w.a + 2 ^ 64 - 1) % 2 ^ 64)
      setThr s t (if reg th1 w.a = 0 then { th1 with pc := th.pc + 8 }
        else { th1 with pc := Config.branchTarget th.pc w.imm 0 }) := by
  simp only [mLoop, next, setReg_pc]

/-- Settles O12: a control or scalar instruction that issues acts by its meaning, which the clause writes out. -/
theorem scalarInstructions : Obligations.ScalarInstructions := by
  unfold Obligations.ScalarInstructions
  refine ⟨?br, ?brp, ?loop, ?yield, ?halt, ?add, ?sub, ?mul, ?and, ?or, ?xor, ?shl, ?shr, ?sra, ?movi, ?cmp, ?rdstat⟩
  case br => exact fun t s x th w h => exec_issued (exec_aBr s t) h rfl
  case brp => exact fun t s x th w h => exec_issued (exec_aBrp s t) h rfl
  case loop => exact fun t s x th w h => exec_issued (exec_aLoop s t) h mLoop_eq
  case yield => exact fun t s x th w h => exec_issued (exec_aYield s t) h rfl
  case halt => exact fun t s x th w h => exec_issued (exec_aHalt s t) h rfl
  case add => exact fun t s x th w h => exec_issued (exec_aAdd s t) h rfl
  case sub => exact fun t s x th w h => exec_issued (exec_aSub s t) h rfl
  case mul => exact fun t s x th w h => exec_issued (exec_aMul s t) h rfl
  case and => exact fun t s x th w h => exec_issued (exec_aAnd s t) h rfl
  case or => exact fun t s x th w h => exec_issued (exec_aOr s t) h rfl
  case xor => exact fun t s x th w h => exec_issued (exec_aXor s t) h rfl
  case shl => exact fun t s x th w h => exec_issued (exec_aShl s t) h rfl
  case shr => exact fun t s x th w h => exec_issued (exec_aShr s t) h rfl
  case sra => exact fun t s x th w h => exec_issued (exec_aSra s t) h rfl
  case movi => exact fun t s x th w h => exec_issued (exec_aMovi s t) h rfl
  case cmp => exact fun t s x th w h => exec_issued (exec_aCmp s t) h rfl
  case rdstat => exact fun t s x th w h => exec_issued (exec_aRdstat s t) h rfl

/-! ### Loads, stores and DMA (08 R213, R215, R218, R220) -/

section

variable {n : Nat} {f : Meaning64} {t : Thr} {x : Ctx} {th : Thread} {w : Word64} {s : State}

theorem lsu_inside (hin : lsuAddr th w + n ≤ shareLen x) : lsu n f t x th w s = f t x th w s := if_neg (Nat.not_lt.mpr hin)

theorem lsu_outside (hout : shareLen x < lsuAddr th w + n) : lsu n f t x th w s = trap s t th.pc Tr.localBound 0 := if_pos hout

theorem load_outside (hout : shareLen x < lsuAddr th w + n) : load n f t x th w s = trap s t th.pc Tr.localBound 0 :=
  lsu_outside hout

theorem load_sound (hin : lsuAddr th w + n ≤ shareLen x) (hsound : localBad s t.ctx t.arr (lsuAddr th w) n = false) :
    load n f t x th w s = f t x th w s := by
  rw [load, lsu_inside hin, hsound, if_neg Bool.false_ne_true]

theorem load_bad (hin : lsuAddr th w + n ≤ shareLen x) (hbad : localBad s t.ctx t.arr (lsuAddr th w) n = true) :
    load n f t x th w s = trap s t th.pc Tr.data 0 := by
  rw [load, lsu_inside hin, if_pos hbad]

/-- An instruction whose vector registers the context has acts. -/
theorem needV_within {rs : Word64 → List Nat} (hregs : ∀ r ∈ rs w, r < x.vregs) : needV rs f t x th w s = f t x th w s :=
  if_pos (List.all_eq_true.mpr fun r hr => decide_eq_true (hregs r hr))

/-- A DMA whose length, local range and device range are in order is added to the thread's DMAs. -/
theorem mDma_ok {kind : DmaKind} (hlo : 16 ≤ w.imm) (hhi : w.imm ≤ 1048576) (hmult : w.imm % 16 = 0)
    (hin : reg th w.b + w.imm ≤ shareLen x) (halign : reg th w.a % 16 = 0)
    (hmay : dmaAllowed s x (kind == .write) (reg th w.a) w.imm = true) :
    mDma kind t x th w s =
      setThr s t (next { th with dmas := th.dmas ++ [⟨kind, reg th w.a, reg th w.b, w.imm, 0, th.pc, now s⟩] }) := by
  have hlen : (decide (w.imm < 16) || decide (1048576 < w.imm) || w.imm % 16 != 0) = false := by
    simp [hlo, hhi, hmult]
  have hdev : (reg th w.a % 16 != 0 || !dmaAllowed s x (kind == .write) (reg th w.a) w.imm) = false := by
    simp [halign, hmay]
  simp only [mDma, hlen, hdev, if_neg (Nat.not_lt.mpr hin), Bool.false_eq_true, if_false]

theorem mQld_ok (halign : reg th w.a % 8 = 0) (hmay : dmaAllowed s x false (reg th w.a) 16 = true) :
    mQld t x th w s =
      setThr s t (next { th with dmas := th.dmas ++ [⟨.block, reg th w.a, reg th w.b, 0, w.dst, th.pc, now s⟩] }) := by
  simp [mQld, halign, hmay]

end

/-! ### The oldest DMA completes (08 R218; 11 R331) -/

section

variable {t : Thr} {x : Ctx} {th : Thread} {s : State} {d : ADma} {rest : List ADma}

/-- A thread once its oldest DMA is done: in DMA.WAIT it goes on after its last (08 R218). -/
def afterDma (th : Thread) (rest : List ADma) : Thread :=
  if rest = [] ∧ th.wait = .dma then next { th with dmas := rest, wait := .none } else { th with dmas := rest }

theorem dmaDone_read (hctx : getCtx s t.ctx = some x) (hthr : getThr s t = some th) (hdmas : th.dmas = d :: rest)
    (hfree : dmaHeld s d = false) (hkind : d.kind = .read) (hread : rangeRead s d.dev d.len = St.ok) :
    dmaDone t s =
      setThr (putLocal (readAll s d.dev d.len) t.ctx t.arr d.loc (devRead s d.dev d.len)) t (afterDma th rest) := by
  simp [dmaDone, hctx, hthr, hdmas, hfree, hkind, hread, afterDma]

theorem dmaDone_write {s1 : State} (hctx : getCtx s t.ctx = some x) (hthr : getThr s t = some th)
    (hdmas : th.dmas = d :: rest) (hfree : dmaHeld s d = false) (hkind : d.kind = .write)
    (hsound : localBad s t.ctx t.arr d.loc d.len = false) (hroom : rangeWrite s d.dev d.len = St.ok)
    (hwrite : devWrite s d.dev (memReadN (share s t.ctx t.arr) d.loc d.len) = some s1) :
    dmaDone t s = setThr s1 t (afterDma th rest) := by
  simp [dmaDone, hctx, hthr, hdmas, hfree, hkind, hsound, hroom, hwrite, afterDma]

theorem dmaDone_held (hctx : getCtx s t.ctx = some x) (hthr : getThr s t = some th) (hdmas : th.dmas = d :: rest)
    (hheld : dmaHeld s d = true) : dmaDone t s = s := by
  simp only [dmaDone, hctx, hthr, hdmas, hheld, if_true]

end

/-- Settles O13: a load, store or DMA that issues passes or fails the checks that the clause names, on the state in which its
port has granted it; and the oldest DMA of a thread completes unless it is held. -/
theorem arrayMemoryInstructions : Obligations.ArrayMemoryInstructions := by
  unfold Obligations.ArrayMemoryInstructions
  refine ⟨?ld, ?ldOutside, ?ldBad, ?st, ?vld, ?vst, ?dmaRd, ?dmaWr, ?dmaQld, ?dmaWait, ?read, ?write, ?held⟩
  case ld => exact fun t s x th w h hin hsound => exec_issued (exec_aLd s t) h (load_sound hin hsound)
  case ldOutside => exact fun t s x th w h hout => exec_issued (exec_aLd s t) h (load_outside hout)
  case ldBad => exact fun t s x th w h hin hbad => exec_issued (exec_aLd s t) h (load_bad hin hbad)
  case st => exact fun t s x th w h hin => exec_issued (exec_aSt s t) h (lsu_inside hin)
  case vld =>
    exact fun t s x th w h hdst hin hsound =>
      exec_issued (exec_aVld s t) h ((needV_within (by simpa using hdst)).trans (load_sound hin hsound))
  case vst =>
    exact fun t s x th w h hb hin =>
      exec_issued (exec_aVst s t) h ((needV_within (by simpa using hb)).trans (lsu_inside hin))
  case dmaRd =>
    exact fun t s x th w h hlo hhi hmult hin halign hmay =>
      exec_issued (exec_aDmaRd s t) h (mDma_ok hlo hhi hmult hin halign hmay)
  case dmaWr =>
    exact fun t s x th w h hlo hhi hmult hin halign hmay =>
      exec_issued (exec_aDmaWr s t) h (mDma_ok hlo hhi hmult hin halign hmay)
  case dmaQld => exact fun t s x th w h halign hmay => exec_issued (exec_aDmaQld s t) h (mQld_ok halign hmay)
  case dmaWait => exact fun t s x th w h => exec_issued (exec_aDmaWait s t) h rfl
  case read =>
    intro t s x th d rest th1 hctx hthr hdmas hfree hkind hread
    rw [exec_dmaDone, execDmaDone, dmaDone_read hctx hthr hdmas hfree hkind hread]
    rfl
  case write =>
    intro t s s1 x th d rest th1 hctx hthr hdmas hfree hkind hsound hroom hwrite
    rw [exec_dmaDone, execDmaDone, dmaDone_write hctx hthr hdmas hfree hkind hsound hroom hwrite]
    rfl
  case held =>
    intro t s x th d rest hctx hthr hdmas hheld
    rw [exec_dmaDone, execDmaDone, dmaDone_held hctx hthr hdmas hheld]

/-! ### Passes and banks (08 R211, R216, R217, R219) -/

section

variable {t : Thr} {x : Ctx} {th : Thread} {w : Word64} {s : State} {p : PDesc}

/-- The pass that a GRID.MM with descriptor `p` starts now, with the time of its end (08 R211, R217). -/
def passOf (s : State) (t : Thr) (p : PDesc) : Pass :=
  ⟨p.d, passVals (share s t.ctx t.arr)
      ((Tbl.get (arr s t.arr).banks p.cb).map fun b => qtab ⟨0, b.header, b.body, 0, 0, 0⟩) p,
    decide (p.wf ≤ 2) && !p.isGroup && p.side == 0, p.acc, p.cycles, now s + passNs s t.arr p⟩

/-- A descriptor in order, its codebook bank live where the weights are coded, starts its pass. -/
theorem mGridMm_ok (hdesc : passDesc s t x (reg th w.a) = .ok p)
    (hlive : coded p.wf = true → ∃ b, Tbl.get (arr s t.arr).banks p.cb = some b ∧ bankLive s b = true) :
    mGridMm t x th w s = setThr s t (next { th with passes := th.passes ++ [passOf s t p] }) := by
  simp only [mGridMm, hdesc]
  refine if_neg fun hgone => ?_
  obtain ⟨hcoded, hdead⟩ := Bool.and_eq_true_iff.mp hgone
  obtain ⟨b, hbank, hb⟩ := hlive hcoded
  simp [hbank, hb] at hdead

theorem mGridMm_error {code : Nat} (hdesc : passDesc s t x (reg th w.a) = .error code) :
    mGridMm t x th w s = trap s t th.pc code 0 := by
  simp only [mGridMm, hdesc]

theorem passEnd_due {y : Thread} {q : Pass} {rest : List Pass} (hthr : getThr s t = some th) (hpasses : th.passes = q :: rest)
    (hdue : q.endAt ≤ now s) (hafter : getThr (endPass s t th q rest) t = some y) :
    let s1 := endPass s t th q rest
    let s2 := if y.passes.isEmpty && y.wait == .grid then setThr s1 t (next { y with wait := .none }) else s1
    passEnd t s = if (arr s2 t.arr).mhzRun = mhzTarget s2 t.arr then s2 else setClock s2 t.arr := by
  simp only [passEnd, hthr, hpasses, if_neg (Nat.not_lt.mpr hdue), hafter]

theorem mCbLoad_ok {g : Gen}
    (hgen : ((cslot s (reg th 1)).gens.find? fun g => g.tag == reg th 2 && g.tableId == reg th 3 &&
      decide ((cslot s (reg th 1)).cond = .quant)) = some g) :
    mCbLoad t x th w s = setThr (setArr s t.arr { arr s t.arr with
      banks := Tbl.set (arr s t.arr).banks (w.imm % 8) ⟨reg th 1, g.loadSeq, g.header, g.body⟩ }) t (next th) := by
  simp only [mCbLoad, hgen]

end

/-! ### Lanes (08 R209, R210, R215) -/

section

variable {t : Thr} {x : Ctx} {th : Thread} {w : Word64} {s : State}

/-- A lane operation acts on FP32 lanes, or, under FMT 0xD, on INT32 lanes, which saturate into ACC_SAT. -/
theorem vec3_ok {f : F32 → F32 → F32 → F32} {g : Int → Int → Int → Int} (hdst : w.dst < x.vregs) (ha : w.a < x.vregs)
    (hb : w.b < x.vregs) :
    let ls := ((vreg th w.a).zip (vreg th w.b)).zip (vreg th w.dst)
    let rs := ls.map fun l => satLane (g (s32 l.1.1) (s32 l.1.2) (s32 l.2))
    vec3 f g t x th w s = setThr s t (vecDone (
      if w.fmt = 0xD then { setVreg th w.dst (rs.map (·.1)) with accSat := th.accSat || rs.any (·.2) }
      else setVreg th w.dst (ls.map fun l => f l.1.1 l.1.2 l.2))) := by
  rw [vec3, needV_within (by simp [hdst, ha, hb])]
  split <;> rfl

theorem vec1_ok {f : F32 → F32} (hdst : w.dst < x.vregs) (ha : w.a < x.vregs) :
    vec1 f t x th w s = setThr s t (vecDone (setVreg th w.dst ((vreg th w.a).map f))) := by
  rw [vec1, needV_within (by simp [hdst, ha])]

theorem mVcvt_ok (hdst : w.dst < x.vregs) (ha : w.a < x.vregs) :
    mVcvt t x th w s = setThr s t (vecDone (setVreg th w.dst ((vreg th w.a).map fun v =>
      if bit w.imm 0 then convertFrom w.fmt v else convertTo w.fmt v))) := by
  rw [mVcvt, needV_within (by simp [hdst, ha])]

theorem mVred_float (hdst : w.dst < x.vregs) (ha : w.a < x.vregs) (hfmt : w.fmt ≠ 0xD) :
    let v : F32 := if (vreg th w.a).any isNan then nanBits
      else if bit w.imm 0 then (vreg th w.a).foldl fmax 0xFF800000 else fsumOpen (vreg th w.a)
    mVred t x th w s = setThr s t (vecDone (setVreg th w.dst (List.replicate 64 v))) := by
  rw [mVred, needV_within (by simp [hdst, ha])]
  exact if_neg hfmt

theorem mVred_int (hdst : w.dst < x.vregs) (ha : w.a < x.vregs) (hfmt : w.fmt = 0xD) :
    let v := if bit w.imm 0 then satLane ((vreg th w.a).foldl (fun m y => max m (s32 y)) (-2147483648))
      else satLane ((vreg th w.a).foldl (fun m y => m + s32 y) 0)
    mVred t x th w s = setThr s t (vecDone
      { setVreg th w.dst (List.replicate 64 v.1) with accSat := th.accSat || v.2 }) := by
  rw [mVred, needV_within (by simp [hdst, ha])]
  exact if_pos hfmt

end

/-! ### Barriers and semaphores (08 R212, R215) -/

section

variable {t : Thr} {x : Ctx} {th : Thread} {w : Word64} {s : State}

theorem barrier_complete {wt : TWait} {reaches : Thr → Thr → Bool} :
    let s1 := setThr s t { th with wait := wt }
    let ts := (launchThreads t.ctx x).filter (reaches t)
    ts.all (atBarrier s1 wt) = true → barrier wt reaches t x th w s = releaseAll wt ts s1 :=
  fun hall => if_pos hall

theorem mSemInc_unawaited :
    let s1 := setThr s t (next th)
    (launchThreads t.ctx x).find? (waitsSem s1 (w.imm % 16)) = none →
    mSemInc t x th w s = setSem s1 t.ctx (w.imm % 16) (sem x (w.imm % 16) + 1) := by
  intro s1 hnone
  simp only [mSemInc, hnone, s1]

end

/-- Settles O14: an instruction that issues passes or fails the checks that the clause names, on the state in which its port has
granted it; and the oldest pass of a thread ends at its time. -/
theorem gridAndVectorInstructions : Obligations.GridAndVectorInstructions := by
  unfold Obligations.GridAndVectorInstructions
  refine ⟨?mm, ?mmTrap, ?passEnd, ?gridWait, ?cbLoad, ?fma, ?add, ?mul, ?max, ?min, ?cvt, ?redFloat, ?redInt, ?exp2, ?rcp, ?rsqrt,
    ?bar, ?xbar, ?inc, ?wait⟩
  case mm => exact fun t s x th w p h hdesc hlive => exec_issued (exec_gridMm s t) h (mGridMm_ok hdesc hlive)
  case mmTrap => exact fun t s x th w code h hdesc => exec_issued (exec_gridMm s t) h (mGridMm_error hdesc)
  case passEnd =>
    intro t s th y p rest s1 s2 hthr hpasses hdue hafter
    rw [exec_passEnd, execPassEnd, passEnd_due hthr hpasses hdue hafter]
  case gridWait => exact fun t s x th w h => exec_issued (exec_gridWait s t) h rfl
  case cbLoad => exact fun t s x th w g h hgen => exec_issued (exec_cbLoad s t) h (mCbLoad_ok hgen)
  case fma => exact fun t s x th w h hdst ha hb => exec_issued (exec_vFma s t) h (vec3_ok hdst ha hb)
  case add => exact fun t s x th w h hdst ha hb => exec_issued (exec_vAdd s t) h (vec3_ok hdst ha hb)
  case mul => exact fun t s x th w h hdst ha hb => exec_issued (exec_vMul s t) h (vec3_ok hdst ha hb)
  case max => exact fun t s x th w h hdst ha hb => exec_issued (exec_vMax s t) h (vec3_ok hdst ha hb)
  case min => exact fun t s x th w h hdst ha hb => exec_issued (exec_vMin s t) h (vec3_ok hdst ha hb)
  case cvt => exact fun t s x th w h hdst ha => exec_issued (exec_vCvt s t) h (mVcvt_ok hdst ha)
  case redFloat => exact fun t s x th w h hdst ha hfmt => exec_issued (exec_vRed s t) h (mVred_float hdst ha hfmt)
  case redInt => exact fun t s x th w h hdst ha hfmt => exec_issued (exec_vRed s t) h (mVred_int hdst ha hfmt)
  case exp2 => exact fun t s x th w h hdst ha => exec_issued (exec_vExp2 s t) h (vec1_ok hdst ha)
  case rcp => exact fun t s x th w h hdst ha => exec_issued (exec_vRcp s t) h (vec1_ok hdst ha)
  case rsqrt => exact fun t s x th w h hdst ha => exec_issued (exec_vRsqrt s t) h (vec1_ok hdst ha)
  case bar => exact fun t s x th w h hall => exec_issued (exec_syncBar s t) h (barrier_complete hall)
  case xbar => exact fun t s x th w h hall => exec_issued (exec_syncXbar s t) h (barrier_complete hall)
  case inc => exact fun t s x th w h hnone => exec_issued (exec_semInc s t) h (mSemInc_unawaited hnone)
  case wait => exact fun t s x th w h => exec_issued (exec_semWait s t) h rfl

end Sys2Proof.Machine

namespace Sys2Proof.Machine

/-! SUPPORT. The step commands at an owner whose step's home is here, and what ends a step without a close (09 R242 to R252, R263
to R270). The owner's checks pass, the home runs the command from the message that it would get, and the owner follows its
answer. -/

section

variable {op tag : Nat} {act : StepAct} {c : Cmd} {s s2 : State} {o : OwnStep} {st : Step} {m : FwdMsg} {a : Ans}
  {outs : Option (List StepOut)}

/-! ### The home is here (09 R242) -/

/-- A step command whose home is here runs here, and the owner follows the answer. -/
theorem runStep_here {home slot : Nat} {ns left : List Nat} {checks : List (Except Ans Unit)} (hhome : home = me s)
    (hact : act { homeMsg s c op 0 ns checks with left := left, codecSlot := slot } s = .ok (a, outs, s2)) :
    runStep op tag home c ns left slot checks act s = .ok (afterStep op tag c.tok a outs s2) := by
  rw [runStep, if_neg (by simp [hhome])]
  simp only [hact]

theorem homeAttn_later (hopen : (stepHdr Op.attn m.pay).isOpen = false) (hstep : getStep s (stepHdr Op.attn m.pay).tag = some st)
    (howner : st.owner = m.frm) : homeAttn m s = layerStep m (stepHdr Op.attn m.pay).tag st s := by
  simp [homeAttn, hopen, hstep, howner]

theorem homeClose_later (hopen : (stepHdr op m.pay).isOpen = false) (hgiven : isGiven m.pay = false)
    (hstep : getStep s (stepHdr op m.pay).tag = some st) (howner : st.owner = m.frm) :
    homeClose op m s = closeStep m (stepHdr op m.pay).tag (op == Op.verify) st none s := by
  simp [homeClose, hopen, hgiven, hstep, howner]

/-! ### A later command of an open step (09 R242, R248, R264, R265) -/

section

variable (hopen : (stepHdr op c.pay).isOpen = false) (hchecks : stepChecks op c (stepHdr op c.pay) 0 = .ok ())
  (hown : getOwn s (stepHdr op c.pay).tag = some o) (hmine : o.entries.all (entryMine c s) = true) (hlive : o.isOpen = true)
  (hclose : o.closeTok = none)

include hopen hchecks hown hmine hlive hclose

/-- A layer of an open step goes to the step's home. -/
theorem stepCmd_layer (hsample : op ≠ Op.sample) (hverify : op ≠ Op.verify) :
    stepCmd op act c s = runStep op (stepHdr op c.pay).tag o.home c [] [] 0 [] act s := by
  simp [stepCmd, moreCmd, hsample, hverify, hopen, hchecks, hown, hmine, hlive, hclose]

/-- The close of an open step that brings no tokens goes to the step's home, with the owner's checks passed. -/
theorem stepCmd_close (hop : op = Op.sample ∨ op = Op.verify) (hgiven : isGiven c.pay = false) (hseg : o.segment = false)
    (hroom : ringRoom s o.bulletin = true) :
    stepCmd op act c s =
      runStep op (stepHdr op c.pay).tag o.home c (o.taken.map (·.slot)) [] 0 [.ok (), .ok ()] act s := by
  have hcloses : (op == Op.sample || op == Op.verify) = true := by simpa using hop
  simp [stepCmd, moreCmd, hcloses, hgiven, hopen, hchecks, hown, hmine, hlive, hclose, hseg, hroom]

variable (hhome : o.home = me s) (hstep : getStep s (stepHdr op c.pay).tag = some st) (howner : st.owner = me s)

include hhome hstep howner

/-- A layer of an open step runs at the home here, and the owner follows its answer. -/
theorem stepCmd_layer_here (hop : op = Op.attn)
    (hrun : layerStep (homeMsg s c op 0 []) (stepHdr op c.pay).tag st s = .ok (a, outs, s2)) :
    stepCmd op homeAttn c s = .ok (afterStep op (stepHdr op c.pay).tag c.tok a outs s2) := by
  subst hop
  rw [stepCmd_layer hopen hchecks hown hmine hlive hclose (by decide) (by decide)]
  refine runStep_here hhome (Eq.trans ?_ hrun)
  exact homeAttn_later hopen hstep howner

/-- The close of an open step runs at the home here, and the owner follows its outcomes. -/
theorem stepCmd_close_here (hop : op = Op.sample ∨ op = Op.verify) (hgiven : isGiven c.pay = false) (hseg : o.segment = false)
    (hroom : ringRoom s o.bulletin = true)
    (hrun : closeStep (homeMsg s c op 0 (o.taken.map (·.slot)) [.ok (), .ok ()]) (stepHdr op c.pay).tag (op == Op.verify) st
      none s = .ok (a, outs, s2)) :
    stepCmd op (homeClose op) c s = .ok (afterStep op (stepHdr op c.pay).tag c.tok a outs s2) := by
  rw [stepCmd_close hopen hchecks hown hmine hlive hclose hop hgiven hseg hroom]
  refine runStep_here hhome (Eq.trans ?_ hrun)
  exact homeClose_later hopen hgiven hstep howner

end

/-! ### An opening (09 R245, R247, R263) -/

/-- SPEC_DRAFT always opens its step. -/
theorem stepCmd_draft (hchecks : stepChecks Op.draft c (stepHdr Op.draft c.pay) 0 = .ok ()) :
    stepCmd Op.draft act c s = openCmd Op.draft act c (stepHdr Op.draft c.pay) s := by
  have hsample : Op.draft ≠ Op.sample := by decide
  have hverify : Op.draft ≠ Op.verify := by decide
  have hopen : (stepHdr Op.draft c.pay).isOpen = true := rfl
  simp [stepCmd, hsample, hverify, hopen, hchecks]

/-- An opening that closes nothing, of requests with one home and one codec slot, on a ring that takes them: the owner marks the
requests it takes in and goes to that home. -/
theorem openCmd_ok {h : StepHdr} {xs : List (LenEnt × Nat × Slot)} {home slot : Nat} {b : Bulletin} (hop : op ≠ Op.sample)
    (htab : (lenTable h c.pay).mapM (tableEntry c s) = .ok xs)
    (hfirst : (xs.head?.map fun x => (homeOf s x.2.2, x.2.2.e.codecSlot)) = some (home, slot))
    (hsame : (xs.all fun x => some (homeOf s x.2.2, x.2.2.e.codecSlot) == some (home, slot)) = true)
    (hseg : ((lenTable h c.pay).any fun e => e.seg) = false) (hring : Tbl.get s.att.bulletins h.ring = some b)
    (hten : c.tenantOk b.tenant = true) (hbatch : h.count ≤ b.maxBatch) (hnew : getOwn s h.tag = none) :
    let t := takeAll op h.tag xs s
    let o : OwnStep := ⟨home, h.ring, false, false, now s, t.1, none, [], []⟩
    openCmd op act c h s = runStep op h.tag home c (o.taken.map (·.slot)) ((t.1.filter fun e => e.st != St.ok).map (·.gid)) slot
      [.ok (), .ok ()] act (setOwn t.2 h.tag o) := by
  rw [openCmd, bind_of_ok htab]
  simp only [hfirst, Option.map_some, Option.getD_some, hring, hseg, Bool.false_or]
  rw [bind_of_ok (need_of_true hten), bind_of_ok (lenF_of_true (decide_eq_true hbatch)),
    bind_of_ok (fldF_of_true Option.isSome_some), bind_of_ok (fldF_of_true (by rw [hnew]; rfl)), bind_of_ok (need_of_true hsame)]
  simp [hop]

end

/-! ### The obligation -/

/-- Settles O15: the owner's checks pass under a clause's conditions, the home here runs the command, and the owner follows its
answer; at a timeout of another node's step this controller acts as its home alone. -/
theorem stepCommands : Obligations.StepCommands := by
  unfold Obligations.StepCommands
  refine ⟨?attn, ?sample, ?draft, ?verify, ?timeout, fun _ _ _ => rfl⟩
  case attn =>
    intro r d s s1 s2 c o st a outs h ht hopen hchecks hown hmine hlive hclose hhome hstep howner hrun p
    rw [exec_attnStep, execAttnStep,
      hostCmd_ok ht (stepCmd_layer_here hopen hchecks hown hmine hlive hclose hhome hstep howner rfl hrun)]
    rfl
  case sample =>
    intro r d s s1 s2 c o st a outs h m ht hopen hgiven hchecks hown hmine hlive hclose hseg hroom hhome hstep howner hrun p
    rw [exec_sampleStep, execSampleStep, hostCmd_ok ht
      (stepCmd_close_here hopen hchecks hown hmine hlive hclose hhome hstep howner (.inl rfl) hgiven hseg hroom hrun)]
    rfl
  case draft =>
    intro r d s s1 s2 c xs e0 n0 x0 b a outs h t o s0 m ht hchecks htab hhead hnew hseg hhome hsame hring hten hbatch hme hrun p
    have hfirst : (xs.head?.map fun x => (homeOf s1 x.2.2, x.2.2.e.codecSlot)) = some (me s1, x0.e.codecSlot) := by
      rw [hhead, Option.map_some, hhome]
    have hrow : stepCmd Op.draft homeDraft c s1 = .ok p := by
      rw [stepCmd_draft hchecks,
        openCmd_ok (by decide) htab hfirst (by rwa [hhome] at hsame) hseg hring hten hbatch hnew]
      exact runStep_here hme.symm hrun
    rw [exec_specDraft, execSpecDraft, hostCmd_ok ht hrow]
    rfl
  case verify =>
    intro r d s s1 s2 c o st a outs h m ht hopen hgiven hchecks hown hmine hlive hclose hseg hroom hhome hstep howner hrun p
    rw [exec_specVerify, execSpecVerify, hostCmd_ok ht
      (stepCmd_close_here hopen hchecks hown hmine hlive hclose hhome hstep howner (.inr rfl) hgiven hseg hroom hrun)]
    rfl
  case timeout =>
    intro s owner tag st hother hstep howner hpast
    have hdue : stepPast s st.openedAt = true := decide_eq_true hpast
    simp only [exec_stepTimeout, execStepTimeout, hstep, howner, hdue, hother]
    split <;> simp

end Sys2Proof.Machine

namespace Sys2Proof.Machine

/-! SUPPORT. The commands that set steps up, and those of the pattern-search memory, where they complete (09 R254, R257 to R262,
R268; 11 R326 to R328). A meaning's checks pass in order under the conditions stated, and its effect remains. -/

section

variable {c : Cmd} {s : State}

/-! ### Sampling parameters (09 R243, R258) -/

/-- The block that SAMPLE_SET leaves on an entry: its payload, and the count entries, in a page that holds them (09 R258). -/
def setAux (c : Cmd) (x : Slot) : Aux :=
  let cs := sampleCounts x (c.fld 140 140 == 1)
  ⟨c.pay, max (capFor cs.length) ((x.aux.map (·.cap)).getD 64), (x.aux.map (·.draftPage)).getD noId, cs⟩

theorem sampleSet_ok {n id : Nat} {x : Slot} {s2 : State} (hfields : sampleFields c = .ok ())
    (hentry : c.entry s c.target = .ok (n, x))
    (hvocab : ((setAux c x).counts.all fun k => decide (k.token < c.fld 116 98)) = true) (hopen : openEntry s n x = .ok ())
    (hlive : x.e.state.terminal = false) (hhand : x.e.state ≠ .handoff) (hstep : x.e.inStep = false)
    (hprompt : c.fld 140 140 = 1 → x.e.promptComplete = true) (hcount : (setAux c x).counts.length ≤ 131008)
    (hfits : auxLen (some (setAux c x)) ≤ auxLen x.aux ∨
      serviceFits s (auxLen (some (setAux c x)) - auxLen x.aux) = true)
    (hpage : innerPage s x.aux.isNone = some (id, s2)) :
    sampleSet c s = .ok (okAns, setSlot s2 n
      { x with aux := some (setAux c x), e := { x.e with auxRoot := if x.aux.isNone = true then id else x.e.auxRoot } }) := by
  have hstate : (!x.e.state.terminal && x.e.state != .handoff) = true := by simp [hlive, hhand]
  have hrep : (!(c.fld 140 140 == 1) || x.e.promptComplete) = true :=
    not_or_of_asked fun h => hprompt (beq_iff_eq.mp h)
  have hroom : (decide (auxLen (some (setAux c x)) ≤ auxLen x.aux) ||
      serviceFits s (auxLen (some (setAux c x)) - auxLen x.aux)) = true := by simpa using hfits
  rw [sampleSet, bind_of_ok hfields, bind_of_ok hentry]
  refine (bind_of_ok (fldF_of_true hvocab)).trans ?_
  rw [bind_of_ok hopen, bind_of_ok (stateErr_of_true hstate), bind_of_ok (need_of_true (by simp [hstep])),
    bind_of_ok (stateErr_of_true hrep)]
  refine (bind_of_ok (need_of_true (decide_eq_true hcount))).trans ((bind_of_ok (need_of_true hroom)).trans ?_)
  simp only [hpage]
  rfl

/-! ### Banned sequences (09 R261, R262) -/

/-- BAN_LOAD of records in order that find room extends the set, or replaces it. -/
theorem banLoad_ok :
    let set := c.fld 127 116
    let n := c.fld 115 101
    let recs := c.recs 16 32 n
    let old : BanSet := Tbl.getD s.att.bans set ⟨c.tenant, []⟩
    let base := if c.fld 100 100 = 1 then [] else old.items
    let gone := if c.fld 100 100 = 1 then old.items else []
    let items := recs.foldl (banAdd set) base
    let s2 := gone.foldl (fun t x => deleteEntry t x.idx) s
    n ≤ 16384 → (c.fld 100 100 = 1 ∨ 1 ≤ n) → c.payLen = 16 + 32 * n → c.target = 0 → c.fld 99 0 = 0 → set ≠ 0 →
    checkEach (fun i x => need (decide (1 ≤ (banRec x).1) && decide ((banRec x).1 ≤ 8)) St.lengthRange (inPay (16 + 32 * i + 3)))
      0 recs = .ok () → checkEach banRecOk 0 recs = .ok () → c.tenantOk old.tenant = true → banInUse s set = false →
    items.length - base.length ≤ banksFree s 0xF + gone.length → banBytes s set items ≤ 4194304 →
    banLoad c s = .ok (okAns,
      items.foldl (banStore set old.tenant) { s2 with att := { s2.att with bans := Tbl.del s2.att.bans set } }) := by
  intro set n recs old base gone items s2 hmax hmin hlen htgt hrsv hset hlens hrecs hown hidle hroom hbytes
  have hcount : (decide (n ≤ 16384) && (c.fld 100 100 == 1 || decide (1 ≤ n))) = true := by simpa [hmax] using hmin
  simp only [banLoad, beq_iff_eq]
  rw [bind_of_ok (lenF_of_true hcount), bind_of_ok (lenIs_of_eq hlen), bind_of_ok hlens, bind_of_ok (tgtRsv_of_zero htgt),
    bind_of_ok (rsv_of_zero hrsv), bind_of_ok (fldF_of_true (bne_iff_ne.mpr hset)), bind_of_ok hrecs,
    bind_of_ok (own_of_tenantOk hown), bind_of_ok (need_of_true (by rw [hidle]; rfl)),
    bind_of_ok (need_of_true (decide_eq_true hroom)), bind_of_ok (need_of_true (decide_eq_true hbytes))]

/-! ### Bias tables (09 R254) -/

/-- ATTN_BIAS_LOAD into a slot that is free, or the session's and in no step, keeps the table. -/
theorem attnBiasLoad_ok :
    let g := c.fld 12 6
    let vals := bf16sOf (c.pay.drop 16) (4096 * g)
    1 ≤ g → g ≤ 64 → c.payLen = 16 + 8192 * g → c.target = 0 → c.fld 127 13 = 0 →
    (∀ i, ∀ v ∈ vals, need (isFinite (ofBf16 v) || v == 0xFF80) St.fieldRange (inPay (16 + 2 * i)) = .ok ()) →
    (∀ b, Tbl.get s.att.bias (c.fld 5 0) = some b → c.tenantOk b.tenant = true) → biasInUse s (c.fld 5 0) = false →
    attnBiasLoad c s =
      .ok (okAns, { s with att := { s.att with bias := Tbl.set s.att.bias (c.fld 5 0) ⟨c.tenant, g, vals⟩ } }) := by
  intro g vals hlo hhi hlen htgt hrsv hvals hown hidle
  simp only [attnBiasLoad]
  rw [bind_of_ok (lenF_of_true (by simp [hlo, hhi, g])), bind_of_ok (lenIs_of_eq hlen), bind_of_ok (tgtRsv_of_zero htgt),
    bind_of_ok (rsv_of_zero hrsv), bind_of_ok (checkEach_ok hvals 0)]
  cases hget : Tbl.get s.att.bias (c.fld 5 0) with
  | none => simp [hidle, g, vals]
  | some b => simp [own_of_tenantOk (hown b hget), hidle, g, vals]

/-! ### Merged attention outputs (09 R257) -/

/-- LSE_MERGE of readable inputs into writable ranges writes the merged rows, then their log-sum-exps. -/
theorem lseMerge_ok {s2 s3 : State} :
    let n := c.fld 108 104
    let rows := c.fld 127 111
    let dim := 64 <<< c.fld 110 109
    let outA := c.fld 255 192
    let lseA := c.fld 191 128
    let bf := c.fld 103 103 == 0
    let recs := c.recs 32 16 n
    let ins := recs.map fun x => (f32sOf (devRead s (bits x 127 64) (4 * (rows * dim))) (rows * dim),
      f32sOf (devRead s (bits x 63 0) (4 * rows)) rows)
    let out := (List.range rows).map fun k => mergeRow dim (ins.map fun i => ((i.1.drop (k * dim)).take dim, i.2.getD k 0))
    2 ≤ n → n ≤ 16 → 1 ≤ rows → rows ≤ 65536 → c.payLen = 32 + 16 * n → c.target = 0 → c.fld 102 0 = 0 →
    c.fld 110 109 ≠ 3 → lseA ≠ 0 → lseA < objectBytes → outA < objectBytes →
    (∀ x ∈ recs, bits x 63 0 < objectBytes ∧ bits x 127 64 < objectBytes) →
    rangeMine s (c.priv == .tenant) c.tenant outA (rows * dim * outSize bf) = true →
    rangeMine s (c.priv == .tenant) c.tenant lseA (4 * rows) = true →
    (∀ x ∈ recs, rangeMine s (c.priv == .tenant) c.tenant (bits x 127 64) (4 * (rows * dim)) = true ∧
      rangeMine s (c.priv == .tenant) c.tenant (bits x 63 0) (4 * rows) = true) →
    (∀ x ∈ recs, canRead s (bits x 127 64) (4 * (rows * dim)) = .ok () ∧ canRead s (bits x 63 0) (4 * rows) = .ok ()) →
    canWrite s outA (rows * dim * outSize bf) = .ok () → canWrite s lseA (4 * rows) = .ok () →
    devWrite s outA ((out.flatMap (·.1)).flatMap (outBytes bf)) = some s2 →
    devWrite s2 lseA (f32Bytes (out.map (·.2))) = some s3 →
    lseMerge c s = .ok (okAns, s3) := by
  intro n rows dim outA lseA bf recs ins out hmin hmax hrow hrows hlen htgt hrsv hdim hlse hlseIn houtIn hin houtMine hlseMine
    hmine hread houtOpen hlseOpen hout hsum
  have hinside : checkEach (fun i x => do
      need (decide (bits x 63 0 < objectBytes)) St.fieldRange (inPay (32 + 16 * i))
      need (decide (bits x 127 64 < objectBytes)) St.fieldRange (inPay (32 + 16 * i + 8))) 0 recs = .ok () := by
    refine checkEach_ok (fun i x hx => ?_) 0
    obtain ⟨hsums, hvals⟩ := hin x hx
    rw [bind_of_ok (need_of_true (decide_eq_true hsums)), need_of_true (decide_eq_true hvals)]
  have hreadable : checkEach (fun _ x => do
      canRead s (bits x 127 64) (4 * (rows * dim))
      canRead s (bits x 63 0) (4 * rows)) 0 recs = .ok () := by
    refine checkEach_ok (fun _ x hx => ?_) 0
    obtain ⟨hvals, hsums⟩ := hread x hx
    rw [bind_of_ok hvals, hsums]
  have hall : (recs.all fun x => rangeMine s (c.priv == .tenant) c.tenant (bits x 127 64) (4 * (rows * dim)) &&
      rangeMine s (c.priv == .tenant) c.tenant (bits x 63 0) (4 * rows)) = true :=
    List.all_eq_true.mpr fun x hx => Bool.and_eq_true_iff.mpr (hmine x hx)
  have hranges : (rangeMine s (c.priv == .tenant) c.tenant outA (rows * dim * outSize bf) &&
      (lseA == 0 || rangeMine s (c.priv == .tenant) c.tenant lseA (4 * rows)) &&
      recs.all fun x => rangeMine s (c.priv == .tenant) c.tenant (bits x 127 64) (4 * (rows * dim)) &&
        rangeMine s (c.priv == .tenant) c.tenant (bits x 63 0) (4 * rows)) = true := by
    rw [houtMine, hlseMine, hall, Bool.or_true]
    rfl
  rw [lseMerge, bind_of_ok (lenF_of_true (by simp [hmin, hmax, n])), bind_of_ok (lenF_of_true (by simp [hrow, hrows, rows])),
    bind_of_ok (lenIs_of_eq hlen), bind_of_ok (tgtRsv_of_zero htgt), bind_of_ok (rsv_of_zero hrsv),
    bind_of_ok (fldF_of_true (bne_iff_ne.mpr hdim)), bind_of_ok (fldF_of_true (decide_eq_true hlseIn)),
    bind_of_ok (fldF_of_true (decide_eq_true houtIn)), bind_of_ok hinside]
  refine (bind_of_ok (need_of_true hranges)).trans ((bind_of_ok hreadable).trans ((bind_of_ok houtOpen).trans ?_))
  refine (bind_of_asked fun _ => hlseOpen).trans ?_
  refine (bind_of_ok (congrArg orFull hout)).trans ?_
  rw [if_neg hlse]
  exact bind_of_ok (congrArg orFull hsum)

/-! ### Bulletin rings (09 R268) -/

/-- BULLETIN_SET of a ring that is free, or the session's and in no step, binds it or releases it. -/
theorem bulletinSet_ok :
    let k := c.fld 167 164
    let p := c.fld 163 162
    let slots := c.fld 180 168
    c.payLen = 32 → 2 ≤ slots → slots ≤ 4096 → 1 ≤ c.fld 191 181 → c.fld 191 181 ≤ 1024 → c.target = 0 → c.fld 160 0 = 0 →
    (portMode s p = 1 ∨ portMode s p = 2) → isPow2 slots = true → c.fld 255 192 % 64 = 0 →
    (∀ b, Tbl.get s.att.bulletins k = some b → c.tenantOk b.tenant = true ∧ ringInStep s k = false) →
    let bs := if c.fld 161 161 = 0 then Tbl.del s.att.bulletins k
      else Tbl.set s.att.bulletins k ⟨c.fld 255 192, c.fld 191 181, slots, p, c.tenant, 0, 0, true, 0, []⟩
    bulletinSet c s = .ok (okAns, { s with att := { s.att with bulletins := bs } }) := by
  intro k p slots hlen hmin hmax hbatch hbatches htgt hrsv hport hpow halign hold bs
  rw [bulletinSet, bind_of_ok (lenIs_of_eq hlen), bind_of_ok (lenF_of_true (by simp [hmin, hmax, slots])),
    bind_of_ok (lenF_of_true (by simp [hbatch, hbatches])), bind_of_ok (tgtRsv_of_zero htgt), bind_of_ok (rsv_of_zero hrsv),
    bind_of_ok (fldF_of_true (by simpa using hport)), bind_of_ok (fldF_of_true hpow),
    bind_of_ok (fldF_of_true (beq_iff_eq.mpr halign))]
  cases hget : Tbl.get s.att.bulletins (c.fld 167 164) with
  | none => rfl
  | some b =>
    obtain ⟨hown, hidle⟩ := hold b hget
    exact (bind_of_ok (own_of_tenantOk hown)).trans (bind_of_ok (need_of_true (by rw [hidle]; rfl)))

/-! ### The pattern-search memory (11 R321, R326 to R328) -/

/-- SEARCH_WRITE of records in order, into a space with room for them, places each and answers its handle. -/
theorem searchWrite_ok :
    let n := c.fld 14 0
    let space := c.fld 27 22
    let banks := c.fld 31 28
    let recs := c.recs 16 48 n
    let empty := (spaceEntries s space).isEmpty
    let m := if empty = true then banks else spaceBanks s space
    let s0 := { s with tsu := { s.tsu with spaces := Tbl.set s.tsu.spaces space m } }
    let p := recs.foldl (fun (a : List Nat × State) x =>
      (a.1 ++ [searchHandle (placeEntry a.2 m (rowOf space x)).2 (placeEntry a.2 m (rowOf space x)).1],
        (placeEntry a.2 m (rowOf space x)).2)) ([], s0)
    1 ≤ n → n ≤ 16384 → c.payLen = 16 + 48 * n → 4 * n ≤ c.resLen → c.target = 0 → c.fld 21 15 = 0 → space ≠ 0 →
    (empty = true → banks ≠ 0) → (empty = false → banks = 0 ∨ banks = spaceBanks s space) → c.fld 127 32 = 0 →
    (∀ x ∈ recs, bits x 15 0 = 0 ∧ bits x 383 224 &&& (2 ^ 160 - 1 - bits x 223 64) = 0) → n ≤ banksFree s m →
    searchWrite c s = .ok (okRes (p.1.flatMap (leBytes 4)), p.2) := by
  intro n space banks recs empty m s0 p hmin hmax hlen hres htgt hrsv hspace hfirst hlater hrsv' hrows hfree
  have hbanks : (if empty = true then banks != 0 else banks == 0 || banks == spaceBanks s space) = true := by
    split
    next h => exact bne_iff_ne.mpr (hfirst h)
    next h => simpa using hlater (eq_false_of_ne_true h)
  have hrecs : checkEach (fun i x => do
      need (bits x 15 0 == 0) St.fieldRange (inPay (16 + 48 * i))
      need (bits x 383 224 &&& (2 ^ 160 - 1 - bits x 223 64) == 0) St.fieldRange (inPay (16 + 48 * i + 28))) 0 recs = .ok () := by
    refine checkEach_ok (fun i x hx => ?_) 0
    obtain ⟨hzero, hkey⟩ := hrows x hx
    rw [bind_of_ok (need_of_true (beq_iff_eq.mpr hzero)), need_of_true (beq_iff_eq.mpr hkey)]
  rw [searchWrite, bind_of_ok (lenF_of_true (by simp [hmin, hmax, n])), bind_of_ok (lenIs_of_eq hlen),
    bind_of_ok (bound_of_le hres), bind_of_ok (tgtRsv_of_zero htgt), bind_of_ok (rsv_of_zero hrsv),
    bind_of_ok (fldF_of_true (bne_iff_ne.mpr hspace))]
  refine (bind_of_ok (fldF_of_true hbanks)).trans ?_
  rw [bind_of_ok (rsv_of_zero hrsv')]
  refine (bind_of_ok hrecs).trans ?_
  exact bind_of_ok (need_of_true (decide_eq_true hfree))

/-- SEARCH_DELETE of handles of entries that are no set's removes them, and empties the spaces they leave empty. -/
theorem searchDelete_ok :
    let n := c.fld 14 0
    let hs := c.recs 8 4 n
    let spaces := distinct (hs.map fun h => ((findSearch s h).map (·.row.space)).getD 0)
    c.fld 15 15 = 0 → 1 ≤ n → n ≤ 16384 → c.payLen = 8 + 4 * n → c.target = 0 → c.fld 63 22 = 0 →
    (∀ h ∈ hs, h >>> 24 = 0 ∧ (findSearch s h).isSome = true ∧ ((findSearch s h).map (·.row.space)).getD 0 ≠ 0) →
    searchDelete c s = .ok (okAns,
      spaces.foldl settleSpace ((distinct hs).foldl (fun t h => deleteEntry t (h % 65536)) s)) := by
  intro n hs spaces hclear hmin hmax hlen htgt hrsv hfound
  have hshort : checkEach (fun i h => need (h >>> 24 == 0) St.fieldRange (inPay (8 + 4 * i + 3))) 0 hs = .ok () :=
    checkEach_ok (fun _ h hh => have ⟨hshort, _, _⟩ := hfound h hh; need_of_true (beq_iff_eq.mpr hshort)) 0
  have hsome : checkEach (fun _ h => need (findSearch s h).isSome St.notFound 0) 0 hs = .ok () :=
    checkEach_ok (fun _ h hh => have ⟨_, hsome, _⟩ := hfound h hh; need_of_true hsome) 0
  have hspace : checkEach (fun i h => need (((findSearch s h).map (·.row.space)).getD 0 != 0) St.fieldRange (inPay (8 + 4 * i)))
      0 hs = .ok () :=
    checkEach_ok (fun _ h hh => have ⟨_, _, hspace⟩ := hfound h hh; need_of_true (bne_iff_ne.mpr hspace)) 0
  rw [searchDelete, hclear, bind_of_ok (lenF_of_true (by simp [hmin, hmax, n])), bind_of_ok (lenIs_of_eq hlen),
    bind_of_ok (tgtRsv_of_zero htgt), bind_of_ok (fldF_of_true (by simp)), bind_of_ok (rsv_of_zero hrsv), bind_of_ok hshort, bind_of_ok hsome, bind_of_ok hspace]
  rfl

/-- SEARCH_QUERY searches for each record in turn and counts the copies that could not be read. -/
theorem searchQuery_ok :
    let n := c.fld 12 0
    let space := c.fld 21 16
    let recs := c.recs 8 24 n
    let p := recs.foldl (fun (a : Bytes × Nat × State) x =>
      let h := search a.2.2 space (bits x 191 32)
      (a.1 ++ hitRecord h.2 h.1, a.2.1 + b2n (h.1 == .check), h.2)) ([], 0, s)
    1 ≤ n → n ≤ 4096 → c.payLen = 8 + 24 * n → 16 * n ≤ c.resLen → c.target = 0 → c.fld 15 13 = 0 → c.fld 63 22 = 0 →
    (∀ x ∈ recs, bits x 31 0 = 0) →
    searchQuery c s =
      .ok ({ st := some (if p.2.1 = 0 then St.ok else St.dataCheck), detail := p.2.1, result := p.1 }, p.2.2) := by
  intro n space recs p hmin hmax hlen hres htgt hrsv hrsv' hrecs
  have hzero : checkEach (fun i x => need (bits x 31 0 == 0) St.fieldRange (inPay (8 + 24 * i))) 0 recs = .ok () :=
    checkEach_ok (fun _ x hx => need_of_true (beq_iff_eq.mpr (hrecs x hx))) 0
  rw [searchQuery, bind_of_ok (lenF_of_true (by simp [hmin, hmax, n])), bind_of_ok (lenIs_of_eq hlen),
    bind_of_ok (bound_of_le hres), bind_of_ok (tgtRsv_of_zero htgt), bind_of_ok (rsv_of_zero hrsv),
    bind_of_ok (rsv_of_zero hrsv')]
  exact bind_of_ok hzero

theorem scrubRow_of_copy {i : Nat} {e : SEntry} {v : SRow} (h : e.copy = some v) :
    scrubRow s (i, e) = countUpdate { s with tsu := { s.tsu with search := Tbl.set s.tsu.search i ⟨v, some v, false⟩ } } := by
  simp only [scrubRow, h]

theorem scrubRow_of_no_copy {i : Nat} {e : SEntry} (h : e.copy = none) :
    scrubRow s (i, e) = dropEntry (searchEvent { s with tsu := { s.tsu with
      hardErrors := (s.tsu.hardErrors + 1) % 2 ^ 32 } } Ec.uncorrected 1 i) i := by
  simp only [scrubRow, h]

/-- SEARCH_SCRUB of a bank with one entry scrubs that entry. -/
theorem execSearchScrub_single {bank i : Nat} {e : SEntry}
    (h : (s.tsu.search.filter fun kv => kv.1 / 16384 == bank) = [(i, e)]) :
    execSearchScrub bank s = .next (commit s (scrubRow s (i, e))) := by
  rw [execSearchScrub, h]
  rfl

end

/-! ### The obligation -/

/-- Settles O16: each meaning's checks pass under the clause's conditions, and its effect is answered from the state the checks
leave. -/
theorem samplingAndSearchCommands : Obligations.SamplingAndSearchCommands := by
  unfold Obligations.SamplingAndSearchCommands
  refine ⟨?sampleSet, ?banLoad, ?bias, ?merge, ?bulletin, ?write, ?delete, ?query, ?scrub, ?scrubLost⟩
  case sampleSet =>
    intro r d s s1 s2 c n id x cs a ht hfields hentry hvocab hopen hlive hhand hstep hprompt hcount hfits hpage
    rw [exec_sampleSet, execSampleSet, hostCmd_ok ht
      (sampleSet_ok hfields hentry hvocab hopen hlive hhand hstep hprompt hcount hfits hpage)]
    rfl
  case banLoad =>
    intro r d s s1 c set n recs old base gone items s2 ht hmax hmin hlen htgt hrsv hset hlens hrecs hown hidle hroom hbytes
    rw [exec_banLoad, execBanLoad, hostCmd_ok ht
      (banLoad_ok hmax hmin hlen htgt hrsv hset hlens hrecs hown hidle hroom hbytes)]
  case bias =>
    intro r d s s1 c g vals ht hlo hhi hlen htgt hrsv hvals hown hidle
    rw [exec_attnBiasLoad, execAttnBiasLoad, hostCmd_ok ht (attnBiasLoad_ok hlo hhi hlen htgt hrsv hvals hown hidle)]
  case merge =>
    intro r d s s1 s2 s3 c n rows dim outA lseA bf recs ins out ht hmin hmax hrow hrows hlen htgt hrsv hdim hlse hlseIn houtIn
      hin houtMine hlseMine hmine hread houtOpen hlseOpen hout hsum
    rw [exec_lseMerge, execLseMerge, hostCmd_ok ht (lseMerge_ok hmin hmax hrow hrows hlen htgt hrsv hdim hlse hlseIn houtIn hin
      houtMine hlseMine hmine hread houtOpen hlseOpen hout hsum)]
  case bulletin =>
    intro r d s s1 c k p slots ht hlen hmin hmax hbatch hbatches htgt hrsv hport hpow halign hold bs
    rw [exec_bulletinSet, execBulletinSet, hostCmd_ok ht
      (bulletinSet_ok hlen hmin hmax hbatch hbatches htgt hrsv hport hpow halign hold)]
  case write =>
    intro r d s s1 c n space banks recs empty m s0 p ht hmin hmax hlen hres htgt hrsv hspace hfirst hlater hrsv' hrows hfree
    rw [exec_searchWrite, execSearchWrite, hostCmd_ok ht
      (searchWrite_ok hmin hmax hlen hres htgt hrsv hspace hfirst hlater hrsv' hrows hfree)]
  case delete =>
    intro r d s s1 c n hs spaces ht hclear hmin hmax hlen htgt hrsv hfound
    rw [exec_searchDelete, execSearchDelete, hostCmd_ok ht (searchDelete_ok hclear hmin hmax hlen htgt hrsv hfound)]
  case query =>
    intro r d s s1 c n space recs p ht hmin hmax hlen hres htgt hrsv hrsv' hrecs
    rw [exec_searchQuery, execSearchQuery, hostCmd_ok ht (searchQuery_ok hmin hmax hlen hres htgt hrsv hrsv' hrecs)]
  case scrub =>
    intro s bank i e v hone hcopy
    rw [exec_searchScrub, execSearchScrub_single hone, scrubRow_of_copy hcopy]
  case scrubLost =>
    intro s bank i e hone hcopy
    rw [exec_searchScrub, execSearchScrub_single hone, scrubRow_of_no_copy hcopy]

end Sys2Proof.Machine

namespace Sys2Proof.Machine

/-! SUPPORT. Fabric commands where they complete (10 R281, R288 to R292, R303 to R308; 12 R363). A meaning whose checks all pass
is its effect; CONN_OPEN's two kinds share their checks, so they share a lemma. -/

section

variable {c : Cmd} {s s2 : State}

/-! ### Ports and keys (10 R288, R305 to R307) -/

theorem portConfig_ok :
    let p := c.fld 4 0
    let x := portAt s p
    let st := configuredState s x (c.fld 5 5 == 1) (c.fld 8 8 == 1)
    c.payLen = 32 → c.target = 0 → p ≤ 17 → c.fld 7 6 ≠ 0 → c.fld 122 9 = 0 → c.fld 130 123 ≠ 0 → c.fld 146 131 ≠ 0 →
    c.fld 159 148 ≠ 4095 → (c.fld 5 5 = 1 → me s ≠ 0xFFFE) → (inPair s = false ∨ p < 16) →
    portConfig c s = .ok (okAns, movePort s p { x with
      mac := c.fld 255 208, gateway := c.fld 207 160, vlan := c.fld 159 148, tagged := c.fld 147 147 == 1
      degradeSym := c.fld 146 131, degradeUnc := c.fld 130 123, modes := c.fld 7 6, enable := c.fld 5 5 == 1, st := st
      badLanes := if c.fld 8 8 = 1 then 0 else x.badLanes, retrainAt := if c.fld 8 8 = 1 then none else x.retrainAt
      peerNode := if st = x.st then x.peerNode else 0xFFFF }) := by
  intro p x st hlen htgt hport hmodes hrsv hunc hsym hvlan hnode hpair
  have hmember : (!(c.fld 5 5 == 1 && me s == 0xFFFE)) = true := by simpa [imp_iff_not_or] using hnode
  have hmirror : (!(inPair s && decide (16 ≤ c.fld 4 0))) = true := by simpa using hpair
  simp only [portConfig, beq_iff_eq]
  rw [bind_of_ok (lenIs_of_eq hlen), bind_of_ok (tgtRsv_of_zero htgt), bind_of_ok (fldF_of_true (decide_eq_true hport)),
    bind_of_ok (fldF_of_true (by simpa using hmodes)), bind_of_ok (rsv_of_zero hrsv),
    bind_of_ok (fldF_of_true (by simpa using hunc)), bind_of_ok (fldF_of_true (by simpa using hsym)),
    bind_of_ok (fldF_of_true (by simpa using hvlan)), bind_of_ok (need_of_true hmember), bind_of_ok (need_of_true hmirror)]

theorem portStatus_ok (hlen : c.payLen = 0) (hres : 576 ≤ c.resLen) (htgt : c.target = 0) :
    portStatus c s = .ok (okRes ((List.range 18).flatMap fun p => portRecord (portAt s p)), s) := by
  rw [portStatus, bind_of_ok (lenIs_of_eq hlen), bind_of_ok (bound_of_le hres), bind_of_ok (tgtRsv_of_zero htgt)]

section

variable (hlen : c.payLen = 24) (hmin : 4096 ≤ c.fld 127 64) (hmax : c.fld 127 64 ≤ objectBytes) (hrsv : c.fld 47 2 = 0)
  (hbase : c.fld 191 128 % 4096 = 0) (hsize : c.fld 127 64 % 4096 = 0)
  (hregion : regionOk s c.priv c.tenant (c.fld 191 128) (c.fld 127 64) = true)

include hlen hmin hmax hrsv hbase hsize hregion

/-- KEY_REGISTER without a key takes one. -/
theorem keyRegister_new {k : Nat} (htgt : c.target = 0)
    (hnew : newKey s (c.fld 191 128) (c.fld 127 64) c.tenant (c.fld 1 0) (c.fld 63 48) .no = some (k, s2)) :
    keyRegister c s = .ok (okR0 k, s2) := by
  simp only [keyRegister]
  rw [bind_of_ok (lenIs_of_eq hlen), bind_of_ok (lenF_of_true (by simp [hmin, hmax])), bind_of_ok (tgtRsv_of_zero htgt),
    bind_of_ok (rsv_of_zero hrsv), bind_of_ok (need_of_true (by simp [htgt])),
    bind_of_ok (need_of_true (by simp [hbase, hsize, hregion])), if_pos htgt, hnew]

/-- KEY_REGISTER of a key of its tenant gives it the region and a new generation. -/
theorem keyRegister_again {i : Nat} {x : Key} (hgiven : c.target ≠ 0) (htgt : c.target >>> 32 = 0)
    (hfind : findKey s c.target = some (i, x)) (hown : x.tenant = c.tenant) (hplain : x.landing = .no) :
    let g := (x.gen + 1) % 256
    keyRegister c s = .ok (okR0 (keyOf i g), { s with fbe := { s.fbe with
      keys := Tbl.set s.fbe.keys i ⟨g, c.fld 191 128, c.fld 127 64, x.tenant, c.fld 1 0, c.fld 63 48, .no⟩
      keyGen := Tbl.set s.fbe.keyGen i g } }) := by
  intro g
  simp only [keyRegister]
  rw [bind_of_ok (lenIs_of_eq hlen), bind_of_ok (lenF_of_true (by simp [hmin, hmax])), bind_of_ok (tgtRsv_of_shift htgt),
    bind_of_ok (rsv_of_zero hrsv), bind_of_ok (need_of_true (by simp [hfind])),
    bind_of_ok (need_of_true (by simp [hbase, hsize, hregion])), if_neg hgiven, hfind]
  dsimp only
  rw [bind_of_ok (need_of_true (by simp [hown])), bind_of_ok (need_of_true (by simp [hplain]))]

end

theorem keyDeregister_ok {i : Nat} {x : Key} (hlen : c.payLen = 0) (htgt : c.target >>> 32 = 0)
    (hfind : findKey s c.target = some (i, x)) (hown : x.tenant = c.tenant) (hplain : x.landing = .no) :
    keyDeregister c s = .ok (okAns, dropKey s i) := by
  rw [keyDeregister, bind_of_ok (lenIs_of_eq hlen), bind_of_ok (tgtRsv_of_shift htgt), hfind]
  exact bind_of_ok (need_of_true (by simp [hown, hplain]))

/-! ### Connections (10 R289, R292) -/

/-- The work ring that CONN_OPEN makes at region `b` (10 R289). -/
def openedRing (c : Cmd) (b : Nat) : Ring :=
  newRing c.sess c.port b (c.fld 47 32) (c.fld 63 48) (c.fld 255 192) (c.fld 191 128) (c.fld 111 96) (c.fld 95 80) (c.fld 79 64)
    true

/-- The transfer connection that CONN_OPEN starts at index `i` with ring `k`. -/
def transferConn (c : Cmd) (s : State) (i k : Nat) : Conn :=
  newConn .opening false (c.fld 383 368) 0 c.tenant k
    (max 1 (if c.fld 351 320 = 0 then pathRates s i (c.fld 302 299) else c.fld 351 320)) (c.fld 311 303) (c.fld 302 299)
    (c.fld 298 297) (c.fld 296 294) (pickEngine s) (some c.tok) (now s)

/-- The memory-mode connection that CONN_OPEN makes with ring `k`. -/
def memoryConn (c : Cmd) (s : State) (k : Nat) : Conn :=
  newConn .opened true 0xFFFF 0 c.tenant k (max 1 (c.fld 351 320)) 0 1 (c.fld 298 297) (c.fld 296 294) (pickEngine s) none
    (now s)

/-- CONN_OPEN past its checks: a transfer connection sends OPEN and is answered later, one of memory mode is open at once. -/
theorem connOpen_ok {b i k : Nat} (hlen : c.payLen = 48)
    (hring : ringFields s c.port (c.fld 47 32) (c.fld 63 48) (c.fld 79 64) (c.fld 95 80) (c.fld 111 96) (c.fld 191 128)
      (c.fld 255 192) [] [(c.fld 127 112 == 0, St.fieldRange, inPay 14)] 4 6 8 10 12 16 24 = .ok ())
    (hsq : 16 ≤ c.fld 47 32) (hsq' : c.fld 47 32 ≤ 4096) (hcq : 16 ≤ c.fld 63 48) (hcq' : c.fld 63 48 ≤ 4096)
    (hcount : 1 ≤ c.fld 79 64) (hcount' : c.fld 79 64 ≤ 256)
    (hpaths : c.fld 257 256 = 1 → 1 ≤ c.fld 302 299 ∧ c.fld 302 299 ≤ 8)
    (hwindow : c.fld 257 256 = 1 → 16 ≤ c.fld 311 303 ∧ c.fld 311 303 ≤ 256) (htgt : c.target = 0) (hrsv : c.fld 31 0 = 0)
    (hkind : c.fld 257 256 = 1 ∨ c.fld 257 256 = 2) (hrsv' : c.fld 293 258 = 0) (hpkt : c.fld 298 297 ≠ 3)
    (hrsv'' : c.fld 319 312 = 0) (hrate : c.fld 351 320 ≤ 288000) (hrsv''' : c.fld 367 352 = 0)
    (hdest : if c.fld 257 256 = 1 then peerKnown s (c.fld 383 368) = true else c.fld 383 368 = 0xFFFF ∧ s.fbe.erg ≠ [])
    (hnum : Tbl.freeFrom s.hcu.rings 252 4 = some k) (hk : k < 256) (hregion : freeRegion s (c.fld 47 32) = some b)
    (hconn : freeConn s = some i) :
    connOpen c s = .ok (if c.fld 257 256 = 1 then
        ({ st := some St.pending, r0 := k ||| (64 * b) <<< 32 },
          sendOpen (setConn (addRing s k (openedRing c b)) i (transferConn c s i k)) i (transferConn c s i k))
      else (okR0 (k ||| (64 * b) <<< 32), setConn (addRing s k (openedRing c b)) i (memoryConn c s k))) := by
  have hsizes : needAll [(decide (16 ≤ c.fld 47 32) && decide (c.fld 47 32 ≤ 4096), St.lengthRange, inPay 4),
      (decide (16 ≤ c.fld 63 48) && decide (c.fld 63 48 ≤ 4096), St.lengthRange, inPay 6),
      (decide (1 ≤ c.fld 79 64) && decide (c.fld 79 64 ≤ 256), St.lengthRange, inPay 8)] = .ok () := by
    simp [needAll, hsq, hsq', hcq, hcq', hcount, hcount']
  have hpeer : (if c.fld 257 256 == 1 then peerKnown s (c.fld 383 368) else c.fld 383 368 == 0xFFFF) = true := by
    split at hdest <;> simp [*]
  have hmap : (c.fld 257 256 == 1 || !s.fbe.erg.isEmpty) = true := by
    split at hdest <;> simp [*]
  simp only [connOpen]
  rw [bind_of_ok (lenIs_of_eq hlen), bind_of_ok hsizes,
    bind_of_ok (lenF_of_true (not_or_of_asked fun h => by simpa using hpaths (beq_iff_eq.mp h))),
    bind_of_ok (lenF_of_true (not_or_of_asked fun h => by simpa using hwindow (beq_iff_eq.mp h))),
    bind_of_ok (tgtRsv_of_zero htgt), bind_of_ok (rsv_of_zero hrsv), bind_of_ok hring,
    bind_of_ok (fldF_of_true (by simpa using hkind)), bind_of_ok (rsv_of_zero hrsv'),
    bind_of_ok (fldF_of_true (by simpa using hpkt)), bind_of_ok (rsv_of_zero hrsv''),
    bind_of_ok (fldF_of_true (decide_eq_true hrate)), bind_of_ok (rsv_of_zero hrsv'''), bind_of_ok (fldF_of_true hpeer),
    bind_of_ok (need_of_true hmap), hregion, hconn, hnum]
  dsimp only [Option.getD_some]
  rw [bind_of_ok (need_of_true (decide_eq_true hk))]
  simp only [beq_iff_eq]
  split <;> rfl

/-- CONN_CLOSE stops fetching, and ends once nothing is in flight. -/
theorem connClose_ok {i : Nat} {x : Conn} :
    let k := c.target % 65536
    let s0 := if c.fld 0 0 = 1 then endWaiting s k St.state else s
    let s2 := setConn s0 i { x with st := .closing, closeTok := some c.tok }
    let rs := Tbl.upd s2.hcu.rings k fun R => { R with fetching := false }
    c.payLen = 8 → c.target >>> 16 = 0 → c.fld 63 1 = 0 → connOfRing s k = some (i, x) → c.tenantOk x.tenant = true →
    x.st ≠ .opening → x.st ≠ .closing →
    connClose c s = .ok (laterAns, settleConn
      (complete { s2 with hcu := { s2.hcu with rings := rs } } c.tok St.pending 0 0 [] false) i) := by
  intro k s0 s2 rs hlen htgt hrsv hconn hown hopen hstays
  rw [connClose, bind_of_ok (lenIs_of_eq hlen), bind_of_ok (tgtRsv_of_shift htgt), bind_of_ok (rsv_of_zero hrsv), hconn]
  dsimp only
  rw [bind_of_ok (own_of_tenantOk hown), bind_of_ok (need_of_true (by simp [hopen, hstays]))]

/-! ### ERG_MAP, PTP_CONFIG, DIAG_LOOPBACK, ERR_INJECT (10 R281, R303, R308; 12 R363) -/

theorem ergMap_ok :
    let n := c.fld 6 0
    let recs := c.recs 16 32 n
    1 ≤ n → n ≤ 64 → c.payLen = 16 + 32 * n → c.target = 0 → c.fld 127 7 = 0 →
    (∀ x ∈ recs, 4096 ≤ bits x 191 128 ∧ bits x 191 128 ≤ ergTop) → checkEach (ergFields s) 0 recs = .ok () →
    (∃ x ∈ recs, (ergRec x).node = me s) → (inPair s = false ∨ ∀ x ∈ recs, namesMirror s x = false) →
    ergMap c s = .ok (okAns, { s with fbe := { s.fbe with erg := recs.map ergRec } }) := by
  intro n recs hmin hmax hlen htgt hrsv hlens hfields hself hpair
  have hsizes : checkEach (fun i x => need (decide (4096 ≤ bits x 191 128) && decide (bits x 191 128 ≤ ergTop)) St.lengthRange
      (inPay (16 + 32 * i + 16))) 0 recs = .ok () :=
    checkEach_ok (fun _ x hx => need_of_true (by simpa using hlens x hx)) 0
  have hmirror : (!(inPair s && recs.any (namesMirror s))) = true := by
    rcases hpair with hnone | hroutes
    · simp [hnone]
    · simp [List.any_eq_false.mpr fun x hx => Bool.not_eq_true _ ▸ hroutes x hx]
  simp only [ergMap]
  rw [bind_of_ok (lenF_of_true (by simp [hmin, hmax, n])), bind_of_ok (lenIs_of_eq hlen), bind_of_ok hsizes,
    bind_of_ok (tgtRsv_of_zero htgt), bind_of_ok (rsv_of_zero hrsv), bind_of_ok hfields,
    bind_of_ok (fldF_of_true (by simpa using hself)), bind_of_ok (need_of_true hmirror)]

theorem ptpConfig_ok (hlen : c.payLen = 16) (htgt : c.target = 0) (hrsv : c.fld 79 0 = 0) (hrange : c.fld 85 82 ≤ 7)
    (hpair : inPair s = true → c.fld 127 126 = 0) :
    ptpConfig c s = .ok (okAns, { s with clk := { s.clk with
      ptp := ⟨c.fld 127 110, c.fld 109 102, c.fld 101 94, c.fld 93 86, c.fld 85 82, c.fld 81 81, c.fld 80 80⟩ } }) := by
  have hmirror : (!(inPair s && c.fld 127 126 != 0)) = true := by simpa [imp_iff_not_or] using hpair
  rw [ptpConfig, bind_of_ok (lenIs_of_eq hlen), bind_of_ok (tgtRsv_of_zero htgt), bind_of_ok (rsv_of_zero hrsv),
    bind_of_ok (fldF_of_true (decide_eq_true hrange)), bind_of_ok (need_of_true hmirror)]

theorem diagLoopback_ok (hlen : c.payLen = 8) (hres : 64 ≤ c.resLen) (htgt : c.target = 0) (hport : c.fld 4 0 ≤ 17)
    (hrsv : c.fld 21 5 = 0) (hwhere : c.fld 23 22 = 1 ∨ c.fld 23 22 = 2) (hlo : 1 ≤ c.fld 63 32) (hhi : c.fld 63 32 ≤ 10000)
    (hst : (portAt s (c.fld 4 0)).st = .disabled) :
    diagLoopback c s = .ok (pendAns, setPort s (c.fld 4 0) { portAt s (c.fld 4 0) with
      st := .loopback, loopTok := some c.tok, loopUntil := now s + c.fld 63 32 * ms, loopLanes := c.fld 31 24 }) := by
  simp only [diagLoopback]
  rw [bind_of_ok (lenIs_of_eq hlen), bind_of_ok (bound_of_le hres), bind_of_ok (tgtRsv_of_zero htgt),
    bind_of_ok (fldF_of_true (decide_eq_true hport)), bind_of_ok (rsv_of_zero hrsv),
    bind_of_ok (fldF_of_true (by simpa using hwhere)), bind_of_ok (fldF_of_true (by simp [hlo, hhi])),
    bind_of_ok (need_of_true (by simp [hst]))]

theorem errInject_ok (hlen : c.payLen = 16) (hcount : 1 ≤ c.fld 63 48) (htgt : c.target = 0) (hlo : 1 ≤ c.fld 7 0)
    (hhi : c.fld 7 0 ≤ 5) (hrsv : c.fld 47 8 = 0) (haddr : injectAddr s (c.fld 7 0) (c.fld 127 64) = true) :
    errInject c s = .ok (okAns, { s with mir := { s.mir with inject := s.mir.inject ++
      [⟨c.fld 7 0, c.fld 127 64, c.fld 63 48, if c.fld 7 0 = 3 then some (now s + 1000 * ms) else none⟩] } }) := by
  simp only [errInject]
  rw [bind_of_ok (lenIs_of_eq hlen), bind_of_ok (lenF_of_true (decide_eq_true hcount)), bind_of_ok (tgtRsv_of_zero htgt),
    bind_of_ok (fldF_of_true (by simp [hlo, hhi])), bind_of_ok (rsv_of_zero hrsv), bind_of_ok (fldF_of_true haddr)]

end

/-! ### Work descriptors (10 R290, R291) -/

section

variable {r i h op : Nat} {R : Ring} {c : Conn} {s t : State}

/-- A descriptor that passes its checks on a connection that stands starts its transfer. -/
theorem runDesc_starts (hst : c.st ≠ .failed) (hchecks : descChecks s R c h = .ok ()) :
    runDesc r R i c h s = startDesc s i c (workTok r R h) h := by
  rw [runDesc, if_neg hst, hchecks]

/-- On a granted ring the row of the head slot's operation fetches the descriptor, which runs or waits. -/
theorem workDesc_granted (hR : Tbl.get s.hcu.rings r = some R) (hconn : connOfRing s r = some (i, c)) (hwork : R.work = true)
    (hnone : R.waiting = none) (hgrant : granted s r R = true) (hop : wOp (slotHeader s R) = op) :
    workDesc op r s =
      if workReady s R c (slotHeader s R) then runDesc r R i c (slotHeader s R) (fetchedWork s r R (slotHeader s R))
      else fetchedOnly s r R (slotHeader s R) := by
  simp [workDesc, hR, hconn, hwork, hnone, hgrant, hop]

/-- A descriptor that waits runs in its operation's row once it may start. -/
theorem workDesc_waiting (hR : Tbl.get s.hcu.rings r = some R) (hconn : connOfRing s r = some (i, c)) (hwork : R.work = true)
    (hwait : R.waiting = some h) (hserve : serving s r = true) (hready : workReady s R c h = true) (hop : wOp h = op) :
    workDesc op r s = settleConn (runDesc r (unfetched R) i c h
      (setRing s r { R with waiting := none, outstanding := R.outstanding ++ [wCid h] })) i := by
  simp [workDesc, hR, hconn, hwork, hwait, hserve, hready, hop]

/-- What a descriptor does in the row of its operation, for each of the six rows. -/
theorem workRows_of_workDesc (hrun : ∀ op, wOp h = op → workDesc op r s = t) :
    (wOp h = 1 → exec (.workWrite r) s = .next (commit s t)) ∧ (wOp h = 2 → exec (.workRead r) s = .next (commit s t)) ∧
    (wOp h = 3 → exec (.workAdd r) s = .next (commit s t)) ∧ (wOp h = 4 → exec (.workMin r) s = .next (commit s t)) ∧
    (wOp h = 5 → exec (.workMax r) s = .next (commit s t)) ∧ (wOp h = 6 → exec (.workCas r) s = .next (commit s t)) := by
  have row (op : Nat) (hop : wOp h = op) :
      (Host.Outcome.next (commit s (workDesc op r s)) : Host.Outcome State Fault Refusal) = .next (commit s t) := by
    rw [hrun op hop]
  exact ⟨row 1, row 2, row 3, row 4, row 5, row 6⟩

end

/-! ### The obligation -/

/-- Settles O17: each meaning's checks pass under the clause's conditions, and a descriptor in its operation's row starts or
waits as `workReady` says. -/
theorem fabricCommands : Obligations.FabricCommands := by
  unfold Obligations.FabricCommands
  refine ⟨?portConfig, ?portStatus, ?keyNew, ?keyAgain, ?keyDrop, ?openTransfer, ?openMemory, ?close, ?ergMap, ?ptp, ?loopback,
    ?loopbackDone, ?inject, ?starts, ?waits, ?resumes⟩
  case portConfig =>
    intro r d s s1 c p x st ht hlen htgt hport hmodes hrsv hunc hsym hvlan hnode hpair
    rw [exec_portConfig, execPortConfig, hostCmd_ok ht
      (portConfig_ok hlen htgt hport hmodes hrsv hunc hsym hvlan hnode hpair)]
  case portStatus =>
    intro r d s s1 c ht hlen hres htgt
    rw [exec_portStatus, execPortStatus, hostCmd_ok ht (portStatus_ok hlen hres htgt)]
  case keyNew =>
    intro r d s s1 s2 c k base len ht hlen hmin hmax htgt hrsv hbase hsize hregion hnew
    rw [exec_keyRegister, execKeyRegister, hostCmd_ok ht
      (keyRegister_new hlen hmin hmax hrsv hbase hsize hregion htgt hnew)]
  case keyAgain =>
    intro r d s s1 c i x base len g ht hlen hmin hmax hgiven htgt hrsv hbase hsize hregion hfind hown hplain
    rw [exec_keyRegister, execKeyRegister, hostCmd_ok ht
      (keyRegister_again hlen hmin hmax hrsv hbase hsize hregion hgiven htgt hfind hown hplain)]
  case keyDrop =>
    intro r d s s1 c i x ht hlen htgt hfind hown hplain
    rw [exec_keyDeregister, execKeyDeregister, hostCmd_ok ht (keyDeregister_ok hlen htgt hfind hown hplain)]
  case openTransfer =>
    intro r d s s1 c b i k R rate x ht hlen hring hsq hsq' hcq hcq' hcount hcount' hpath hpath' hwindow hwindow' htgt hrsv hvec
      hkind hrsv' hpkt hrsv'' hrate hrsv''' hpeer hnum hk hregion hconn
    have hopen := connOpen_ok hlen hring hsq hsq' hcq hcq' hcount hcount' (fun _ => ⟨hpath, hpath'⟩)
      (fun _ => ⟨hwindow, hwindow'⟩) htgt hrsv (.inl hkind) hrsv' hpkt hrsv'' hrate hrsv''' (by rwa [if_pos hkind]) hnum hk
      hregion hconn
    rw [if_pos hkind] at hopen
    rw [exec_connOpen, execConnOpen, hostCmd_ok ht hopen]
    rfl
  case openMemory =>
    intro r d s s1 c b i k R s2 ht hlen hring hsq hsq' hcq hcq' hcount hcount' htgt hrsv hvec hkind hrsv' hpkt hrsv'' hrate
      hrsv''' hdest herg hnum hk hregion hconn
    have hnot : c.fld 257 256 ≠ 1 := by omega
    have hopen := connOpen_ok hlen hring hsq hsq' hcq hcq' hcount hcount' (fun h => absurd h hnot) (fun h => absurd h hnot)
      htgt hrsv (.inr hkind) hrsv' hpkt hrsv'' hrate hrsv''' (by rw [if_neg hnot]; exact ⟨hdest, herg⟩) hnum hk hregion hconn
    rw [if_neg hnot] at hopen
    rw [exec_connOpen, execConnOpen, hostCmd_ok ht hopen]
    rfl
  case close =>
    intro r d s s1 c i x k s0 s2 rs ht hlen htgt hrsv hconn hown hopen hstays
    rw [exec_connClose, execConnClose, hostCmd_ok ht (connClose_ok hlen htgt hrsv hconn hown hopen hstays), answer_later]
  case ergMap =>
    intro r d s s1 c n recs ht hmin hmax hlen htgt hrsv hlens hfields hself hpair
    rw [exec_ergMap, execErgMap, hostCmd_ok ht (ergMap_ok hmin hmax hlen htgt hrsv hlens hfields hself hpair)]
  case ptp =>
    intro r d s s1 c ht hlen htgt hrsv hrange hpair
    rw [exec_ptpConfig, execPtpConfig, hostCmd_ok ht (ptpConfig_ok hlen htgt hrsv hrange hpair)]
  case loopback =>
    intro r d s s1 c ht hlen hres htgt hport hrsv hwhere hlo hhi hst
    rw [exec_diagLoopback, execDiagLoopback, hostCmd_ok ht
      (diagLoopback_ok hlen hres htgt hport hrsv hwhere hlo hhi hst)]
  case loopbackDone =>
    intro s port errs hst hdone
    simp [exec_loopbackDone, execLoopbackDone, hst, Nat.not_lt.mpr hdone]
  case inject =>
    intro r d s s1 c ht hlen hcount htgt hlo hhi hrsv haddr
    rw [exec_errInject, execErrInject, hostCmd_ok ht (errInject_ok hlen hcount htgt hlo hhi hrsv haddr)]
  case starts =>
    intro s r i R c h t hR hconn hwork hnone hgrant hready hst hchecks
    refine workRows_of_workDesc fun op hop => ?_
    rw [workDesc_granted hR hconn hwork hnone hgrant hop, if_pos hready, runDesc_starts hst hchecks]
  case waits =>
    intro s r i R c h t hR hconn hwork hnone hgrant hready
    refine workRows_of_workDesc fun op hop => ?_
    rw [workDesc_granted hR hconn hwork hnone hgrant hop, if_neg (Bool.eq_false_iff.mp hready)]
  case resumes =>
    intro s r i R c h R1 t hR hconn hwork hwait hserve hready hst hchecks
    refine workRows_of_workDesc fun op hop => ?_
    rw [workDesc_waiting hR hconn hwork hwait hserve hready hop, runDesc_starts hst hchecks]

end Sys2Proof.Machine

namespace Sys2Proof.Machine

/-! SUPPORT. Ports and device time (10 R271 to R275, R303, R304): an event acts where its guard holds. A FEC window that passes
no threshold only counts. -/

section

variable {s : State} {port unc : Nat} {corr : List Nat}

/-- Injections that are not armed add no symbols to a window's counts. -/
theorem injectedSyms_of_none (hnone : s.mir.inject = []) (p lane : Nat) : injectedSyms s p lane = 0 := by
  rw [injectedSyms, hnone, List.foldl_nil]

/-- Forgetting spent injections changes nothing where none is armed. -/
theorem filterInject_of_none (hnone : s.mir.inject = []) (p : Inject → Bool) :
    { s with mir := { s.mir with inject := s.mir.inject.filter p } } = s := by
  rw [hnone, List.filter_nil, ← hnone]

/-- Lanes within their threshold leave the bad lanes as they are. -/
theorem badLanes_of_quiet {lanes : List Nat} {limit : Nat} (hquiet : ∀ l, lanes.getD l 0 ≤ limit) (ls : List Nat) (bad : Nat) :
    ls.foldl (fun b l => if limit < lanes.getD l 0 then b ||| 2 ^ l else b) bad = bad :=
  List.foldl_fixed' (fun l => if_neg (Nat.not_lt.mpr (hquiet l))) ls

/-- The eight lanes' counts of a window stay within a bound that the window's counts keep. -/
theorem laneCounts_le {limit : Nat} (hquiet : ∀ l, corr.getD l 0 ≤ limit) (l : Nat) :
    ((List.range 8).map fun l => corr.getD l 0).getD l 0 ≤ limit := by
  by_cases hl : l < 8
  · simpa [hl] using hquiet l
  · simp [List.getD, hl]

/-- A window in which no lane and no port passes its threshold only adds its counts (10 R273). -/
theorem execFecWindow_quiet (hport : port ≤ 17) (hlink : linked s port = true) (hnone : s.mir.inject = [])
    (hunc : unc ≤ (portAt s port).degradeUnc) (hquiet : ∀ l, corr.getD l 0 ≤ (portAt s port).degradeSym)
    (hgood : (portAt s port).badLanes = 0) :
    execFecWindow port corr unc s =
      let x := portAt s port
      .next (commit s (setPort s port { x with
        fecCorr := (x.fecCorr + ((List.range 8).map fun l => corr.getD l 0).foldl (· + ·) 0) % 2 ^ 64
        fecUnc := satBits 32 (x.fecUnc + unc) })) := by
  have hskip : (decide (port > 17) || !linked s port) = false := by simp [hlink, hport]
  simp only [execFecWindow, hskip, Bool.false_eq_true, if_false, injectedSyms_of_none hnone, Nat.add_zero,
    filterInject_of_none hnone, badLanes_of_quiet (laneCounts_le hquiet), hgood, bne_self_eq_false, if_pos hunc]

end

/-- Settles O18: each event's guard holds under the clause's conditions. -/
theorem portAndClockEvents : Obligations.PortAndClockEvents := by
  unfold Obligations.PortAndClockEvents
  refine ⟨?up, ?degraded, ?lane, ?window, ?discover, ?pause, ?neighbor, ?firstSync, ?laterSync, ?alarm, ?holdover, ?repeats,
    ?pps⟩
  case up =>
    intro s port upper hport hpower hst hfit s1
    simp [exec_linkUp, execLinkUp, Nat.not_lt.mpr hport, hpower, hst, hfit, s1]
  case degraded =>
    intro s port upper hport hpower hst hfit s1
    simp [exec_linkUp, execLinkUp, Nat.not_lt.mpr hport, hpower, hst, hfit, s1]
  case lane =>
    intro s port lane hport hlane hlink
    simp [exec_laneLockLoss, execLaneLockLoss, Nat.not_lt.mpr hport, Nat.not_lt.mpr hlane, hlink]
  case window =>
    intro s port unc corr hport hlink hnone hunc hquiet hgood x
    rw [exec_fecWindow, execFecWindow_quiet hport hlink hnone hunc hquiet hgood]
  case discover =>
    intro s port node peerPort mac hport hlink
    simp [exec_discover, execDiscover, Nat.not_lt.mpr hport, hlink]
  case pause =>
    intro s port hport hlink
    simp [exec_pauseFrame, execPauseFrame, Nat.not_lt.mpr hport, hlink]
  case neighbor =>
    intro s port node hport hlink hmode hplain hus hlive
    simp [exec_neighborDiscovery, execNeighborDiscovery, hport, hlink, hmode, hplain, hus, hlive]
  case firstSync =>
    intro s master hfirst
    simp [exec_ptpSync, execPtpSync, hfirst]
  case laterSync =>
    intro s master hsynced hfar
    simp [exec_ptpSync, execPtpSync, hsynced, hfar]
  case alarm =>
    intro s t hsince hquiet hlate
    simp [exec_ptpOffsetAlarm, execPtpOffsetAlarm, hsince, hquiet, Nat.not_lt.mpr hlate]
  case holdover =>
    intro s hheld hboot
    simp [exec_holdover, execHoldover, hheld, hboot]
  case repeats =>
    intro s hfree hboot hlate
    simp [exec_holdoverRepeat, execHoldoverRepeat, hfree, hboot, Nat.not_lt.mpr hlate]
  case pps =>
    intro s hboot hpins hearly
    have hhigh : now s < now s / 1000000000 * 1000000000 + 100 * us := by omega
    simp [exec_ppsOut, execPpsOut, hboot, hpins, hhigh]

end Sys2Proof.Machine

namespace Sys2Proof.Machine

/-! SUPPORT. Transfer mode (10 R289 to R300). A frame that `arrives` on its connection passes the tests of R278 and finds it;
what its operation does then is the clause's own. -/

section

variable {s s1 : State} {f : Frame} {c : Conn} {op : Nat}

/-- A transfer frame on its connection reaches what its operation does once the connection and the epoch pass. -/
theorem transferIn_passes (k : State → Conn → State) (harr : arrives op s f) (hconn : onConn s f c)
    (hst : c.st = .opened ∨ c.st = .closing) (hepoch : epochPasses s f.epoch = true) :
    transferIn op f s k = k (countRx s f) c := by
  obtain ⟨hop, hopen, hframe⟩ := harr
  obtain ⟨hplain, hmem, hus, hfor⟩ := hconn
  have hlive : (c.st != .opened && c.st != .closing) = false := by rcases hst with h | h <;> simp [h]
  simp [transferIn, ordinary, hop, hopen, hframe, hplain, hus, hfor, hlive, hepoch]

/-- The packet that starts a message within the window is applied, where it is no TWRITE or its target passes. -/
theorem messageIn_starts (harr : arrives op s f) (hconn : onConn s f c) (hstart : startsMessage s f c)
    (htarget : op = Fo.twrite → targetStatus (countRx s f) f = St.ok) :
    messageIn op f s = applyPacket (countRx s f) f (newRx f) := by
  obtain ⟨hst, hepoch, hwindow, hfresh, hkey, hroom⟩ := hstart
  have hpass : (if f.op = Fo.twrite then targetStatus (countRx s f) f else St.ok) = St.ok := by
    split
    next h => exact htarget (harr.1.symm.trans h)
    next => rfl
  rw [messageIn, transferIn_passes _ harr hconn hst hepoch]
  simp only [if_pos hwindow, inWindow, hfresh, hkey, hpass, if_true, bne_self_eq_false, Bool.false_eq_true, if_false,
    if_neg (Nat.not_le.mpr hroom)]

/-- A whole answer in one packet is stored, and ends its TREAD. -/
theorem readBack_whole {m : OutMsg} {t : State} (hfind : (c.sent.find? fun m => m.num == f.seq && m.op == Fo.tread) = some m)
    (hst : f.status = St.ok) (hoff : f.off = 0) (hlast : f.last = true) (hlen : f.len = m.len)
    (hunits : m.units = []) (hmoved : m.moved = 0) (hstore : storeLocal t m.loc f.pay = (St.ok, s1)) :
    readBack f t c = endMsg (updMsg s1 f.conn m.num fun x =>
      { x with units := x.units ++ unitsOf f, moved := f.len, total := some f.len }) f.conn m.num St.ok f.len := by
  have hnew : (!(unitsOf f).isEmpty && (unitsOf f).all m.units.contains) = false := by
    rw [hunits]
    cases unitsOf f <;> simp
  have hfresh : (unitsOf f).any m.units.contains = false := by simp [hunits]
  simp [readBack, hfind, hst, hoff, hlast, ← hlen, hnew, hfresh, hmoved, hstore, St.ok, St.noCapacity]

end

/-- Settles O19: each frame passes the tests of its clause and each timer's guard holds. -/
theorem transferMode : Obligations.TransferMode := by
  unfold Obligations.TransferMode
  refine ⟨?twrite, ?tread, ?tsend, ?treadResp, ?ack, ?nak, ?openMsg, ?openAck, ?close, ?rto, ?reasm, ?openTimeout, ?rate,
    ?idleRate⟩
  case twrite =>
    intro s f c harr hconn hstart htarget
    rw [exec_twrite, execTwrite, messageIn_starts harr hconn hstart fun _ => htarget]
  case tread =>
    intro s f c harr hconn hstart
    rw [exec_tread, execTread, messageIn_starts harr hconn hstart fun h => absurd h (by decide)]
  case tsend =>
    intro s f c harr hconn hstart
    rw [exec_tsend, execTsend, messageIn_starts harr hconn hstart fun h => absurd h (by decide)]
  case treadResp =>
    intro s s1 f c m harr hconn hst hepoch hfind hstatus hoff hlast hlen hsome hunits hmoved hstore
    rw [exec_treadResp, execTreadResp, transferIn_passes _ harr hconn hst hepoch,
      readBack_whole hfind hstatus hoff hlast hlen hunits hmoved hstore]
  case ack =>
    rintro s f c ⟨hop, hopen, hframe⟩ ⟨hplain, hmem, hus, hfor⟩
    simp [exec_ack, execAck, hop, hopen, hframe, hplain, hmem, hus, hfor]
  case nak =>
    rintro s s1 f c c1 m ⟨hop, hopen, hframe⟩ ⟨hplain, hmem, hus, hfor⟩ hreason rfl hconn hfind hmore
    have hnotFinal : Nr.reasm ≠ Nr.final := by decide
    simp [exec_nak, execNak, hop, hopen, hframe, hplain, hmem, hus, hfor, hnotFinal, nakConn, hconn, hfind, hreason,
      Nat.not_le.mpr hmore]
  case openMsg =>
    rintro s f i ⟨hop, hopen, hframe⟩ hplain hmem hus hepoch hfree c
    simp [exec_openMsg, execOpenMsg, ordinary, hop, hopen, hframe, hplain, hmem, hus, connOpenIn, hepoch, hfree, c]
  case openAck =>
    rintro s f c t ⟨hop, hopen, hframe⟩ ⟨hplain, hmem, hus, hfor⟩ htok hstatus hst c1
    simp [exec_openAck, execOpenAck, ordinary, hop, hopen, hframe, hplain, hmem, hus, connOpenAck, hfor, htok, hstatus, hst,
      finishOpt, c1]
  case close =>
    rintro s f c ⟨hop, hopen, hframe⟩ ⟨hplain, hmem, hus, hfor⟩ hring
    simp [exec_closeMsg, execCloseMsg, ordinary, hop, hopen, hframe, hplain, hmem, hus, hfor, hring]
  case rto =>
    intro s i msn c m hconn hfind htransfer hdue hwhy hmore
    simp [exec_rtoExpiry, execRtoExpiry, hconn, hfind, htransfer, Nat.not_lt.mpr hdue, hwhy, Nat.not_le.mpr hmore]
  case reasm =>
    intro s i msn c m hconn hmsg hpart hgood hlate
    simp [exec_reasmTimeout, execReasmTimeout, hconn, hmsg, hpart, hgood, Nat.not_lt.mpr hlate]
  case openTimeout =>
    intro s i c t hconn htok hlate
    simp [exec_openTimeout, execOpenTimeout, hconn, htok, Nat.not_lt.mpr hlate]
  case rate =>
    intro s i c hconn htransfer hlate hacked
    simp [exec_rateUpdate, execRateUpdate, hconn, htransfer, Nat.not_lt.mpr hlate, hacked]
  case idleRate =>
    intro s i c hconn htransfer hlate hnone
    simp only [exec_rateUpdate, execRateUpdate, hconn, htransfer, Nat.not_lt.mpr hlate, decide_false, Bool.or_false,
      Bool.false_eq_true, if_false, if_pos hnone]
    rw [← hnone]

end Sys2Proof.Machine

namespace Sys2Proof.Machine

/-! SUPPORT. Memory mode and the erg aperture (10 R279 to R286). A request in its turn is served alone from an empty queue; an
aperture request that its export allows is issued as one message. -/

section

variable {s s2 : State} {f : Frame} {q : SeqIn} {op : Nat}

/-- A held request that meets no flash granule is served, and its SEQ passed. -/
theorem drainMem_one {src : Nat} {rest : List Frame} (hbuilt : s.tfm.rebuilding = false)
    (hsrc : Tbl.get s.fbe.seqIn src = some q) (hqueue : q.queue = f :: rest) (hflash : flashIn s (ergAddr f.addr) (frameSpan f) = []) (hserve : serveMem s f = some s2) :
    drainMem src 1 false s = { s2 with fbe := { s2.fbe with
      seqIn := Tbl.upd s2.fbe.seqIn src fun q => { q with queue := rest, expect := (q.expect + 1) % 2 ^ 32 } } } := by
  simp [drainMem, hbuilt, hsrc, hqueue, hflash, hserve]

/-- A request in its turn is queued alone and served at once. -/
theorem memRequest_inTurn :
    let s1 := { s with fbe := { s.fbe with seqIn := Tbl.set s.fbe.seqIn f.src { q with queue := [f] } } }
    let left := Tbl.upd s2.fbe.seqIn f.src fun q => { q with queue := [], expect := (q.expect + 1) % 2 ^ 32 }
    fabricOpen s f.port = true → ordinary s f = true → memTurn s f q → s.tfm.rebuilding = false →
    flashIn s1 (ergAddr f.addr) (frameSpan f) = [] → serveMem s1 f = some s2 → f.op = op →
    memRequest op f s = { s2 with fbe := { s2.fbe with seqIn := left } } := by
  rintro s1 left hopen hord ⟨hdst, hepoch, hsrc, hseq, hempty, hexpect, hturn⟩ hbuilt hflash hserve hop
  have hnext : (f.seq + 2 ^ 32 - (q.expect + q.queue.length) % 2 ^ 32) % 2 ^ 32 = 0 := by
    rw [hempty, List.length_nil, hturn]
    omega
  have hdrain : drainMem f.src 1 false s1 = { s2 with fbe := { s2.fbe with seqIn := left } } :=
    drainMem_one hbuilt Tbl.get_set_same rfl hflash hserve
  rw [memRequest, if_neg (by simp [hop, hopen]), if_neg (by simp [hord]), if_neg (by simp [hdst]), if_neg (by simp [hepoch]),
    hsrc]
  dsimp only
  rw [if_neg (by simp [hseq]), if_pos hnext, hempty, if_pos List.isEmpty_nil]
  exact hdrain

end

/-! ### The erg aperture (10 R279, R286) -/

section

variable {s : State} {p tag op a n right : Nat} {size64 : Bool} {data : Bytes}

/-- The request that the aperture makes of a TLP (10 R286). -/
def aperMsg (s : State) (p tag op a n : Nat) (size64 : Bool) (data : Bytes) : OutMsg :=
  { num := 0, op := op, key := 0, addr := a, len := n, loc := 0, data := data, epoch := epochNum s
    ordered := false, size64 := size64, signed := false, tc := 0, tok := none, aper := some (p, tag), parent := none
    routes := (0x1F, 0x1F), parts := 0, moved := 0, st := 0, dueAt := 0, why := 0, resends := 0, timer := 0, acked := false
    units := [], total := none }

variable (hopen : hostOpen s p = true) (hroom : engineLoad s (aperEngine a) < 384)
  (hallow : ergAllows s a n (s.sbu.set.apertureTenant.getD p 0) right = true)

include hopen hroom hallow

/-- An allowed write is posted: it is issued, and no answer is awaited. -/
theorem aperReq_posted (hop : op = Fo.mwrite) (hplain : right ≠ 2) :
    aperReq s p tag op a n right size64 data = issueMem s (aperEngine a) (aperMsg s p tag op a n size64 data) := by
  simp [aperReq, aperMsg, hopen, Nat.not_le.mpr hroom, hallow, hop, hplain, -List.getD_eq_getElem?_getD]

/-- An allowed read or atomic is issued, and its answer awaited from now on. -/
theorem aperReq_awaited (hop : op ≠ Fo.mwrite) (hatomics : right = 2 → atomicsOut s (ergDomain a) < 64)
    (htag : Tbl.has s.fbe.aper (aperKey p tag) = false) :
    aperReq s p tag op a n right size64 data =
      issueMem { s with fbe := { s.fbe with aper := Tbl.set s.fbe.aper (aperKey p tag) (now s) } } (aperEngine a)
        (aperMsg s p tag op a n size64 data) := by
  have hfree : (right == 2 && decide (64 ≤ atomicsOut s (ergDomain a))) = false := by simpa using hatomics
  simp [aperReq, aperMsg, hopen, Nat.not_le.mpr hroom, hallow, hop, hfree, htag, -List.getD_eq_getElem?_getD]

end

/-- Settles O20: a request in its turn is served, and each other event's guard holds under the clause's conditions. -/
theorem memoryMode : Obligations.MemoryMode := by
  unfold Obligations.MemoryMode
  refine ⟨?turn, ?mresp, ?wait, ?timeout, ?write, ?read, ?atomics, ?unsupported, ?abort⟩
  case turn =>
    intro s s2 f q s1 left done hopen hord hturn hbuilt hflash hserve
    have row (op : Nat) (hop : f.op = op) :
        (Host.Outcome.next (commit s (memRequest op f s)) : Host.Outcome State Fault Refusal) = .next (commit s done) := by
      rw [memRequest_inTurn hopen hord hturn hbuilt hflash hserve hop]
    exact ⟨row Fo.mwrite, row Fo.mread, row Fo.madd, row Fo.mmin, row Fo.mmax, row Fo.mcas⟩
  case mresp =>
    rintro s f m q ⟨hop, hopen, hframe⟩ hplain hdst hfind hfresh hallowed
    have hfind' : ((getSeqOut s f.src).reqs.find? fun m => m.num == f.seq && m.key == f.key) = some m := hfind
    simp [exec_mresp, execMresp, ordinary, hop, hopen, hframe, hplain, hdst, hfind', hfresh, hallowed, q]
  case wait =>
    intro s src q f rest hsrc hqueue hlate s1
    simp only [exec_nakWaitTimer, execNakWaitTimer, hsrc, hqueue, if_neg (Nat.not_lt.mpr hlate), s1]
  case timeout =>
    intro s dst m rest q hreqs hwhy hlate hmore
    have hreqs' : (getSeqOut s dst).reqs = m :: rest := hreqs
    simp only [exec_memTimeout, execMemTimeout]
    rw [hreqs']
    dsimp only
    rw [if_neg hwhy, if_neg (Nat.not_lt.mpr hlate), if_neg (Nat.not_le.mpr hmore)]
  case write =>
    intro s p addr bs m hopen hroom hsome hmax hallow
    rw [exec_apertureWrite, execApertureWrite, if_neg (by simp [hsome, hmax]),
      aperReq_posted hopen hroom hallow rfl (by decide)]
    rfl
  case read =>
    intro s p tag addr len s1 m hopen hroom hmin hmax htag hallow
    rw [exec_apertureRead, execApertureRead, if_pos (by simp [hmin, hmax]),
      aperReq_awaited hopen hroom hallow (by decide) (fun h => absurd h (by decide)) htag]
    rfl
  case atomics =>
    intro s p tag addr cmp v size64 n s1 m hopen hroom hatomics htag hallow
    constructor
    · rw [exec_apertureFetchAdd, execApertureFetchAdd, aperReq_awaited hopen hroom hallow (by decide) (fun _ => hatomics) htag]
      rfl
    · rw [exec_apertureCas, execApertureCas, aperReq_awaited hopen hroom hallow (by decide) (fun _ => hatomics) htag]
      rfl
  case unsupported =>
    intro s p tag hopen
    rw [exec_apertureUnsupported, execApertureUnsupported, if_pos hopen]
  case abort =>
    intro s p tag t hheld hlate
    simp [exec_apertureTimeout, execApertureTimeout, hheld, Nat.not_lt.mpr hlate]

end Sys2Proof.Machine

namespace Sys2Proof.Machine

/-! SUPPORT. The end of a step keeps the mirror unit's promise (12 R347). Whatever a command does, it ends in `settle`, which
leaves no held report without a record's number while records are sent and none at all otherwise; the one other end leaves the
state as it was. -/

section

variable {s s0 s1 t : State}

theorem deliver_mru (r : Report) : (deliver s r).mru = s.mru := by
  have h := congrArg State.mru (deliver_pastReports (s := s) r)
  exact h

theorem foldl_deliver_mru (l : List Held) : (l.foldl (fun a h => deliver a h.what) s).mru = s.mru :=
  foldl_keeps (P := State.mru) (fun _ h => deliver_mru h.what) l s

theorem releaseHeld_held : (releaseHeld s).mru.held = [] := by
  rw [releaseHeld, foldl_deliver_mru]

/-- While records are sent, a report still held at the end of a step waits for a record. -/
theorem settle_held_of_streaming (hstream : streaming s1 = true) {h : Held} (hmem : h ∈ (settle s0 s1).mru.held) :
    h.mseq ≠ 0 := by
  rw [settle, if_pos hstream] at hmem
  dsimp only at hmem
  generalize mirrorCloses (mirrorChanges s0 s1) = s2 at hmem
  generalize (if s2.mru.mseqSent = s0.mru.mseqSent then 0 else s2.mru.mseqSent) = q at hmem
  by_cases hnew : q = 0
  · rw [if_pos hnew, foldl_deliver_mru] at hmem
    simpa using (List.mem_filter.mp hmem).2
  · rw [if_neg hnew] at hmem
    obtain ⟨h', -, rfl⟩ := List.mem_map.mp hmem
    split
    · exact hnew
    · assumption

/-- Without a stream the end of a step holds nothing. -/
theorem settle_held_of_quiet (hquiet : streaming s1 = false) : (settle s0 s1).mru.held = [] := by
  rw [settle, if_neg (by simp [hquiet]), releaseHeld_held]

/-- The end of a step keeps the promise, whatever the step did. -/
theorem heldOk_settle : heldOk (settle s0 s1) = true := by
  rw [heldOk, settle_streaming]
  cases hstream : streaming s1 with
  | true => simpa using fun h hmem => settle_held_of_streaming hstream hmem
  | false => simp [settle_held_of_quiet hstream]

/-- How a command may end: the state stands, or its effect is settled. -/
def EndsStep (s t : State) : Prop := t = s ∨ ∃ s1, t = settle s s1

theorem endsStep_settle : EndsStep s (settle s s1) := .inr ⟨s1, rfl⟩

theorem endsStep_ite {p : Prop} [Decidable p] {a b : State} (ha : EndsStep s a) (hb : EndsStep s b) :
    EndsStep s (if p then a else b) := by
  split
  · exact ha
  · exact hb

theorem endsStep_commit : EndsStep s (commit s s1) := endsStep_ite endsStep_settle (.inl rfl)

theorem endsStep_sensed : EndsStep s (sensed s s1) := endsStep_ite endsStep_settle (.inl rfl)

/-- Every command ends in `commit` but those of the always-on island and of the sensors, which settle their own effects
(13 R381, R382). -/
theorem exec_endsStep (i : Instr) (s : State) : ∃ t, exec i s = .next t ∧ EndsStep s t := by
  cases i
  case restart => exact ⟨_, rfl, endsStep_ite endsStep_settle (.inl rfl)⟩
  case tripRestart => exact ⟨_, rfl, endsStep_ite endsStep_settle (.inl rfl)⟩
  case standbyWake => exact ⟨_, rfl, endsStep_ite endsStep_settle (.inl rfl)⟩
  case i3cWake => exact ⟨_, rfl, endsStep_ite endsStep_settle (.inl rfl)⟩
  case i3cRestart =>
    exact ⟨_, rfl, endsStep_ite (.inl rfl) (endsStep_ite (endsStep_ite (.inl rfl) endsStep_settle)
      (endsStep_ite endsStep_settle (endsStep_ite endsStep_settle (.inl rfl))))⟩
  case coolantSample => exact ⟨_, rfl, endsStep_sensed⟩
  case dieTempSample => exact ⟨_, rfl, endsStep_sensed⟩
  case powerUp | powerFail | overVoltage | sequenceEnd | islandOff | extest | tapReset | i3cStatusRead =>
    exact ⟨_, rfl, endsStep_settle⟩
  all_goals exact ⟨_, rfl, endsStep_commit⟩

theorem heldOk_of_endsStep (h : EndsStep s t) (hs : heldOk s = true) : heldOk t = true := by
  obtain rfl | ⟨s1, rfl⟩ := h
  · exact hs
  · exact heldOk_settle

end

/-- Settles O31: a tick settles, and a command leaves the state or settles. -/
theorem heldReportsWaitForRecords : Obligations.HeldReportsWaitForRecords := by
  unfold Obligations.HeldReportsWaitForRecords
  intro s t hs hstep
  unfold step at hstep
  split at hstep
  · cases hstep
    exact heldOk_settle
  next c rest _ =>
    obtain ⟨u, hexec, hend⟩ := exec_endsStep c { s with pending := rest }
    rw [hexec] at hstep
    cases hstep
    exact heldOk_of_endsStep hend hs

end Sys2Proof.Machine

namespace Sys2Proof.Machine

/-! SUPPORT. Queue, event and telemetry commands where they complete, and the timers of the traffic unit (11 R312 to R338). A
meaning whose checks all pass is its effect; a timer acts where its guard holds. -/

section

variable {c : Cmd} {s : State}

theorem queueConfig_ok :
    let n := c.fld 11 0
    let recs := c.recs 8 24 n
    1 ≤ n → n ≤ 2048 → c.payLen = 8 + 24 * n → c.target = 0 → c.fld 63 12 = 0 → checkEach configLen 0 recs = .ok () →
    checkEach (configRec s) 0 recs = .ok () → (∀ x ∈ recs, bits x 174 171 ≠ 2 ∨ hasWorkRing s (bits x 109 102) = true) →
    queueConfig c s = .ok (okAns, recs.foldl applyConfig s) := by
  intro n recs hmin hmax hlen htgt hrsv hsizes hfields hrings
  have hbound : (recs.all fun x => bits x 174 171 != 2 || hasWorkRing s (bits x 109 102)) = true := by simpa using hrings
  simp only [queueConfig]
  rw [bind_of_ok (lenF_of_true (by simp [hmin, hmax, n])), bind_of_ok (lenIs_of_eq hlen), bind_of_ok hsizes,
    bind_of_ok (tgtRsv_of_zero htgt), bind_of_ok (rsv_of_zero hrsv), bind_of_ok hfields, bind_of_ok (need_of_true hbound)]

theorem shaperSet_ok :
    let n := c.fld 11 0
    let recs := c.recs 8 16 n
    1 ≤ n → n ≤ 2048 → c.payLen = 8 + 16 * n → c.target = 0 → c.fld 63 12 = 0 → checkEach (shaperRec s) 0 recs = .ok () →
    shaperSet c s = .ok (okAns, recs.foldl applyShaper s) := by
  intro n recs hmin hmax hlen htgt hrsv hfields
  simp only [shaperSet]
  rw [bind_of_ok (lenF_of_true (by simp [hmin, hmax, n])), bind_of_ok (lenIs_of_eq hlen), bind_of_ok (tgtRsv_of_zero htgt),
    bind_of_ok (rsv_of_zero hrsv), bind_of_ok hfields]

theorem queueSample_ok :
    let o := c.fld 63 59
    let n := c.fld 46 34
    let ks := (List.range n).map fun i => queueKey o (c.fld 58 47 + i)
    let cleared := Tbl.map s.tsu.queues fun k x => if ks.contains k then clearSample x else x
    c.payLen = 8 → 1 ≤ n → n ≤ 4096 → c.fld 58 47 + n ≤ queuesOf o → 32 * n ≤ c.resLen → c.target = 0 → c.fld 33 1 = 0 →
    o ≤ 21 →
    queueSample c s = .ok (okRes (ks.flatMap fun k => sampleRecord (queue s k)),
      if c.fld 0 0 = 1 then { s with tsu := { s.tsu with queues := cleared } } else s) := by
  intro o n ks cleared hlen hmin hmax hend hres htgt hrsv hout
  simp only [queueSample]
  rw [bind_of_ok (lenIs_of_eq hlen), bind_of_ok (lenF_of_true (by simp [hmin, hmax, hend, n, o])),
    bind_of_ok (bound_of_le hres), bind_of_ok (tgtRsv_of_zero htgt), bind_of_ok (rsv_of_zero hrsv),
    bind_of_ok (fldF_of_true (decide_eq_true hout))]

theorem telemRead_ok (hlen : c.payLen = 0) (hres : 256 ≤ c.resLen) (htgt : c.target = 0) :
    telemRead c s = .ok (okRes (telemSnapshot s), s) := by
  rw [telemRead, bind_of_ok (lenIs_of_eq hlen), bind_of_ok (bound_of_le hres), bind_of_ok (tgtRsv_of_zero htgt)]

/-! ### ARB_FREEZE (11 R331) -/

section

variable (hlen : c.payLen = 8) (htgt : c.target = 0) (harb : freezable (c.fld 11 2) = true) (hrsv : c.fld 31 12 = 0)
  (hmin : 1 ≤ c.fld 63 32) (hmax : c.fld 63 32 ≤ 10000)

include hlen htgt harb hrsv hmin hmax

theorem arbFreeze_freezes (hact : c.fld 1 0 = 1) (hpair : pairEgress (c.fld 11 2) = false ∨ inPair s = false)
    (hfree : Tbl.has s.tsu.frozen (c.fld 11 2) = false) :
    arbFreeze c s = .ok (pendAns, { s with tsu := { s.tsu with
      frozen := Tbl.set s.tsu.frozen (c.fld 11 2) ⟨now s, c.fld 63 32, some c.tok, false⟩ } }) := by
  have hplain : (!(pairEgress (c.fld 11 2) && inPair s)) = true := by rcases hpair with h | h <;> simp [h]
  simp only [arbFreeze]
  rw [bind_of_ok (lenIs_of_eq hlen), bind_of_ok (tgtRsv_of_zero htgt), bind_of_ok (fldF_of_true (by simp [hact])),
    bind_of_ok (fldF_of_true harb), bind_of_ok (rsv_of_zero hrsv), bind_of_ok (fldF_of_true (by simp [hmin, hmax])),
    if_neg (by simp [hact]), bind_of_ok (need_of_true hplain), bind_of_ok (need_of_true (by simp [hfree]))]

theorem arbFreeze_releases (hact : c.fld 1 0 = 2) : arbFreeze c s = .ok (okAns, unfreeze s (c.fld 11 2)) := by
  simp only [arbFreeze]
  rw [bind_of_ok (lenIs_of_eq hlen), bind_of_ok (tgtRsv_of_zero htgt), bind_of_ok (fldF_of_true (by simp [hact])),
    bind_of_ok (fldF_of_true harb), bind_of_ok (rsv_of_zero hrsv), bind_of_ok (fldF_of_true (by simp [hmin, hmax])),
    if_pos hact]

end

/-! ### EVQ_CONFIG (11 R337) -/

section

variable (hlen : c.payLen = 32) (hspill : c.fld 191 181 ≤ 1024) (htgt : c.target = 0) (hrsv : c.fld 142 3 = 0)

include hlen hspill htgt hrsv

theorem evqConfig_firmware :
    let q1 : EvQueue := { evqOf s 0 with spill := c.fld 191 181 }
    c.fld 2 0 = 0 → c.isFw = true → spillFits s (evqOf s 0).spill (c.fld 191 181) = true →
    evqConfig c s = .ok (okAns,
      { s with tsu := { s.tsu with evq := Tbl.set s.tsu.evq 0 (evShrink (evCap q1) q1) } }) := by
  intro q1 hqueue hfw hfits
  simp only [evqConfig]
  rw [bind_of_ok (lenIs_of_eq hlen), bind_of_ok (lenF_of_true (decide_eq_true hspill)), bind_of_ok (tgtRsv_of_zero htgt),
    bind_of_ok (rsv_of_zero hrsv), if_pos hqueue, hqueue, bind_of_ok (need_of_true hfw), bind_of_ok (need_of_true hfits)]

theorem evqConfig_host :
    let k := c.fld 2 0
    let q := evqOf s k
    let q1 : EvQueue := { q with
      enable := c.fld 143 143 == 1, notify := c.fld 255 192, spill := c.fld 191 181, unitMask := c.fld 180 169
      minSev := c.fld 168 167, irqSev := c.fld 166 165, irqGap := c.fld 164 155, vec := c.fld 154 146, port := c.fld 145 144
      irqDue := if c.fld 143 143 = 1 then q.irqDue else false }
    k ≠ 0 →
    (portMode s (c.fld 145 144) = 1 ∧ c.fld 255 192 % 4 = 0 ∨ portMode s (c.fld 145 144) = 2 ∧ c.fld 154 146 ≤ 511) →
    c.fld 164 155 ≤ 1000 → spillFits s q.spill (c.fld 191 181) = true →
    evqConfig c s = .ok (okAns, { s with tsu := { s.tsu with
      evq := Tbl.set s.tsu.evq k (evShrink (if c.fld 143 143 = 1 then evCap q1 else 0) q1) } }) := by
  intro k q q1 hqueue hport hgap hfits
  have hmode : (portMode s (c.fld 145 144) == 1 || portMode s (c.fld 145 144) == 2) = true := by
    rcases hport with ⟨h, -⟩ | ⟨h, -⟩ <;> simp [h]
  have hvec : (portMode s (c.fld 145 144) != 2 || decide (c.fld 154 146 ≤ 511)) = true := by
    rcases hport with ⟨h, -⟩ | ⟨-, h⟩ <;> simp [h]
  have hnotify : (portMode s (c.fld 145 144) != 1 || c.fld 255 192 % 4 == 0) = true := by
    rcases hport with ⟨-, h⟩ | ⟨h, -⟩ <;> simp [h]
  simp only [evqConfig]
  rw [bind_of_ok (lenIs_of_eq hlen), bind_of_ok (lenF_of_true (decide_eq_true hspill)), bind_of_ok (tgtRsv_of_zero htgt),
    bind_of_ok (rsv_of_zero hrsv), if_neg hqueue, bind_of_ok (fldF_of_true hmode), bind_of_ok (fldF_of_true hvec),
    bind_of_ok (fldF_of_true (decide_eq_true hgap)), bind_of_ok (fldF_of_true hnotify), bind_of_ok (need_of_true hfits)]
  simp only [beq_iff_eq, k, q, q1]

end

end

/-- Settles O21: each meaning's checks pass under the clause's conditions, and each timer's guard holds. -/
theorem queueAndEventCommands : Obligations.QueueAndEventCommands := by
  unfold Obligations.QueueAndEventCommands
  refine ⟨?config, ?shaper, ?sample, ?freeze, ?release, ?firmware, ?host, ?telem, ?drained, ?hold, ?gap, ?refills, ?depths⟩
  case config =>
    intro r d s s1 c n recs ht hmin hmax hlen htgt hrsv hsizes hfields hrings
    rw [exec_queueConfig, execQueueConfig,
      hostCmd_ok ht (queueConfig_ok hmin hmax hlen htgt hrsv hsizes hfields hrings)]
  case shaper =>
    intro r d s s1 c n recs ht hmin hmax hlen htgt hrsv hfields
    rw [exec_shaperSet, execShaperSet, hostCmd_ok ht (shaperSet_ok hmin hmax hlen htgt hrsv hfields)]
  case sample =>
    intro r d s s1 c o n ks cleared ht hlen hmin hmax hend hres htgt hrsv hout
    rw [exec_queueSample, execQueueSample, hostCmd_ok ht (queueSample_ok hlen hmin hmax hend hres htgt hrsv hout)]
  case freeze =>
    intro r d s s1 c a ht hlen htgt hact harb hrsv hmin hmax hpair hfree
    rw [exec_arbFreeze, execArbFreeze, hostCmd_ok ht (arbFreeze_freezes hlen htgt harb hrsv hmin hmax hact hpair hfree)]
  case release =>
    intro r d s s1 c ht hlen htgt hact harb hrsv hmin hmax
    rw [exec_arbFreeze, execArbFreeze, hostCmd_ok ht (arbFreeze_releases hlen htgt harb hrsv hmin hmax hact)]
  case firmware =>
    intro r d s s1 c q1 ht hlen hspill htgt hrsv hqueue hfw hfits
    rw [exec_evqConfig, execEvqConfig, hostCmd_ok ht (evqConfig_firmware hlen hspill htgt hrsv hqueue hfw hfits)]
  case host =>
    intro r d s s1 c k q q1 ht hlen hspill htgt hrsv hqueue hport hgap hfits
    rw [exec_evqConfig, execEvqConfig, hostCmd_ok ht (evqConfig_host hlen hspill htgt hrsv hqueue hport hgap hfits)]
  case telem =>
    intro r d s s1 c ht hlen hres htgt
    rw [exec_telemRead, execTelemRead, hostCmd_ok ht (telemRead_ok hlen hres htgt)]
  case drained =>
    intro s a f hfrozen hfirst hidle
    simp [exec_drained, execDrained, hfrozen, hfirst, hidle]
  case hold =>
    intro s a f hfrozen hlate
    simp [exec_holdExpiry, execHoldExpiry, hfrozen, Nat.not_lt.mpr hlate]
  case gap =>
    intro s q t x hqueue hdue hsent hlate
    simp [exec_eventIrqGap, execEventIrqGap, hqueue, hdue, hsent, hlate]
  case refills =>
    intro s hlate
    rw [exec_shaperRefill, execShaperRefill, if_neg (Nat.not_lt.mpr hlate)]
  case depths =>
    intro s hlate
    rw [exec_depthSample, execDepthSample, if_neg (Nat.not_lt.mpr hlate)]

end Sys2Proof.Machine

namespace Sys2Proof.Machine

/-! SUPPORT. The pair's commands where they complete, and its timers (12 R340 to R349, R355 to R362). -/

section

variable {c : Cmd} {s : State}

theorem pairJoin_ok {p : NodeRec} (hlen : c.payLen = 32) (hpromote : c.fld 223 192 ≤ 1000000) (htgt : c.target = 0)
    (hside : c.fld 1 0 = 1 ∨ c.fld 1 0 = 2) (hcover : c.fld 3 2 = 1 ∨ c.fld 3 2 = 2) (hrsv : c.fld 191 4 = 0)
    (hrsv' : c.fld 239 224 = 0) (hnode : nodeRec s (c.fld 255 240) = some p) (hother : c.fld 255 240 ≠ me s)
    (hlost : p.lost = false) (hrole : p.role = s.hcu.role)
    (hfree : s.mru.st = .solo ∨ (s.mru.st = .takenOver ∧ c.fld 1 0 = 1)) (hfit : joinUnfit s = false)
    (hlinks : pairLinked s (c.fld 255 240) = true)
    (hempty : c.fld 1 0 = 1 ∨ (s.rte.slots.all fun kv => kv.2.e.state == .free) = true) :
    pairJoin c s = .ok (pendAns, startJoin s (c.fld 255 240) (if c.fld 223 192 = 0 then 10000 else c.fld 223 192) (c.fld 3 2)
      (c.fld 1 0) c.tok) := by
  have hsingle : (s.mru.st == .solo || (s.mru.st == .takenOver && c.fld 1 0 == 1)) = true := by
    rcases hfree with h | ⟨h, h'⟩ <;> simp [*]
  have hnone : (c.fld 1 0 == 1 || s.rte.slots.all fun kv => kv.2.e.state == .free) = true := by simpa using hempty
  simp only [pairJoin]
  rw [bind_of_ok (lenIs_of_eq hlen), bind_of_ok (lenF_of_true (decide_eq_true hpromote)), bind_of_ok (tgtRsv_of_zero htgt),
    bind_of_ok (fldF_of_true (by simpa using hside)), bind_of_ok (fldF_of_true (by simpa using hcover)),
    bind_of_ok (rsv_of_zero hrsv), bind_of_ok (rsv_of_zero hrsv'),
    bind_of_ok (fldF_of_true (by simp [hnode, hother, hlost, hrole])), bind_of_ok (need_of_true hsingle),
    bind_of_ok (need_of_true (by simp [hfit, hlinks])), bind_of_ok (need_of_true hnone)]

theorem pairDissolve_ok (hlen : c.payLen = 0) (htgt : c.target = 0) (hpair : holding s = true) :
    pairDissolve c s = .ok (okAns, toSolo (emit s (.dissolve s.mru.partner)) St.busy) := by
  rw [pairDissolve, bind_of_ok (lenIs_of_eq hlen), bind_of_ok (tgtRsv_of_zero htgt), bind_of_ok (need_of_true hpair)]

theorem pairStatus_ok (hlen : c.payLen = 0) (hres : 64 ≤ c.resLen) (htgt : c.target = 0) :
    pairStatus c s = .ok (okRes (leBytes 64 (pairRecord s)), s) := by
  rw [pairStatus, bind_of_ok (lenIs_of_eq hlen), bind_of_ok (bound_of_le hres), bind_of_ok (tgtRsv_of_zero htgt)]

/-! ### PAIR_PROMOTE (12 R362) -/

theorem lenIs_of_ne {n : Nat} (h : c.payLen ≠ n) : c.lenIs n = .error { st := some St.lengthRange, detail := 24 } := by
  rw [Cmd.lenIs, need, if_neg (by simpa using h)]

theorem pairPromote_of_length (hlen : c.payLen ≠ 0) :
    pairPromote c s = .error { st := some St.lengthRange, detail := 24 } := by
  rw [pairPromote, lenIs_of_ne hlen]
  rfl

/-- Past its other checks PAIR_PROMOTE promotes the pair, or is turned away with ST_STATE. -/
theorem pairPromote_eq (hlen : c.payLen = 0) (htgt : c.target = 0) :
    pairPromote c s = if inJoin s = true ∧ s.mru.copyDone = true ∧ 1 ≤ s.mru.streak then .ok (okAns, toPaired s)
      else .error { st := some St.state } := by
  have hguard : (inJoin s && s.mru.copyDone && decide (1 ≤ s.mru.streak)) = true ↔
      inJoin s = true ∧ s.mru.copyDone = true ∧ 1 ≤ s.mru.streak := by simp [and_assoc]
  rw [pairPromote, bind_of_ok (lenIs_of_eq hlen), bind_of_ok (tgtRsv_of_zero htgt)]
  split
  next h => rw [bind_of_ok (need_of_true (hguard.mpr h))]
  next h =>
    rw [need, if_neg (mt hguard.mp h)]
    rfl

theorem inJoin_iff : inJoin s = true ↔ s.mru.st = .joining ∨ s.mru.st = .shadow := by simp [inJoin]

/-! ### MIRROR_CLASS_SET (12 R348) -/

/-- A home without a partner that mirrors sets the bit at once. -/
theorem homeDurable_sets {m : FwdMsg} {q : FwdReq} {rest : List FwdReq} {v : Resv} {l : PList} (hreqs : m.reqs = q :: rest)
    (hresv : Tbl.get s.rte.resv q.gid = some v) (hlist : getList s q.gid = some l) (halone : mirroring s = false)
    (hset : m.fld 0 0 = 1) : homeDurable m s = .ok (okAns, setDurable s q.gid true) := by
  simp [homeDurable, hreqs, hresv, hlist, halone, hset]

theorem mirrorClassSet_here {n : Nat} {x : Slot} {v : Resv} {l : PList} (hlen : c.payLen = 8) (htgt : c.target >>> 32 = 0)
    (hrsv : c.fld 63 1 = 0) (hentry : c.entry s c.target = .ok (n, x)) (hget : getSlot s n = some x)
    (hopen : openEntry s n x = .ok ()) (hlive : x.e.state.terminal = false) (hhand : x.e.state ≠ .handoff)
    (hstep : x.e.inStep = false) (hmove : x.e.movePend = false) (hrest : x.restoring = false)
    (hlocal : x.e.remoteHome = false) (hresv : Tbl.get s.rte.resv x.e.gid = some v) (hlist : getList s x.e.gid = some l)
    (halone : mirroring s = false) (hset : c.fld 0 0 = 1) :
    mirrorClassSet c s = .ok (okAns, ownJob x.e.gid c.tok (setDurable s x.e.gid true)) := by
  have hact := homeDurable_sets (m := homeMsg s c 0x0B04 0 [n]) (q := fwdReq s n) (rest := []) rfl
    (by rwa [fwdReq_of_slot hget]) (by rwa [fwdReq_of_slot hget]) halone hset
  rw [fwdReq_of_slot hget] at hact
  rw [mirrorClassSet, bind_of_ok (lenIs_of_eq hlen), bind_of_ok (tgtRsv_of_shift htgt), bind_of_ok (rsv_of_zero hrsv),
    bind_of_ok hentry]
  dsimp only
  rw [bind_of_ok hopen, bind_of_ok (stateErr_of_true (by simp [hlive, hhand])),
    bind_of_ok (need_of_true (by simp [hstep, hmove, hrest])), if_neg (by simp [hlocal]), atHome_here hlocal hact]

end

/-- Settles O22: each meaning's checks pass under the clause's conditions, and each event's guard holds. -/
theorem pairCommands : Obligations.PairCommands := by
  unfold Obligations.PairCommands
  refine ⟨?join, ?dissolve, ?status, ?promote, ?mirrorClass, ?joinTimeout, ?copyDone, ?partnerEnds, ?ordinary, ?beat, ?tick,
    ?form, ?mirrorTick⟩
  case join =>
    intro r d s s1 c n p ht hlen hpromote htgt hside hcover hrsv hrsv' hnode hother hlost hrole hfree hfit hlinks hempty
    rw [exec_pairJoin, execPairJoin, hostCmd_ok ht
      (pairJoin_ok hlen hpromote htgt hside hcover hrsv hrsv' hnode hother hlost hrole hfree hfit hlinks hempty)]
  case dissolve =>
    intro r d s s1 c ht hlen htgt hpair
    rw [exec_pairDissolve, execPairDissolve, hostCmd_ok ht (pairDissolve_ok hlen htgt hpair)]
  case status =>
    intro r d s s1 c ht hlen hres htgt
    rw [exec_pairStatus, execPairStatus, hostCmd_ok ht (pairStatus_ok hlen hres htgt)]
  case promote =>
    intro r d s s1 c ht hlen htgt hjoin hcopy hstreak
    rw [exec_pairPromote, execPairPromote,
      hostCmd_ok ht ((pairPromote_eq hlen htgt).trans (if_pos ⟨hjoin, hcopy, hstreak⟩))]
  case mirrorClass =>
    intro r d s s1 c n x v l ht hlen htgt hrsv hentry hget hopen hlive hhand hstep hmove hrest hlocal hresv hlist halone hset
    rw [exec_mirrorClassSet, execMirrorClassSet, hostCmd_ok ht (mirrorClassSet_here hlen htgt hrsv hentry hget hopen hlive
      hhand hstep hmove hrest hlocal hresv hlist halone hset)]
  case joinTimeout =>
    intro s hjoin halone hlate
    simp [exec_joinTimeout, execJoinTimeout, hjoin, halone, hlate]
  case copyDone =>
    intro s hst hjoined
    simp [exec_copyDone, execCopyDone, hst, hjoined]
  case partnerEnds =>
    intro s hpair
    simp [exec_dissolve, execDissolve, hpair]
  case ordinary =>
    intro s t hended hlate
    simp [exec_ordinaryPorts, execOrdinaryPorts, hended, hlate]
  case beat =>
    intro s m hkind hport hopen hpartner hsound
    simp [exec_heartbeat, execHeartbeat, hkind, hport, hopen, hpartner, hsound]
  case tick =>
    intro s hports hpartner hboot hlate hnone s1
    simp [exec_heartbeatTick, execHeartbeatTick, hports, hpartner, hboot, Nat.not_lt.mpr hlate, hnone, s1]
  case form =>
    intro s hst hports hpartner hlate
    simp [exec_pairFormTimeout, execPairFormTimeout, hst, hports, hpartner, hlate]
  case mirrorTick =>
    intro s hmirror hlate
    simp [exec_mirrorTick, execMirrorTick, hmirror, hlate]

/-- Settles O42: past its length and TARGET the command's one check is the rule's condition. -/
theorem pairPromoteRule : Obligations.PairPromoteRule := by
  unfold Obligations.PairPromoteRule
  refine ⟨fun r d s s1 c ht htgt => ⟨fun hlen => ?_, fun hlen hdue => ?_, fun hlen hnot => ?_⟩, fun s => inJoin_iff,
    fun s hjoin hcopy hstreak => ?_⟩
  · rw [exec_pairPromote, execPairPromote, hostCmd_error ht (pairPromote_of_length hlen)]
  · rw [exec_pairPromote, execPairPromote, hostCmd_ok ht ((pairPromote_eq hlen htgt).trans (if_pos hdue))]
  · rw [exec_pairPromote, execPairPromote, hostCmd_error ht ((pairPromote_eq hlen htgt).trans (if_neg hnot))]
  · have hguard : ((s.mru.st == .joining || s.mru.st == .shadow) && s.mru.copyDone &&
        decide (s.mru.promote ≤ s.mru.streak)) = true := by
      have hst : (s.mru.st == .joining || s.mru.st == .shadow) = true := hjoin
      rw [hst, hcopy, decide_eq_true hstreak.ge]
      rfl
    rw [promoteIfDue, if_pos hguard]

end Sys2Proof.Machine

namespace Sys2Proof.Machine

/-! SUPPORT. The mirror stream at its receiver and the loss of a partner (12 R344, R350 to R353). -/

section

variable {s : State} {m : MirRec}

/-! ### A record in its turn (12 R344) -/

theorem recOk_len (h : recOk m = true) : m.len ≤ 65536 := by
  simp only [recOk, Bool.and_eq_true, decide_eq_true_eq] at h
  exact h.1.1.1.1.2

/-- A queue that holds the next record alone is applied, and is empty then. -/
theorem drainQueue_one (hturn : m.mseq = s.mru.mseqApplied + 1) :
    drainQueue 1 { s with mir := { s.mir with applyQ := [m] } } = applyRec { s with mir := { s.mir with applyQ := [] } } m := by
  simp [drainQueue, hturn]

/-- A record in its turn is applied at once, and acknowledged where the stream has moved on. -/
theorem mirrorIn_turn (h : recTurn s m) :
    let s1 := applyRec { s with mir := { s.mir with applyQ := [] } } m
    mirrorIn m.kind m s = if s1.mru.mseqApplied = s.mru.mseqApplied then s1 else mirrorAckOut s1 m.port := by
  obtain ⟨hrecv, hok, hturn, hempty⟩ := h
  have hlen := recOk_len hok
  have hroom : queueRoom s m = true := by
    simp only [queueRoom, hempty, List.foldl_nil, decide_eq_true_eq]
    omega
  have hnew : ¬ m.mseq ≤ s.mru.mseqApplied := by omega
  rw [mirrorIn, if_neg (by simp [hrecv]), if_neg (by simp [hok]), if_neg hnew, if_neg (by simp [hroom]), hempty]
  simp only [List.any_nil, Bool.false_eq_true, if_false, List.nil_append, List.length_singleton, drainQueue_one hturn]

/-! ### Claims at a witness (12 R351) -/

/-- The first claim for a pair is granted and kept. -/
theorem execClaim_first {frm other : Nat} (hboot : s.sbu.bootDone = true) (hlive : shunned s = false)
    (hfirst : ∀ w ∈ s.mir.witness, ¬ (w.1 = min frm other ∧ w.2.1 = max frm other)) :
    execClaim frm other s = .next (commit s (emit { s with mir := { s.mir with
      witness := s.mir.witness ++ [(min frm other, max frm other, frm, now s)] } } (.grantAns frm true))) := by
  have hnone : (s.mir.witness.any fun w =>
      w.1 == min frm other && w.2.1 == max frm other && decide (now s < w.2.2.2 + 10000 * ms)) = false :=
    List.any_eq_false.mpr fun w hw => by
      have := hfirst w hw
      simp_all
  have hkept : (s.mir.witness.filter fun w => !(w.1 == min frm other && w.2.1 == max frm other)) = s.mir.witness :=
    List.filter_eq_self.mpr fun w hw => by simpa [imp_iff_not_or] using hfirst w hw
  rw [execClaim, if_neg (by simp [hboot, hlive])]
  dsimp only
  rw [hnone, hkept]
  rfl

/-- A claim for a pair that has a grant is denied for 10 s. -/
theorem execClaim_denied {frm other : Nat} {w : Nat × Nat × Nat × Nat} (hboot : s.sbu.bootDone = true)
    (hlive : shunned s = false) (hw : w ∈ s.mir.witness) (hlow : w.1 = min frm other) (hhigh : w.2.1 = max frm other)
    (hheld : now s < w.2.2.2 + 10000 * ms) :
    execClaim frm other s = .next (commit s (emit s (.grantAns frm false))) := by
  have hany : (s.mir.witness.any fun w =>
      w.1 == min frm other && w.2.1 == max frm other && decide (now s < w.2.2.2 + 10000 * ms)) = true :=
    List.any_eq_true.mpr ⟨w, hw, by simp [hlow, hhigh, hheld]⟩
  rw [execClaim, if_neg (by simp [hboot, hlive])]
  dsimp only
  rw [if_pos hany]

end

/-- Settles O23: a record in its turn is drained alone, and each event of the loss procedure acts where its guard holds. -/
theorem mirrorStreamAndLoss : Obligations.MirrorStreamAndLoss := by
  unfold Obligations.MirrorStreamAndLoss
  refine ⟨?turn, ?probed, ?probedAgain, ?alive, ?nobody, ?claims, ?granted, ?denied, ?holdEnd, ?majority, ?fenced⟩
  case turn =>
    intro s m s1 t hturn
    have row (k : Nat) (hkind : m.kind = k) :
        (Host.Outcome.next (commit s (mirrorIn k m s)) : Host.Outcome State Fault Refusal) = .next (commit s t) := by
      rw [← hkind, mirrorIn_turn hturn]
    exact ⟨row 1, row 2, row 3, row 4, row 5, row 6, row 7, row 8, row 9⟩
  case probed =>
    intro s hst
    simp [exec_lossProbe, execLossProbe, hst]
  case probedAgain =>
    intro s hst
    simp [exec_lossProbe, execLossProbe, hst]
  case alive =>
    intro s l hloss hearly
    simp [exec_lossProbeAnswer, execLossProbeAnswer, hloss, hearly]
  case nobody =>
    intro s l hloss hlate hnone
    simp [exec_lossProbeTimeout, execLossProbeTimeout, hloss, Nat.not_lt.mpr hlate, hnone]
  case claims =>
    intro s l hloss hlate hsome
    simp [exec_lossProbeTimeout, execLossProbeTimeout, hloss, Nat.not_lt.mpr hlate, hsome]
  case granted =>
    intro s frm other hboot hlive hfirst
    rw [exec_claim, execClaim_first hboot hlive hfirst]
  case denied =>
    intro s frm other w hboot hlive hw hlow hhigh hheld
    rw [exec_claim, execClaim_denied hboot hlive hw hlow hhigh hheld]
  case holdEnd =>
    intro s a b
    rw [exec_grantHoldEnd, execGrantHoldEnd]
  case majority =>
    intro s w l hloss hasked hnew hearly hmost
    simp [exec_grant, execGrant, hloss, hasked, hnew, Nat.not_le.mpr hearly, hmost]
  case fenced =>
    intro s l hloss hlate
    simp [exec_claimTimeout, execClaimTimeout, hloss, hlate]

end Sys2Proof.Machine

namespace Sys2Proof.Machine

/-! SUPPORT. The plant unit's commands where they complete, and its samples and sequences (13 R365 to R384; 16 R434, R438). -/

section

variable {c : Cmd} {s : State}

theorem plantStatus_ok (hlen : c.payLen = 0) (hres : 64 ≤ c.resLen) (htgt : c.target = 0) :
    plantStatus c s = .ok (okRes (plantRecord s), s) := by
  rw [plantStatus, bind_of_ok (lenIs_of_eq hlen), bind_of_ok (bound_of_le hres), bind_of_ok (tgtRsv_of_zero htgt)]

theorem coolTargetSet_ok (hlen : c.payLen = 8) (htgt : c.target = 0) (hrsv : c.fld 39 0 = 0) (hclamp : 85 ≤ c.fld 47 40)
    (hclamp' : c.fld 47 40 ≤ 105) (hbelow : c.fld 55 48 < c.fld 47 40) (hdie : 60 ≤ c.fld 55 48) (hdie' : c.fld 55 48 ≤ 100)
    (hout : 25 ≤ c.fld 63 56) (hout' : c.fld 63 56 ≤ 55) :
    coolTargetSet c s = .ok (okAns, setDuty { s with plc := { s.plc with
      tOutTarget := c.fld 63 56, tDieTarget := c.fld 55 48, tClamp := c.fld 47 40 } }) := by
  simp only [coolTargetSet]
  rw [bind_of_ok (lenIs_of_eq hlen), bind_of_ok (tgtRsv_of_zero htgt), bind_of_ok (rsv_of_zero hrsv),
    bind_of_ok (fldF_of_true (by simp [hclamp, hclamp', hbelow])), bind_of_ok (fldF_of_true (by simp [hdie, hdie'])),
    bind_of_ok (fldF_of_true (by simp [hout, hout']))]

theorem holdupTest_ok (hlen : c.payLen = 8) (htgt : c.target = 0) (hrsv : c.fld 55 0 = 0) (hmin : 20 ≤ c.fld 63 56)
    (hmax : c.fld 63 56 ≤ 200) (hnone : s.plc.test = none) (hidle : s.jnl.saving = false) (hvin : 40000 ≤ s.plu.vin)
    (hvin' : s.plu.vin ≤ 60000) (hstore : s.sbu.set.storeVmax * 1000 - 500 ≤ s.plu.vstore) :
    holdupTest c s = .ok (pendAns, setCharger { s with
      plc := { s.plc with test := some (now s, c.fld 63 56, c.tok) }, plu := { s.plu with phase := .test }
      pin := { s.pin with inputSwitch := false, storeSwitch := true } }) := by
  have hpower : (decide (40000 ≤ s.plu.vin) && decide (s.plu.vin ≤ 60000) &&
      decide (s.sbu.set.storeVmax * 1000 - 500 ≤ s.plu.vstore)) = true := by
    rw [decide_eq_true hvin, decide_eq_true hvin', decide_eq_true hstore]
    rfl
  simp only [holdupTest]
  rw [bind_of_ok (lenIs_of_eq hlen), bind_of_ok (tgtRsv_of_zero htgt), bind_of_ok (rsv_of_zero hrsv),
    bind_of_ok (fldF_of_true (by simp [hmin, hmax])), bind_of_ok (need_of_true (by simp [hnone, hidle])),
    bind_of_ok (need_of_true hpower)]

theorem standbyEnter_ok (hlen : c.payLen = 16) (htgt : c.target = 0) (hrsv : c.fld 63 0 = 0) (hidle : idleForReset s = true)
    (hctxs : (s.cax.ctxs.all fun kv => decide (61 ≤ kv.1)) = true) :
    standbyEnter c s = .ok (okAns, commitJournal { s with plc := { s.plc with standby := some (now s, c.fld 127 64) } }) := by
  rw [standbyEnter, bind_of_ok (lenIs_of_eq hlen), bind_of_ok (tgtRsv_of_zero htgt), bind_of_ok (rsv_of_zero hrsv),
    bind_of_ok (need_of_true (by rw [hidle, hctxs]; rfl))]

/-! ### POWER_CAP_SET (13 R367) -/

/-- Past its length and reserved bits POWER_CAP_SET sets the cap, or is turned away where CAP is out of range. -/
theorem powerCapSet_eq (hlen : c.payLen = 8) (htgt : c.target = 0) (hrsv : c.fld 47 0 = 0) :
    powerCapSet c s = if 420 ≤ c.fld 63 48 ∧ c.fld 63 48 ≤ 1650 then
        .ok (okAns, { s with plc := { s.plc with cap := c.fld 63 48 } })
      else .error { st := some St.fieldRange, detail := inPay 6 } := by
  have hguard : (decide (420 ≤ c.fld 63 48) && decide (c.fld 63 48 ≤ 1650)) = true ↔
      420 ≤ c.fld 63 48 ∧ c.fld 63 48 ≤ 1650 := by simp
  simp only [powerCapSet]
  rw [bind_of_ok (lenIs_of_eq hlen), bind_of_ok (tgtRsv_of_zero htgt), bind_of_ok (rsv_of_zero hrsv)]
  split
  next h => rw [bind_of_ok (fldF_of_true (hguard.mpr h))]
  next h =>
    rw [fldF, need, if_neg (mt hguard.mp h)]
    rfl

theorem powerCapSet_of_length (hlen : c.payLen ≠ 8) :
    powerCapSet c s = .error { st := some St.lengthRange, detail := 24 } := by
  simp only [powerCapSet]
  rw [lenIs_of_ne hlen]
  rfl

theorem powerCapSet_of_reserved (hlen : c.payLen = 8) (htgt : c.target = 0) (hrsv : c.fld 47 0 ≠ 0) :
    powerCapSet c s = .error { st := some St.fieldRange, detail := inPay 0 } := by
  simp only [powerCapSet]
  rw [bind_of_ok (lenIs_of_eq hlen), bind_of_ok (tgtRsv_of_zero htgt), Cmd.rsv, fldF, need, if_neg (by simpa using hrsv)]
  rfl

/-! ### Samples and sequences -/

/-- A sample up to 2 V above V_MAX is no over-voltage of the store (13 R374). -/
theorem execStoreSample_inRange {mv : Nat} {ca : Int} (hlow : mv ≤ s.sbu.set.storeVmax * 1000 + 2000) :
    execStoreSample mv ca s =
      let vmax := s.sbu.set.storeVmax * 1000
      .next (commit s (judgeStore (setCharger { s with
        plu := { s.plu with vstore := mv, istore := ca }
        plc := { s.plc with
          chgFull := decide (vmax ≤ mv) || (s.plc.chgFull && decide (vmax - 500 < mv)), overVmax := false } }))) := by
  have hhigh : decide (s.sbu.set.storeVmax * 1000 + 2000 < mv) = false := decide_eq_false (Nat.not_lt.mpr hlow)
  simp only [execStoreSample, hhigh, Bool.false_and, Bool.false_eq_true, if_false]

theorem sensed_of_clocked {s1 : State} (hclock : clocked s = true) : sensed s s1 = settle s s1 := by
  simp [sensed, hclock]

/-- A thermistor pair that reads sound sets the duties (13 R378). -/
theorem execCoolantSample_sound {tIn tOut : Int} (hclock : clocked s = true) (hin : thermBad tIn = false)
    (hout : thermBad tOut = false) :
    execCoolantSample tIn tOut s = .next (settle s (setDuty
      { s with plu := { s.plu with tIn := tIn, tOut := tOut }, plc := { s.plc with thermFault := false } })) := by
  simp only [execCoolantSample, sensed_of_clocked hclock, hin, hout, Bool.or_self, Bool.false_and, Bool.false_eq_true, if_false]

/-- The test's end at its time writes the measured values (13 R375). -/
theorem execHoldupTestEnd_full {stepMv stepCa chargeMc fallMv t n : Nat} {tok : Tok} (htest : s.plc.test = some (t, n, tok))
    (hstore : 42000 < s.plu.vstore) (hlate : t + n * ms ≤ now s) :
    let esr := measured s.draws (1000 * stepMv) stepCa
    let cap := measured (s.draws + 1) (1000 * chargeMc) fallMv
    let s1 := setCharger { s with
      plc := { s.plc with test := none }, plu := { s.plu with phase := .run }
      pin := { s.pin with inputSwitch := true, storeSwitch := false } }
    execHoldupTestEnd stepMv stepCa chargeMc fallMv s = .next (commit s (finish
      (drawn (drawn { s1 with plu := { s1.plu with cEst := cap, esrEst := esr, tested := true } })) tok St.ok
      (cap <<< 48 ||| esr <<< 32 ||| satBits 16 (fFloor (eUsable cap (s.sbu.set.storeVmax * 1000))) <<< 16) 0)) := by
  intro esr cap s1
  have hhigh : decide (s.plu.vstore ≤ 42000) = false := decide_eq_false (Nat.not_le.mpr hstore)
  have hdue : (!false && decide (now s < t + n * ms)) = false := by simp [hlate]
  simp only [execHoldupTestEnd, htest, hhigh, hdue, Bool.false_eq_true, if_false, esr, cap, s1]

theorem powerLost_running {cause : Nat} (hclock : clocked s = true) (hphase : s.plu.phase ≠ .powerFail) :
    powerLost s cause = startSequence s cause := by
  simp [powerLost, hclock, hphase]

end

/-- Settles O24: each meaning's checks pass under the clause's conditions, and each event's guard holds. -/
theorem plantRules : Obligations.PlantRules := by
  unfold Obligations.PlantRules
  refine ⟨?status, ?cool, ?test, ?cap, ?standby, ?store, ?coolant, ?pump, ?testEnd, ?power, ?dies, ?hbm, ?fails, ?powerUp,
    ?rows, ?seqEnd, ?islandOff, ?trip, ?tripEnd, ?standbyEntry, ?wake, ?pins⟩
  case status =>
    intro r d s s1 c ht hlen hres htgt
    rw [exec_plantStatus, execPlantStatus, hostCmd_ok ht (plantStatus_ok hlen hres htgt)]
  case cool =>
    intro r d s s1 c ht hlen htgt hrsv hclamp hclamp' hbelow hdie hdie' hout hout'
    rw [exec_coolTargetSet, execCoolTargetSet,
      hostCmd_ok ht (coolTargetSet_ok hlen htgt hrsv hclamp hclamp' hbelow hdie hdie' hout hout')]
  case test =>
    intro r d s s1 c ht hlen htgt hrsv hmin hmax hnone hidle hvin hvin' hstore
    rw [exec_holdupTest, execHoldupTest,
      hostCmd_ok ht (holdupTest_ok hlen htgt hrsv hmin hmax hnone hidle hvin hvin' hstore)]
  case cap =>
    intro r d s s1 c ht hlen htgt hrsv hmin hmax
    rw [exec_powerCapSet, execPowerCapSet,
      hostCmd_ok ht ((powerCapSet_eq hlen htgt hrsv).trans (if_pos ⟨hmin, hmax⟩))]
  case standby =>
    intro r d s s1 c ht hlen htgt hrsv hidle hctxs
    rw [exec_standbyEnter, execStandbyEnter, hostCmd_ok ht (standbyEnter_ok hlen htgt hrsv hidle hctxs)]
  case store =>
    intro s mv ca hlow vmax
    rw [exec_storeSample, execStoreSample_inRange hlow]
  case coolant =>
    intro s tIn tOut hclock hin hout
    rw [exec_coolantSample, execCoolantSample_sound hclock hin hout]
  case pump =>
    intro s hpump hgood
    simp [exec_pumpFault, execPumpFault, Nat.not_le.mpr hpump, hgood]
  case testEnd =>
    intro s stepMv stepCa chargeMc fallMv t n tok htest hstore hlate esr cap s1
    rw [exec_holdupTestEnd, execHoldupTestEnd_full htest hstore hlate]
  case power =>
    intro s mv ca p hist sum s1
    rw [exec_powerSample, execPowerSample]
  case dies =>
    intro s ts hclock hlen
    simp only [exec_dieTempSample, execDieTempSample, sensed_of_clocked hclock, hlen, bne_self_eq_false, Bool.false_eq_true,
      if_false]
  case hbm =>
    intro s ts hlen
    simp only [exec_hbmTempSample, execHbmTempSample, hlen, bne_self_eq_false, Bool.false_eq_true, if_false]
  case fails =>
    intro s hclock hphase
    rw [exec_powerFail, execPowerFail, exec_overVoltage, execOverVoltage, powerLost_running hclock hphase,
      powerLost_running hclock hphase]
    exact ⟨rfl, rfl⟩
  case powerUp =>
    intro s hphase
    rw [exec_powerUp, execPowerUp, if_pos hphase]
  case rows =>
    intro s hclosing
    rw [exec_openRowsProgrammed, execOpenRowsProgrammed, if_pos hclosing]
  case seqEnd =>
    intro s hdone hphase hstep
    simp [exec_sequenceEnd, execSequenceEnd, hdone, hphase, Nat.not_lt.mpr hstep]
  case islandOff =>
    intro s hphase
    rcases hphase with h | h <;> simp [exec_islandOff, execIslandOff, h]
  case trip =>
    intro s k hreads hphase ts s1
    simp [exec_thermalTrip, execThermalTrip, hreads, hphase, ts, s1]
  case tripEnd =>
    intro s hphase hfree hcool hout
    simp [exec_tripRestart, execTripRestart, hphase, hfree, hcool, hout]
  case standbyEntry =>
    intro s t a hstandby hlate hphase s1
    simp [exec_standbyEntry, execStandbyEntry, hstandby, Nat.not_lt.mpr hlate, hphase, s1]
  case wake =>
    intro s hphase
    rw [exec_standbyWake, execStandbyWake, if_pos hphase]
  case pins =>
    intro s
    exact ⟨rfl, rfl⟩

end Sys2Proof.Machine

namespace Sys2Proof.Machine

/-! SUPPORT. Flags and events in the registers and the event queues (11 R334, R335; 15 R411, R412). -/

section

variable {s : State} {k p : Nat}

/-- The interrupt of a set is sent, or due at the end of its gap. -/
theorem flagIrq_eq (s : State) (p : Nat) : ∃ last due out,
    flagIrq s p = { s with reg := { s.reg with flagLast := last, flagDue := due }, out := out } := by
  have hsend (last : Tbl Nat) (v a w : Nat) : ∃ out,
      irqPort { s with reg := { s.reg with flagLast := last } } p v a w =
        { s with reg := { s.reg with flagLast := last }, out := out } := irqPort_out ..
  unfold flagIrq
  dsimp only
  split
  · exact ⟨_, s.reg.flagDue, hsend ..⟩
  · split
    · exact ⟨_, s.reg.flagDue, hsend ..⟩
    · exact ⟨s.reg.flagLast, _, s.out, rfl⟩

theorem setFlagOn_eq (k p : Nat) (s : State) : ∃ last due out, setFlagOn k s p = { s with
    reg := { s.reg with
      flags := Tbl.set s.reg.flags p (Tbl.getD s.reg.flags p 0 ||| 2 ^ k), flagLast := last, flagDue := due }
    out := out } := by
  unfold setFlagOn
  dsimp only
  split
  · exact flagIrq_eq ..
  · exact ⟨_, _, _, rfl⟩

theorem foldl_setFlagOn_eq (k : Nat) (l : List Nat) (s : State) : ∃ flags last due out, l.foldl (setFlagOn k) s = { s with
    reg := { s.reg with flags := flags, flagLast := last, flagDue := due }, out := out } := by
  induction l generalizing s with
  | nil => exact ⟨_, _, _, _, rfl⟩
  | cons p l ih =>
    obtain ⟨last, due, out, hset⟩ := setFlagOn_eq k p s
    rw [List.foldl_cons, hset]
    exact ih _

/-- A set of a flag writes the copies, its own count, the gap of the interrupts and what is sent. -/
theorem setFlag_eq (s : State) (k : Nat) : ∃ flags last due out, setFlag s k = { s with
    reg := { s.reg with
      flags := flags, flagCount := Tbl.set s.reg.flagCount k ((Tbl.getD s.reg.flagCount k 0 + 1) % 2 ^ 64)
      flagLast := last, flagDue := due }
    out := out } := foldl_setFlagOn_eq k _ _

theorem setFlag_flagCount (k : Nat) :
    (setFlag s k).reg.flagCount = Tbl.set s.reg.flagCount k ((Tbl.getD s.reg.flagCount k 0 + 1) % 2 ^ 64) := by
  obtain ⟨flags, last, due, out, h⟩ := setFlag_eq s k
  rw [h]

theorem setFlag_tsu (k : Nat) : (setFlag s k).tsu = s.tsu := by
  obtain ⟨flags, last, due, out, h⟩ := setFlag_eq s k
  rw [h]

/-- A set in one port's copy leaves the others. -/
theorem setFlagOn_get (k p q : Nat) : Tbl.get (setFlagOn k s p).reg.flags q =
    if q = p then some (Tbl.getD s.reg.flags p 0 ||| 2 ^ k) else Tbl.get s.reg.flags q := by
  obtain ⟨last, due, out, h⟩ := setFlagOn_eq k p s
  rw [h, Tbl.get_set]

/-- Each port's copy has the bit after a set on all ports. -/
theorem setFlag_getD (k : Nat) (hp : p < 4) :
    Tbl.getD (setFlag s k).reg.flags p 0 = Tbl.getD s.reg.flags p 0 ||| 2 ^ k := by
  have hcount : (countFlag s k).reg.flags = s.reg.flags := rfl
  simp only [setFlag, List.foldl_cons, List.foldl_nil, Tbl.getD, setFlagOn_get, hcount]
  obtain rfl | rfl | rfl | rfl : p = 0 ∨ p = 1 ∨ p = 2 ∨ p = 3 := by omega
  all_goals simp

end

/-- Settles O50: a set reaches each port's copy once, and the count once. -/
theorem flagsAreSet : Obligations.FlagsAreSet := by
  unfold Obligations.FlagsAreSet
  refine ⟨fun s k p hp => setFlag_getD k hp, fun s k => ?count, fun s k j hj => ?others, fun s k => ?frame,
    fun s k p q hq => ?copy⟩
  case count => rw [setFlag_flagCount, Tbl.getD, Tbl.get_set_same, Option.getD_some]
  case others => rw [setFlag_flagCount, Tbl.get_set_ne hj]
  case frame =>
    obtain ⟨flags, last, due, out, h⟩ := setFlag_eq s k
    exact ⟨flags, _, last, due, out, h⟩
  case copy =>
    rw [setSrcFlag, setFlagOn_get, if_neg hq]
    rfl

/-! ### Where a posted event goes (11 R334, R335) -/

section

variable {s : State} {e : Event} {i k : Nat} {q : EvQueue}

/-- A queue as an interrupt leaves it: the entries and the counts stand. -/
def sameEntries (q q1 : EvQueue) : Prop := q1.entries = q.entries ∧ q1.lost = q.lost

/-- An interrupt of queue `i` writes that queue alone, and neither its entries nor its counts. -/
theorem evIrq_eq (s : State) (i : Nat) (q : EvQueue) : ∃ q1 out,
    evIrq s i q = { s with tsu := { s.tsu with evq := Tbl.set s.tsu.evq i q1 }, out := out } ∧ sameEntries q q1 := by
  obtain ⟨out, hsend⟩ := irqPort_out (s := setEvq s i { q with irqAt := some (now s), irqDue := false }) q.port q.vec
    q.notify q.entries.length
  unfold evIrq
  dsimp only
  split
  · exact ⟨_, out, hsend, rfl, rfl⟩
  · split
    · exact ⟨_, out, hsend, rfl, rfl⟩
    · exact ⟨{ q with irqDue := true }, s.out, rfl, rfl, rfl⟩

/-- An event writes the queues and what is sent. -/
theorem evInto_eq (e : Event) (s : State) (i : Nat) : ∃ evq out,
    evInto e s i = { s with tsu := { s.tsu with evq := evq }, out := out } := by
  unfold evInto
  split
  · exact ⟨_, _, rfl⟩
  next q _ =>
    dsimp only
    split
    · split
      · obtain ⟨q1, out, h, -⟩ := evIrq_eq s i (evPlace q e)
        exact ⟨_, out, h⟩
      · exact ⟨_, s.out, rfl⟩
    · exact ⟨_, _, rfl⟩

theorem foldl_evInto_eq (e : Event) (l : List Nat) (s : State) : ∃ evq out,
    l.foldl (evInto e) s = { s with tsu := { s.tsu with evq := evq }, out := out } := by
  induction l generalizing s with
  | nil => exact ⟨_, _, rfl⟩
  | cons i l ih =>
    obtain ⟨evq, out, h⟩ := evInto_eq e s i
    rw [List.foldl_cons, h]
    exact ih _

/-- A posted event takes the next EVSEQ and writes the queues, the flags, ALERT and what is sent. -/
theorem post_eq (s : State) (unit kind cause sev st object arg : Nat) : ∃ evq reg pin out,
    post s unit kind cause sev st object arg = { s with
      tsu := { s.tsu with evSeq := (s.tsu.evSeq + 1) % 2 ^ 32, evq := evq }, reg := reg, pin := pin, out := out } := by
  unfold post
  dsimp only
  obtain ⟨evq, out, h⟩ := foldl_evInto_eq ⟨now s, object, arg, s.tsu.evSeq, st, unit, kind, cause, sev⟩
    [0, 1, 2, 3, 4, 5, 6, 7] { s with tsu := { s.tsu with evSeq := (s.tsu.evSeq + 1) % 2 ^ 32 } }
  rw [h]
  split
  · obtain ⟨flags, last, due, out', h'⟩ := setFlag_eq { s with
      tsu := { s.tsu with evSeq := (s.tsu.evSeq + 1) % 2 ^ 32, evq := evq }, pin := { s.pin with alert := true }, out := out }
      Fl.sev0
    exact ⟨evq, _, _, out', h'⟩
  · exact ⟨evq, _, _, out, rfl⟩

/-- What an event makes of a queue: placed where the queue accepts it, the queue as it was otherwise. -/
def evTakes (i : Nat) (e : Event) (q q1 : EvQueue) : Prop :=
  (evAccepts i q e = false → q1 = q) ∧ (evAccepts i q e = true → sameEntries (evPlace q e) q1)

theorem evInto_same (hq : Tbl.get s.tsu.evq i = some q) :
    ∃ q1, Tbl.get (evInto e s i).tsu.evq i = some q1 ∧ evTakes i e q q1 := by
  unfold evInto
  rw [hq]
  dsimp only
  cases haccept : evAccepts i q e with
  | false => exact ⟨q, by simp [hq], fun _ => rfl, fun h => by simp [haccept] at h⟩
  | true =>
    rw [if_pos rfl]
    split
    · obtain ⟨q1, out, h, hsame⟩ := evIrq_eq s i (evPlace q e)
      exact ⟨q1, by rw [h, Tbl.get_set_same], fun h => by simp [haccept] at h, fun _ => hsame⟩
    · exact ⟨_, Tbl.get_set_same, fun h => by simp [haccept] at h, fun _ => ⟨rfl, rfl⟩⟩

theorem evInto_other (h : k ≠ i) : Tbl.get (evInto e s i).tsu.evq k = Tbl.get s.tsu.evq k := by
  unfold evInto
  split
  · rfl
  next q _ =>
    dsimp only
    split
    · split
      · obtain ⟨q1, out, hirq, -⟩ := evIrq_eq s i (evPlace q e)
        rw [hirq, Tbl.get_set_ne h]
      · exact Tbl.get_set_ne h
    · rfl

theorem foldl_evInto_other {l : List Nat} (h : k ∉ l) :
    Tbl.get (l.foldl (evInto e) s).tsu.evq k = Tbl.get s.tsu.evq k := by
  induction l generalizing s with
  | nil => rfl
  | cons i l ih =>
    rw [List.mem_cons, not_or] at h
    rw [List.foldl_cons, ih h.2, evInto_other h.1]

/-- Each queue meets a posted event once. -/
theorem foldl_evInto_same {l : List Nat} (hnodup : l.Nodup) (h : k ∈ l) (hq : Tbl.get s.tsu.evq k = some q) :
    ∃ q1, Tbl.get (l.foldl (evInto e) s).tsu.evq k = some q1 ∧ evTakes k e q q1 := by
  induction l generalizing s with
  | nil => cases h
  | cons i l ih =>
    obtain ⟨hi, hl⟩ := List.nodup_cons.mp hnodup
    rw [List.foldl_cons]
    obtain rfl | h := List.mem_cons.mp h
    · rw [foldl_evInto_other hi]
      exact evInto_same hq
    · have hki : k ≠ i := fun hki => hi (hki ▸ h)
      exact ih hl h (by rwa [evInto_other hki])

/-- A posted event passes every queue, and a severe one then sets its flag, which no queue shows. -/
theorem post_tsu (unit kind cause sev st object arg : Nat) : (post s unit kind cause sev st object arg).tsu =
    ([0, 1, 2, 3, 4, 5, 6, 7].foldl (evInto ⟨now s, object, arg, s.tsu.evSeq, st, unit, kind, cause, sev⟩)
      { s with tsu := { s.tsu with evSeq := (s.tsu.evSeq + 1) % 2 ^ 32 } }).tsu := by
  unfold post
  dsimp only
  split
  · rw [setFlag_tsu]
  · rfl

theorem post_evSeq (unit kind cause sev st object arg : Nat) :
    (post s unit kind cause sev st object arg).tsu.evSeq = (s.tsu.evSeq + 1) % 2 ^ 32 := by
  obtain ⟨evq, reg, pin, out, h⟩ := post_eq s unit kind cause sev st object arg
  rw [h]

theorem post_evq (unit kind cause sev st object arg : Nat) (hk : k < 8) (hq : Tbl.get s.tsu.evq k = some q) :
    ∃ q1, Tbl.get (post s unit kind cause sev st object arg).tsu.evq k = some q1 ∧
      evTakes k ⟨now s, object, arg, s.tsu.evSeq, st, unit, kind, cause, sev⟩ q q1 := by
  rw [post_tsu]
  refine foldl_evInto_same (by decide) ?_ hq
  simp only [List.mem_cons, List.not_mem_nil, or_false]
  omega

theorem evPlace_room (hroom : q.entries.length < evCap q) : evPlace q e = { q with entries := q.entries ++ [e] } := by
  rw [evPlace, if_pos hroom]

theorem evPlace_full {old : Event} {rest : List Event} (hq : q.entries = old :: rest) (hfull : evCap q ≤ q.entries.length) :
    evPlace q e = evLose { q with entries := rest ++ [e] } old.sev := by
  rw [evPlace, if_neg (Nat.not_lt.mpr hfull), hq]

end

/-! ### The order in which entries are read (11 R336) -/

section

variable {α : Type} {lt : α → α → Bool}

theorem sortBy_concat (l : List α) (x : α) : sortBy lt (l ++ [x]) = insertBy lt x (sortBy lt l) := by
  rw [sortBy, List.foldl_append]
  rfl

theorem insertBy_ne_nil (x : α) (l : List α) : insertBy lt x l ≠ [] := by
  cases l with
  | nil => exact List.cons_ne_nil _ _
  | cons y t =>
    rw [insertBy]
    split <;> exact List.cons_ne_nil _ _

theorem sortBy_eq_nil {l : List α} (h : sortBy lt l = []) : l = [] := by
  induction l using List.reverseRecOn with
  | nil => rfl
  | append_singleton l x _ =>
    rw [sortBy_concat] at h
    exact absurd h (insertBy_ne_nil x _)

/-- The first of a stable sort by a number is the first of those that have the least. -/
theorem head_sortBy {f : α → Nat} {l t : List α} {e : α} (h : sortBy (fun a b => decide (f a < f b)) l = e :: t) :
    (∀ x ∈ l, f e ≤ f x) ∧ ∃ a b, l = a ++ e :: b ∧ ∀ x ∈ a, f e < f x := by
  induction l using List.reverseRecOn generalizing e t with
  | nil => cases h
  | append_singleton l x ih =>
    rw [sortBy_concat] at h
    cases hl : sortBy (fun a b => decide (f a < f b)) l with
    | nil =>
      obtain rfl := sortBy_eq_nil hl
      rw [hl] at h
      cases h
      exact ⟨by simp, [], [], by simp, by simp⟩
    | cons y u =>
      obtain ⟨hleast, a, b, hsplit, hbefore⟩ := ih hl
      rw [hl, insertBy] at h
      split at h
      next hlt =>
        cases h
        have hless : ∀ z ∈ l, f x < f z := fun z hz => lt_of_lt_of_le (of_decide_eq_true hlt) (hleast z hz)
        refine ⟨fun z hz => ?_, l, [], by simp, hless⟩
        obtain hz | hz := List.mem_append.mp hz
        · exact (hless z hz).le
        · rw [List.mem_singleton.mp hz]
      next hge =>
        have hxy : f y ≤ f x := by simpa using hge
        cases h
        refine ⟨fun z hz => ?_, a, b ++ [x], by simp [hsplit], hbefore⟩
        obtain hz | hz := List.mem_append.mp hz
        · exact hleast z hz
        · rwa [List.mem_singleton.mp hz]

end

/-- Settles O49: each queue meets the event once, and the order of reading is a stable sort by severity. -/
theorem eventsArePlaced : Obligations.EventsArePlaced := by
  unfold Obligations.EventsArePlaced
  refine ⟨fun s => post_evSeq, ?placed, fun q e t h => head_sortBy h⟩
  intro s unit kind cause sev st object arg k q e hk hq
  obtain ⟨q1, hget, hleft, htaken⟩ := post_evq unit kind cause sev st object arg hk hq
  refine ⟨q1, hget, hleft, fun haccept hroom => ?_, fun old rest haccept hentries hfull => ?_⟩
  · obtain ⟨hentries, hlost⟩ := htaken haccept
    rw [evPlace_room hroom] at hentries hlost
    exact ⟨hentries, hlost⟩
  · obtain ⟨hentries', hlost⟩ := htaken haccept
    rw [evPlace_full hentries hfull] at hentries' hlost
    exact ⟨hentries', hlost⟩

end Sys2Proof.Machine

namespace Sys2Proof.Machine

/-! SUPPORT. A query of the search engine (11 R322). The winner is kept over the entries in their order, so each fact is an
induction on the entries seen so far. -/

section

variable {space k : Nat} {l : Tbl SEntry}

theorem rowHits_iff (r : SRow) : rowHits r space k = true ↔ r.space = space ∧ (k ^^^ r.key) &&& r.mask = 0 := by
  simp [rowHits]

/-- The winner so far after one more entry. -/
def betterHit (space k : Nat) (o : Option (Nat × SEntry)) (kv : Nat × SEntry) : Option (Nat × SEntry) :=
  if rowHits kv.2.row space k then
    match o with
    | none => some kv
    | some w => if w.2.row.prio < kv.2.row.prio then some kv else o
  else o

theorem winner_eq (s : State) : winner s space k [] = s.tsu.search.foldl (betterHit space k) none := by
  unfold winner
  congr 1
  funext o kv
  cases o <;> simp [betterHit]

theorem betterHit_of_miss {o : Option (Nat × SEntry)} {kv : Nat × SEntry} (h : rowHits kv.2.row space k = false) :
    betterHit space k o kv = o := by
  simp [betterHit, h]

theorem betterHit_none {kv : Nat × SEntry} (h : rowHits kv.2.row space k = true) :
    betterHit space k none kv = some kv := by
  simp [betterHit, h]

theorem betterHit_some {w kv : Nat × SEntry} (h : rowHits kv.2.row space k = true) :
    betterHit space k (some w) kv = if w.2.row.prio < kv.2.row.prio then some kv else some w := by
  simp [betterHit, h]

/-- Nothing wins just where nothing matches. -/
theorem foldl_betterHit_none :
    l.foldl (betterHit space k) none = none ↔ ∀ kv ∈ l, rowHits kv.2.row space k = false := by
  induction l using List.reverseRecOn with
  | nil => simp
  | append_singleton l kv ih =>
    rw [List.foldl_append, List.foldl_cons, List.foldl_nil]
    simp only [List.mem_append, List.mem_singleton, or_imp, forall_and, forall_eq, ← ih]
    cases hhit : rowHits kv.2.row space k with
    | false => simp [betterHit_of_miss hhit]
    | true =>
      cases l.foldl (betterHit space k) none with
      | none => simp [betterHit_none hhit]
      | some w =>
        rw [betterHit_some hhit]
        split <;> simp

/-- The winner matches, and every other entry that matches has a lower PRIO, or the same and stands later. -/
theorem foldl_betterHit_some {i : Nat} {e : SEntry} (hrising : l.Pairwise fun a b => a.1 < b.1)
    (h : l.foldl (betterHit space k) none = some (i, e)) :
    (i, e) ∈ l ∧ rowHits e.row space k = true ∧
      ∀ j f, (j, f) ∈ l → rowHits f.row space k = true → f.row.prio ≤ e.row.prio ∧ (f.row.prio = e.row.prio → i ≤ j) := by
  induction l using List.reverseRecOn generalizing i e with
  | nil => cases h
  | append_singleton l kv ih =>
    obtain ⟨hl, -, hlast⟩ := List.pairwise_append.mp hrising
    have hbelow : ∀ x ∈ l, x.1 < kv.1 := fun x hx => hlast x hx kv (List.mem_singleton.mpr rfl)
    rw [List.foldl_append, List.foldl_cons, List.foldl_nil] at h
    cases hhit : rowHits kv.2.row space k with
    | false =>
      rw [betterHit_of_miss hhit] at h
      obtain ⟨hmem, hwin, hbest⟩ := ih hl h
      refine ⟨List.mem_append_left _ hmem, hwin, fun j f hf hfhit => ?_⟩
      obtain hf | hf := List.mem_append.mp hf
      · exact hbest j f hf hfhit
      · obtain rfl := List.mem_singleton.mp hf
        simp [hhit] at hfhit
    | true =>
      cases hsofar : l.foldl (betterHit space k) none with
      | none =>
        rw [hsofar, betterHit_none hhit] at h
        cases h
        refine ⟨by simp, hhit, fun j f hf hfhit => ?_⟩
        obtain hf | hf := List.mem_append.mp hf
        · have := foldl_betterHit_none.mp hsofar (j, f) hf
          simp_all
        · cases List.mem_singleton.mp hf
          exact ⟨le_rfl, fun _ => le_rfl⟩
      | some w =>
        obtain ⟨hmem, hwin, hbest⟩ := ih hl hsofar
        rw [hsofar, betterHit_some hhit] at h
        split at h
        next hmore =>
          cases h
          have hless : w.2.row.prio < e.row.prio := hmore
          refine ⟨by simp, hhit, fun j f hf hfhit => ?_⟩
          obtain hf | hf := List.mem_append.mp hf
          · have := (hbest j f hf hfhit).1
            exact ⟨by omega, fun _ => by omega⟩
          · cases List.mem_singleton.mp hf
            exact ⟨le_rfl, fun _ => le_rfl⟩
        next hnot =>
          cases h
          refine ⟨List.mem_append_left _ hmem, hwin, fun j f hf hfhit => ?_⟩
          obtain hf | hf := List.mem_append.mp hf
          · exact hbest j f hf hfhit
          · cases List.mem_singleton.mp hf
            exact ⟨Nat.not_lt.mp hnot, fun _ => (hbelow _ hmem).le⟩

end

/-- Settles O47: the winner is kept entry by entry, and a later entry of the same PRIO never replaces it. -/
theorem searchWinner : Obligations.SearchWinner := by
  unfold Obligations.SearchWinner
  refine ⟨fun r space k => rowHits_iff r, fun s space k i e hrising h => ?_, fun s space k => ?_⟩
  · exact foldl_betterHit_some hrising ((winner_eq s).symm.trans h)
  · rw [winner_eq, foldl_betterHit_none]

end Sys2Proof.Machine

namespace Sys2Proof.Machine

/-! SUPPORT. The power cap over a restart, and the firmware heartbeat register (13 R367; 15 R419). -/

section

variable {s t : State}

/-! ### A restart and the plant unit's settings (13 R367) -/

theorem post_plc (unit kind cause sev st object arg : Nat) : (post s unit kind cause sev st object arg).plc = s.plc := by
  obtain ⟨evq, reg, pin, out, h⟩ := post_eq s unit kind cause sev st object arg
  rw [h]

theorem sbuEvent_plc (cause sev st arg : Nat) : (sbuEvent s cause sev st arg).plc = s.plc := post_plc ..

theorem bootState_cap (s : State) (cause which : Nat) (x : Settings) : (bootState s cause which x).plc.cap = 1650 := rfl

/-- A restart returns the power cap to 1,650 W, whatever its image and its events. -/
theorem beginBoot_cap (cause : Nat) : (beginBoot s cause).plc.cap = 1650 := by
  unfold beginBoot
  generalize (if s.sbu.factoryBad = 0 then chooseImage s cause else (s, 0, [])) = image
  obtain ⟨s1, which, bad⟩ := image
  dsimp only
  generalize hboot : bootState s1 cause which (bootSettings s1 which).1 = s2
  have hcap : s2.plc.cap = 1650 := hboot ▸ bootState_cap ..
  have hbad : (bad.foldl badEvent s2).plc = s2.plc := foldl_keeps (P := State.plc) (fun _ _ => sbuEvent_plc ..) _ _
  split
  · exact hcap
  · rw [foldl_keeps (P := State.plc) (fun _ _ => post_plc ..), foldl_keeps (P := State.plc) (fun _ _ => sbuEvent_plc ..)]
    split
    · rw [hbad, hcap]
    · rw [sbuEvent_plc, hbad, hcap]

end

/-- Settles O43: the command's checks come in the rule's order, and a restart begins from the reset settings. -/
theorem powerCapRule : Obligations.PowerCapRule := by
  unfold Obligations.PowerCapRule
  refine ⟨fun r d s s1 c ht => ⟨fun hlen => ?_, fun hlen htgt hrsv => ?_, fun hlen htgt hrsv hrange => ?_,
    fun hlen htgt hrsv hmin hmax => ?_⟩, rfl, fun s => beginBoot_cap⟩
  · rw [exec_powerCapSet, execPowerCapSet, hostCmd_error ht (powerCapSet_of_length hlen)]
  · rw [exec_powerCapSet, execPowerCapSet, hostCmd_error ht (powerCapSet_of_reserved hlen htgt hrsv)]
  · rw [exec_powerCapSet, execPowerCapSet,
      hostCmd_error ht ((powerCapSet_eq hlen htgt hrsv).trans (if_neg (by omega)))]
  · rw [exec_powerCapSet, execPowerCapSet,
      hostCmd_ok ht ((powerCapSet_eq hlen htgt hrsv).trans (if_pos ⟨hmin, hmax⟩))]

/-! ### The heartbeat register (15 R419) -/

section

variable {s t : State}

/-- A heartbeat counts, ends a lapse and takes the present time; the stage of boot stands. -/
theorem heartbeat_rte : (heartbeat s).rte = { s.rte with
    beatAt := now s, lapsed := false, beats := (s.rte.beats + 1) % 2 ^ 32
    beatsSince := if s.rte.lapsed then now s else s.rte.beatsSince, lapseTold := false } := by
  unfold heartbeat
  dsimp only
  split
  · rfl
  · exact (congrArg State.rte (finish_pastCommand ..)).trans rfl

theorem heartbeat_stage : (heartbeat s).sbu.stage = s.sbu.stage := by
  unfold heartbeat
  dsimp only
  split
  · rfl
  · exact (congrArg (fun u => u.sbu.stage) (finish_pastCommand ..)).trans rfl

/-- What a write to the heartbeat register does: a heartbeat from the cores, REG_ERR from a port. -/
theorem regWrite_heartbeat {src : Src} {off len v : Nat} (hoff : off / 8 * 8 = 0x3058) :
    regWrite s src off len v = if src = .core then heartbeat s else regErr s src := by
  simp only [regWrite, hoff, controlWrite]
  cases src <;> simp

theorem setSrcFlag_rte (src : Src) (k : Nat) : (setSrcFlag s src k).rte = s.rte := by
  cases src with
  | pcie p =>
    obtain ⟨last, due, out, h⟩ := setFlagOn_eq k p (countFlag s k)
    rw [setSrcFlag, h]
    rfl
  | core => rfl

/-- The heartbeat register shows BEATS to every reader. -/
theorem regValue_heartbeat {src : Src} (hstage : s.sbu.stage ≠ 0xF0) : regValue s src 0x3058 = s.rte.beats := by
  cases src <;> simp [regValue, portView, hstage, controlReg]

theorem commit_rte (h : t.rte = s.rte) : (commit s t).rte = s.rte :=
  commit_keeps (f := State.rte) (fun _ _ hab => congrArg Prod.fst (servingUnits_of_pastCommand hab)) h

end

/-- Settles O44: the register's write is a heartbeat from the cores alone, and its read shows the count. -/
theorem heartbeatRegister : Obligations.HeartbeatRegister := by
  unfold Obligations.HeartbeatRegister
  refine ⟨?row, ?beat, ?core, ?port, rfl, ?read⟩
  case row =>
    intro s v hstage hgood
    simp [exec_firmwareHeartbeat, execFirmwareHeartbeat, hstage, hgood]
  case beat =>
    intro s
    rw [heartbeat_rte]
    exact ⟨rfl, rfl, rfl⟩
  case core =>
    intro s v len off hopen hgood hlen halign hoff
    rw [exec_registerWrite, execRegisterWrite, if_neg (by simp [hopen, hgood]),
      if_neg (by simpa [halign, imp_iff_not_or] using hlen), regWrite_heartbeat hoff, if_pos rfl]
  case port =>
    intro s t p off len v hoff hexec
    rw [exec_registerWrite, execRegisterWrite, regWrite_heartbeat hoff, if_neg (c := Src.pcie p = .core) Src.noConfusion,
      ite_self] at hexec
    cases hexec
    refine commit_rte ?_
    split
    · rfl
    · exact setSrcFlag_rte ..
  case read =>
    intro s src hstage
    refine ⟨regValue_heartbeat hstage, ?_⟩
    rw [regValue_heartbeat (by rwa [heartbeat_stage]), heartbeat_rte]
    have hsmall : (s.rte.beats + 1) % 2 ^ 32 < 2 ^ 32 := Nat.mod_lt _ (by decide)
    simp only [bits, Nat.shiftRight_eq_div_pow, Nat.div_eq_of_lt hsmall, Nat.zero_mod]

end Sys2Proof.Machine

namespace Sys2Proof.Machine

/-! SUPPORT. Reset, the step, and effects without a partner or without clocks (11 R330, R337; 12 R347; 13 R382). -/

/-- Settles O29: both are the definition of `step`. -/
theorem stepRunsTheFront : Obligations.StepRunsTheFront := by
  unfold Obligations.StepRunsTheFront
  refine ⟨fun c rest s h => ?_, fun s h => ?_, fun s => rfl⟩
  · simp only [step, h]
  · simp only [step, h]

/-- Settles O32: after reset no list is held and every memory is empty. -/
theorem resetMeetsTheInvariants : Obligations.ResetMeetsTheInvariants := by
  unfold Obligations.ResetMeetsTheInvariants
  exact ⟨rfl, rfl⟩

/-- Only event queue 0 is in the table after reset. -/
theorem evqOf_reset {k : Nat} (hk : k ≠ 0) : evqOf State.reset k = emptyEvq := by
  have hget : Tbl.get State.reset.tsu.evq k = none := by
    simp [State.reset, Tbl.get, hk.symm]
  rw [evqOf, Tbl.getD, hget, Option.getD_none, if_neg hk]

/-- Settles O33: the reset state's own fields, and what an empty table answers. -/
theorem resetLeaves : Obligations.ResetLeaves := by
  unfold Obligations.ResetLeaves
  refine ⟨rfl, rfl, rfl, rfl, rfl, rfl, rfl, rfl, rfl, fun _ => rfl, fun _ => rfl, rfl, rfl, rfl, rfl, fun k hk => ?_⟩
  rw [evqOf_reset hk]
  exact ⟨rfl, rfl⟩

section

variable {s s1 : State}

/-- Without a partner the end of a step leaves the state. -/
theorem settle_of_alone (h : alone s1 = true) : settle s s1 = s1 := by
  simp only [alone, Bool.and_eq_true, Bool.not_eq_true', List.isEmpty_iff] at h
  obtain ⟨hquiet, hnone⟩ := h
  rw [settle, if_neg (by simp [hquiet]), releaseHeld, hnone, List.foldl_nil, ← hnone]

/-- Void grants write the arbiters' pointers and their own count. -/
theorem foldl_voidGrant (l : List (Nat × Ring)) (s : State) : ∃ ptr v,
    l.foldl (fun a kv => voidGrant a (ringArb kv.1 kv.2) (pastRing kv.1)) s =
      { s with tsu := { s.tsu with arbPtr := ptr, voidGrants := v } } := by
  induction l generalizing s with
  | nil => exact ⟨s.tsu.arbPtr, s.tsu.voidGrants, rfl⟩
  | cons kv l ih =>
    obtain ⟨ptr, v, h⟩ := ih (voidGrant s (ringArb kv.1 kv.2) (pastRing kv.1))
    exact ⟨ptr, v, by rw [List.foldl_cons, h]; rfl⟩

end

/-- Settles O34: `commit` is `settle` after the step's void grants, which write three fields of the traffic unit. -/
theorem effectsStand : Obligations.EffectsStand := by
  unfold Obligations.EffectsStand
  refine ⟨?stopped, fun s s1 => settle_of_alone, ?alone, ?fields, ?none, ?one⟩
  case stopped =>
    intro s s1 hstopped
    rw [commit, if_neg (by simp [hstopped])]
  case alone =>
    intro s s1 hclock halone
    rw [commit, if_pos hclock, settle_of_alone ((alone_of_mirror voidFalls_mru voidFalls_mir).trans halone)]
  case fields =>
    intro s s1
    obtain ⟨ptr, v, h⟩ := foldl_voidGrant (s.hcu.rings.filter fun kv => fallsVoid s s1 kv.1 kv.2) s1
    exact ⟨ptr, v, by rw [voidFalls, h]⟩
  case none =>
    intro s s1 hnone
    exact voidFalls_none (List.filter_eq_nil_iff.mpr fun kv hkv => by simp [hnone kv hkv])
  case one =>
    intro s s1 r R hone
    rw [voidFalls, hone]
    rfl

end Sys2Proof.Machine
